-- ==== Sys2Proof/Word.lean ====
section
/-!
DEFINITION. The words of the HX-3920 and the names of its places: bit vectors for what the manual treats as bits
(R2, R13), and plain records and names for the agents and units that one step of the machine may name (R7, R9, R147).
-/

namespace Sys2Proof

/-- A control-thread instruction word (R136), and every 32-bit lane (R2). -/
abbrev W32 := BitVec 32

/-- A control-thread register, a special register, an address (R162, R181). -/
abbrev W64 := BitVec 64

/-- One byte of any memory level (R94: a location). -/
abbrev Byte := BitVec 8

/-- The strip, the fabric's data word of 128 lanes of 32 bits (R13). -/
abbrev Strip := BitVec 4096

/-- The payload of a 256-bit configuration frame (R146). -/
abbrev Payload := BitVec 240

/-- A hardware thread that can execute words: a control thread `ctl n` with `n = 8 * quire + 2 * core + HT`
(R184), or a Trearo core (R352). -/
inductive Hart where
  | ctl (n : Nat)
  | trearo (k : Nat)
  deriving DecidableEq, Repr

/-- The place of a unit in the package: quire, tile position within the quire, unit slot (R10, R147). -/
structure UKey where
  q : Nat
  x : Nat
  y : Nat
  slot : Nat
  deriving DecidableEq, Repr

/-- The place of a tile in the package (R10). -/
structure TKey where
  q : Nat
  x : Nat
  y : Nat
  deriving DecidableEq, Repr

/-- The tile a unit stands on. -/
def UKey.tile (u : UKey) : TKey := ⟨u.q, u.x, u.y⟩

/-- How an outside agent answers a request (R93, R428: STATUS). -/
inductive Answer where
  | ok
  | ur
  | ca
  deriving DecidableEq, Repr

/-- What an authenticated debug client asks of the debug server (R403); `header`: of the context header, else of the save
record. -/
inductive DebugAsk where
  | stop
  | readRecord
  | readMailbox (quire : Nat)
  | readSaved (header : Bool) (off n : Nat)
  | writeSaved (header : Bool) (off : Nat) (bytes : List Byte)
  | writeThreadReg (reg : Nat) (value : W64)
  | resume
  deriving DecidableEq, Repr

/-- What the fetch of a boot stage's image brings (R436, R437): the image with its colophon record, or nothing. -/
inductive BootFetch where
  | image (record : BitVec 1200) (bytes : List Byte)
  | failed
  deriving DecidableEq, Repr

/-- The images of the security monitor and the device OS that a stage write of MACT names, as they are fetched (R440). -/
structure StagedImages where
  monitor : BootFetch
  os : BootFetch
  deriving DecidableEq, Repr

/-- An array of a package that is read out (R444): bytes of a memory tile or of a slice, the latches and output slots of a unit, the
accumulator slots of a matrix tile, or the registers of a hardware thread. -/
inductive ArrayAsk where
  | tile (q x y off n : Nat)
  | slice (k off n : Nat)
  | unit (q x y slot : Nat)
  | matrix (q x y : Nat)
  | thread (n : Nat)
  deriving DecidableEq, Repr

/-- A management-port request other than GET_MEASUREMENTS (R437), or the read-out of an array of a frozen package (R444): by scan, or
else by the hub's freeze agent over that port; `auth`: the client has passed SPDM authentication. -/
inductive MgmtAsk where
  | getVersion
  | other (code : Nat)
  | readOut (scan auth : Bool) (a : ArrayAsk)
  deriving DecidableEq, Repr

/-- A host write of MSI-X controls (R426): the mask bit of a vector clears, or MSI-X Enable and Function Mask take new values. -/
inductive MsixAsk where
  | vector (vec : Nat)
  | control (enable hold : Bool)
  deriving DecidableEq, Repr

end Sys2Proof
end

