-- ==== Sys2Proof/Config.lean ====
section
/-!
DEFINITION. What the package fixes (R7, R20, R221) and the free values: constants with no body, so that nothing can be
proved of them but what holds whatever they are. Each free value is named in a row of the assumption log.
-/

namespace Sys2Proof.Config

/-- Quires of the package (R7). -/
def quires : Nat := 32

/-- Control cores of the package, four for each quire (R20). -/
def cores : Nat := 128

/-- Trearo cores of the package. DESIGN CHOICE: the manual names Trearo core 0 and gives no count (log entry 3). -/
def trearoCores : Nat := 2

/-- Fence routers of one quire, three for each side (R7). -/
def fencePerQuire : Nat := 12

/-- Fence routers of the package, numbered 12·quire + 3·side + k (R7, R416). -/
def fenceRouters : Nat := quires * fencePerQuire

/-- Bytes of local HBM, 384 GiB (R7). -/
def hbmBytes : Nat := 384 * 2 ^ 30

/-- Bytes of the device OS carve-out, 8 GiB (R8). DESIGN CHOICE: the model puts it at the top of the 384 GiB; no rule gives
its address (log entry 95). -/
def carveOut : Nat := 8 * 2 ^ 30

/-- Entries of one bank of the wait-for table (R221). -/
def waitBank : Nat := 128

/-- The stepping that ARCHID reads (R1: 0x00 or above; log entry 4). -/
opaque step : BitVec 8

/-- Which of the cached translations that cover its page an access uses, by place in their list; a place past the end
of the list is a walk (R383, R384: a free choice; log entry 8). -/
opaque useCached : Nat → Nat

/-- Which of the package's fence routers drops the n-th packet that is dropped (R408 records it and no rule gives the path;
log entry 14). -/
opaque fenceRouter : Nat → Nat

/-- Byte k of the cipher stream of AES-256-GCM (R414) for a key (by number) and an IV: the named standard's function; the
model gives it no body (log entry 15). -/
opaque keyStream : Nat → BitVec 96 → Nat → BitVec 8

/-- The tag of AES-256-GCM (R414, R416) for a key (by number), an IV, the authenticated data and the plaintext: the named
standard's function; the model gives it no body (log entry 15). -/
opaque gcmTag : Nat → BitVec 96 → BitVec 128 → List (BitVec 8) → BitVec 128

/-- Which of the fence routers of its part seals what goes from the first quire toward the second in the other part (R416; no
rule gives the path: log entry 14). -/
opaque transitRouter : Nat → Nat → Nat

/-- Bits [56:12] of the address in the user half at which the device OS maps the data section of the instance with this
SERIAL, whole 4 KiB pages (R125, R345; log entry 6). -/
opaque dataPage : Nat → BitVec 44

/-- Bits [56:9] of the address in the user half at which the device OS maps the text section of the instance with this SERIAL,
execute-only (R125; log entry 6). -/
opaque textPart : Nat → BitVec 47

/-- The virtual address of the launch record of the instance with this SERIAL (R125, R395; log entry 6). -/
opaque recordVA : Nat → BitVec 64

/-- The virtual address of the parameter block of the instance with this SERIAL (R125; log entry 6). -/
opaque paramVA : Nat → BitVec 64

/-- The save area that the device OS writes into the save directory at launch: SAVEBASE and SAVESIZE (R395; log entry 6). -/
opaque saveArea : Nat → BitVec 64 × BitVec 64

/-- SHA-384 of a byte string (R135, R157, R418), the named standard's function; the model gives it no body (log entry 9). -/
opaque sha384 : List (BitVec 8) → BitVec 384

/-- The n-th key the hub's random source draws (R413, R417; log entry 10). -/
opaque randomKey : Nat → BitVec 256

/-- Measurement 0x01, the hub ROM's revision and the fused key hash (R436; log entry 11). -/
opaque romMeasurement : BitVec 384

/-- What a payload of the save record holds where the manual gives only its size (R398; log entry 12). -/
opaque savePayload : Nat → BitVec 8

/-- Byte k of the folio save area that the n-th save of a folio writes into the launch record: delay contents, counter
positions, permit counts, bank bytes and accumulator slots, whose layout the manual does not give (R29, R84; log entry 12). -/
opaque folioSave : Nat → Nat → BitVec 8

/-- Where the folio save area of a folio stands after the launch record's 4 KiB header, and its size, both in 4 KiB pages, by
SERIAL and folio id; 256 in place of a folio id is the area for the thread (R29, R199, R395; log entry 12). -/
opaque folioArea : Nat → Nat → Nat × Nat

/-- How many 4 KiB pages the device OS leaves between the last save area of an instance's launch record and its port spill areas (R27,
R395; log entry 38). -/
opaque spillArea : Nat → Nat

/-- Which of the free places of a port's spill area the n-th token to spill takes, modulo their number (R27; log entry 38). -/
opaque spillPlace : Nat → Nat

/-- ECDSA P-384 with SHA-384 (R157, R436), the named standard's check: a verifier's key (0 the key whose SHA-384 is fused in the hub,
1 the key carried in stage 1), the bytes signed and the signature; the model gives it no body (log entry 106). -/
opaque p384Verify : Nat → List (BitVec 8) → BitVec 768 → Bool

/-- The signature with the identity key on the n-th response to GET_MEASUREMENTS (R419): over a transcript that DMTF SPDM lays out
and this manual does not (log entry 106). -/
opaque spdmSignature : Nat → BitVec 768

/-- The security version fused for a boot stage (R436; log entry 106). -/
opaque svnFuse : Nat → Nat

/-- Errors that the package has corrected between two reads of MECC (R439; log entry 61). -/
opaque corrected : Nat → Nat

/-- The status the device OS gives to a management request that the manual names and does not describe (R437; log entry 13). -/
opaque managementReply : Nat → BitVec 64

/-- The configuration of collective group g in the Zillas switches and the carve-out: the number of members and this
package's own index; none when the package does not belong to the group (R433; log entry 26). -/
opaque collGroup : Nat → Option (Nat × Nat)

/-- How the n-th access of the attention pipeline or a token unit to the host or a peer ends: 1, 2 or 3 is that REMOTE
subcause, anything else is success (R93, R388; log entry 27). -/
opaque outsideStatus : Nat → Nat

/-- How an access that the device makes to the host or a peer ends, by the number of free values used before it and its
address: 1, 2 or 3 is that REMOTE subcause, anything else is success (R93, R381, R388; log entry 27). -/
opaque deviceStatus : Nat → Nat → Nat

/-- Byte k that such an access reads at a peer (R429; log entry 27). -/
opaque deviceByte : Nat → Nat → Nat → BitVec 8

/-- Byte k that such an access reads at a peer (log entry 27). -/
opaque outsideByte : Nat → Nat → BitVec 8

/-- The place in its queue, modulo one more than the queue's length, at which the n-th token-unit request arrives at its unit
(R327, R344: two requests that no rule orders; log entry 104). -/
opaque tokArrival : Nat → Nat

/-- The place, in the list of the Zillas ports that are up, of the port for a destination package (R428: a fixed function,
which the manual does not give; log entry 35). -/
opaque portPick : Nat → List Nat → Nat

/-- The colophon record and the bytes of the image of boot stage 3 or 4, the security monitor or the device OS, in the n-th set of
images that a stage write of MACT names (R440; log entry 11). -/
opaque stagedImage : Nat → Nat → BitVec 1200 × List (BitVec 8)

end Sys2Proof.Config
end

