-- ==== Sys2Proof/Syntax.lean ====
section
/-!
DEFINITION. The steps of the part, one constructor for each row of the opcode table: control-thread words with the
fields of their formats (R136), and the indivisible steps of the fabric, the engines, the scheduler, the security
blocks and the outside world, each with the place it happens at and what its agent brings to it.
Every constructor's docstring is the rule that governs it.
-/

namespace Sys2Proof

/-- A step of the HX-3920. -/
inductive Instr where
  /-- R165: Writes xa + xb to xd, wrapping modulo 2^64. -/
  | add (d : BitVec 5) (a : BitVec 5) (b : BitVec 5) (g : BitVec 3)
  /-- R165: Writes xa − xb to xd. -/
  | sub (d : BitVec 5) (a : BitVec 5) (b : BitVec 5) (g : BitVec 3)
  /-- R165: Writes the low 64 bits of xa × xb to xd. -/
  | mul (d : BitVec 5) (a : BitVec 5) (b : BitVec 5) (g : BitVec 3)
  /-- R165: Writes the high 64 bits of the signed 128-bit product to xd. -/
  | mulh (d : BitVec 5) (a : BitVec 5) (b : BitVec 5) (g : BitVec 3)
  /-- R165: Writes the high 64 bits of the unsigned 128-bit product to xd. -/
  | mulhu (d : BitVec 5) (a : BitVec 5) (b : BitVec 5) (g : BitVec 3)
  /-- R165: Writes the signed quotient to xd; a zero divisor gives all ones, and MIN ÷ −1 gives MIN. -/
  | div (d : BitVec 5) (a : BitVec 5) (b : BitVec 5) (g : BitVec 3)
  /-- R165: Writes the unsigned quotient to xd. -/
  | divu (d : BitVec 5) (a : BitVec 5) (b : BitVec 5) (g : BitVec 3)
  /-- R165: Writes the signed remainder, with the sign of xa, to xd. -/
  | rem (d : BitVec 5) (a : BitVec 5) (b : BitVec 5) (g : BitVec 3)
  /-- R165: Writes the unsigned remainder to xd. -/
  | remu (d : BitVec 5) (a : BitVec 5) (b : BitVec 5) (g : BitVec 3)
  /-- R165: Writes the bitwise and of xa and xb to xd. -/
  | and (d : BitVec 5) (a : BitVec 5) (b : BitVec 5) (g : BitVec 3)
  /-- R165: Writes the bitwise or of xa and xb to xd. -/
  | or (d : BitVec 5) (a : BitVec 5) (b : BitVec 5) (g : BitVec 3)
  /-- R165: Writes the bitwise xor of xa and xb to xd. -/
  | xor (d : BitVec 5) (a : BitVec 5) (b : BitVec 5) (g : BitVec 3)
  /-- R165: Shifts xa left by xb[5:0], filling with zeros. -/
  | shl (d : BitVec 5) (a : BitVec 5) (b : BitVec 5) (g : BitVec 3)
  /-- R165: Shifts xa right by xb[5:0], filling with zeros. -/
  | shr (d : BitVec 5) (a : BitVec 5) (b : BitVec 5) (g : BitVec 3)
  /-- R165: Shifts xa right by xb[5:0], copying bit 63. -/
  | sra (d : BitVec 5) (a : BitVec 5) (b : BitVec 5) (g : BitVec 3)
  /-- R165: Writes the signed minimum of xa and xb to xd. -/
  | min (d : BitVec 5) (a : BitVec 5) (b : BitVec 5) (g : BitVec 3)
  /-- R165: Writes the signed maximum of xa and xb to xd. -/
  | max (d : BitVec 5) (a : BitVec 5) (b : BitVec 5) (g : BitVec 3)
  /-- R165: Writes the unsigned minimum of xa and xb to xd. -/
  | minu (d : BitVec 5) (a : BitVec 5) (b : BitVec 5) (g : BitVec 3)
  /-- R165: Writes the unsigned maximum of xa and xb to xd. -/
  | maxu (d : BitVec 5) (a : BitVec 5) (b : BitVec 5) (g : BitVec 3)
  /-- R166: Writes xa plus the sign-extended 13-bit immediate to xd. -/
  | addi (d : BitVec 5) (a : BitVec 5) (imm : BitVec 13) (g : BitVec 3)
  /-- R166: Writes xa and the sign-extended immediate to xd. -/
  | andi (d : BitVec 5) (a : BitVec 5) (imm : BitVec 13) (g : BitVec 3)
  /-- R166: Writes xa or the sign-extended immediate to xd. -/
  | ori (d : BitVec 5) (a : BitVec 5) (imm : BitVec 13) (g : BitVec 3)
  /-- R166: Writes xa xor the sign-extended immediate to xd. -/
  | xori (d : BitVec 5) (a : BitVec 5) (imm : BitVec 13) (g : BitVec 3)
  /-- R167: Shifts xa left by an immediate amount. -/
  | shli (d : BitVec 5) (a : BitVec 5) (amt : BitVec 6) (g : BitVec 3)
  /-- R167: Shifts xa right by an immediate amount, filling with zeros. -/
  | shri (d : BitVec 5) (a : BitVec 5) (amt : BitVec 6) (g : BitVec 3)
  /-- R167: Shifts xa right arithmetically by an immediate amount. -/
  | srai (d : BitVec 5) (a : BitVec 5) (amt : BitVec 6) (g : BitVec 3)
  /-- R170: Writes predicate pd with a condition that compares xa against a sign-extended 10-bit immediate. -/
  | cmpi (p : BitVec 3) (a : BitVec 5) (c : BitVec 3) (imm : BitVec 10) (g : BitVec 3)
  /-- R168: Writes the sign-extended 18-bit immediate to xd. -/
  | movi (d : BitVec 5) (imm : BitVec 18) (g : BitVec 3)
  /-- R169: Inserts a 16-bit chunk into position q of xd and leaves the other bits unchanged. -/
  | movhi (d : BitVec 5) (q : BitVec 2) (v : BitVec 16) (g : BitVec 3)
  /-- R170: Writes predicate pd with a condition that compares xa against xb. -/
  | cmp (p : BitVec 3) (a : BitVec 5) (b : BitVec 5) (c : BitVec 3) (g : BitVec 3)
  /-- R171: Writes pa and pb to pd. -/
  | pand (d : BitVec 3) (a : BitVec 3) (b : BitVec 3) (g : BitVec 3)
  /-- R171: Writes pa or pb to pd. -/
  | por (d : BitVec 3) (a : BitVec 3) (b : BitVec 3) (g : BitVec 3)
  /-- R171: Writes pa xor pb to pd. -/
  | pxor (d : BitVec 3) (a : BitVec 3) (b : BitVec 3) (g : BitVec 3)
  /-- R171: Writes not pa to pd. -/
  | pnot (d : BitVec 3) (a : BitVec 3) (g : BitVec 3)
  /-- R173: Branches unconditionally by a signed word displacement. -/
  | br (d : BitVec 22)
  /-- R173: Branches when predicate ps is 1. -/
  | brT (p : BitVec 3) (d : BitVec 22)
  /-- R173: Branches when predicate ps is 0; br.f p0 is the no-operation. -/
  | brF (p : BitVec 3) (d : BitVec 22)
  /-- R174: Writes ln with the return address and branches. -/
  | call (d : BitVec 22)
  /-- R174: Calls when predicate ps is 1, writing ln only when taken. -/
  | callT (p : BitVec 3) (d : BitVec 22)
  /-- R174: Calls when predicate ps is 0, writing ln only when taken. -/
  | callF (p : BitVec 3) (d : BitVec 22)
  /-- R175: Jumps to xa, trapping ALIGN on a misaligned target. -/
  | jr (a : BitVec 5) (g : BitVec 3)
  /-- R175: Jumps to ln. -/
  | ret (g : BitVec 3)
  /-- R172: Writes xa to xd when p[ps] is 1, and xb otherwise. -/
  | sel (d : BitVec 5) (a : BitVec 5) (b : BitVec 5) (ps : BitVec 3) (g : BitVec 3)
  /-- R176: Loads 2^sz bytes at xa plus a scaled offset into xd, widened with zeros or with the sign. -/
  | ld (d : BitVec 5) (a : BitVec 5) (off : BitVec 10) (sx : BitVec 1) (z : BitVec 2) (g : BitVec 3)
  /-- R177: Stores the low 2^sz bytes of xs; stores to host or peer memory are posted. -/
  | st (src : BitVec 5) (a : BitVec 5) (off : BitVec 11) (z : BitVec 2) (g : BitVec 3)
  /-- R178: Writes an effective address to xd without accessing or checking memory. -/
  | lea (d : BitVec 5) (a : BitVec 5) (off : BitVec 11) (z : BitVec 2) (g : BitVec 3)
  /-- R140: A word with an unassigned major, unassigned selector or nonzero reserved field traps ILL at decode, whatever its guard holds. -/
  | illegalWord (w : BitVec 32)
  /-- R192: Appends a token holding xa and xb in lanes 0–3 to a push queue, stalling while the queue is full. -/
  | spushP (h : BitVec 4) (a : BitVec 5) (b : BitVec 5) (g : BitVec 3)
  /-- R192: Appends a token that broadcasts xa[31:0] to every lane of a push queue. -/
  | spushB (h : BitVec 4) (a : BitVec 5) (g : BitVec 3)
  /-- R194: Takes the oldest token or response of a queue, reads one lane pair into xd and sets pd; popping a response acquires. -/
  | spop (h : BitVec 4) (d : BitVec 5) (q : BitVec 5) (p : BitVec 3) (g : BitVec 3)
  /-- R194: Reads one lane pair of the oldest token without removing it and acquires nothing. -/
  | spopK (h : BitVec 4) (d : BitVec 5) (q : BitVec 5) (p : BitVec 3) (g : BitVec 3)
  /-- R195: Sends a bound token with a new trip count to one level of a counter, setting pd to show whether it was accepted. -/
  | sbound (a : BitVec 5) (b : BitVec 5) (p : BitVec 3) (g : BitVec 3)
  /-- R193: Appends an EOS token to a push queue. -/
  | seos (h : BitVec 4) (g : BitVec 3)
  /-- R196: Adds a folio to the named set of the next phase, and the binder starts placing it. -/
  | cfg (f : BitVec 8) (g : BitVec 3)
  /-- R196: Adds a folio to the named set, pinned to the region slot in xa. -/
  | cfgPin (a : BitVec 5) (f : BitVec 8) (g : BitVec 3)
  /-- R197: Waits for the previous phase to end, checks the named set and starts the next phase, writing a status. -/
  | go (d : BitVec 5) (g : BitVec 3)
  /-- R198: Waits until the phase most recently started has ended, then releases at partition scope. -/
  | drain (g : BitVec 3)
  /-- R199: Yields the instance and saves its state when a yield request is pending and no phase is active; otherwise writes 0. -/
  | yieldpt (d : BitVec 5) (g : BitVec 3)
  /-- R201: Checks a launch descriptor and a child header, and queues a child instance, writing its SERIAL or a failure. -/
  | launch (d : BitVec 5) (a : BitVec 5) (g : BitVec 3)
  /-- R202: Waits for a child to finish and writes its result. -/
  | join (d : BitVec 5) (a : BitVec 5) (g : BitVec 3)
  /-- R204: Reads a request descriptor and issues a copy request on an engine handle. -/
  | copy (h : BitVec 4) (a : BitVec 5) (b : BitVec 5) (ord : BitVec 1) (g : BitVec 3)
  /-- R204: Issues an indexed gather request. -/
  | gather (h : BitVec 4) (a : BitVec 5) (b : BitVec 5) (ord : BitVec 1) (g : BitVec 3)
  /-- R204: Issues an indexed scatter request. -/
  | scatter (h : BitVec 4) (a : BitVec 5) (b : BitVec 5) (ord : BitVec 1) (g : BitVec 3)
  /-- R204: Issues a request that fills memory with a 64-bit pattern. -/
  | fill (h : BitVec 4) (a : BitVec 5) (b : BitVec 5) (ord : BitVec 1) (g : BitVec 3)
  /-- R205: Issues a collective reduction request across a group. -/
  | coll (h : BitVec 4) (a : BitVec 5) (b : BitVec 5) (ord : BitVec 1) (g : BitVec 3)
  /-- R205: Issues a request that sends one Zillas message to a peer package. -/
  | zsend (h : BitVec 4) (a : BitVec 5) (b : BitVec 5) (ord : BitVec 1) (g : BitVec 3)
  /-- R205: Issues a request that receives the next Zillas message on a channel. -/
  | zrecv (h : BitVec 4) (a : BitVec 5) (b : BitVec 5) (ord : BitVec 1) (g : BitVec 3)
  /-- R291: Checks a bind descriptor and its stage programs, and binds the quire's attention pipeline, writing a status. -/
  | abind (d : BitVec 5) (a : BitVec 5) (g : BitVec 3)
  /-- R293: Ends an attention binding, returning the borrowed tiles cleared. -/
  | aunbind (d : BitVec 5) (a : BitVec 5) (g : BitVec 3)
  /-- R333: Issues a token-unit request that draws tokens from logit rows. -/
  | samp (h : BitVec 4) (a : BitVec 5) (b : BitVec 5) (ord : BitVec 1) (g : BitVec 3)
  /-- R340: Issues a token-unit request that walks tokens through the grammar automaton. -/
  | gram (h : BitVec 4) (a : BitVec 5) (b : BitVec 5) (ord : BitVec 1) (g : BitVec 3)
  /-- R341: Issues a token-unit request that checks draft tokens by speculative acceptance. -/
  | accept (h : BitVec 4) (a : BitVec 5) (b : BitVec 5) (ord : BitVec 1) (g : BitVec 3)
  /-- R342: Issues a token-unit request that appends tokens to sequence records. -/
  | commit (h : BitVec 4) (a : BitVec 5) (b : BitVec 5) (ord : BitVec 1) (g : BitVec 3)
  /-- R209: Atomically adds b to memory and returns the old value. -/
  | aadd (d : BitVec 5) (a : BitVec 5) (b : BitVec 5) (w : BitVec 1) (g : BitVec 3)
  /-- R209: Atomically subtracts b and returns the old value. -/
  | asub (d : BitVec 5) (a : BitVec 5) (b : BitVec 5) (w : BitVec 1) (g : BitVec 3)
  /-- R209: Atomic and. -/
  | aand (d : BitVec 5) (a : BitVec 5) (b : BitVec 5) (w : BitVec 1) (g : BitVec 3)
  /-- R209: Atomic or. -/
  | aor (d : BitVec 5) (a : BitVec 5) (b : BitVec 5) (w : BitVec 1) (g : BitVec 3)
  /-- R209: Atomic xor. -/
  | axor (d : BitVec 5) (a : BitVec 5) (b : BitVec 5) (w : BitVec 1) (g : BitVec 3)
  /-- R209: Atomic signed minimum. -/
  | amin (d : BitVec 5) (a : BitVec 5) (b : BitVec 5) (w : BitVec 1) (g : BitVec 3)
  /-- R209: Atomic signed maximum. -/
  | amax (d : BitVec 5) (a : BitVec 5) (b : BitVec 5) (w : BitVec 1) (g : BitVec 3)
  /-- R209: Atomic exchange. -/
  | axchg (d : BitVec 5) (a : BitVec 5) (b : BitVec 5) (w : BitVec 1) (g : BitVec 3)
  /-- R209: Atomic compare-and-swap, setting pd when it stores. -/
  | acas (d : BitVec 5) (a : BitVec 5) (b : BitVec 5) (p : BitVec 3) (w : BitVec 1) (g : BitVec 3)
  /-- R209: Atomic increment that wraps to 0 at bound b; it is an arrival on a watched barrier COUNT. -/
  | aincw (d : BitVec 5) (a : BitVec 5) (b : BitVec 5) (w : BitVec 1) (g : BitVec 3)
  /-- R209: Atomic add bounded by e without wrapping, setting pd when it does not store. -/
  | aaddb (d : BitVec 5) (a : BitVec 5) (b : BitVec 5) (p : BitVec 3) (w : BitVec 1) (g : BitVec 3)
  /-- R209: Atomic unsigned minimum. -/
  | aminu (d : BitVec 5) (a : BitVec 5) (b : BitVec 5) (w : BitVec 1) (g : BitVec 3)
  /-- R209: Atomic unsigned maximum. -/
  | amaxu (d : BitVec 5) (a : BitVec 5) (b : BitVec 5) (w : BitVec 1) (g : BitVec 3)
  /-- R223: Registers a software wait on an object and runs the cycle search. -/
  | wreg (a : BitVec 5) (p : BitVec 3) (k : BitVec 3) (g : BitVec 3)
  /-- R223: Removes the thread's software wait entry. -/
  | wunreg (g : BitVec 3)
  /-- R224: Declares the thread a holder of an object. -/
  | whold (a : BitVec 5) (p : BitVec 3) (k : BitVec 3) (g : BitVec 3)
  /-- R224: Withdraws one holder declaration. -/
  | wrel (a : BitVec 5) (k : BitVec 3) (g : BitVec 3)
  /-- R225: Returns the old base priority and sets a new one, capped at CEIL. -/
  | prio (d : BitVec 5) (a : BitVec 5) (g : BitVec 3)
  /-- R214: Acquires the lock token that an address selects, waiting registered while another holder has it. -/
  | lock (a : BitVec 5) (g : BitVec 3)
  /-- R215: Releases a held lock token to its highest-priority waiter. -/
  | unlock (a : BitVec 5) (g : BitVec 3)
  /-- R217: Initialises a barrier object and enters it into its pipeline's barrier watch. -/
  | barinit (d : BitVec 5) (a : BitVec 5) (g : BitVec 3)
  /-- R218: Arrives at a barrier by aincw on COUNT and returns GEN. -/
  | barrive (d : BitVec 5) (a : BitVec 5) (g : BitVec 3)
  /-- R219: Waits until GEN differs from the given generation. -/
  | barwait (d : BitVec 5) (a : BitVec 5) (g : BitVec 3)
  /-- R111: Orders earlier accesses before later ones and waits for the conditions of its scope. -/
  | fence (sc : BitVec 2) (g : BitVec 3)
  /-- R181: Reads a special register into xd. -/
  | srd (d : BitVec 5) (n : BitVec 12) (g : BitVec 3)
  /-- R181: Writes xa to the writable fields of a special register that has no behaviour of its own. -/
  | swr (a : BitVec 5) (n : BitVec 12) (g : BitVec 3)
  /-- R357: Raises BRK precisely, with CODE n. -/
  | trap (n : BitVec 11) (g : BitVec 3)
  /-- R357: Raises SYS for a service call, resuming at pc + 4. -/
  | sys (d : BitVec 5) (a : BitVec 5) (n : BitVec 11) (g : BitVec 3)
  /-- R360: Returns from a trap to XEPC at the saved level. -/
  | eret (g : BitVec 3)
  /-- R361: Ends an instance as DONE once its requests have responded, clearing its resources. -/
  | halt (d : BitVec 5) (a : BitVec 5) (g : BitVec 3)
  /-- R362: Waits until a pending event is unmasked. -/
  | idle (g : BitVec 3)
  /-- R363: Drops every cached translation of the package. -/
  | tlbinvAll (g : BitVec 3)
  /-- R363: Drops every translation of one partition. -/
  | tlbinvPart (a : BitVec 5) (g : BitVec 3)
  /-- R363: Drops a partition's translations that cover one virtual address. -/
  | tlbinvPage (d : BitVec 5) (a : BitVec 5) (g : BitVec 3)
  /-- R392: A write of USTATUS either changes PSAVE inside the handler or returns from the handler to UEPC. -/
  | ustatusWrite (v : BitVec 64)
  /-- R177: A failed posted store to host or peer memory traps REMOTE POSTED, imprecise, at the next instruction boundary. -/
  | postedStoreFailure (id : Nat)
  /-- R226: Effective priorities are recomputed along wait links within 32 fabric cycles of a change. -/
  | priorityPropagation
  /-- R31: A token crosses one link hop into a link buffer, latch or port queue, multicast outputs waiting for every consumer. -/
  | tokenHop (r hop : Nat)
  /-- R33: A bubble in an input latch is discarded in the cycle after it arrives. -/
  | bubbleDiscard (u : UKey) (input : Nat)
  /-- R192: A push port delivers its queued tokens in order to its entry port. -/
  | pushPortEmit (serial h : Nat)
  /-- R44: A unit forwards EOS on its outputs once EOS holds every input and earlier data has fired. -/
  | eosForward (u : UKey)
  /-- R28: When a slot run frees or tokens wait, the binder chooses the highest-scoring folio, places, measures and checks it. -/
  | binderLoad (serial folio base : Nat)
  /-- R99: A bank ownership token reaches a tile and enables address generators that await that bank. -/
  | bankTokenArrival (t : TKey) (slice : Option Nat) (bank : Nat)
  /-- R25: Once sinks have EOS, held stores and engine requests are done and root done is sent, the phase ends and ACTIVE clears. -/
  | phaseEnd (serial : Nat)
  /-- R253: When the leaf head's end token has passed every leaf sink, the leaf sends done and its held stores perform in order. -/
  | leafDone (u : UKey)
  /-- R236: Element fires: A + B rounded once. -/
  | fadd (u : UKey)
  /-- R236: Element fires: A − B. -/
  | fsub (u : UKey)
  /-- R236: Element fires: A · B. -/
  | fmul (u : UKey)
  /-- R236: Element fires: A · B + C with one rounding. -/
  | fma (u : UKey)
  /-- R236: Element fires: C − A · B with one rounding. -/
  | fnma (u : UKey)
  /-- R236: Element fires: minimumNumber. -/
  | fmin (u : UKey)
  /-- R236: Element fires: maximumNumber. -/
  | fmax (u : UKey)
  /-- R236: Element fires: clears the sign. -/
  | fabs (u : UKey)
  /-- R236: Element fires: inverts the sign. -/
  | fneg (u : UKey)
  /-- R237: Element fires: a floating compare producing a value mask. -/
  | fcmp (u : UKey)
  /-- R70: Element fires: reciprocal estimate. -/
  | frcp (u : UKey)
  /-- R70: Element fires: reciprocal square-root estimate. -/
  | frsq (u : UKey)
  /-- R70: Element fires: base-2 exponential estimate. -/
  | fexp2 (u : UKey)
  /-- R70: Element fires: base-2 logarithm estimate. -/
  | flog2 (u : UKey)
  /-- R241: Element fires: converts between types of equal width, SR taking lane-generator bits. -/
  | fcvt (u : UKey)
  /-- R238: Element fires: writes a one-hot class code. -/
  | fclass (u : UKey)
  /-- R239: Element fires: integer add, optionally saturating. -/
  | iadd (u : UKey)
  /-- R239: Element fires: integer subtract. -/
  | isub (u : UKey)
  /-- R239: Element fires: integer multiply. -/
  | imul (u : UKey)
  /-- R239: Element fires: bitwise and. -/
  | iand (u : UKey)
  /-- R239: Element fires: bitwise or. -/
  | ior (u : UKey)
  /-- R239: Element fires: bitwise xor. -/
  | ixor (u : UKey)
  /-- R239: Element fires: shift left. -/
  | ishl (u : UKey)
  /-- R239: Element fires: logical shift right. -/
  | ishr (u : UKey)
  /-- R239: Element fires: arithmetic shift right. -/
  | isra (u : UKey)
  /-- R239: Element fires: integer minimum. -/
  | imin (u : UKey)
  /-- R239: Element fires: integer maximum. -/
  | imax (u : UKey)
  /-- R240: Element fires: an integer compare producing a value mask. -/
  | icmp (u : UKey)
  /-- R239: Element fires: counts leading zeros. -/
  | iclz (u : UKey)
  /-- R239: Element fires: counts one bits. -/
  | ipopc (u : UKey)
  /-- R245: Element fires: broadcasts one lane. -/
  | bcast (u : UKey)
  /-- R245: Element fires: permutes lanes by an index strip. -/
  | perm (u : UKey)
  /-- R245: Element fires: rotates lanes. -/
  | lrot (u : UKey)
  /-- R242: Element fires: narrows values into one part of a strip. -/
  | pack (u : UKey)
  /-- R242: Element fires: widens one part of a strip. -/
  | unpack (u : UKey)
  /-- R243: Element fires: quantises f32 values, or writes MX scales, into a channel format. -/
  | quant (u : UKey)
  /-- R244: Element fires: decodes a coded strip to f32. -/
  | dequant (u : UKey)
  /-- R246: Element fires: reduces COUNT values by a fixed tree. -/
  | lred (u : UKey)
  /-- R246: Element fires: writes inclusive prefixes. -/
  | scan (u : UKey)
  /-- R245: Element fires on a trigger: writes START + v·STEP. -/
  | iota (u : UKey)
  /-- R245: Element fires: selects values by mask bits. -/
  | lsel (u : UKey)
  /-- R34: Router fires: sends data to the true or false output by its predicate. -/
  | steer (u : UKey)
  /-- R34: Router fires: passes the input that the predicate selects. -/
  | merge (u : UKey)
  /-- R35: Loop entry: admits init tokens under the permit, returns back tokens or retires them, and exits in admission order. -/
  | carry (u : UKey)
  /-- R248: Passes one data token for each qualifying control token. -/
  | gate (u : UKey)
  /-- R249: Emits its preloaded constant on a trigger, or COUNT copies freely. -/
  | const (u : UKey)
  /-- R250: A delay line emits its last stage and accepts one token per cycle. -/
  | delay (u : UKey)
  /-- R251: Passes a gated token once its ordering token arrives. -/
  | ord (u : UKey)
  /-- R252: A counter emits index tokens, end tokens of the highest ended rank, and EOS. -/
  | ctr (u : UKey)
  /-- R40: On a permit or a child's done, starts children one after another. -/
  | seq (u : UKey)
  /-- R40: On a permit or a child's done, overlaps children under permit depth D. -/
  | pipe (u : UKey)
  /-- R40: On a permit, starts all children, and sends done once they all finish. -/
  | strm (u : UKey)
  /-- R260: Takes B slab strips, quantises them to the trial rung, and fills the loading register. -/
  | mload (u : UKey)
  /-- R261: Passes A strips to the mmac and places swap marks after end tokens of rank RANK or more. -/
  | mswap (u : UKey)
  /-- R262: Once earlier passes have resolved and a whole slab is loaded, exchanges the B registers, or faults NOSLAB. -/
  | swapMark (u : UKey)
  /-- R263: Takes one A row of the open pass into the delta bank. -/
  | mmac (u : UKey)
  /-- R264: A closing end token ends the pass, and the monitors decide to commit or squash. -/
  | slabPass (u : UKey)
  /-- R264: After a squash, sends REWINDs and reruns the pass one rung wider as sub-passes. -/
  | slabReplay (u : UKey)
  /-- R268: Reads a slot row into a strip, optionally clearing it. -/
  | accrd (u : UKey)
  /-- R268: Writes or adds a strip into a slot row. -/
  | accwr (u : UKey)
  /-- R268: Clears a slot row, or a whole slot. -/
  | accclr (u : UKey)
  /-- R278: Emits address tokens of its program, freely or once per trigger. -/
  | ag (u : UKey)
  /-- R279: Loads one strip per offset, forwarding held stores of its own invocation. -/
  | ldn (u : UKey)
  /-- R280: On REWIND, a REF load node resends its current unit on its refetch output. -/
  | ldnRewind (u : UKey)
  /-- R280: On RESOLVE, it counts toward PPS and retires the unit, emitting its ordering tokens. -/
  | ldnResolve (u : UKey)
  /-- R280: On EOS from the mmac, it retires every outstanding unit, or faults REFLEN. -/
  | ldnRefEos (u : UKey)
  /-- R282: Writes a strip into the hold buffer at its offset. -/
  | stn (u : UKey)
  /-- R283: An elastic stn queues strips in its ring of CAP places and emits the oldest. -/
  | elasticBuffer (u : UKey)
  /-- R284: Performs one atomic member on a lane or lane pair in the pipeline, unheld. -/
  | rmw (u : UKey)
  /-- R288: Once stores have performed and REF units have retired, hands bank ownership tokens on. -/
  | bankpass (u : UKey)
  /-- R287: Acquires the hashed lock token for an address and emits a grant. -/
  | lkpoolAcquire (u : UKey)
  /-- R287: Releases the hashed lock token for an address. -/
  | lkpoolRelease (u : UKey)
  /-- R206: A fabric token enters a request stream and issues an engine request. -/
  | engineRequestToken (r h : Nat)
  /-- R204: An engine performs one unit of a request, read before write, checking tags and translating page by page. -/
  | engineUnit (serial h idx : Nat)
  /-- R326: A token unit serves one row: reads the sequence record, runs the member and writes the result entry. -/
  | tokenUnitRow (tu : Nat)
  /-- R334: One pass of a logit row through the recirculating channel: processing, histogram and selection. -/
  | lap (tu : Nat)
  /-- R295: Takes query heads and strips and closes query blocks. -/
  | queryAssembly (q : Nat)
  /-- R296: Reads the directory entry and page list of a query block and issues key blocks. -/
  | keyBlockWalk (q : Nat) (remove prove : Bool)
  /-- R298: Forms raw scores on the score engine and runs the score program. -/
  | scoreStage (q b : Nat)
  /-- R316: Runs the mask program on each pair of a block that is neither removed nor proven. -/
  | maskStage (q b : Nat)
  /-- R299: Runs the weight part and forms the leaf on the value engine. -/
  | blendWeight (q query b : Nat)
  /-- R300: Runs the merge part and combines two partial states. -/
  | blendMerge (q query ia ib : Nat)
  /-- R303: Finalizes a query and delivers its output head and value strips to OPORT in arrival order. -/
  | resolve (q : Nat)
  /-- R396: Stops the control thread, saves it, and sends cut markers into every source. -/
  | cutStart (serial : Nat)
  /-- R397: A cut marker takes link-buffer tokens, cuts an input, and once a unit is cut saves its state and forwards. -/
  | cutMarkerArrival (r hop : Nat)
  /-- R397: When every sink has seen the marker, banks are saved, EPOCH advances and the instance enters CUT. -/
  | cutComplete (serial : Nat)
  /-- R394: Discards every token, held store and delta of the region and waits for requests. -/
  | killStart (serial cause sub : Nat)
  /-- R394: After requests respond, clears resources, writes the kill record and sets KILLED. -/
  | killComplete (serial : Nat)
  /-- R426: Sends the function's MSI-X vector after a completion or a DROP increment. -/
  | msixMessage (fn vec : Nat)
  /-- R455: A write names an instance of the quire to kill. -/
  | skill (q : Nat) (v : BitVec 64)
  /-- R455: A write names an instance of the quire to cut, optionally for debug. -/
  | scut (q : Nat) (v : BitVec 64)
  /-- R400: A write makes a debug-cut instance a candidate again. -/
  | sresume (q : Nat) (v : BitVec 64)
  /-- R400: Writing 1 restarts a thread stopped by a double trap at STVEC. -/
  | shungRestart (q : Nat) (v : BitVec 64)
  /-- R390: Writing 1 to the mailbox V frees the fault mailbox. -/
  | mailboxFree (q : Nat) (v : BitVec 64)
  /-- R401: The no-progress timer fires; the wait-for table extends it or raises WATCHDOG. -/
  | watchdogExpiry (serial : Nat)
  /-- R354: NSEC reaching STIMECMP sets SEVENT.TIMER. -/
  | timerEvent (core : Nat)
  /-- R93: A remote or host request with no completion within its timeout completes with REMOTE TIMEOUT. -/
  | remoteTimeout (id : Nat)
  /-- R95: A PCIe completion for a device request arrives, and the access performs or completes with REMOTE. -/
  | hostCompletion (id : Nat) (a : Answer) (host : Option (BitVec 64))
  /-- R365: A 64-byte write into a launch window is checked and creates a QUEUED instance or a rejection. -/
  | hostLaunchEntry (fn off size : Nat) (entry : BitVec 512)
  /-- R369: On a scheduling trigger, visits owners by weighted deficit round robin and places their next candidates. -/
  | schedulerVisit
  /-- R373: A slice timer expires and posts a yield request when a candidate waits for slots. -/
  | sliceExpiry (serial : Nat)
  /-- R377: Once per millisecond, the role controller compares candidates and quires and chooses at most one move. -/
  | roleControlTick (choice : Nat)
  /-- R378: When a leaving quire holds no region, its role bit flips and MOVING clears. -/
  | roleFlip (q : Nat)
  /-- R375: A LEND write with OP 1 lends a free quire to an adjacent partition. -/
  | lend (v : BitVec 64)
  /-- R376: A LEND write with OP 2 starts the recall of a lent quire by cutting affected instances. -/
  | recall (v : BitVec 64)
  /-- R375: A LEND write with OP 0 only selects the quire that BUSY and RESULT report. -/
  | lendSelect (v : BitVec 64)
  /-- R376: At T0 + 250 µs, instances whose cut is not complete are killed with CUTKILL. -/
  | cutDeadline (q : Nat)
  /-- R376: After save and scrub, the quire rejoins its home, BUSY clears and RECALL events are raised. -/
  | recallComplete (q : Nat)
  /-- R411: A VFRST GO write or an FLR disables queues, kills the function's instances and marks its arena reset. -/
  | functionReset (fn : Nat)
  /-- R412: Once earlier requests respond, the arena is zeroed and BUSY clears. -/
  | arenaScrub (fn : Nat)
  /-- R427: A PCIe link-down or hot reset acts as a PF function-level reset. -/
  | linkDown
  /-- R410: Changes slice roles, after writing back the cache, only while the partition is idle. -/
  | sroleWrite (v : BitVec 64)
  /-- R405: An MPQUIRE, MPSLICE or MPRANGE write is checked for ownership conditions, or ignored with ERR set. -/
  | partitionResourceWrite (n : Nat) (v : BitVec 64)
  /-- R409: An MTCFG write adds or removes a MEM or PATH tunnel. -/
  | tunnelWrite (n : Nat) (v : BitVec 64)
  /-- R413: An MCCFG write with V = 1 scrubs the quires, draws keys and clears CMR. -/
  | confidentialEnable (v : BitVec 64)
  /-- R413: An MCCFG write with V = 0 destroys the partition's keys. -/
  | confidentialDisable (v : BitVec 64)
  /-- R417: A SWITCH write, or a sequence reaching 2^31, makes a new transit generation current and sends markers. -/
  | keySwitch (p : Nat)
  /-- R417: Once markers arrive and no request of the old generation is outstanding, the old key is destroyed. -/
  | generationRetire (p : Nat)
  /-- R416: A destination fence router opens a sealed packet, killing the owning instance on a tag or sequence failure. -/
  | transitOpen (serial router kind gen seq : Nat) (tagOk : Bool)
  /-- R408: A drop with PEND 0 raises FENCE at machine level on Trearo core 0 at the next boundary. -/
  | fenceTrap
  /-- R429: A peer read request arrives and performs as an access of the owning partition. -/
  | zillasRead (hdr : BitVec 512) (n : Nat)
  /-- R429: A peer write request arrives, performs and is acknowledged. -/
  | zillasWrite (hdr : BitVec 512) (payload : List Byte)
  /-- R430: A peer atomic request performs its member on PA and returns OLD and ST. -/
  | zillasAtomic (hdr : BitVec 512)
  /-- R431: A message enters the receive buffer and is acknowledged, or the ack is withheld while the buffer is full. -/
  | zillasMessage (hdr : BitVec 512) (payload : List Byte)
  /-- R429: A read, write or atomic completion or a message ack arrives and completes the requester's access. -/
  | zillasCompletion (hdr : BitVec 512) (payload : List Byte)
  /-- R428: A port going down holds new packets, then remaps their destinations. -/
  | zillasPortDown (port : Nat)
  /-- R435: The result arrives; the member writes DST and returns written. -/
  | collResult (id : Nat) (others : List (List Byte))
  /-- R435: A commit arrives and the member's response carries status 0. -/
  | collCommit (id : Nat)
  /-- R435: An INCOMPLETE arrives and the member responds COLL with MEMBERS. -/
  | collIncomplete (id : Nat) (members : BitVec 256)
  /-- R442: A supply sag stretches a die's fabric clock and counts in MDROOP. -/
  | droopStretch (die : Nat)
  /-- R443: Every 100 µs the throttle level moves by temperature, setting bubble insertion. -/
  | thermalTick (temp : Nat)
  /-- R443: At 110 °C the hub asserts THERMTRIP_N and stops every clock. -/
  | thermtrip
  /-- R444: Asserting FREEZE_N stops every clock within one cycle, holding the arrays for read-out. -/
  | freeze
  /-- R437: RESET_N clears MBOOT, the meters, the partitions and the keys, and reruns the boot chain. -/
  | hubReset
  /-- R436: The next boot stage image is fetched and verified, and runs, or boot stops. -/
  | bootStage (e : BootFetch)
  /-- R438: The device OS scrubs arrays, writes MPKG, enables Zillas and sets UP. -/
  | quireBringup (pkg : BitVec 12)
  /-- R438: Writes the package number once per hub reset. -/
  | mpkgWrite (v : BitVec 64)
  /-- R440: Verifies new firmware images and sets STATE 1. -/
  | mactStage (images : StagedImages)
  /-- R440: Opens the commit window of at most 2 ms. -/
  | mactCommit
  /-- R440: The new images run, measurements 0x04 and 0x05 change, and STATE returns to 0. -/
  | commitPoint
  /-- R441: An SPDM GET_MEASUREMENTS request is answered by the class of its arrival time. -/
  | getMeasurements (index : Nat)
  /-- R403: An authenticated debug client stops, reads, writes or resumes an instance. -/
  | debugRequest (serial : Nat) (ask : DebugAsk)
  /-- R428: A Zillas port comes up and the device maps destinations again over the ports that are up. -/
  | zillasPortUp (port : Nat)
  /-- R426: A host write that unmasks an MSI-X vector whose pending bit is set sends that vector's message. -/
  | msixUnmask (fn : Nat) (ask : MsixAsk)
  /-- R437: An SPDM or other management-port request other than GET_MEASUREMENTS is answered, such as GET_VERSION or session setup, or is refused after a boot failure; or an array of a frozen package is read out (R444). -/
  | managementRequest (ask : MgmtAsk)
  /-- R412: A VFABASE write sets a function's arena and clears its reset mark, so token-unit rows on the arena run again. -/
  | arenaRebind (v : BitVec 64)
  deriving DecidableEq, Repr

end Sys2Proof
end

