-- ==== Sys2Proof/Machine/State.lean ====
section
/-!
DEFINITION. The state of the package, as plain data: every piece of architectural state that INVENTORY.md lists, each
field with the rule of spec/ that names it, and the state right after hub reset.
-/

namespace Sys2Proof.Machine

/-- Why the machine stands still. -/
inductive Fault where
  /-- Raised by `step` when FREEZE_N or a thermal trip has stopped every clock (R443, R444): nothing moves until
  RESET_N. Safe: the model stops where the hardware stops. -/
  | clocksStopped
  deriving DecidableEq, Repr

/-- Why an instruction has no meaning. -/
inductive Refusal where
  /-- Raised by an arm of `exec` whose instruction has no meaning yet. Safe: nothing is claimed of it. -/
  | notModelled (mnemonic : String)
  deriving DecidableEq, Repr

/-! ### Register contexts -/

/-- x0 to x31, p0 to p7 and pc (R162, R164). x0 and p0 are hard-wired in the operations that read and write them. -/
structure Ctx where
  x : Vector W64 32
  p : Vector Bool 8
  pc : W64
  deriving DecidableEq, Repr

/-- Every register zero. -/
def Ctx.zero : Ctx := ⟨Vector.replicate 32 0#64, Vector.replicate 8 false, 0#64⟩

/-- The trap registers of one privilege level: XSTATUS (PL, INH), XTVEC, XEPC, XCAUSE, XADDR, XINFO, XSCRATCH, and
STIMECMP for the supervisor level (R354, R355). -/
structure TrapRegs where
  pl : BitVec 2
  inh : Bool
  tvec : W64
  epc : W64
  cause : W64
  addr : W64
  info : W64
  scratch : W64
  timecmp : W64
  deriving DecidableEq, Repr

/-- Reset values of R354 and R355: all 0, STIMECMP all ones. -/
def TrapRegs.reset : TrapRegs := ⟨0#2, false, 0#64, 0#64, 0#64, 0#64, 0#64, 0#64, BitVec.allOnes 64⟩

/-- The supervisor bank of one control core, and the hardware thread of the core that is at supervisor level (R353). -/
structure SupBank where
  ctx : Ctx
  regs : TrapRegs
  active : Option Nat
  /-- the hardware thread that last issued, for alternation between equals (R374) -/
  last : Nat
  /-- the supervisor's word stalls (R374: not runnable) -/
  wait : Bool
  deriving DecidableEq, Repr

def SupBank.reset : SupBank := ⟨Ctx.zero, TrapRegs.reset, none, 1, false⟩

/-- The fault record of R389 (FRCAUSE, FRPC, FRADDR, FRUNIT, FRITER0 to 3, FRDETAIL, FRCOUNT, FRTIME), and the CYCLE of
its fault, by which R255 tells faults of one cycle. -/
structure FaultRec where
  cause : BitVec 8
  sub : BitVec 8
  imp : Bool
  origin : BitVec 2
  v : Bool
  more : BitVec 16
  pc : W64
  addr : W64
  unitId : W64
  iter0 : W64
  iter1 : W64
  iter2 : W64
  iter3 : W64
  detail : W64
  upd : W32
  peers : BitVec 16
  time : W64
  cyc : W64
  deriving DecidableEq, Repr

def FaultRec.reset : FaultRec :=
  ⟨0, 0, false, 0, false, 0, 0, 0, 0, 0, 0, 0, 0, 0, 0, 0, 0, 0⟩

/-- The registers of one quire: SEVENT, SEVMASK (R354); results of SKILL and SCUT, SWDOG, SWDCNT, SHUNG, the fault
mailbox and SMBOXSER (R390, R400). SPART is computed from partition ownership. -/
structure QuireRegs where
  sevent : W64
  sevmask : W64
  skill : BitVec 3
  scut : BitVec 3
  swdog : W32
  swdcnt : W32
  shung : BitVec 8
  mbox : FaultRec
  mboxser : W32
  deriving DecidableEq, Repr

/-- Reset values of R354 and R400: SWDOG 0x000F_4240, everything else 0. -/
def QuireRegs.reset : QuireRegs := ⟨0, 0, 0, 0, 0x000F4240#32, 0, 0, FaultRec.reset, 0⟩

/-- A Trearo core: its level (0 user, 1 supervisor, 2 machine), a register bank for each level, the supervisor and the
machine trap registers, MDELEG (R353, R355), and the fault and context registers 0x200 to 0x21B as the core has them (R354,
R400; log entry 34). -/
structure TCore where
  level : Nat
  user : Ctx
  sup : Ctx
  mach : Ctx
  s : TrapRegs
  m : TrapRegs
  deleg : W64
  hung : Bool
  ctx : QuireRegs
  deriving DecidableEq, Repr

def TCore.reset : TCore := ⟨2, Ctx.zero, Ctx.zero, Ctx.zero, TrapRegs.reset, TrapRegs.reset, 0#64, false, QuireRegs.reset⟩

/-! ### Tokens, units and routes -/

/-- The token kinds of R30, and the marker by which a leaf head's end token travels behind its run's data (R253). A
permit and a done carry their iteration; an engine's done record is a data token (R206). A cut marker waits behind no
token, so it is no token here: a route holds how far its marker has come (R397). -/
inductive Token where
  | data (s : Strip)
  | eos
  | bubble
  | leafEnd (head : UKey) (run : Nat)
  | endTok (rank pos : Nat)
  | permit (iter : Nat)
  | doneTok (iter : W32)
  deriving DecidableEq, Repr

/-- An output slot with the routes that have not yet taken its token (R31: multicast). -/
structure Slot where
  tok : Option Token
  todo : List Nat
  deriving DecidableEq, Repr

/-- A walk of an address-generator program (R276): running, and the index vector of the next offset. -/
structure Walk where
  running : Bool
  i0 : Nat
  i1 : Nat
  i2 : Nat
  i3 : Nat
  deriving DecidableEq, Repr

/-- A REF unit that has not retired: the offsets it read, in order, the run of its leaf in which it read each (whose held stores
a refetch forwards too, R103, R106), and whether all of them are sent (R280). -/
structure RefUnit where
  offs : List Nat
  runs : List Nat
  whole : Bool
  deriving DecidableEq, Repr

/-- What a node keeps beside its latches and slots. -/
inductive NodeSt where
  | plain
  /-- R35: admission ids in the order their tokens go round the loop, finished tokens by id, next id, next id to leave,
  EOS passed to body, EOS passed to exit -/
  | carry (loop : List Nat) (retired : List (Nat × Token)) (nextId nextExit : Nat) (eosBody eosExit : Bool)
  /-- R37: tokens, the one nearest the output first -/
  | delay (stages : List Token)
  /-- R249: the constant, and the copies a free const has left -/
  | const (v : Strip) (left : Nat)
  /-- R41 to R43, R252: use (0 free-standing, 1 bound, 2 leaf head), trip counts, index vector, queued bounds, position,
  run number, an index is ready, a run is on, runs asked for, index tokens asked for, end tokens to send, run markers to
  send, the last run is over for its parent -/
  | ctr (use : Nat) (trips : List W32) (idx : List Nat) (bounds : List (Nat × W32)) (pos run : Nat) (ready on : Bool)
      (runs want : Nat) (ends : List (Nat × Nat)) (marks : List Nat) (fin : Bool)
  /-- R40, R253: permits received and not served, a run is on, iterations started in it, permits sent to and dones
  received from each child in it, runs done, no further permit will come, EOS sent -/
  | ctl (permits : Nat) (on : Bool) (iter : Nat) (sent dones : List Nat) (total : Nat) (fin eosSent : Bool)
  /-- R276 to R282: walk, REF units, RESOLVEs counted, offsets left to resend, ordering tokens waiting, EOS in (in0 or end
  of program), the mmac's EOS in, EOS sent on the data output -/
  | prog (w : Walk) (units : List RefUnit) (resolves : Nat) (resend : List Nat) (ordq : Nat) (finished refEos eosSent : Bool)
  /-- R283: the ring's oldest place and how many places are full; EOS in -/
  | ring (first count : Nat) (eosIn : Bool)
  /-- R260, R271: EOS absorbed on in0 and on in1; slabs loaded -/
  | mload (eosIn eosRef : Bool) (slabs : Nat)
  /-- R261: strips passed, INIT mark placed, end tokens waiting for their position -/
  | mswap (passed : Nat) (initDone : Bool) (ends : List (Nat × Nat))
  /-- R263 to R266: rows taken, current slot, pass number, EOS in on in0 and in1, end tokens waiting for their position,
  counts as a sink -/
  | mmac (firings : Nat) (cur passNo : Nat) (eos0 eos1 : Bool) (ends : List (Nat × Nat)) (sink : Bool)
  /-- R287: tokens held; since when the acquire waits -/
  | lk (held : List Nat) (since : Option Nat)
  deriving DecidableEq, Repr

/-- The index vector of one run of a leaf head, or of one iteration of a controller: its own counter's indices, and those of the
counters bound to the controllers above it when its permit came (R48, R49). -/
structure IterVec where
  run : Nat
  own : List Nat
  outer : List Nat
  deriving DecidableEq, Repr

/-- A configured unit: its place, its instance, folio and tile position, its operation word, seed and the payload of its
kind 3, 5 or 6 frame, its latches, its output slots by POUT, whether it has faulted, which inputs a cut marker has cut, whether it has saved
itself and sent the marker on, whether a parity or latch error waits in it, its lane-generator count (R64), the tokens it has sent since its last bubble
(R443), when it last fired, the outer index vectors of the permits it has received and not begun or not ended, the index vectors of
its runs or iterations under way (R49), how many leaf markers have passed it, whether its part in the phase has ended, the tokens that wait at its loop inputs after a restore (R448),
the updates an rmw has performed in each run of its leaf (R389), and its node state (R49, R146 to R156, R254, R397). -/
structure FabUnit where
  key : UKey
  serial : Nat
  folio : Nat
  fx : Nat
  fy : Nat
  word : W64
  seed : W32
  frame : Payload
  ins : List (Option Token)
  outs : List Slot
  dead : Bool
  cut : List Bool
  left : Bool
  cfgBad : Bool
  eccBad : Bool
  gen : Nat
  sent : Nat
  fired : Nat
  given : List (List Nat)
  vecs : List IterVec
  passed : Nat
  ended : Bool
  loopIn : List (Nat × Token)
  upds : List (Nat × Nat)
  st : NodeSt
  deriving DecidableEq, Repr

/-- The two ends a route can have beside a unit: a folio port (R149). -/
inductive End where
  | unit (k : UKey) (io : Nat)
  | port (folio port : Nat)
  deriving DecidableEq, Repr

/-- A route entry in force, with the two-token buffer of each hop (R31, R149), the tokens that a cut marker has moved out of
each into the save record, and the hop that the marker takes next (R397). -/
structure Route where
  id : Nat
  serial : Nat
  folio : Nat
  src : End
  pout : Nat
  dst : End
  hops : List (List Token)
  saved : List (List Token)
  mark : Option Nat
  deriving DecidableEq, Repr

/-- An entry port (R26, R27) of a folio, resident or not: its waiting tokens and when each came, its output slot
toward the folio's routes, the tokens it has sent since its last bubble (R443), whether an EOS has come in this phase,
whether a cut marker has passed it (R396), and the places of its spill area that its waiting tokens past the 64th hold, in their
order (R27). -/
structure InPort where
  serial : Nat
  folio : Nat
  port : Nat
  q : List Token
  stamps : List Nat
  slot : Slot
  sent : Nat
  gotEos : Bool
  cut : Bool
  places : List Nat
  deriving DecidableEq, Repr

/-- A placed folio: its quire and base slot, its shape, its pin, its channel table (R155), the folio positions of the tiles
it configures (R12), its live masks by folio position (R151, R152), and when a unit of it last fired (R29). -/
structure Resident where
  serial : Nat
  folio : Nat
  q : Nat
  base : Nat
  shape : Nat
  pinned : Bool
  chans : List (BitVec 16)
  scales : List W32
  knots : List W32
  tiles : List (Nat × Nat)
  live : List (Nat × Nat × Nat)
  lastFire : Nat
  deriving DecidableEq, Repr

/-- One B register: its strips in stored form, the rung they are quantised into, and whether it holds a whole slab (R260,
R264). -/
structure BReg where
  strips : List Strip
  rung : Nat
  full : Bool
  deriving DecidableEq, Repr

def BReg.empty : BReg := ⟨[], 0, false⟩

/-- The counts of one attempt at a rung (R454, R75 to R78). -/
structure Counts where
  sat : Nat
  uflow : Nat
  canc : Nat
  forced : Bool
  deriving DecidableEq, Repr

def Counts.zero : Counts := ⟨0, 0, 0, false⟩

/-- What the mmac does with its pass (R264): it takes rows; or the pass is closed by an end token of rank `rank` and
attempt `f` is at column half `h` and K sub-pass `sub`, its REWIND sent or not, with the delta rows and absolute sums so
far. -/
inductive PassSt where
  | opened
  | replay (rank f h sub : Nat) (sent : Bool) (squashes : Nat) (d : List (List W32)) (sigma : List (List W32)) (c : Counts)
  deriving DecidableEq, Repr

/-- What stands between the mswap and the mmac: an A strip, a swap mark, or EOS (R256, R261). -/
inductive PathItem where
  | strip (s : Strip)
  | mark
  | eos
  | leafEnd (head : UKey) (run : Nat)
  deriving DecidableEq, Repr

/-- A matrix tile: B registers, the refetch being taken, the replay buffer or strips of the open pass, the pass state,
whether the open pass was discarded by a fault of its invocation, so that the rest of its rows is dropped (R49, R272), the path from the mswap, the accumulator slots, sparse, keyed 4096*slot + 64*row + column (R80), and what of it has an
uncorrectable error that no read has met (R272): the active and the loading B register, the delta bank, the replay buffer,
accumulator slots. -/
structure MTile where
  key : TKey
  serial : Nat
  folio : Nat
  active : BReg
  loading : BReg
  refetch : List Strip
  aStrips : List Strip
  aRefetch : List Strip
  pass : PassSt
  lost : Bool
  path : List PathItem
  slots : List (Nat × W32)
  badActive : Bool
  badLoading : Bool
  badDelta : Bool
  badRows : Bool
  badSlots : List Nat
  deriving DecidableEq, Repr

/-- A store held for its invocation (R48, R103). -/
structure Held where
  tile : TKey
  serial : Nat
  leaf : UKey
  run : Nat
  unitKey : UKey
  off : Nat
  data : Strip
  deriving DecidableEq, Repr

/-! ### Synchronisation -/

/-- A pool of lock tokens and barrier watches: memory tile, edge-store slice or cache slice (R214, R217). -/
inductive Pool where
  | tile (t : TKey)
  | slice (n : Nat)
  | cache (n : Nat)
  deriving DecidableEq, Repr

/-- A bank ownership token that a bankpass has handed on (R47, R288): the place, in the order in which the phase places
configurations there, of the one it is for, and whether that one has received it. -/
structure BankTok where
  pool : Pool
  serial : Nat
  bank : Nat
  pos : Nat
  given : Bool
  deriving DecidableEq, Repr

/-- The configurations (folios) a phase of an instance has placed at a tile or slice, first first (R47, R99). -/
structure TileConfs where
  pool : Pool
  serial : Nat
  confs : List Nat
  deriving DecidableEq, Repr

/-- A waiter or holder: an instance's control thread, or an update subgraph named by its unit (R221, R231). -/
inductive Party where
  | thread (serial : Nat)
  | sub (serial : Nat) (u : UKey)
  | external
  deriving DecidableEq, Repr

/-- A lock token with a holder (R214, R215). -/
structure LockTok where
  pool : Pool
  idx : Nat
  holder : Party
  deriving DecidableEq, Repr

/-- A barrier object in a watch (R217): its pool, its memory key, its instance. -/
structure BarObj where
  pool : Pool
  addr : Nat
  serial : Nat
  deriving DecidableEq, Repr

/-- An entry of the wait-for table (R221). `inh`: the priority its waiter inherits, as last propagated (R226). -/
structure Wait where
  bank : Nat
  idx : Nat
  waiter : Party
  kind : Nat
  obj : Nat
  sw : Bool
  holders : List Party
  tok : Option (Pool × Nat)
  base : Nat
  inh : Nat
  start : W64
  deriving DecidableEq, Repr

/-- A holder declaration (R224). -/
structure Decl where
  serial : Nat
  kind : Nat
  obj : Nat
  deriving DecidableEq, Repr

/-! ### Engines, streams, remote requests -/

/-- What a request still needs. Member 0 copy to 6 zrecv as the chain record's ENGINE field has them (R160); 7 samp,
8 gram, 9 accept, 10 commit. -/
structure Request where
  id : Nat
  member : Nat
  desc : BitVec 512
  tag : W64
  ord : Bool
  fabric : Bool
  inPhase : Bool
  /-- units gone through, bytes written, the index read for the present element (of a zrecv, its message's sender and length; of a
  coll that writes its result, its contribution), the outside access that the present unit
  waits for, the bytes it has read, whether it has started, its response, whether its done token has gone -/
  pos : Nat
  done : Nat
  idx : Option Nat
  wait : Option Nat
  buf : Option (List Byte)
  started : Bool
  resp : Option Strip
  told : Bool
  deriving DecidableEq, Repr

/-- How a handle is bound (R188). -/
inductive Bind where
  | unbound
  | push (folio port : Nat)
  | pop (folio port : Nat)
  | engine (e : Nat)
  deriving DecidableEq, Repr

/-- A stream handle: its binding, its token queue, its requests from issue until their response is popped, in order, and
whether its EOS has been delivered in the present phase (R188 to R194). -/
structure Handle where
  bind : Bind
  q : List Token
  reqs : List Request
  eosNow : Bool
  deriving DecidableEq, Repr

def Handle.free : Handle := ⟨.unbound, [], [], false⟩

/-- A request to the host or to a peer package (R93, R424, R429): which instance it is for, the PCIe function whose
requester ID a host request carries, what it does, and its outcome once it has one. `kind`: 0 load, 1 store, 2 atomic,
3 message, 4 the wait of a zrecv; of a coll, 5 its contribution until the result comes, 7 while the result is written, 6 until
the commit (R431, R435). -/
structure Remote where
  id : Nat
  serial : Nat
  fn : Nat
  peer : Option Nat
  kind : Nat
  addr : Nat
  va : W64
  size : Nat
  /-- bytes to store, or operand b of an atomic -/
  data : List Byte
  operandE : W64
  member : Nat
  posted : Bool
  sent : W64
  /-- its packet has left the package, or is held for its port (R428, R438) -/
  gone : Bool
  /-- status (0 or a REMOTE subcause) and the bytes returned -/
  ans : Option (Nat × List Byte)
  /-- the Zillas port on which its packet was sent and has no completion yet (R428) -/
  port : Option Nat
  deriving DecidableEq, Repr

/-! ### Attention -/

/-- A stage program as abind copies it (R159, R322). -/
structure StageProg where
  kind : Nat
  block : Bool
  words : List W64
  wstart : Nat
  mstart : Nat
  fstart : Nat
  inputs : List Byte
  cull : BitVec 128
  deriving DecidableEq, Repr

/-- A binding (R290 to R294). -/
structure Binding where
  rslot : Nat
  desc : BitVec 512
  score : Option StageProg
  mask : Option StageProg
  blend : StageProg
  deriving DecidableEq, Repr

/-- A query (R295): head and strip (none when EOS came instead). -/
structure Query where
  head : Strip
  strip : Option Strip
  deriving DecidableEq, Repr

/-- A partial state (R299). -/
structure Partial where
  sigma : List W32
  o : List W32
  deriving DecidableEq, Repr

/-- A key block of a query block (R296, R297): its index, its keys' and values' rows as stored, its keys' segments,
the verdict of cull, scores and keep bits by query and key. -/
structure KeyBlock where
  b : Nat
  n : Nat
  keys : List (List Byte)
  vals : List (List Byte)
  ksegs : List Nat
  removed : Bool
  proven : Bool
  scores : Option (List (List W32))
  kept : Option (List (List Bool))
  deriving DecidableEq, Repr

/-- The work on one query of a block: partial states still to merge, each with its key (0 the merged state, b + 1 the leaf
of key block b), the key blocks whose leaf has been formed, and whether an uncorrectable error in the storage of its query
engine has been met (R322). -/
structure QueryWork where
  parts : List (Nat × Partial)
  weighed : List Nat
  ecc : Bool
  deriving DecidableEq, Repr

/-- A directory entry as the key-block walk has read it (R296). -/
structure SeqEntry where
  pages : W64
  len : Nat
  ver : Nat
  kseg : W64
  deriving DecidableEq, Repr

/-- A closed query block (R295): its queries that are not resolved, its directory entry once read, the next key block to
walk, its error if one arose (cause, subcause), its key blocks, the work on each of its queries, and the bounds of its
queries' QPOS and QSEG when it closed (R297). -/
structure QBlock where
  queries : List Query
  entry : Option SeqEntry
  next : Nat
  err : Option (Nat × Nat)
  blocks : List KeyBlock
  work : List QueryWork
  qpos : Nat × Nat
  qseg : Nat × Nat
  deriving DecidableEq, Repr

/-- The attention pipeline of a quire while it is bound (R292). -/
structure Attn where
  q : Nat
  serial : Nat
  bind : Binding
  folio : Nat
  qport : Nat
  oport : Nat
  inq : List Token
  head : Option Strip
  opened : List Query
  blocks : List QBlock
  eosIn : Bool
  eosSent : Bool
  cut : Bool
  deriving DecidableEq, Repr

/-! ### Token units -/

/-- What a row has worked out and not yet written, and the laps it has run of those it takes (R326, R334): TOKEN (none
when no token was drawn), NACC, STOP, RSTAT, SUB and DRAWS of its result entry, the tokens of its token row, the record
whose STOP it writes, and whether it writes its entry alone (R411, R412). -/
structure RowLap where
  run : Nat
  need : Nat
  token : Option Nat
  nacc : Nat
  stop : Nat
  rstat : Nat
  sub : Nat
  draws : Nat
  drawn : List Nat
  record : Option W64
  bare : Bool
  deriving DecidableEq, Repr

/-- A token unit: the requests it is to serve, in arrival order (instance, handle, request id), and the row in progress of
the first (R327, R334). -/
structure TokUnit where
  queue : List (Nat × Nat × Nat)
  lap : Option RowLap
  deriving DecidableEq, Repr

/-! ### Instances -/

/-- The states of R23. -/
inductive IState where
  | queued
  | placed
  | run
  | yielded
  | cut
  | faulted
  | killed
  | done
  deriving DecidableEq, Repr

/-- Where a stalled word waits (R189, R221): kind and object of its automatic registration, the lock token it waits
for, and since when (NSEC). -/
structure Stall where
  kind : Nat
  obj : Nat
  tok : Option (Pool × Nat)
  start : W64
  deriving DecidableEq, Repr

/-- The replay counters of one mmac (R274). -/
structure MxCount where
  folio : Nat
  tx : Nat
  ty : Nat
  att : List W32
  sq : List W32
  abandon : W32
  last : BitVec 4
  deriving DecidableEq, Repr

/-- What an eviction keeps of a folio (R29, R82, R84, R64, R195): the EPOCH under which its save area is written (R415), the number
of the phase that ran last, its
units, and by folio position the accumulator slots and memory-tile bytes, keyed by offset in the tile. -/
structure FolioSave where
  folio : Nat
  ver : Nat
  phase : Nat
  units : List FabUnit
  slots : List (Nat × Nat × List (Nat × W32))
  banks : List (Nat × Nat × List Host.Cell)
  deriving DecidableEq, Repr

/-- A bound token that waits for a folio that is not resident (R195). -/
structure BoundWait where
  folio : Nat
  fx : Nat
  fy : Nat
  slot : Nat
  level : Nat
  trips : W32
  deriving DecidableEq, Repr

/-- What a cut or a yield saves of the region (R199, R396 to R398): where it stood, its folios with their units, routes,
matrix tiles and held stores, the bytes of its memory tiles that are kept, its attention pipelines, its bank tokens, and the
lock tokens and barrier objects of its tiles (R215, R217); and the thread's software wait entries and declarations (R229). -/
structure Saved where
  region : List (Nat × Nat)
  residents : List Resident
  units : List FabUnit
  routes : List Route
  mtiles : List MTile
  helds : List Held
  banks : List (TKey × Nat × List Host.Cell)
  attns : List Attn
  bankToks : List BankTok
  confs : List TileConfs
  locks : List LockTok
  bars : List BarObj
  waits : List Wait
  decls : List Decl
  deriving DecidableEq, Repr

/-- A cut under way (R376, R396, R400): the epoch its markers carry, DEBUG, and how far it is: 0 asked for, 1 the markers
have entered the sources, 2 the engine response channels too. -/
structure CutSt where
  epoch : Nat
  debug : Bool
  stage : Nat
  deriving DecidableEq, Repr

/-- A kill under way (R394): cause, subcause, whether it has started, and what it has discarded, when. -/
structure KillSt where
  cause : Nat
  sub : Nat
  started : Bool
  half : Nat
  tokens : Nat
  helds : Nat
  time : W64
  deriving DecidableEq, Repr

/-- Where a launch came from (R364 to R366). -/
structure Source where
  fn : Nat
  queue : Nat
  compl : W64
  tag : W64
  parent : Option Nat
  deriving DecidableEq, Repr

/-- A kernel instance (R22). -/
structure Inst where
  serial : Nat
  owner : Nat
  part : Nat
  role : Bool
  src : Source
  state : IState
  image : W64
  header : BitVec 4096
  base : Nat
  /-- effective priority, as last propagated (R226) -/
  eff : Nat
  ceil : Nat
  strict : Bool
  inc : Bool
  swovf : W32
  autoovf : W32
  dladdr : W64
  dlcount : W32
  mxsel : BitVec 12
  mx : List MxCount
  mxsq : W32
  mxcommit : W32
  fault : FaultRec
  utvec : W64
  utmask : W32
  uepc : W64
  uinh : Bool
  usave : BitVec 7
  uscratch : W64
  ctx : Ctx
  hw : Option Nat
  region : List (Nat × Nat)
  dataVA : W64
  recVA : W64
  parVA : W64
  handles : List Handle
  named : List (Nat × Option Nat)
  phaseNo : Nat
  active : Bool
  started : Bool
  folios : List (Nat × Option Nat)
  /-- folios of the phase whose units had all ended when the folio left the region -/
  endedFolios : List Nat
  /-- chain records: out port F.p to in port G.q (R160) -/
  chains : List (Nat × Nat × Nat × Nat)
  rootDone : Bool
  /-- SERIALs of children not yet joined -/
  children : List Nat
  kitty : List Nat
  yieldReq : Bool
  sliceEnd : W64
  stall : Option Stall
  /-- the number of the first request that no fence of the thread orders: those below it come before what the thread does
  (R111) -/
  fenced : Nat
  /-- DEADLOCKs that wait to be taken, each by its DLSER, oldest first (R402) -/
  dead : List Nat
  /-- WATCHDOG waits to be taken: subcause and FRDETAIL (R389, R401) -/
  dog : Option (Nat × Nat)
  foldSaves : List FolioSave
  boundWaits : List BoundWait
  ages : List (Nat × Nat)
  bindings : List Binding
  saved : Option Saved
  cut : Option CutSt
  debugHeld : Bool
  epoch : Nat
  saveBase : W64
  saveSize : W64
  kill : Option KillSt
  killCause : Nat
  killSub : Nat
  arrival : W64
  age : Nat
  lastProgress : W64
  measures : List (BitVec 384)
  exiting : Bool
  deriving DecidableEq, Repr

/-- An instance at its launch, before its own facts are filled in (R22, R23, R183, R201, R230, R389, R392). -/
def Inst.blank : Inst where
  serial := 0
  owner := 0
  part := 0
  role := false
  src := ⟨0, 0, 0, 0, none⟩
  state := .queued
  image := 0
  header := 0
  base := 0
  eff := 0
  ceil := 0
  strict := false
  inc := false
  swovf := 0
  autoovf := 0
  dladdr := 0
  dlcount := 0
  mxsel := 0
  mx := []
  mxsq := 0
  mxcommit := 0
  fault := FaultRec.reset
  utvec := 0
  utmask := 0
  uepc := 0
  uinh := false
  usave := 0
  uscratch := 0
  ctx := Ctx.zero
  hw := none
  region := []
  dataVA := 0
  recVA := 0
  parVA := 0
  handles := List.replicate 16 Handle.free
  named := []
  phaseNo := 0
  active := false
  started := false
  folios := []
  endedFolios := []
  chains := []
  rootDone := false
  children := []
  kitty := []
  yieldReq := false
  sliceEnd := 0
  stall := none
  fenced := 0
  dead := []
  dog := none
  foldSaves := []
  boundWaits := []
  ages := []
  bindings := []
  saved := none
  cut := none
  debugHeld := false
  epoch := 0
  saveBase := 0
  saveSize := 0
  kill := none
  killCause := 0
  killSub := 0
  arrival := 0
  age := 0
  lastProgress := 0
  measures := []
  exiting := false

/-! ### Package -/

/-- A sealed channel of a confidential partition (R416): the source fence router, the kind (0 token, 1 request, 2
completion), the generation of its key, the number its source gives next, and the number its destination expects next. -/
structure TransitChan where
  router : Nat
  kind : Nat
  gen : Nat
  sent : Nat
  seq : Nat
  deriving DecidableEq, Repr

/-- Where a token goes that leaves its quire: an entry port, or the queue of a pop stream. -/
inductive Dest where
  | port (folio port : Nat)
  | pop (handle : Nat)
  deriving DecidableEq, Repr

/-- A token under way between the two parts of a confidential partition (R416): its partition and instance, the source
fence router, the generation of the key and the number under which it is sealed, its tag, and where it goes. -/
structure Transit where
  part : Nat
  serial : Nat
  router : Nat
  gen : Nat
  seq : Nat
  tag : BitVec 128
  tok : Token
  dst : Dest
  deriving DecidableEq, Repr

/-- A partition's registers and queue (R386, R404 to R406, R413, R417, R418, R423). `key` numbers the memory key drawn, `tkey` the
transit key of the current generation and `tkeyOld` that of the retiring one; the keys themselves no register reads. -/
structure Part where
  quires : W32
  slices : W64
  ranges : List W64
  en : Bool
  err : Bool
  root : W64
  walks : W32
  faults : W32
  mccfg : W64
  mctag : W64
  mcspan : W64
  cmr : BitVec 384
  key : Option Nat
  tkey : Nat
  tkeyOld : Nat
  gen : BitVec 16
  retiring : Option (BitVec 16)
  chans : List TransitChan
  queue : List Nat
  deriving DecidableEq, Repr

def Part.reset : Part :=
  ⟨0, 0, List.replicate 8 0#64, false, false, 0, 0, 0, 0, 0, 0, 0, none, 0, 0, 0, none, [], []⟩

/-- A PCIe function (R364, R379, R411, R422, R425, R426). `owed`: by vector, signals whose message has not been sent or
held back; `msixOn` and `msixHold`: MSI-X Enable and Function Mask; `msixTab`: by vector, the message's address in two words and its data; `rstAt`: the request number at the instant of the reset that is BUSY. -/
structure Fn where
  owner : Nat
  part : Nat
  pv : Bool
  qen : BitVec 4
  maxprio : Nat
  abase : W64
  asize : W64
  rstMark : Bool
  busy : Bool
  rstAt : Nat
  queues : List (List Nat)
  acc : List W32
  drop : W32
  msixOn : Bool
  msixHold : Bool
  msixMask : BitVec 8
  msixPend : BitVec 8
  msixTab : List W32
  owed : List Nat
  deriving DecidableEq, Repr

/-- PRESUMED, the MSI-X capability's reset values: MSI-X not enabled, no function mask, every vector masked, none pending, and a
table of zeros (log entry 5). -/
def Fn.reset : Fn :=
  ⟨0, 0, false, 0, 0, 0, 0, false, false, 0, [[], [], [], []], [0, 0, 0, 0], 0, false, false, 0xFF#8, 0#8, List.replicate 24 0, List.replicate 8 0⟩

/-- An owner: weight, deficit and the 18 meters of R420. -/
structure Owner where
  weight : Nat
  deficit : Nat
  meters : List W64
  deriving DecidableEq, Repr

def Owner.reset : Owner := ⟨0, 0, List.replicate 18 0#64⟩

/-- A sealed data tile: the number of the memory key, the version and the partition it was sealed under, and the tag that
its span stores for it (R414). -/
structure Seal where
  tile : Nat
  key : Nat
  ver : W32
  part : Nat
  tag : BitVec 128
  deriving DecidableEq, Repr

/-- A cached translation (R383): partition, page base, page bytes, leaf entry. -/
structure Trans where
  part : Nat
  va : Nat
  size : Nat
  leaf : W64
  deriving DecidableEq, Repr

/-- A tunnel (R409). -/
structure Tunnel where
  cfg : W64
  range : W64
  deriving DecidableEq, Repr

/-- Lending of one quire (R375, R376): the home partition while it is lent; the operation in progress, its start, its
RESULT, the instances it affects with the first quires of their regions, and whether one of them was killed; and whether
the quire is leaving its role (R378). -/
structure LendSt where
  lent : Option Nat
  busy : Bool
  t0 : W64
  result : BitVec 3
  affected : List (Nat × Nat)
  killed : Bool
  leaving : Bool
  deriving DecidableEq, Repr

def LendSt.reset : LendSt := ⟨none, false, 0, 0, [], false, false⟩

/-- The scheduling, translation, partition and hub selectors and registers of the Trearo cores that stand outside a
partition, a function or an owner (R379, R386, R422, R423, R439). -/
structure Sysregs where
  schctl : W64
  ownsel : BitVec 6
  vfsel : BitVec 9
  lendQuire : Nat
  lendTo : Nat
  role : BitVec 16
  rolemask : W32
  xsel : BitVec 5
  psel : BitVec 5
  srole : W64
  msel : BitVec 13
  mpselP : BitVec 5
  mpselR : BitVec 3
  mtsel : BitVec 4
  mflog : W64
  mfaddr : W64
  mboot : W64
  mevent : W64
  mevmask : W64
  mpkg : BitVec 12
  mpkgSet : Bool
  mecc : W64
  mtherm : W64
  mdroop : W32
  mactState : BitVec 2
  /-- NSEC at the commit write that opened the window, the last move of the throttle level, and THERMTRIP_N asserted (R440, R443) -/
  commitAt : W64
  thermAt : W64
  thermTrip : Bool
  /-- fetches of the next boot stage's image that have failed (R437) -/
  fetchFails : Nat
  deriving DecidableEq, Repr

/-- Every one of these registers resets to 0 (R379, R386, R422, R423, R439). -/
def Sysregs.reset : Sysregs :=
  ⟨0, 0, 0, 0, 0, 0, 0, 0, 0, 0, 0, 0, 0, 0, 0, 0, 0, 0, 0, 0, false, 0, 0, 0, 0, 0, 0, false, 0⟩

/-- A message in the Zillas receive buffer (R431). -/
structure Message where
  src : Nat
  chan : Nat
  data : List Byte
  deriving DecidableEq, Repr

/-- A packet that has left the package: header flit and payload (R428). -/
structure Packet where
  hdr : BitVec 512
  payload : List Byte
  deriving DecidableEq, Repr

/-- An answer or refusal that has left on the management port, or by scan (R403, R419, R437, R441, R444). A measurement's value is of
the DMTF type "raw bit stream", and the response carries its signature; ResponseNotReady carries its RDTExponent. -/
inductive Reply where
  | measurement (index : Nat) (value : List W64) (pending : Bool) (signature : BitVec 768)
  | notReady (rdtExponent : Nat)
  | refused
  | version
  | other (code : Nat) (value : W64)
  | record (words : List W64)
  | saved (bytes : List Byte)
  | array (bytes : List Byte)
  deriving DecidableEq, Repr

/-- What one turn of the schedule does: a control core or a Trearo core issues, or another agent takes a step. -/
inductive Act where
  | core (q c : Nat)
  | trearo (k : Nat)
  | event (i : Instr)
  deriving DecidableEq, Repr

/-- A turn of the schedule: the fabric reference periods and nanoseconds that pass before it, and whose turn it is. -/
structure Turn where
  dCycle : Nat
  dNsec : Nat
  act : Act
  deriving DecidableEq, Repr

/-- The state of the package. -/
structure State where
  /-- The model's own: the schedule still to come, an input (log entry 1). -/
  turns : List Turn
  /-- The model's own: the hardware thread whose word executes. -/
  cur : Hart
  /-- The model's own: the counter of free values used (log entry 8). -/
  free : Nat
  /-- The model's own: the word that executed last has stalled (log entry 1). -/
  blocked : Bool
  /-- CYCLE and NSEC (R185, R186). -/
  cycle : W64
  nsec : W64
  /-- Every clock stopped (R443, R444). -/
  frozen : Bool
  insts : List Inst
  sups : List SupBank
  quires : List QuireRegs
  cores : List TCore
  /-- Memory: HBM, host memory, memory tiles and edge-store slices, by memory key (Ops.lean). -/
  mem : List Host.Cell
  /-- Bytes with an uncorrectable error (R179 row 7). -/
  poison : List Nat
  seals : List Seal
  tlb : List Trans
  residents : List Resident
  units : List FabUnit
  routes : List Route
  ports : List InPort
  mtiles : List MTile
  helds : List Held
  bankToks : List BankTok
  confs : List TileConfs
  locks : List LockTok
  bars : List BarObj
  waits : List Wait
  decls : List Decl
  attns : List Attn
  tokUnits : List TokUnit
  remotes : List Remote
  /-- Sealed tokens under way between parts (R416). -/
  transits : List Transit
  /-- Failed posted stores not yet taken as traps: requester and address (R177). -/
  posted : List (Nat × W64)
  parts : List Part
  fns : List Fn
  owners : List Owner
  tunnels : List Tunnel
  lends : List LendSt
  sys : Sysregs
  messages : List Message
  sentPackets : List Packet
  /-- Zillas ports that destinations are mapped to; those of them that have gone down and still carry outstanding packets;
  packets held meanwhile, each with the number of the request it is for (R428). -/
  portsUp : List Bool
  draining : List Nat
  heldPackets : List (Nat × Packet)
  replies : List Reply
  msixSent : List (Nat × Nat)
  /-- MEAS of the images of boot stages 1 to 4 that run, measurements 0x02 to 0x05; and of the security monitor and the device OS that
  a stage write has verified (R436, R440). -/
  stageMeas : List (BitVec 384)
  staged : Option (BitVec 384 × BitVec 384)
  lastOwner : Nat
  nextSerial : Nat
  nextId : Nat
  nextKey : Nat
  dlser : W32
  fenceRaise : Bool
  deriving DecidableEq, Repr

/-- Right after hub reset: no instance, no partition, no key, MBOOT clear, Zillas ports down, memory unlisted (R437,
R438); every register at the value its chapter gives, or the value the assumption log names. -/
def State.reset : State where
  turns := []
  cur := .trearo 0
  free := 0
  blocked := false
  cycle := 0#64
  nsec := 0#64
  frozen := false
  insts := []
  sups := List.replicate Config.cores SupBank.reset
  quires := List.replicate Config.quires QuireRegs.reset
  cores := List.replicate Config.trearoCores TCore.reset
  mem := []
  poison := []
  seals := []
  tlb := []
  residents := []
  units := []
  routes := []
  ports := []
  mtiles := []
  helds := []
  bankToks := []
  confs := []
  locks := []
  bars := []
  waits := []
  decls := []
  attns := []
  tokUnits := List.replicate 8 ⟨[], none⟩
  remotes := []
  transits := []
  posted := []
  parts := List.replicate 32 Part.reset
  fns := List.replicate 257 Fn.reset
  owners := List.replicate 64 Owner.reset
  tunnels := List.replicate 16 ⟨0#64, 0#64⟩
  lends := List.replicate Config.quires LendSt.reset
  sys := Sysregs.reset
  messages := []
  sentPackets := []
  portsUp := List.replicate 18 false
  draining := []
  heldPackets := []
  replies := []
  msixSent := []
  stageMeas := List.replicate 4 0
  staged := none
  lastOwner := 63
  nextSerial := 1
  nextId := 0
  nextKey := 0
  dlser := 0#32
  fenceRaise := false

end Sys2Proof.Machine
end

