-- ==== Sys2Proof/Machine/Ops.lean ====
section
/-!
DEFINITION. The named operations over memory, registers and instances that every meaning uses: bytes of the one memory
in canonical form, register contexts, the hardware thread that executes, taking a trap (R356, R391, R392) and returning
from one (R360), and the arithmetic of the control thread (R71, R165).
-/

namespace Sys2Proof.Machine

/-! ### Lists of records -/

/-- Every element that satisfies `p` goes through `f`. -/
def updWhere {α : Type} (p : α → Bool) (f : α → α) (l : List α) : List α := l.map fun a => if p a then f a else a

/-- Element `n` goes through `f`; a place past the end changes nothing. -/
def updAt {α : Type} : List α → Nat → (α → α) → List α
  | [], _, _ => []
  | a :: l, 0, f => f a :: l
  | a :: l, n + 1, f => a :: updAt l n f

/-- Numbers 0 to n - 1. -/
def upTo (n : Nat) : List Nat := List.range n

/-- n32 and n64 counters that saturate (R6). -/
def satInc32 (v : W32) : W32 := if v = BitVec.allOnes 32 then v else v + 1

def satAdd (bits v n : Nat) : Nat := min (v + n) (2 ^ bits - 1)

/-- Insertion of `a` into a list that `le` orders; equal elements keep the order of arrival. -/
def insertBy {α : Type} (le : α → α → Bool) (a : α) : List α → List α
  | [] => [a]
  | b :: l => if le b a then b :: insertBy le a l else a :: b :: l

/-- Sorting by `le`. -/
def sortBy {α : Type} (le : α → α → Bool) (l : List α) : List α := l.foldl (fun acc a => insertBy le a acc) []

/-- Elements of a list without repeats, first occurrence kept. -/
def distinct {α : Type} [DecidableEq α] (l : List α) : List α :=
  l.foldl (fun acc a => if acc.contains a then acc else acc ++ [a]) []

/-- The place of the first element that satisfies `p`. -/
def findAt {α : Type} (p : α → Bool) (l : List α) : Option Nat := l.findIdx? p

/-! ### Bits and bytes (R2) -/

/-- Bits [lo + len - 1 : lo] of a natural number. -/
def bitsN (v lo len : Nat) : Nat := v / 2 ^ lo % 2 ^ len

/-- Bits of a word as a number. -/
def fieldN {n : Nat} (w : BitVec n) (lo len : Nat) : Nat := bitsN w.toNat lo len

/-- Bit `k` of a word. -/
def bitAt {n : Nat} (w : BitVec n) (k : Nat) : Bool := w.getLsbD k

/-- A word with bits [lo + len - 1 : lo] replaced. -/
def setField {n : Nat} (w : BitVec n) (lo len v : Nat) : BitVec n :=
  let m := BitVec.ofNat n ((2 ^ len - 1) * 2 ^ lo)
  (w &&& ~~~m) ||| (BitVec.ofNat n (v % 2 ^ len * 2 ^ lo))

/-- A word with one bit replaced. -/
def setBitTo {n : Nat} (w : BitVec n) (k : Nat) (b : Bool) : BitVec n := setField w k 1 b.toNat

/-- A 64-bit word from a number (R6). -/
def w64 (n : Nat) : W64 := BitVec.ofNat 64 n

/-- A 32-bit word from a number (R6). -/
def w32 (n : Nat) : W32 := BitVec.ofNat 32 n

/-- The number that bytes stand for, the lowest address first (R2). -/
def bytesNat : List Byte → Nat
  | [] => 0
  | b :: l => b.toNat + 256 * bytesNat l

/-- The n bytes of a number, the lowest address first (R2). -/
def natBytes : Nat → Nat → List Byte
  | 0, _ => []
  | n + 1, v => BitVec.ofNat 8 v :: natBytes n (v / 256)

/-! ### Memory: one list of cells in canonical form (R79, R83, R86, R91) -/

/-- One byte; a byte that the list does not hold reads 0 (log entry 2). -/
def memRead : List Host.Cell → Nat → Byte
  | [], _ => 0#8
  | (k, b) :: m, a => if a = k then b else memRead m a

/-- Writes one byte, keeping the canonical form: rising keys, no entry equal to what an unlisted byte reads as. -/
def memWrite : List Host.Cell → Nat → Byte → List Host.Cell
  | [], a, v => if v = 0#8 then [] else [(a, v)]
  | (k, b) :: m, a, v =>
    if a < k then (if v = 0#8 then (k, b) :: m else (a, v) :: (k, b) :: m)
    else if a = k then (if v = 0#8 then m else (a, v) :: m)
    else (k, b) :: memWrite m a v

/-- The canonical form: addresses strictly rising, no entry 0. -/
def Memory.wf : List Host.Cell → Bool
  | [] => true
  | [(_, b)] => b != 0#8
  | (k, b) :: (k', b') :: m => b != 0#8 && decide (k < k') && Memory.wf ((k', b') :: m)

/-- n bytes from a key, the lowest first. -/
def memBytes (m : List Host.Cell) : Nat → Nat → List Byte
  | _, 0 => []
  | a, n + 1 => memRead m a :: memBytes m (a + 1) n

/-- Writes bytes from a key on, the lowest first. -/
def memPut (m : List Host.Cell) : Nat → List Byte → List Host.Cell
  | _, [] => m
  | a, b :: l => memPut (memWrite m a b) (a + 1) l

/-- Clears bytes [a, a + n). -/
def memZero (m : List Host.Cell) (a n : Nat) : List Host.Cell := m.filter fun c => c.1 < a || a + n ≤ c.1

/-- The cells that lie in [a, a + n). -/
def memSlice (m : List Host.Cell) (a n : Nat) : List Host.Cell := m.filter fun c => a ≤ c.1 && c.1 < a + n

/-- Puts cells back at the keys they name. -/
def memCells (m : List Host.Cell) (cs : List Host.Cell) : List Host.Cell := cs.foldl (fun m c => memWrite m c.1 c.2) m

/-- The key of local HBM byte `pa`. -/
def hbmKey (pa : Nat) : Nat := pa

/-- The key of host memory byte `pa` (52 bits, R91). -/
def hostKey (pa : Nat) : Nat := 2 ^ 52 + pa

/-- The key of byte `o` of memory tile `t` of quire `q`, tiles numbered 4·(y div 2) + x div 2 (R10, R83). -/
def tileKey (q t o : Nat) : Nat := 2 ^ 53 + (q * 16 + t) * 2 ^ 22 + o

/-- The key of byte `o` of edge-store slice `n` (R86). -/
def sliceKey (n o : Nat) : Nat := 2 ^ 54 + n * 2 ^ 24 + o

/-- The number of the memory tile at (x, y). -/
def tileNo (x y : Nat) : Nat := 4 * (y / 2) + x / 2

/-- The key of byte `o` of the memory tile at a place. -/
def tileMem (t : TKey) (o : Nat) : Nat := tileKey t.q (tileNo t.x t.y) o

/-- n bytes of the machine's memory. -/
def State.bytes (s : State) (a n : Nat) : List Byte := memBytes s.mem a n

/-- n bytes as a number (R2). -/
def State.num (s : State) (a n : Nat) : Nat := bytesNat (s.bytes a n)

/-- Writes bytes; an uncorrectable error of a byte that is written is gone with the byte. -/
def State.put (s : State) (a : Nat) (l : List Byte) : State :=
  { s with mem := memPut s.mem a l, poison := s.poison.filter fun k => k < a || a + l.length ≤ k }

/-- Writes a number as n bytes (R2). -/
def State.putNum (s : State) (a n v : Nat) : State := s.put a (natBytes n v)

/-- Clears n bytes. -/
def State.zero (s : State) (a n : Nat) : State :=
  { s with mem := memZero s.mem a n, poison := s.poison.filter fun k => k < a || a + n ≤ k }

/-- A byte of [a, a + n) has an uncorrectable error (R179 row 7). -/
def State.poisoned (s : State) (a n : Nat) : Bool := s.poison.any fun k => a ≤ k && k < a + n

/-! ### Register contexts (R162, R164) -/

/-- x0 reads 0 (R137, R164). -/
def Ctx.rd (c : Ctx) (r : BitVec 5) : W64 := if r = 0#5 then 0#64 else c.x[r.toNat]

/-- A write to x0 is discarded (R164). -/
def Ctx.wr (c : Ctx) (r : BitVec 5) (v : W64) : Ctx := if r = 0#5 then c else { c with x := c.x.set r.toNat v }

/-- p0 reads 1 (R137, R164). -/
def Ctx.pr (c : Ctx) (k : BitVec 3) : Bool := if k = 0#3 then true else c.p[k.toNat]

/-- A write to p0 is discarded (R164). -/
def Ctx.pw (c : Ctx) (k : BitVec 3) (b : Bool) : Ctx := if k = 0#3 then c else { c with p := c.p.set k.toNat b }

/-- A context with another pc. -/
def Ctx.at (c : Ctx) (v : W64) : Ctx := { c with pc := v }

/-- p1 to p7 as the seven bits of PSAVE (R392). -/
def Ctx.psave (c : Ctx) : BitVec 7 :=
  (upTo 7).foldl (fun v k => setBitTo v k (c.pr (BitVec.ofNat 3 (k + 1)))) 0#7

/-- p1 to p7 from PSAVE (R392). -/
def Ctx.prestore (c : Ctx) (v : BitVec 7) : Ctx :=
  (upTo 7).foldl (fun c k => c.pw (BitVec.ofNat 3 (k + 1)) (bitAt v k)) c

/-! ### Quires, hardware threads and instances -/

/-- Quire of control thread n (R184: n = 8·quire + 2·core + HT). -/
def htQuire (n : Nat) : Nat := n / 8

/-- Index of the control core of control thread n, 4·quire + core. -/
def htCore (n : Nat) : Nat := n / 2

/-- The instance that has a SERIAL. -/
def State.inst? (s : State) (serial : Nat) : Option Inst := s.insts.find? fun i => i.serial == serial

/-- The instance with a SERIAL goes through `f`. -/
def State.modInst (s : State) (serial : Nat) (f : Inst → Inst) : State :=
  { s with insts := updWhere (fun i => i.serial == serial) f s.insts }

/-- An instance makes progress at a time (R401). -/
def Inst.progressed (v : W64) (i : Inst) : Inst := { i with lastProgress := v }

/-- An instance whose register context goes through `f`. -/
def Inst.mapCtx (f : Ctx → Ctx) (i : Inst) : Inst := { i with ctx := f i.ctx }

/-- The region of an instance makes progress: its timer starts again (R401). -/
def State.progress (s : State) (serial : Nat) : State := s.modInst serial (Inst.progressed s.nsec)

/-- The instance on control thread n. -/
def State.instOn (s : State) (n : Nat) : Option Inst := s.insts.find? fun i => i.hw == some n

/-- The instance on control thread n goes through `f`. -/
def State.modOn (s : State) (n : Nat) (f : Inst → Inst) : State :=
  { s with insts := updWhere (fun i => i.hw == some n) f s.insts }

/-- The bank of a control core. -/
def State.sup (s : State) (core : Nat) : SupBank := s.sups[core]?.getD SupBank.reset

def State.modSup (s : State) (core : Nat) (f : SupBank → SupBank) : State := { s with sups := updAt s.sups core f }

/-- The registers of a quire. -/
def State.quire (s : State) (q : Nat) : QuireRegs := s.quires[q]?.getD QuireRegs.reset

def State.modQuire (s : State) (q : Nat) (f : QuireRegs → QuireRegs) : State := { s with quires := updAt s.quires q f }

/-- Sets bit k of SEVENT of a quire (R354). -/
def State.event (s : State) (q k : Nat) : State := s.modQuire q fun r => { r with sevent := setBitTo r.sevent k true }

/-- A Trearo core. -/
def State.tcore (s : State) (k : Nat) : TCore := s.cores[k]?.getD TCore.reset

def State.modTcore (s : State) (k : Nat) (f : TCore → TCore) : State := { s with cores := updAt s.cores k f }

/-- A partition. -/
def State.part (s : State) (p : Nat) : Part := s.parts[p]?.getD Part.reset

def State.modPart (s : State) (p : Nat) (f : Part → Part) : State := { s with parts := updAt s.parts p f }

/-- A PCIe function; 0x100 names the physical function (R379). -/
def State.fn (s : State) (n : Nat) : Fn := s.fns[n]?.getD Fn.reset

def State.modFn (s : State) (n : Nat) (f : Fn → Fn) : State := { s with fns := updAt s.fns n f }

/-- An owner. -/
def State.owner (s : State) (o : Nat) : Owner := s.owners[o]?.getD Owner.reset

def State.modOwner (s : State) (o : Nat) (f : Owner → Owner) : State := { s with owners := updAt s.owners o f }

/-- Meter m of an owner counts n more, saturating at all ones (R420). -/
def State.meter (s : State) (o m n : Nat) : State :=
  s.modOwner o fun w => { w with meters := updAt w.meters m fun v => w64 (satAdd 64 v.toNat n) }

/-- The partition that a quire belongs to (R404). -/
def State.partOfQuire (s : State) (q : Nat) : Option Nat := findAt (fun p => bitAt p.quires q) s.parts

/-- The level of a hardware thread: 0 user, 1 supervisor, 2 machine (R352, R353). -/
def State.levelOf (s : State) : Hart → Nat
  | .ctl n => if (s.sup (htCore n)).active = some n then 1 else 0
  | .trearo k => (s.tcore k).level

/-- The level of the thread that executes. -/
def State.level (s : State) : Nat := s.levelOf s.cur

/-- The register context of a hardware thread at its level, if it has one: a control thread without an instance has no
user context. -/
def State.ctxOf (s : State) : Hart → Option Ctx
  | .ctl n =>
    if (s.sup (htCore n)).active = some n then some (s.sup (htCore n)).ctx else (s.instOn n).map Inst.ctx
  | .trearo k =>
    if (s.tcore k).level = 0 then some (s.tcore k).user
    else if (s.tcore k).level = 1 then some (s.tcore k).sup else some (s.tcore k).mach

/-- The context of the thread that executes. -/
def State.ctx? (s : State) : Option Ctx := s.ctxOf s.cur

/-- The thread that executes has a context of its own: an instance or the supervisor on a control thread, a core of the
package on a Trearo core. -/
def State.threaded (s : State) : Prop :=
  match s.cur with
  | .ctl _ => s.ctx?.isSome = true
  | .trearo k => k < s.cores.length

/-- The context of the thread that executes goes through `f`. -/
def State.modCtx (s : State) (f : Ctx → Ctx) : State :=
  match s.cur with
  | .ctl n =>
    if (s.sup (htCore n)).active = some n then s.modSup (htCore n) fun b => { b with ctx := f b.ctx }
    else s.modOn n (Inst.mapCtx f)
  | .trearo k =>
    s.modTcore k fun c =>
      if c.level = 0 then { c with user := f c.user }
      else if c.level = 1 then { c with sup := f c.sup } else { c with mach := f c.mach }

/-- xr of the thread that executes. -/
def State.rd (s : State) (r : BitVec 5) : W64 := (s.ctx?.map fun c => c.rd r).getD 0#64

/-- Writes xr of the thread that executes. -/
def State.wr (s : State) (r : BitVec 5) (v : W64) : State := s.modCtx fun c => c.wr r v

/-- pk of the thread that executes. -/
def State.pr (s : State) (k : BitVec 3) : Bool := (s.ctx?.map fun c => c.pr k).getD false

/-- Writes pk of the thread that executes. -/
def State.pw (s : State) (k : BitVec 3) (b : Bool) : State := s.modCtx fun c => c.pw k b

/-- pc of the thread that executes. -/
def State.pc (s : State) : W64 := (s.ctx?.map Ctx.pc).getD 0#64

def State.setPc (s : State) (v : W64) : State := s.modCtx fun c => c.at v

/-- The instance whose control thread executes: the one on the hardware thread, at user and at supervisor level alike
(log entry 16); a Trearo core has none. -/
def State.me (s : State) : Option Inst :=
  match s.cur with
  | .ctl n => s.instOn n
  | .trearo _ => none

/-- The instance whose control thread executes goes through `f`. -/
def State.modMe (s : State) (f : Inst → Inst) : State :=
  match s.cur with
  | .ctl n => s.modOn n f
  | .trearo _ => s

/-- Who a control-thread request is from: the instance's SERIAL, else a number of its own for the hardware thread. -/
def State.meId (s : State) : Nat :=
  match s.cur with
  | .ctl n => match s.instOn n with
    | some i => i.serial
    | none => 2 ^ 40 + n
  | .trearo k => 2 ^ 41 + k

/-- Who an access of the thread that executes is from: the instance at user level, else the hardware thread itself, whose posted
stores are its own and no instance's (R177). -/
def State.reqId (s : State) : Nat :=
  match s.cur with
  | .ctl n => if (s.sup (htCore n)).active = some n then 2 ^ 40 + n else s.meId
  | .trearo _ => s.meId

/-- An access of this number is from the thread that executes, at either of its levels (R109). -/
def State.mine (s : State) (id : Nat) : Bool :=
  match s.cur with
  | .ctl n => id == s.meId || id == 2 ^ 40 + n
  | .trearo _ => id == s.meId

/-- Registers that header field REGS allocates: 0 means 8, others round up to a granule of 8 (R20, R124, R158). -/
def Inst.regs (i : Inst) : Nat :=
  let n := fieldN i.header 48 8
  if n = 0 then 8 else (n + 7) / 8 * 8

/-! ### Answers of a word -/

/-- A trap: cause, subcause, address, CODE, imprecise mark, FRDETAIL, ORIGIN, and whether the resume address is the next
word (R356, R389). -/
structure Trap where
  cause : Nat
  sub : Nat
  addr : W64
  code : Nat
  imp : Bool
  detail : W64
  origin : Nat
  next : Bool
  deriving DecidableEq, Repr

/-- A precise trap with no address (R163). -/
def trapOf (cause sub : Nat) : Trap := ⟨cause, sub, 0#64, 0, false, 0#64, 0, false⟩

/-- A precise trap that names an address. -/
def trapAt (cause sub : Nat) (a : W64) : Trap := ⟨cause, sub, a, 0, false, 0#64, 0, false⟩

/-- What a stalled word waits for: the registration of R221. `none`: the wait is in no table (R211, R362). -/
structure WaitFor where
  kind : Nat
  obj : Nat
  tok : Option (Pool × Nat)
  deriving DecidableEq, Repr

/-- Where a word that completes leaves pc: the next word, a target, or what the word has set itself. -/
inductive Flow where
  | next
  | to (pc : W64)
  | stay
  deriving DecidableEq, Repr

/-- What part of a word answers: a value, a trap, or a stall. A trap and a stall leave the state as it was but for
translations and requests (R163). -/
inductive Ans (α : Type) where
  | ok (a : α) (s : State)
  | trap (t : Trap) (s : State)
  | wait (w : Option WaitFor) (s : State)

/-- Goes on with the value. -/
def Ans.bind {α β : Type} (x : Ans α) (f : α → State → Ans β) : Ans β :=
  match x with
  | .ok a s => f a s
  | .trap t s => .trap t s
  | .wait w s => .wait w s

/-! ### Taking a trap -/

/-- FRUNIT of a unit (R389). -/
def unitWord (folio x y slot op q : Nat) : W64 :=
  w64 (folio % 256 + x % 8 * 2 ^ 8 + y % 8 * 2 ^ 11 + slot % 64 * 2 ^ 14 + op % 256 * 2 ^ 20 + q % 32 * 2 ^ 32)

/-- Folio, tile y, tile x and slot of a FRUNIT, in the order in which R255 prefers them. -/
def unitRank (u : W64) : Nat :=
  fieldN u 0 8 * 2 ^ 12 + fieldN u 11 3 * 2 ^ 9 + fieldN u 8 3 * 2 ^ 6 + fieldN u 14 6

/-- Writes a record; while V = 1, a unit's fault of the same cycle counts in PEERS, the lowest unit keeping the record,
and every other fault counts in MORE (R255, R389, R390). -/
def FaultRec.note (r new : FaultRec) : FaultRec :=
  if r.v then
    if r.origin = 1#2 ∧ new.origin = 1#2 ∧ r.cyc = new.cyc then
      if unitRank new.unitId < unitRank r.unitId then { new with v := true, more := r.more, peers := r.peers + 1 }
      else { r with peers := r.peers + 1 }
    else { r with more := BitVec.ofNat 16 (satAdd 16 r.more.toNat 1) }
  else { new with v := true, more := 0#16 }

/-- The record of a control-thread trap (R389). -/
def Trap.record (t : Trap) (pc nsec : W64) : FaultRec :=
  { FaultRec.reset with
    cause := BitVec.ofNat 8 t.cause, sub := BitVec.ofNat 8 t.sub, imp := t.imp, origin := BitVec.ofNat 2 t.origin,
    pc := pc, addr := t.addr, detail := t.detail, time := nsec }

/-- Causes that R387 marks "user" for the control thread: ALIGN, XLAT, PERM, BOUND, BRK, TAGFAIL, DEADLOCK, WTFULL,
WATCHDOG, ECC, REMOTE. -/
def delegable : List Nat := [0x03, 0x04, 0x05, 0x06, 0x0A, 0x0B, 0x0D, 0x0E, 0x0F, 0x12, 0x13]

/-- The instance's own handler takes the trap (R391, R392). A WATCHDOG during an exit goes to the firmware (R358). -/
def Inst.takesUser (i : Inst) (t : Trap) : Bool :=
  delegable.contains t.cause && bitAt i.utmask t.cause && !i.uinh && !(t.cause == 0x0F && i.exiting)

/-- The trap registers after entry (R356). -/
def TrapRegs.enter (r : TrapRegs) (t : Trap) (level : Nat) (pc : W64) (serial : Nat) : TrapRegs :=
  { r with
    pl := BitVec.ofNat 2 level, inh := true,
    epc := if t.next then pc + 4#64 else pc,
    cause := w64 (t.cause % 256 + t.sub % 256 * 2 ^ 8 + t.imp.toNat * 2 ^ 16),
    addr := t.addr,
    info := w64 (serial % 2 ^ 32 + t.code % 2 ^ 11 * 2 ^ 32) }

/-- A wait-for entry that the hardware made ends with its stall (R229). -/
def State.dropAuto (s : State) (serial : Nat) : State :=
  { s with waits := s.waits.filter fun w => !(w.waiter == Party.thread serial && !w.sw) }

/-- The requests that the thread that executes made while its word stalled are gone. -/
def State.dropAsks (s : State) : State :=
  { s with blocked := false, remotes := s.remotes.filter fun r => r.posted || r.serial != s.reqId }

/-- The supervisor of a core waits, or waits no more, while control thread n is at supervisor level there. -/
def SupBank.waits (n : Nat) (w : Bool) (b : SupBank) : SupBank := if b.active = some n then { b with wait := w } else b

/-- A stalled instance waits no more. -/
def Inst.resume (i : Inst) : Inst := { i with stall := none }

/-- The stall of the thread that executes ends: its automatic entry and the requests it made on the way are gone. -/
def State.endStall (s : State) : State :=
  match s.cur with
  | .ctl n =>
    match s.instOn n with
    | some i =>
      if i.stall.isSome then
        ((s.dropAsks.modSup (htCore n) (SupBank.waits n false)).modInst i.serial Inst.resume).dropAuto i.serial
      else s.dropAsks.modSup (htCore n) (SupBank.waits n false)
    | none => s.dropAsks.modSup (htCore n) (SupBank.waits n false)
  | .trearo _ => s.dropAsks

/-- A word leaves no effect and its thread waits to issue it again. -/
def State.hold (s : State) : State :=
  match s.cur with
  | .ctl n => { s.modSup (htCore n) (SupBank.waits n true) with blocked := true }
  | .trearo _ => { s with blocked := true }

/-- An uncorrectable error that is met counts in MECC and sets MEVENT.ECC (R439). -/
def State.noteEcc (s : State) (cause : Nat) : State :=
  if cause = 0x12 then
    { s with sys := { s.sys with mecc := setField s.sys.mecc 32 32 (satAdd 32 (fieldN s.sys.mecc 32 32) 1),
                                 mevent := setBitTo s.sys.mevent 2 true } }
  else s

/-- Takes a trap of the thread that executes: the fault record first, then the user handler, the supervisor or the
machine level (R356, R391, R392); `sys 0` puts an exit in progress (R358). Entry to supervisor level waits while the core's other thread is there (R353); a trap
inside a handler stops the thread (R356, R400). -/
def takeTrap (s0 : State) (t : Trap) : State :=
  let s := s0.noteEcc t.cause
  match s0.cur with
  | .ctl n =>
    let core := htCore n
    let b := s.sup core
    if b.active = some n then
      let s := s.endStall
      if b.regs.inh then s.modQuire (htQuire n) fun r => { r with shung := setBitTo r.shung (n % 8) true }
      else s.modSup core fun b =>
        { b with regs := b.regs.enter t 1 b.ctx.pc 0, ctx := { b.ctx with pc := b.regs.tvec } }
    else
      match s.instOn n with
      | none => s0
      | some i =>
        if i.takesUser t then
          s.endStall.modInst i.serial fun i =>
            { i with
              fault := i.fault.note (t.record i.ctx.pc s.nsec),
              uepc := (if t.next then i.ctx.pc + 4#64 else i.ctx.pc) &&& ~~~3#64, usave := i.ctx.psave, uinh := true,
              ctx := { i.ctx with pc := i.utvec } }
        else if b.active.isSome then s0.hold
        else
          let s := s.endStall.modInst i.serial fun i =>
            if t.cause = 0x15 then { i with exiting := i.exiting || t.code == 0 }
            else { i with fault := i.fault.note (t.record i.ctx.pc s.nsec), state := .faulted, yieldReq := false }
          if b.regs.inh then s.modQuire (htQuire n) fun r => { r with shung := setBitTo r.shung (n % 8) true }
          else s.modSup core fun b =>
            { b with
              regs := b.regs.enter t 0 i.ctx.pc i.serial,
              ctx := { b.ctx with pc := b.regs.tvec }, active := some n }
  | .trearo k =>
    let c := s.tcore k
    let s := s.endStall
    let toSup := c.level < 2 && t.cause < 64 && bitAt c.deleg t.cause
    if (if toSup then c.s.inh else c.m.inh) then s.modTcore k fun c => { c with hung := true }
    else s.modTcore k fun c =>
      let pc := if c.level = 0 then c.user.pc else if c.level = 1 then c.sup.pc else c.mach.pc
      if toSup then { c with s := c.s.enter t c.level pc 0, sup := { c.sup with pc := c.s.tvec }, level := 1 }
      else { c with m := c.m.enter t c.level pc 0, mach := { c.mach with pc := c.m.tvec }, level := 2 }

/-- Returns from a trap to XEPC at the saved level (R360). -/
def trapReturn (s : State) : State :=
  match s.cur with
  | .ctl n =>
    let core := htCore n
    let b := s.sup core
    if b.regs.pl = 0#2 then
      let s := s.modSup core fun b => { b with regs := { b.regs with inh := false }, active := none, wait := false }
      let back := fun i : Inst =>
        { i with ctx := { i.ctx with pc := b.regs.epc }, state := if i.state = .faulted then .run else i.state }
      s.modOn n back
    else s.modSup core fun b => { b with regs := { b.regs with inh := false }, ctx := { b.ctx with pc := b.regs.epc } }
  | .trearo k =>
    s.modTcore k fun c =>
      let x := if c.level = 2 then c.m else c.s
      let c := if c.level = 2 then { c with m := { c.m with inh := false } } else { c with s := { c.s with inh := false } }
      let l := x.pl.toNat
      if l = 0 then { c with level := 0, user := { c.user with pc := x.epc } }
      else if l = 1 then { c with level := 1, sup := { c.sup with pc := x.epc } }
      else { c with level := 2, mach := { c.mach with pc := x.epc } }

/-! ### Arithmetic of the control thread (R71, R165) -/

/-- High half of the signed product. -/
def mulHigh (a b : W64) : W64 := BitVec.ofInt 64 (a.toInt * b.toInt / 2 ^ 64)

/-- High half of the unsigned product. -/
def mulHighU (a b : W64) : W64 := w64 (a.toNat * b.toNat / 2 ^ 64)

/-- Signed quotient truncated toward zero: all ones for a zero divisor, MIN for MIN by -1 (R165). -/
def divS (a b : W64) : W64 := if b = 0#64 then BitVec.allOnes 64 else BitVec.ofInt 64 (a.toInt.tdiv b.toInt)

/-- Unsigned quotient (R165). -/
def divU (a b : W64) : W64 := if b = 0#64 then BitVec.allOnes 64 else w64 (a.toNat / b.toNat)

/-- Signed remainder, r = a - q·b (R165). -/
def remS (a b : W64) : W64 := if b = 0#64 then a else a - divS a b * b

/-- Unsigned remainder (R165). -/
def remU (a b : W64) : W64 := if b = 0#64 then a else w64 (a.toNat % b.toNat)

/-- The shift amount xb[5:0] (R165). -/
def shiftOf (b : W64) : Nat := b.toNat % 64

end Sys2Proof.Machine
end

