-- ==== Sys2Proof/Machine/Access.lean ====
section
/-!
DEFINITION. Where an address leads and what an access to it does: the classification of R88 and R89, the walk of R380 to
R384, the fence checks of R407 and R408, sealed tiles (R414, R415), and the loads, stores and fetches of a control thread
(R176, R177, R179).
-/

namespace Sys2Proof.Machine

/-! ### Who asks, and for what -/

/-- The context of a request: its partition, whether it is a user access, the region that the tile window shows, the quire
it leaves from, and the owner for which it counts, if any (R420). -/
structure Who where
  part : Nat
  user : Bool
  region : List (Nat × Nat)
  quire : Nat
  owner : Option Nat
  deriving DecidableEq, Repr

/-- Requests of an instance's engines, token-unit rows and attention pipeline are user accesses of its partition. -/
def Inst.who (i : Inst) : Who := ⟨i.part, true, i.region, (i.region.head?.map Prod.fst).getD 0, some i.owner⟩

/-- Accesses that the device makes for an instance (save areas, records, images) are supervisor accesses of its
partition (log entry 17). -/
def Inst.device (i : Inst) : Who := { i.who with user := false }

/-- What an access needs of its page (R382). -/
structure Acc where
  r : Bool
  w : Bool
  x : Bool
  deriving DecidableEq, Repr

def Acc.load : Acc := ⟨true, false, false⟩
def Acc.store : Acc := ⟨false, true, false⟩
def Acc.both : Acc := ⟨true, true, false⟩
def Acc.fetch : Acc := ⟨false, false, true⟩

/-- Where an address leads: a byte of a window's tile or slice, local HBM (through a SEAL page or not), host memory, or
a peer package. -/
inductive Place where
  | win (pool : Pool) (o : Nat)
  | hbm (pa : Nat) (sealed : Bool)
  | host (pa : Nat)
  | peer (pkg pa : Nat)
  deriving DecidableEq, Repr

/-- The memory key of byte `o` of a pool. -/
def Pool.mem (p : Pool) (o : Nat) : Nat :=
  match p with
  | .tile t => tileMem t o
  | .slice n => sliceKey n o
  | .cache _ => hbmKey o

/-! ### Partitions and slices (R86, R404, R406, R410) -/

/-- Scratch slices of a partition in ascending package slice number (R86). -/
def State.scratch (s : State) (p : Nat) : List Nat :=
  (upTo 64).filter fun n => bitAt (s.part p).slices n && !bitAt s.sys.srole n

/-- Cache slices of a partition in ascending package slice number (R410). -/
def State.caches (s : State) (p : Nat) : List Nat :=
  (upTo 64).filter fun n => bitAt (s.part p).slices n && bitAt s.sys.srole n

/-- The cache hash of R410. -/
def cacheHash (pa : Nat) : Nat := (bitsN pa 12 16).xor ((bitsN pa 28 16).xor (bitsN pa 44 8))

/-- The cache slice that serves an HBM address for a partition (R92, R410). -/
def State.cachePool (s : State) (p pa : Nat) : Pool :=
  let own := s.caches p
  .cache (own[cacheHash pa % own.length]?.getD 64)

/-- An HBM range of MPRANGE or MTRANGE holds an address (R406, R423). -/
def rangeHas (r : W64) (pa : Nat) : Bool :=
  bitAt r 0 && decide (fieldN r 1 31 ≤ pa / 2 ^ 21) && decide (pa / 2 ^ 21 ≤ fieldN r 32 31)

/-- A physical address belongs to a partition; the carve-out belongs to none (R406). DESIGN CHOICE: it is the top of HBM (log
entry 95). -/
def State.owns (s : State) (p pa : Nat) : Bool :=
  decide (pa < Config.hbmBytes - Config.carveOut) && (s.part p).ranges.any fun r => rangeHas r pa

/-- A tunnel of a kind (0 MEM, 1 PATH) is in force from a partition (R409, R423). -/
def Tunnel.joins (t : Tunnel) (kind src : Nat) : Bool := bitAt t.cfg 0 && fieldN t.cfg 1 1 == kind && fieldN t.cfg 2 5 == src

/-- The fence check of a request to local HBM (R407). -/
def State.fencePass (s : State) (p pa : Nat) : Bool :=
  decide (pa < Config.hbmBytes) &&
    (s.owns p pa || s.tunnels.any fun t => t.joins 0 p && rangeHas t.range pa && s.owns (fieldN t.cfg 7 5) pa)

/-- A dropped packet is counted, and the first raises FENCE at the next boundary (R408). `a`: the request's address, 0
for a token. -/
def State.fenceDrop (s : State) (p : Nat) (a : W64) : State :=
  let m := s.sys.mflog
  let n := satAdd 32 (fieldN m 0 32) 1
  let m := setField (setField (setField m 0 32 n) 32 5 p) 37 9 (Config.fenceRouter s.free % Config.fenceRouters)
  { s with sys := { s.sys with mflog := setBitTo m 46 true, mfaddr := a },
           fenceRaise := s.fenceRaise || !bitAt s.sys.mflog 46, free := s.free + 1 }

/-- Bytes of HBM that moved for an owner: each access in whole units of 64 bytes (R420; log entry 96). -/
def State.hbmMoved (s : State) (owner : Option Nat) (n : Nat) : State :=
  match owner with
  | some o => s.meter o 15 ((n + 63) / 64)
  | none => s

/-! ### Confidential partitions (R413, R416, R417) -/

/-- A partition is confidential (R413). -/
def Part.conf (p : Part) : Bool := bitAt p.mccfg 0

/-- Quires of a rectangle of MCCFG: first and last package row, first and last column, from bit `lo` on (R423). -/
def rectangle (cfg : W64) (lo : Nat) : List Nat :=
  (upTo Config.quires).filter fun q =>
    decide (fieldN cfg lo 3 ≤ q / 4 ∧ q / 4 ≤ fieldN cfg (lo + 3) 3 ∧ fieldN cfg (lo + 6) 2 ≤ q % 4 ∧ q % 4 ≤ fieldN cfg (lo + 8) 2)

/-- What goes between two quires goes between the two parts of a confidential partition, so it is sealed (R416). -/
def Part.crosses (a : Part) (q r : Nat) : Bool :=
  a.conf && bitAt a.mccfg 11 && (rectangle a.mccfg 1).contains q != (rectangle a.mccfg 1).contains r

/-- The sealed channel of a source router, a kind and a generation. -/
def Part.chan (a : Part) (router kind gen : Nat) : TransitChan :=
  (a.chans.find? fun c => c.router == router && c.kind == kind && c.gen == gen).getD ⟨router, kind, gen, 0, 0⟩

def Part.setChan (a : Part) (c : TransitChan) : Part :=
  { a with chans := c :: a.chans.filter fun d => !(d.router == c.router && d.kind == c.kind && d.gen == c.gen) }

/-- The fence router of its part that seals what goes from a quire toward one of the other part (R7, R416; log entry 14). -/
def Part.source (a : Part) (q r : Nat) : Nat :=
  let part := (upTo Config.quires).filter fun x => (rectangle a.mccfg 1).contains x == (rectangle a.mccfg 1).contains q && bitAt a.quires x
  let n := Config.transitRouter q r
  Config.fencePerQuire * ((part[n / Config.fencePerQuire % part.length]?).getD (q % Config.quires)) + n % Config.fencePerQuire

/-- The source router has used up its numbers for a kind of packet while a switch is BUSY: it sends no more of them (R417). -/
def Part.spent (a : Part) (router kind : Nat) : Bool :=
  a.retiring.isSome && decide (2 ^ 32 - 1 ≤ (a.chan router kind a.gen.toNat).sent)

/-- A switch (R417): the next generation is current, the old one retires; ignored while one retires. -/
def State.switchKey (s : State) (p : Nat) : State :=
  let a := s.part p
  if !a.conf || a.retiring.isSome then s
  else
    { s.modPart p fun a => { a with gen := a.gen + 1, retiring := some a.gen, tkey := s.nextKey, tkeyOld := a.tkey } with
        nextKey := s.nextKey + 1 }

/-- The transit key of a generation that is held (R417). -/
def Part.transitKey (a : Part) (gen : Nat) : Option Nat :=
  if gen = a.gen.toNat then some a.tkey else if a.retiring.map BitVec.toNat = some gen then some a.tkeyOld else none

/-- The IV of a sealed packet (R416): number, source fence router, kind, partition, generation. -/
def transitIv (part router kind gen seq : Nat) : BitVec 96 :=
  BitVec.ofNat 96 (seq % 2 ^ 32 + router % 2 ^ 9 * 2 ^ 32 + kind % 4 * 2 ^ 41 + part % 32 * 2 ^ 43 + gen % 2 ^ 16 * 2 ^ 48)

/-- A source numbers its next packet; a sequence that has reached 2^31 starts a switch, unless one is BUSY (R416, R417). Answers
the number. -/
def State.number (s : State) (p router kind : Nat) : Nat × State :=
  let c := (s.part p).chan router kind (s.part p).gen.toNat
  let s := s.modPart p fun a => a.setChan { c with sent := c.sent + 1 }
  (c.sent, if 2 ^ 31 ≤ c.sent + 1 then s.switchKey p else s)

/-- A channel's destination has opened a packet under its number: it expects the next (R416). -/
def State.opened (s : State) (p router kind gen n : Nat) : State :=
  s.modPart p fun a => a.setChan { a.chan router kind gen with seq := n + 1 }

/-- A request from one quire to another and its completion, each sealed at its source and opened at its destination where it
crosses between parts (R416). -/
def State.crossing (s : State) (p q r : Nat) : State :=
  if (s.part p).crosses q r then
    let one (s : State) (a b kind : Nat) : State :=
      let gen := (s.part p).gen.toNat
      let router := (s.part p).source a b
      let n := s.number p router kind
      n.2.opened p router kind gen n.1
    one (one s q r 1) r q 2
  else s

/-- The quire in which a window's memory stands. -/
def Pool.quire? (p : Pool) : Option Nat :=
  match p with
  | .tile t => some t.q
  | _ => none

/-- An access to a window crosses between parts (R416). -/
def State.crossesTo (s : State) (w : Who) (pool : Pool) : Bool := (pool.quire?.map ((s.part w.part).crosses w.quire)).getD false

/-- An access to a window whose request or completion its source router cannot number until a switch completes: it waits (R417). -/
def State.keyHeld (s : State) (w : Who) (pool : Pool) : Bool :=
  match pool.quire? with
  | some q =>
    let a := s.part w.part
    a.crosses w.quire q && (a.spent (a.source w.quire q) 1 || a.spent (a.source q w.quire) 2)
  | none => false

/-- The packets of an access to a window (R416). -/
def State.sealedTo (s : State) (w : Who) (pool : Pool) : State :=
  match pool.quire? with
  | some q => s.crossing w.part w.quire q
  | none => s

/-! ### What a sealed tile stores (R414) -/

/-- The IV of a sealed tile (R414). -/
def sealIv (part ver tile : Nat) : BitVec 96 :=
  BitVec.ofNat 96 (tile % 2 ^ 40 + ver % 2 ^ 32 * 2 ^ 40 + part % 32 * 2 ^ 72)

/-- The authenticated data of a sealed tile (R414). -/
def sealAad (part ver tile : Nat) : BitVec 128 :=
  BitVec.ofNat 128 (part % 2 ^ 8 + tile % 2 ^ 40 * 2 ^ 8 + ver % 2 ^ 32 * 2 ^ 48)

/-- The stored bytes of a sealed tile are ciphertext: what an access that opens nothing reads there. -/
def cipherOf (e : Seal) (a : Nat) (b : Byte) : Byte := b ^^^ Config.keyStream e.key (sealIv e.part e.ver.toNat e.tile) (a % 4096)

/-- The seal of the tile that holds an HBM address. -/
def State.sealAt (s : State) (pa : Nat) : Option Seal := s.seals.find? fun e => e.tile == pa / 4096

/-- n bytes of HBM as an access that opens no seal reads them. -/
def State.rawBytes (s : State) (pa n : Nat) : List Byte :=
  (upTo n).map fun k =>
    match s.sealAt (pa + k) with
    | some e => cipherOf e (pa + k) (memRead s.mem (hbmKey (pa + k)))
    | none => memRead s.mem (hbmKey (pa + k))

/-! ### Translation (R380 to R384) -/

/-- How a walk ends: a leaf with its page size, or a fault. -/
inductive WalkEnd where
  | leaf (e : W64) (size : Nat)
  | fail (cause sub : Nat)
  deriving DecidableEq, Repr

/-- The fields a pointer entry must leave 0 (R381, R382 row 3). -/
def pointerOk (l : Nat) (e : W64) : Bool := l != 0 && fieldN e 2 10 == 0 && fieldN e 52 12 == 0

/-- Bytes of the page of a leaf (R381). -/
def leafSize (l : Nat) (e : W64) : Nat := 4096 * 512 ^ l * (if bitAt e 2 then 16 else 1)

/-- A leaf whose fields R381 and R382 row 3 allow. PEER must be 0 unless TGT is 2 (log entry 18). -/
def leafOk (l : Nat) (e : W64) : Bool :=
  decide (l ≤ 2) && fieldN e 10 2 == 0 && fieldN e 7 2 != 3 && !(bitAt e 9 && fieldN e 7 2 != 0) &&
    (fieldN e 7 2 == 2 || fieldN e 52 12 == 0) && fieldN e 12 40 * 4096 % leafSize l e == 0

/-- The walk from one table on: rows 2 to 5 of R382. -/
def State.walkFrom (s : State) (va : Nat) : List Nat → Nat → WalkEnd
  | [], _ => .fail 0x04 0x03
  | l :: ls, table =>
    let i := va / 2 ^ (12 + 9 * l) % 512
    let a := table + 8 * i
    if s.poisoned (hbmKey a) 8 then .fail 0x12 0x01
    else
      let e := w64 (bytesNat (s.rawBytes a 8))
      if !bitAt e 0 then .fail 0x04 0x02
      else if !bitAt e 1 then
        if pointerOk l e then s.walkFrom va ls (fieldN e 12 40 * 4096) else .fail 0x04 0x03
      else if !leafOk l e then .fail 0x04 0x03
      else if bitAt e 2 then
        let g := table + 8 * (i / 16 * 16)
        if (upTo 16).any fun k => !s.poisoned (hbmKey (g + 8 * k)) 8 && bytesNat (s.rawBytes (g + 8 * k) 8) != e.toNat then
          .fail 0x04 0x04
        else if s.poisoned (hbmKey g) 128 then .fail 0x12 0x01
        else .leaf e (leafSize l e)
      else .leaf e (leafSize l e)

/-- The whole walk of a virtual address in a partition, row 1 of R382 included. -/
def State.walk (s : State) (p va : Nat) : WalkEnd :=
  let root := (s.part p).root
  if bitAt root 0 then s.walkFrom va [4, 3, 2, 1, 0] (fieldN root 12 40 * 4096) else .fail 0x04 0x02

/-- Rows 6 to 9 of R382: the subcause of the first permission that fails. -/
def permFault (e : W64) (user : Bool) (a : Acc) : Option Nat :=
  if user && !bitAt e 6 then some 0x04
  else if a.x && !bitAt e 5 then some 0x03
  else if a.r && !bitAt e 3 then some 0x01
  else if a.w && !bitAt e 4 then some 0x02
  else none

/-- A cached translation covers an address (R383). -/
def Trans.covers (t : Trans) (p va : Nat) : Bool := t.part == p && t.va == va / t.size * t.size

/-- The walk of an access, counted in XWALK, and among its faults when the walk or a permission stops it (R382, R386);
its result cached when it ends at a leaf (R383). -/
def State.walkCached (s : State) (p va : Nat) (user : Bool) (a : Acc) : WalkEnd × State :=
  match s.walk p va with
  | .leaf e n =>
    let t : Trans := ⟨p, va / n * n, n, e⟩
    let bad := (permFault e user a).isSome
    (.leaf e n, { s.modPart p (fun q => { q with walks := satInc32 q.walks,
                                                 faults := if bad then satInc32 q.faults else q.faults }) with
                    tlb := if s.tlb.contains t then s.tlb else t :: s.tlb })
  | .fail c b => (.fail c b, s.modPart p fun q => { q with walks := satInc32 q.walks, faults := satInc32 q.faults })

/-- The translation an access uses: a cached one, or a walk (R383, R384: free choice; log entry 8). -/
def State.translation (s : State) (p va : Nat) (user : Bool) (a : Acc) : WalkEnd × State :=
  let hits := s.tlb.filter fun t => t.covers p va
  match hits with
  | [] => s.walkCached p va user a
  | hits =>
    match hits[Config.useCached s.free]? with
    | some t => (.leaf t.leaf t.size, { s with free := s.free + 1 })
    | none => ({ s with free := s.free + 1 } : State).walkCached p va user a

/-- The place a leaf gives an address (R381). -/
def leafPlace (e : W64) (size va : Nat) : Place :=
  let pa := fieldN e 12 40 * 4096 + va % size
  match fieldN e 7 2 with
  | 0 => .hbm pa (bitAt e 9)
  | 1 => .host pa
  | _ => .peer (fieldN e 52 12) pa

/-- Translates an address of a partition, with the permission checks of the access. -/
def State.translate (s : State) (w : Who) (a : Acc) (va : W64) : Ans Place :=
  match s.translation w.part (va.toNat % 2 ^ 57) w.user a with
  | (.fail c b, s) => .trap (trapAt c b va) s
  | (.leaf e n, s) =>
    match permFault e w.user a with
    | some b => .trap (trapAt 0x05 b va) s
    | none => .ok (leafPlace e n (va.toNat % 2 ^ 57)) s

/-- The memory tile that tile-window index t names in a region (R89). -/
def regionTile (region : List (Nat × Nat)) (t : Nat) : Option TKey :=
  region[t / 4]?.map fun (q, slot) =>
    ⟨q, 1 + 2 * (t % 2) + 4 * (slot % 2), 1 + 2 * (t % 4 / 2) + 4 * (slot / 2)⟩

/-- A[63:57] all equal to A[56] (R88). -/
def canonical (va : W64) : Bool := fieldN va 56 8 == 0 || fieldN va 56 8 == 255

/-- Rows 2 to 5 of R179: the classification of R88 and R89, then translation. -/
def State.resolve (s : State) (w : Who) (a : Acc) (va : W64) : Ans Place :=
  if !canonical va then .trap (trapAt 0x04 0x01 va) s
  else if bitAt va 56 then
    if w.user then .trap (trapAt 0x05 0x05 va) s else s.translate w a va
  else if fieldN va 31 33 == 0x1E00000 then
    if a.x then .trap (trapAt 0x05 0x03 va) s
    else match regionTile w.region (fieldN va 22 9) with
      | some t => .ok (.win (.tile t) (fieldN va 0 22)) s
      | none => .trap (trapAt 0x06 0x04 va) s
  else if fieldN va 30 34 == 0x3C40000 then
    if a.x then .trap (trapAt 0x05 0x03 va) s
    else match (s.scratch w.part)[fieldN va 24 6]? with
      | some n => .ok (.win (.slice n) (fieldN va 0 24)) s
      | none => .trap (trapAt 0x06 0x04 va) s
  else if fieldN va 48 8 == 0xF0 || fieldN va 48 8 == 0xF1 then .trap (trapAt 0x06 0x04 va) s
  else s.translate w a va

/-- A Trearo core's addresses are physical addresses of local HBM, carve-out included (R406; DESIGN CHOICE, log entry
19); it has no region, so its window addresses are beyond every window. -/
def State.physical (s : State) (va : W64) : Ans Place :=
  if !canonical va then .trap (trapAt 0x04 0x01 va) s
  else if fieldN va 48 8 == 0xF0 || fieldN va 48 8 == 0xF1 then .trap (trapAt 0x06 0x04 va) s
  else if va.toNat < Config.hbmBytes then .ok (.hbm va.toNat false) s
  else .trap (trapAt 0x04 0x02 va) s

/-! ### Sealed data tiles (R413 to R415) -/

/-- A tile can be sealed by a partition: it is confidential and the tile lies in MCSPAN (R414, R423). -/
def Part.canSeal (p : Part) (pa : Nat) : Bool :=
  p.conf && decide (fieldN p.mcspan 1 31 ≤ pa / 2 ^ 21) && decide (pa / 2 ^ 21 ≤ fieldN p.mcspan 32 31)

/-- Where the tag of a tile is stored (R414, R423). -/
def Part.tagAddr (p : Part) (tile : Nat) : Nat := fieldN p.mctag 12 40 * 4096 + 16 * (tile - fieldN p.mcspan 1 31 * 512)

/-- The tile's tag opens under the partition's memory key and a version (R415): it was sealed so, and the tag stored for it is
the one it was given. -/
def State.tagOk (s : State) (p ver pa : Nat) : Bool :=
  (s.part p).canSeal pa &&
    s.seals.any fun e => e.tile == pa / 4096 && some e.key == (s.part p).key && e.ver.toNat == ver && e.part == p &&
      bytesNat (s.rawBytes ((s.part p).tagAddr e.tile) 16) == e.tag.toNat

/-- The tile at `pa`, whose plaintext stands in memory, is sealed under a key and a version, and its tag stored (R414). -/
def State.sealTile (s : State) (p k ver pa : Nat) : State :=
  let t := pa / 4096
  let tag := Config.gcmTag k (sealIv p ver t) (sealAad p ver t) (s.bytes (hbmKey (t * 4096)) 4096)
  { s.put (hbmKey ((s.part p).tagAddr t)) (natBytes 16 tag.toNat) with
      seals := ⟨t, k, BitVec.ofNat 32 ver, p, tag⟩ :: s.seals.filter fun e => e.tile != t }

/-- A sealed tile of which a part was written is sealed again under its version (R415). -/
def State.reseal (s : State) (p pa : Nat) : State :=
  match s.sealAt pa with
  | some e => s.sealTile p e.key e.ver.toNat pa
  | none => s

/-- The bytes of a tile become what is stored there, and its tag is that of no tile any more. -/
def State.breakSeal (s : State) (tile : Nat) : State :=
  match s.sealAt (tile * 4096) with
  | none => s
  | some _ =>
    let raw := s.rawBytes (tile * 4096) 4096
    { s with mem := memPut s.mem (hbmKey (tile * 4096)) raw, seals := s.seals.filter fun e => e.tile != tile }

/-- Reads HBM: TAGFAIL, then ECC, then the bytes (R179 rows 6 and 7). -/
def State.hbmRead (s : State) (p ver : Nat) (sealed : Bool) (pa n : Nat) : Except (Nat × Nat) (List Byte) :=
  if sealed && !s.tagOk p ver pa then .error (0x0B, 0)
  else if s.poisoned (hbmKey pa) n then .error (0x12, 0x02)
  else .ok (if sealed then s.bytes (hbmKey pa) n else s.rawBytes pa n)

/-- Writes HBM inside one tile. Through a SEAL page a whole-tile write seals the tile under its own version and a partial
write needs the tag of that version and seals the merged tile under it (R415). -/
def State.hbmWrite (s : State) (p ver : Nat) (sealed : Bool) (pa : Nat) (l : List Byte) : Except (Nat × Nat) State :=
  if sealed then
    if l.length = 4096 then
      match (s.part p).key with
      | some k => if (s.part p).canSeal pa then .ok ((s.put (hbmKey pa) l).sealTile p k ver pa) else .error (0x0B, 0)
      | none => .error (0x0B, 0)
    else if s.tagOk p ver pa then .ok ((s.put (hbmKey pa) l).reseal p pa)
    else .error (0x0B, 0)
  else .ok ((s.breakSeal (pa / 4096)).put (hbmKey pa) l)

/-! ### Accesses of a control thread (R176, R177, R179) -/

/-- The context of the accesses of the thread that executes. -/
def State.who (s : State) : Who :=
  match s.cur with
  | .ctl n =>
    ⟨(s.partOfQuire (htQuire n)).getD 0, s.level == 0, ((s.instOn n).map Inst.region).getD [], htQuire n, s.me.map Inst.owner⟩
  | .trearo _ => ⟨0, false, [], 0, none⟩

/-- Rows 2 to 5 of R179 for the thread that executes. -/
def State.locate (s : State) (a : Acc) (va : W64) : Ans Place :=
  match s.cur with
  | .ctl _ => s.resolve s.who a va
  | .trearo _ => s.physical va

/-- The fence check of the thread's request to local HBM; the Trearo cores stand behind no fence (R406). -/
def State.mayReach (s : State) (pa : Nat) : Bool :=
  match s.cur with
  | .ctl _ => s.fencePass s.who.part pa
  | .trearo _ => true

/-- A Zillas header flit (R428): bits [127:0] from its fields, payload bytes or operands from bit 128 on. -/
def packetHdr (kind dst src part owner tag flits status arg rest : Nat) : BitVec 512 :=
  BitVec.ofNat 512 (kind % 16 + dst % 2 ^ 12 * 2 ^ 4 + src % 2 ^ 12 * 2 ^ 16 + part % 32 * 2 ^ 28 + owner % 64 * 2 ^ 33 +
    tag % 2 ^ 16 * 2 ^ 39 + flits % 2 ^ 11 * 2 ^ 55 + status % 64 * 2 ^ 66 + arg % 2 ^ 56 * 2 ^ 72 + rest % 2 ^ 384 * 2 ^ 128)

/-- Payload flits of n bytes: the first 48 travel in the header flit (R428). -/
def flitsOf (n : Nat) : Nat := (n - 48 + 63) / 64

/-- The packet that carries a peer access: 0 read, its size in FLITS unused, 2 write with its bytes, 4 atomic with its operands
(R428 to R430). -/
def Remote.packet (r : Remote) (src part owner : Nat) : Packet :=
  let dst := r.peer.getD 0
  match r.kind with
  | 0 => ⟨packetHdr 0 dst src part owner r.id 0 0 r.addr 0, []⟩
  | 1 => ⟨packetHdr 2 dst src part owner r.id (flitsOf r.size) 0 r.addr (bytesNat (r.data.take 48)), r.data.drop 48⟩
  | _ =>
    ⟨packetHdr 4 dst src part owner r.id 0 0 (r.addr + r.member * 2 ^ 52)
      (bytesNat r.data + (if r.member = 8 ∨ r.member = 10 then r.operandE.toNat else 0) * 2 ^ 64 +
        (if r.size = 8 then 2 ^ 128 else 0)), []⟩

/-- Zillas ports that destinations are mapped to. -/
def State.upPorts (s : State) : List Nat := (upTo 18).filter fun p => s.portsUp.getD p false

/-- The port for a destination package (R428). -/
def State.portFor (s : State) (dst : Nat) : Option Nat :=
  let l := s.upPorts
  l[Config.portPick dst l % l.length]?

/-- Destination package of a packet. -/
def Packet.dst (p : Packet) : Nat := fieldN p.hdr 4 12

/-- The port on which a packet to a package leaves now: none while that port drains, or while no port is up (R428, R438). -/
def State.sentOn (s : State) (dst : Nat) : Option Nat := (s.portFor dst).filter fun k => !s.draining.contains k

/-- A packet leaves on the port of its destination, or is held while that port drains; with no port up it does not leave
and its request times out (R428, R438). -/
def State.emitPacket (s : State) (id : Nat) (p : Packet) : State :=
  match s.portFor p.dst with
  | none => s
  | some k =>
    if s.draining.contains k then { s with heldPackets := s.heldPackets ++ [(id, p)] }
    else { s with sentPackets := s.sentPackets ++ [p] }

/-- Zillas payload bytes that leave toward a package count for their owner; with no port up none leave (R432, R438). -/
def State.zilSent (s : State) (owner dst n : Nat) : State := if (s.portFor dst).isSome then s.meter owner 16 n else s

/-- An access to the host or a peer goes out, for an owner of a partition; one to a peer as a packet. -/
def State.sendOut (s : State) (r : Remote) (part owner : Nat) : State :=
  let gone := (r.peer.map fun k => (s.portFor k).isSome).getD true
  let s := { s with remotes := s.remotes ++ [{ r with gone := gone, port := r.peer.bind s.sentOn }], nextId := s.nextId + 1 }
  match r.peer with
  | some k => (s.zilSent owner k (if r.kind = 1 then r.size else 0)).emitPacket r.id (r.packet s.sys.mpkg.toNat part owner)
  | none => s

/-- The owner for which the executing thread's accesses count. -/
def State.meOwner (s : State) : Nat := (s.me.map Inst.owner).getD 0

/-- The registration of a wait on a remote response (R221). -/
def remoteWait (va : W64) : WaitFor := ⟨5, va.toNat % 2 ^ 57, none⟩

/-- The PCIe function of an instance's root ancestor, whose requester ID its host requests carry (R424). -/
def State.rootFn (s : State) : Nat → Inst → Nat
  | 0, i => i.src.fn
  | n + 1, i =>
    match i.src.parent.bind s.inst? with
    | some p => s.rootFn n p
    | none => i.src.fn

/-- The function whose requester ID the host requests of the thread that executes carry; the physical function's for a thread
without an instance (R424). -/
def State.meFn (s : State) : Nat := (s.me.map (s.rootFn 16)).getD 0x100

/-- A posted store of the thread that executes has not performed yet, sent to another target than `but`. -/
def State.postedLeft (s : State) (but : Option (Option Nat)) : Bool :=
  s.remotes.any fun r => r.posted && s.mine r.serial && r.ans.isNone && !(but == some r.peer)

/-- Accesses of a thread perform in program order, posted stores among them (R109): whatever comes next waits for them. `w`: how
the wait is registered. -/
def State.inOrder (s : State) (w : Option WaitFor) : Ans Unit := if s.postedLeft none then .wait w s else .ok () s

/-- A request of the thread that executes to the host or a peer: issued once, then waited for, then taken (R93). -/
def State.remoteAsk (s : State) (peer : Option Nat) (kind pa : Nat) (va : W64) (n : Nat) (data : List Byte) (e : W64) (member : Nat)
    (tsub : Nat) : Ans (List Byte) :=
  match s.remotes.find? fun r =>
      !r.posted && r.serial == s.reqId && r.kind == kind && r.va == va && r.size == n with
  | none =>
    let r : Remote := ⟨s.nextId, s.reqId, s.meFn, peer, kind, pa, va, n, data, e, member, false, s.nsec, true, none, none⟩
    .wait (some (remoteWait va)) (s.sendOut r s.who.part s.meOwner)
  | some r =>
    match r.ans with
    | none => .wait (some (remoteWait va)) s
    | some (st, l) => if st = 0 then .ok l s else .trap (trapAt 0x13 (if st = 1 then tsub else st) va) s

/-- Reads n bytes at an aligned address for the thread that executes (R179 rows 2 to 8). DEDUCED: an uncorrectable error is ECC
ARRAY in a window and ECC DATA in HBM; R388 names the subcauses and does not say which access takes which (log entry 111). -/
def State.readAt (s : State) (a : Acc) (va : W64) (n : Nat) : Ans (List Byte) :=
  (s.locate a va).bind fun p s =>
    match p with
    | .win pool o =>
      if s.keyHeld s.who pool then .wait (some (remoteWait va)) s
      else if s.poisoned (pool.mem o) n then .trap (trapAt 0x12 0x03 va) s
      else .ok (s.bytes (pool.mem o) n) (s.sealedTo s.who pool)
    | .hbm pa sealed =>
      if !s.mayReach pa then .trap (trapAt 0x13 0x02 va) (s.fenceDrop s.who.part va)
      else match s.hbmRead s.who.part 0 sealed pa n with
        | .error (c, b) => .trap (trapAt c b va) s
        | .ok l => .ok l (s.hbmMoved s.who.owner n)
    | .host pa => s.remoteAsk none 0 pa va n [] 0 0 0x01
    | .peer k pa => s.remoteAsk (some k) 0 pa va n [] 0 0 0x01

/-- A load of n bytes (R176, R179): row 1 first; after the thread's earlier stores (R109). -/
def State.load (s : State) (va : W64) (n : Nat) : Ans Nat :=
  if va.toNat % n != 0 then .trap (trapAt 0x03 0 va) s
  else (s.inOrder (some (remoteWait va))).bind fun _ s => (s.readAt .load va n).bind fun l s => .ok (bytesNat l) s

/-- A descriptor of 64 bytes at a multiple of 64 (R200, R203); the command's accesses come after the thread's earlier ones
(R110). -/
def State.loadDesc (s : State) (va : W64) : Ans (BitVec 512) :=
  if va.toNat % 64 != 0 then .trap (trapAt 0x03 0 va) s
  else (s.inOrder (some (remoteWait va))).bind fun _ s =>
    (s.readAt .load va 64).bind fun l s => .ok (BitVec.ofNat 512 (bytesNat l)) s

/-- The word at pc (R162). -/
def State.fetch (s : State) : Ans W32 :=
  (s.readAt .fetch s.pc 4).bind fun l s => .ok (BitVec.ofNat 32 (bytesNat l)) s

/-- A store that has failed is reported to its thread (R177, R408). -/
def State.failStore (s : State) (va : W64) : State := { s with posted := s.posted ++ [(s.reqId, va)] }

/-- A store that is posted: the thread goes on once it is issued (R177). It performs after the thread's earlier stores (R109): it
is sent while none but those to the same target are outstanding, which perform in order. -/
def State.post (s : State) (peer : Option Nat) (pa : Nat) (va : W64) (n v : Nat) : Ans Unit :=
  if s.postedLeft (some peer) then .wait none s
  else .ok () (s.sendOut ⟨s.nextId, s.reqId, s.meFn, peer, 1, pa, va, n, natBytes n v, 0, 0, true, s.nsec, true, none, none⟩ s.who.part s.meOwner)

/-- A store of n bytes (R177): performed in program order, posted to host or peer memory, dropped by a fence, or refused
by the tag of a sealed tile (log entry 20). -/
def State.store (s : State) (va : W64) (n : Nat) (v : Nat) : Ans Unit :=
  if va.toNat % n != 0 then .trap (trapAt 0x03 0 va) s
  else (s.locate .store va).bind fun p s =>
    match p with
    | .win pool o =>
      (s.inOrder none).bind fun _ s =>
        if s.keyHeld s.who pool then .wait none s
        else .ok () ((s.putNum (pool.mem o) n v).sealedTo s.who pool)
    | .hbm pa sealed =>
      (s.inOrder none).bind fun _ s =>
        if !s.mayReach pa then .ok () ((s.fenceDrop s.who.part va).failStore va)
        else match s.hbmWrite s.who.part 0 sealed pa (natBytes n v) with
          | .error _ => .ok () (s.failStore va)
          | .ok s => .ok () (s.hbmMoved s.who.owner n)
    | .host pa => s.post none pa va n v
    | .peer k pa => s.post (some k) pa va n v

/-- Bytes [va, va + n) as control-thread loads, page by page (R201: the image header and the parameters). -/
def State.readSpan (s : State) : Nat → W64 → Nat → Ans (List Byte)
  | 0, _, _ => .ok [] s
  | fuel + 1, va, n =>
    if n = 0 then .ok [] s
    else
      let k := min n (4096 - va.toNat % 4096)
      (s.readAt .load va k).bind fun l s => (s.readSpan fuel (va + w64 k) (n - k)).bind fun r s => .ok (l ++ r) s

/-! ### Accesses of the device for an instance -/

/-- Why an access of the device failed: cause, subcause, and the address of the first part that did (R385, R389). -/
structure DevErr where
  cause : Nat
  sub : Nat
  va : W64
  deriving DecidableEq, Repr

/-- The bytes of [va, va + n) that lie in the 4 KiB page of `va` (R91: every page is at least that large). -/
def pageRun (va : W64) (n : Nat) : Nat := min n (4096 - va.toNat % 4096)

/-- The device's access to the host or a peer has ended: 0, or a REMOTE subcause (R93, R381; log entry 27). -/
def State.deviceEnd (s : State) (va : W64) : Nat :=
  let st := Config.deviceStatus s.free va.toNat
  if 1 ≤ st ∧ st ≤ 3 then st else 0

/-- The device's access to a peer goes out as a packet; with no port up none goes out, and it ends with TIMEOUT (R429, R438). What
is sent, and what a read brings, counts for the owner it is for, if any (R432). -/
def State.devicePeer (s : State) (w : Who) (kind peer pa : Nat) (va : W64) (n : Nat) (l : List Byte) : Nat × State :=
  match s.portFor peer with
  | none => (1, s)
  | some _ =>
    let count (t : State) : State := match w.owner with
      | some o => t.zilSent o peer (if kind = 1 ∨ s.deviceEnd va = 0 then n else 0)
      | none => t
    let r : Remote := ⟨s.nextId, 2 ^ 43, 0x100, some peer, kind, pa, va, n, l, 0, 0, false, s.nsec, true, none, none⟩
    let t := { s with nextId := s.nextId + 1, free := s.free + 1 }
    (s.deviceEnd va, (count t).emitPacket r.id (r.packet s.sys.mpkg.toNat w.part (w.owner.getD 0)))

/-- Reads bytes of one page for the device. DESIGN CHOICE: an address of the device that lies in a window is served by the tile or
slice that the window shows, though R79 names no such agent for them (log entry 17). Its walk counts (R386), a fence drops it (R408), the host or a peer may fail it
(R93). -/
def State.devReadPage (s : State) (w : Who) (ver : Nat) (va : W64) (n : Nat) : Except DevErr (List Byte) × State :=
  match s.resolve w .load va with
  | .trap t s => (.error ⟨t.cause, t.sub, va⟩, s.noteEcc t.cause)
  | .wait _ s => (.error ⟨0x13, 0x01, va⟩, s)
  | .ok p s =>
    match p with
    | .win pool o =>
      if s.poisoned (pool.mem o) n then (.error ⟨0x12, 0x03, va⟩, s.noteEcc 0x12) else (.ok (s.bytes (pool.mem o) n), s)
    | .hbm pa sealed =>
      if s.fencePass w.part pa then
        match s.hbmRead w.part ver sealed pa n with
        | .error e => (.error ⟨e.1, e.2, va⟩, s.noteEcc e.1)
        | .ok l => (.ok l, s.hbmMoved w.owner n)
      else (.error ⟨0x13, 0x02, va⟩, s.fenceDrop w.part va)
    | .host pa =>
      let t := { s with free := s.free + 1 }
      if s.deviceEnd va = 0 then (.ok (s.bytes (hostKey pa) n), t) else (.error ⟨0x13, s.deviceEnd va, va⟩, t)
    | .peer k pa =>
      let a := s.devicePeer w 0 k pa va n []
      if a.1 = 0 then (.ok ((upTo n).map fun j => Config.deviceByte s.free va.toNat j), a.2) else (.error ⟨0x13, a.1, va⟩, a.2)

/-- Reads [va, va + n) of an instance's partition for the device, page by page: images, records and save areas (log entry 17).
`fuel` bounds the pages. -/
def State.devReadGo (s : State) (w : Who) (ver : Nat) : Nat → W64 → Nat → Except DevErr (List Byte) × State
  | 0, _, _ => (.ok [], s)
  | fuel + 1, va, n =>
    if n = 0 then (.ok [], s)
    else match s.devReadPage w ver va (pageRun va n) with
      | (.error e, s) => (.error e, s)
      | (.ok l, s) =>
        let r := s.devReadGo w ver fuel (va + w64 (pageRun va n)) (n - pageRun va n)
        (r.1.map fun m => l ++ m, r.2)

/-- Reads under a version (R415: save records), and what else the reading does. -/
def State.devReadVer (s : State) (w : Who) (ver : Nat) (va : W64) (n : Nat) : Except DevErr (List Byte) × State :=
  s.devReadGo w ver (n / 4096 + 2) va n

/-- What the device reads at [va, va + n). -/
def State.devRead (s : State) (w : Who) (va : W64) (n : Nat) : Except DevErr (List Byte) := (s.devReadVer w 0 va n).1

/-- What the device's reading of [va, va + n) does beside. -/
def State.devTouch (s : State) (w : Who) (va : W64) (n : Nat) : State := (s.devReadVer w 0 va n).2

/-- Writes bytes of one page for the device: no error, or why it was not written. -/
def State.devWritePage (s : State) (w : Who) (ver : Nat) (va : W64) (l : List Byte) : Option DevErr × State :=
  match s.resolve w .store va with
  | .trap t s => (some ⟨t.cause, t.sub, va⟩, s.noteEcc t.cause)
  | .wait _ s => (some ⟨0x13, 0x01, va⟩, s)
  | .ok p s =>
    match p with
    | .win pool o => (none, s.put (pool.mem o) l)
    | .hbm pa sealed =>
      if s.fencePass w.part pa then
        match s.hbmWrite w.part ver sealed pa l with
        | .error e => (some ⟨e.1, e.2, va⟩, s)
        | .ok s => (none, s.hbmMoved w.owner l.length)
      else (some ⟨0x13, 0x02, va⟩, s.fenceDrop w.part va)
    | .host pa =>
      let t := { s with free := s.free + 1 }
      if s.deviceEnd va = 0 then (none, t.put (hostKey pa) l) else (some ⟨0x13, s.deviceEnd va, va⟩, t)
    | .peer k pa =>
      let a := s.devicePeer w 1 k pa va l.length l
      (if a.1 = 0 then none else some ⟨0x13, a.1, va⟩, a.2)

/-- Writes bytes for the device, page by page; a fault leaves its page and every later one as they were. -/
def State.devWriteGo (s : State) (w : Who) (ver : Nat) : Nat → W64 → List Byte → Option DevErr × State
  | 0, _, _ => (none, s)
  | fuel + 1, va, l =>
    if l.isEmpty then (none, s)
    else match s.devWritePage w ver va (l.take (pageRun va l.length)) with
      | (some e, s) => (some e, s)
      | (none, s) => s.devWriteGo w ver fuel (va + w64 (pageRun va l.length)) (l.drop (pageRun va l.length))

/-- Writes under a version (R415: save records). -/
def State.devWriteVer (s : State) (w : Who) (ver : Nat) (va : W64) (l : List Byte) : Option DevErr × State :=
  s.devWriteGo w ver (l.length / 4096 + 2) va l

def State.devWrite (s : State) (w : Who) (va : W64) (l : List Byte) : Option DevErr × State := s.devWriteVer w 0 va l

/-- A record the device writes where a fault only loses the write (R394). -/
def State.devRecord (s : State) (w : Who) (va : W64) (l : List Byte) : State := (s.devWrite w va l).2

end Sys2Proof.Machine
end

