-- ==== Sys2Proof/Machine/Waits.lean ====
section
/-!
DEFINITION. The wait-for table (R221 to R231): entries, holders, effective priority, the cycle search and the cycle
record; lock tokens (R214, R215, R286); and the frame of every control-thread word: decode order (R140), completion,
trap and stall.
-/

namespace Sys2Proof.Machine

/-! ### Entries in force -/

/-- The entry of a waiter that is in force: an automatic one suspends its software entry (R221, R223). -/
def State.inForce (s : State) (p : Party) : Option Wait :=
  match s.waits.find? fun w => w.waiter == p && !w.sw with
  | some w => some w
  | none => s.waits.find? fun w => w.waiter == p

/-- The entry is in force. -/
def State.forced (s : State) (w : Wait) : Bool := w.sw == false || !s.waits.any fun v => v.waiter == w.waiter && !v.sw

/-- The instance a waiter or holder belongs to. -/
def Party.serial? : Party → Option Nat
  | .thread n => some n
  | .sub n _ => some n
  | .external => none

/-- Base priority of a waiter: a subgraph has its instance's (R226). -/
def State.baseOf (s : State) (p : Party) : Nat :=
  match p.serial? with
  | some n => ((s.inst? n).map Inst.base).getD 0
  | none => 0

/-- A holder reached for priority counts as the control thread of its instance (R226). -/
def Party.forPriority : Party → Party
  | .sub n _ => .thread n
  | p => p

/-- The waiters joined to one of `ps` by a wait link. -/
def State.linked (s : State) (ps : List Party) : List Party :=
  (s.waits.filter fun w => s.forced w && w.holders.any fun h => ps.contains h || ps.contains h.forPriority).map Wait.waiter

/-- Chains of at most n wait links (R226). -/
def State.chains (s : State) : Nat → List Party → List Party
  | 0, _ => []
  | n + 1, ps =>
    let l := distinct (s.linked ps)
    l ++ s.chains n l

/-- Effective priority of a control thread (R226). -/
def State.effOf (s : State) (serial : Nat) : Nat :=
  (s.chains 16 [.thread serial]).foldl (fun e p => max e (s.baseOf p)) (s.baseOf (.thread serial))

/-! ### Holders (R221, R224) -/

/-- Declarants come in ascending order of quire number and then hardware thread (R224); a thread that is on no hardware
thread comes last. -/
def State.declarants (s : State) (part kind obj : Nat) : List Party :=
  let ds := s.decls.filter fun d => d.kind == kind && d.obj == obj
  let is := (s.insts.filter fun i => i.part == part && ds.any fun d => d.serial == i.serial)
  (sortBy (fun a b : Inst => decide (a.hw.getD 256 ≤ b.hw.getD 256)) is).map fun i => .thread i.serial

/-- Two holders at most, external when there is none (R221, R224). -/
def holders2 (l : List Party) : List Party := if l.isEmpty then [.external] else l.take 2

/-- An instance that lives (R22, R23): not DONE, not KILLED. -/
def Inst.live (i : Inst) : Bool := !(i.state == .done || i.state == .killed)

/-- The holders of a wait, as they stand now (R221, R224, R372). -/
def State.holdersNow (s : State) (waiter : Party) (kind obj : Nat) (tok : Option (Pool × Nat)) : List Party :=
  let me := waiter.serial?.bind s.inst?
  let part := (me.map Inst.part).getD 0
  match kind with
  | 1 => holders2 (s.declarants part 1 obj)
  | 2 => match s.inst? obj with
    | some c => if c.live then [.thread obj] else [.external]
    | none => [.external]
  | 3 => match tok with
    | some (p, k) => match s.locks.find? fun l => l.pool == p && l.idx == k with
      | some l => [l.holder]
      | none => [.external]
    | none => [.external]
  | 4 =>
    if (me.map fun i => i.state == .queued || i.state == .yielded || i.state == .cut).getD false then
      let hs := s.insts.filter fun i => i.part == part && !i.region.isEmpty && i.hw.isSome
      if hs.length = 1 ∨ hs.length = 2 then hs.map fun i => .thread i.serial else [.external]
    else [.external]
  | 6 => holders2 (s.declarants part 6 obj)
  | 7 => holders2 (s.declarants part 7 obj)
  | _ => [.external]

/-! ### The cycle search and its record (R227, R231) -/

/-- `Search` of R227; the first argument is 16 - depth. -/
def State.seek (s : State) (w : Party) : Nat → Party → Option (List Party)
  | 0, h => if h = w then some [h] else none
  | n + 1, h =>
    if h = w then some [h]
    else if h = .external then none
    else match s.inForce h with
      | none => none
      | some e => e.holders.findSome? fun g => (s.seek w n g).map fun p => h :: p

/-- A step of a cycle record: waiter, object word, holder, start. -/
structure CycleStep where
  waiter : Party
  object : Nat
  holder : Party
  start : W64
  deriving DecidableEq, Repr

/-- The units that take what a unit sends on the outputs `ps`. -/
def State.takersOn (s : State) (ps : List Nat) (u : UKey) : List UKey :=
  s.routes.filterMap fun r => match r.src, r.dst with
    | .unit a _, .unit b _ => if a = u ∧ ps.contains r.pout then some b else none
    | _, _ => none

/-- The units that take what a unit sends on POUT 0. -/
def State.takers (s : State) (u : UKey) : List UKey := s.takersOn [0] u

/-- A unit by its place. -/
def State.unit? (s : State) (u : UKey) : Option FabUnit := s.units.find? fun f => f.key == u

/-- Opcode of a unit's operation word (R141). -/
def FabUnit.op (f : FabUnit) : Nat := fieldN f.word 56 8

/-- The units that take a unit's data: a router node sends data on POUT 1 too (R34, R35). -/
def State.dataTakers (s : State) (u : UKey) : List UKey :=
  s.takersOn (if ((s.unit? u).map fun f => 0x80 ≤ f.op && f.op ≤ 0x8F).getD false then [0, 1] else [0]) u

/-- Units reached over routes from `us` and not in `seen`, nearest first; `fuel` bounds the steps. -/
def State.reach (s : State) : Nat → List UKey → List UKey → List UKey
  | 0, _, _ => []
  | n + 1, seen, us =>
    let us := (distinct us).filter fun u => !seen.contains u
    if us.isEmpty then [] else us ++ s.reach n (us ++ seen) (us.flatMap s.dataTakers)

/-- The unit that names an update subgraph: the first rmw reached from the lkpool's output, or the lkpool (R287). -/
def State.subName (s : State) (u : UKey) : Option FabUnit :=
  match ((s.reach (s.units.length + 1) [] [u]).filterMap s.unit?).find? fun f => f.op == 0xC3 with
  | some f => some f
  | none => s.unit? u

/-- Waiter and holder identity (R231). -/
def State.identity (s : State) (p : Party) : Nat :=
  let prio (n : Nat) := s.baseOf (.thread n) % 8 * 2 ^ 51 + s.effOf n % 8 * 2 ^ 54 + 2 ^ 62
  match p with
  | .external => 2 ^ 63
  | .thread n => n % 2 ^ 32 + prio n
  | .sub n u =>
    let f := s.subName u
    n % 2 ^ 32 + 2 ^ 32 + (f.map fun f => f.folio % 256 * 2 ^ 33 + f.fx % 8 * 2 ^ 41 + f.fy % 8 * 2 ^ 44 +
      f.key.slot % 16 * 2 ^ 47).getD 0 + prio n

/-- The 576 bytes of the cycle record for one member (R231). -/
def State.cycleBytes (s : State) (steps : List CycleStep) (dlser : W32) (member : Nat) : List Byte :=
  let self := (findAt (fun c : CycleStep => c.waiter.serial? == some member) steps).getD 0
  let head := natBytes 4 (steps.length + self * 2 ^ 8) ++ natBytes 4 dlser.toNat ++ natBytes 8 s.nsec.toNat
  let body := steps.flatMap fun c =>
    natBytes 8 (s.identity c.waiter) ++ natBytes 8 c.object ++ natBytes 8 (s.identity c.holder) ++ natBytes 8 c.start.toNat
  let l := head ++ List.replicate 48 0#8 ++ body
  l ++ List.replicate (576 - l.length) 0#8

/-- Writes the cycle record into every member's launch record and names it in DLADDR (R231, R402). Answers the new
DLSER. -/
def State.cycleRecord (s : State) (steps : List CycleStep) : W32 × State :=
  let ser := s.dlser + 1
  let members := distinct (steps.filterMap fun c => c.waiter.serial?)
  let s := { s with dlser := ser }
  (ser, members.foldl (fun t m =>
    match s.inst? m with
    | none => t
    | some i =>
      let t := t.devRecord i.device (i.recVA + 0x80#64) (s.cycleBytes steps ser m)
      let t := t.modInst m fun i => { i with dladdr := i.recVA + 0x80#64 }
      match i.hw with
      | some n => t.event (htQuire n) 4
      | none => t) s)

/-- The object word of an entry (R231). -/
def objectWord (kind obj : Nat) (sw : Bool) : Nat := obj % 2 ^ 57 + kind % 8 * 2 ^ 57 + sw.toNat * 2 ^ 60

/-- The steps of the cycle that a search from W found. -/
def State.cycleSteps (s : State) (w : Party) (path : List Party) : List CycleStep :=
  ((w :: path.dropLast).zip path).map fun (a, h) =>
    match s.inForce a with
    | some e => ⟨a, objectWord e.kind e.obj e.sw, h, e.start⟩
    | none => ⟨a, 0, h, 0#64⟩

/-- The cycle search from a waiter (R227): on a cycle, the record, and DEADLOCK pending at every member that has a
control thread (R402). -/
def State.search (s : State) (w : Party) : State :=
  match s.inForce w with
  | none => s
  | some e =>
    match e.holders.findSome? fun h => s.seek w 15 h with
    | none => s
    | some path =>
      let steps := s.cycleSteps w path
      let (ser, s) := s.cycleRecord steps
      let members := distinct (steps.filterMap fun c => c.waiter.serial?)
      members.foldl (fun t m => t.modInst m fun i => if i.hw.isSome then { i with dead := i.dead ++ [ser.toNat] } else i) s

/-- Holders are evaluated again after a change of holdings, and each new link starts a search (R221, R227). -/
def State.relink (s : State) : State :=
  let now (w : Wait) := s.holdersNow w.waiter w.kind w.obj w.tok
  let fresh := s.waits.filter fun w => (now w).any fun h => h != .external && !w.holders.contains h
  let s := { s with waits := s.waits.map fun w => { w with holders := now w } }
  fresh.foldl (fun t w => if t.forced w then t.search w.waiter else t) s

/-- The priority a waiter inherits: that of its control thread (R226). -/
def State.inherited (s : State) (p : Party) : Nat := (p.serial?.map s.effOf).getD 0

/-- Effective priorities as R226 gives them now, in the threads and in the entries of the table (R221). -/
def State.reprioritise (s : State) : State :=
  { s with insts := s.insts.map fun i => { i with eff := s.effOf i.serial },
           waits := s.waits.map fun w => { w with base := s.baseOf w.waiter, inh := s.inherited w.waiter } }

/-- A free entry of a bank (R221). -/
def State.freeEntry (s : State) (bank : Nat) : Option Nat :=
  (upTo Config.waitBank).find? fun k => !s.waits.any fun w => w.bank == bank && w.idx == k

/-- Registers a wait and searches; `none` when the bank is full (R221, R227, R228). -/
def State.register (s : State) (p : Party) (bank kind obj : Nat) (sw : Bool) (tok : Option (Pool × Nat)) : Option State :=
  match s.freeEntry bank with
  | none => none
  | some k =>
    let w : Wait := ⟨bank, k, p, kind, obj, sw, s.holdersNow p kind obj tok, tok, s.baseOf p, s.inherited p, s.nsec⟩
    some (({ s with waits := s.waits ++ [w] } : State).search p)

/-- An automatic registration; a full bank lets the wait go on unregistered (R228). -/
def State.autoRegister (s : State) (p : Party) (bank kind obj : Nat) (tok : Option (Pool × Nat)) (counts : Nat) : State :=
  match s.register p bank kind obj false tok with
  | some s => s
  | none => s.modInst counts fun i => { i with inc := true, autoovf := satInc32 i.autoovf }

/-! ### A word that completes -/

/-- A word that completes: its stall ends, its instance has made progress (R401), pc moves (R162). -/
def State.retire (s : State) (f : Flow) : State :=
  let s := s.endStall
  let s := s.modMe (Inst.progressed s.nsec)
  match f with
  | .next => s.modCtx fun c => c.at (c.pc + 4#64)
  | .to pc => s.setPc pc
  | .stay => s

/-! ### Lock tokens (R214, R215, R286) -/

/-- The hash of R286. -/
def lockHash (o : Nat) : Nat :=
  (bitsN o 3 6).xor ((bitsN o 9 6).xor ((bitsN o 15 6).xor (bitsN o 21 3)))

/-- The token that a place selects for a partition (R214, R410). -/
def State.tokenAt (s : State) (part : Nat) (p : Place) : Option (Pool × Nat) :=
  match p with
  | .win pool o => some (pool, lockHash o)
  | .hbm pa _ => some (s.cachePool part pa, lockHash (pa % 2 ^ 24))
  | _ => none

/-- Who holds a token. -/
def State.holderOf (s : State) (t : Pool × Nat) : Option Party :=
  (s.locks.find? fun l => l.pool == t.1 && l.idx == t.2).map LockTok.holder

/-- A waiter for a token: who, its effective priority, since when. -/
structure TokWaiter where
  who : Party
  eff : Nat
  start : Nat
  deriving DecidableEq, Repr

/-- The address that a token at in0 of an lkpool names (R276, R287). -/
def tokenOffset (t : Option Token) : Nat :=
  match t with
  | some (.data v) => fieldN v 0 22
  | _ => 0

/-- Those who wait for a token: stalled threads and lkpool nodes (R214, R287). -/
def State.tokWaiters (s : State) (t : Pool × Nat) : List TokWaiter :=
  (s.insts.filterMap fun i => match i.stall with
    | some st => if st.tok = some t then some ⟨.thread i.serial, s.effOf i.serial, st.start.toNat⟩ else none
    | none => none) ++
  (s.units.filterMap fun f => match f.st with
    | .lk _ (some since) =>
      if (Pool.tile f.key.tile, lockHash (tokenOffset (f.ins.headD none))) = t then
        some ⟨.sub f.serial f.key, s.effOf f.serial, since⟩
      else none
    | _ => none)

/-- The stalled word of the instance on a hardware thread completes, while another thread or none executes. -/
def State.completeOn (s : State) (n : Nat) : State :=
  { (({ s with cur := .ctl n } : State).retire .next) with cur := s.cur, blocked := s.blocked }

/-- Gives a token that is free to its waiter of highest effective priority, the earliest among equals: its wait is over at
once, a stalled `lock` completes, and the automatic entry ends with the wait (R214, R229). -/
def State.grant (s : State) (t : Pool × Nat) : State :=
  match sortBy (fun a b : TokWaiter => decide (b.eff < a.eff) || (a.eff == b.eff && decide (a.start ≤ b.start))) (s.tokWaiters t) with
  | [] => s
  | w :: _ =>
    let s : State := { s with locks := s.locks ++ [⟨t.1, t.2, w.who⟩] }
    match w.who with
    | .thread n =>
      match (s.inst? n).bind Inst.hw with
      | some h => s.completeOn h
      | none => s
    | p => { s with waits := s.waits.filter fun v => v.waiter != p }

/-- A holder lets a token go (R215). -/
def State.release (s : State) (t : Pool × Nat) : State :=
  (({ s with locks := s.locks.filter fun l => !(l.pool == t.1 && l.idx == t.2) } : State).grant t).relink

/-- Every token of an instance is released (R215). -/
def State.releaseAll (s : State) (serial : Nat) : State :=
  let ts := (s.locks.filter fun l => l.holder.serial? == some serial).map fun l => (l.pool, l.idx)
  ts.foldl (fun s t => s.release t) s

/-- At DONE or KILLED every entry and declaration of the instance is removed (R229). -/
def State.dropWaits (s : State) (serial : Nat) : State :=
  ({ s with waits := s.waits.filter fun w => w.waiter.serial? != some serial,
            decls := s.decls.filter fun d => d.serial != serial } : State).relink

/-! ### The frame of a word -/

/-- A stall of the thread that executes, registered once (R189, R221, R228). -/
def State.stallOn (s : State) (w : Option WaitFor) : State :=
  match s.cur, w with
  | .ctl n, some w =>
    match s.instOn n with
    | none => s.hold
    | some i =>
      if (i.stall.map fun st => (st.kind, st.obj)) = some (w.kind, w.obj) then s.hold
      else
        let s := (s.dropAuto i.serial).modInst i.serial fun i =>
          { i with stall := some ⟨w.kind, w.obj, w.tok, s.nsec⟩ }
        (s.autoRegister (.thread i.serial) (htQuire n) w.kind w.obj w.tok i.serial).hold
  | _, _ => s.hold

/-- Registers that the thread that executes may name: those allocated at user level of a control thread, all elsewhere
(R140 step 3, R353). -/
def State.regLimit (s : State) : Nat :=
  match s.cur with
  | .ctl n => if s.level = 0 then ((s.instOn n).map Inst.regs).getD 0 else 32
  | .trearo _ => 32

/-- Decode steps 2 to 4 of R140, then execution. `need`: the lowest level that may execute the word. -/
def wordAns (s : State) (ill : Bool) (need : Nat) (regs : List (BitVec 5)) (g : BitVec 3) (body : State → Ans Flow) :
    Ans Flow :=
  if ill then .trap (trapOf 0x01 0x00) s
  else if s.level < need then .trap (trapOf 0x02 0) s
  else if regs.any fun r => r != 0#5 && decide (s.regLimit ≤ r.toNat) then .trap (trapOf 0x01 0x00) s
  else if !s.pr g then .ok .next s
  else body s

/-- The state a word leaves: it completes, traps, or stalls. -/
def finish : Ans Flow → State
  | .ok f s => s.retire f
  | .trap t s => takeTrap s t
  | .wait w s => s.stallOn w

/-- A word of the thread that executes, if there is one. -/
def runWord (s : State) (ill : Bool) (need : Nat) (regs : List (BitVec 5)) (g : BitVec 3) (body : State → Ans Flow) :
    Host.Outcome State Fault Refusal :=
  match s.ctx? with
  | none => .next s
  | some _ => .next (finish (wordAns s ill need regs g body))

/-- A user-level word that computes and goes on: no trap, no stall. -/
def runPlain (s : State) (regs : List (BitVec 5)) (g : BitVec 3) (f : State → State) : Host.Outcome State Fault Refusal :=
  runWord s false 0 regs g fun s => .ok .next (f s)

end Sys2Proof.Machine
end

