-- ==== Sys2Proof/Machine/Operands.lean ====
section
/-!
DEFINITION. Operand forms: effective addresses and branch targets of the control thread (R173, R176 to R178), the lanes
of a strip and the packings of its values (R2, R13), and the immediates of operation words (R143).
-/

namespace Sys2Proof.Machine

/-! ### Control thread -/

/-- The effective address of a load: xa plus the 10-bit offset in units of 2^sz (R176). -/
def loadEA (a : W64) (off : BitVec 10) (z : BitVec 2) : W64 := a + (off.signExtend 64 <<< z.toNat)

/-- The effective address of a store and of `lea`: xa plus the 11-bit offset in units of 2^sz (R177, R178). -/
def storeEA (a : W64) (off : BitVec 11) (z : BitVec 2) : W64 := a + (off.signExtend 64 <<< z.toNat)

/-- Bytes of an access (R176). -/
def accessBytes (z : BitVec 2) : Nat := 2 ^ z.toNat

/-- A branch target: the branch's address plus 4·sext(disp22, 22) (R173). -/
def branchTarget (pc : W64) (d : BitVec 22) : W64 := pc + (d.signExtend 64 <<< 2)

/-- Widening of a loaded value (R176). -/
def widen (sx : BitVec 1) (n v : Nat) : W64 :=
  if sx = 1#1 ∧ 2 ^ (8 * n - 1) ≤ v then w64 v - w64 (2 ^ (8 * n)) else w64 v

/-! ### Strips (R2, R13) -/

/-- Lane k of a strip (R2). -/
def lane (v : Strip) (k : Nat) : W32 := v.extractLsb' (32 * k) 32

/-- The 128 lanes of a strip. -/
def lanes (v : Strip) : List W32 := (upTo 128).map (lane v)

/-- A number from fields of w bits, the first lowest. -/
def joinBits (w : Nat) : List Nat → Nat
  | [] => 0
  | v :: l => v % 2 ^ w + 2 ^ w * joinBits w l

/-- A strip from its lanes, missing lanes 0. -/
def ofLanes (l : List W32) : Strip := BitVec.ofNat 4096 (joinBits 32 (l.map BitVec.toNat))

/-- Every lane holds one value. -/
def splat (v : W32) : Strip := ofLanes (List.replicate 128 v)

/-- A strip with one lane replaced. -/
def setLane (v : Strip) (k : Nat) (x : W32) : Strip := ofLanes ((lanes v).set k x)

/-- Lane pair q as a 64-bit word (R194). -/
def lanePair (v : Strip) (q : Nat) : W64 := v.extractLsb' (64 * q) 64

/-- The bytes of a strip (R2). -/
def stripBytes (v : Strip) : List Byte := natBytes 512 v.toNat

/-- A strip from bytes, missing bytes 0. -/
def ofBytes (l : List Byte) : Strip := BitVec.ofNat 4096 (bytesNat l)

/-- Values of w bits that a strip carries (R13). -/
def stripCount (w : Nat) : Nat := if w = 6 then 682 else 4096 / w

/-- Value k of w bits of a strip. The 6-bit rule of R13 puts value 4g + j at bits 24g + 6j, which is 6·(4g + j). -/
def stripVal (v : Strip) (w k : Nat) : Nat := fieldN v (w * k) w

/-- The first n values of w bits of a strip. -/
def stripVals (v : Strip) (w n : Nat) : List Nat := (upTo n).map (stripVal v w)

/-- A strip that carries values of w bits from value 0 on; bits that no value occupies are 0 (R13). -/
def packVals (w : Nat) (l : List Nat) : Strip := BitVec.ofNat 4096 (joinBits w l)

/-! ### Lane types and immediates of operation words (R55, R143) -/

/-- Bits of one value of a lane type (R55): 0 f32, 1 bf16x2, 2 f16x2, 3 e4m3x4, 4 e5m2x4, 5 e2m1x8, 6 i32, 7 i16x2,
8 i8x4, 9 pred. -/
def laneBits (ty : Nat) : Nat :=
  match ty with
  | 0 | 6 | 9 => 32
  | 1 | 2 | 7 => 16
  | 5 => 4
  | _ => 8

/-- The value of an immediate in every lane, by lane type (R143). -/
def immLane (ty aux : Nat) : W32 :=
  match ty with
  | 0 => w32 (aux % 2 ^ 29 * 8)
  | 6 => (BitVec.ofNat 29 aux).signExtend 32
  | 8 => w32 (aux % 256 * 0x01010101)
  | 9 => w32 (aux % 2)
  | _ => w32 (aux % 65536 * 0x00010001)

/-- Bits of aux above the ones that the decoding of R143 uses are 0, and the lane type takes an immediate. -/
def immOk (ty aux : Nat) : Bool :=
  match ty with
  | 0 | 6 => true
  | 1 | 2 | 7 => aux < 65536
  | 8 => aux < 256
  | 9 => aux < 2
  | _ => false

end Sys2Proof.Machine
end

