-- ==== Sys2Proof/Machine/Flags.lean ====
section
/-!
DEFINITION. Conditions and predicates: the compare codes of R170, the taken rule of branches (R138), and the members of
the atomics with their predicate (R209).
-/

namespace Sys2Proof.Machine

/-- The condition codes of R170. -/
def condHolds (c : BitVec 3) (a b : W64) : Bool :=
  match c.toNat with
  | 0 => a == b
  | 1 => a != b
  | 2 => a.slt b
  | 3 => a.sle b
  | 4 => b.slt a
  | 5 => b.sle a
  | 6 => a.ult b
  | _ => b.ule a

/-- A BR word is taken when p[ps] xor neg = 1 (R138). -/
def taken (p neg : Bool) : Bool := p.xor neg

/-- The old value as a signed number of n bits. -/
def signedN (n v : Nat) : Int := if v < 2 ^ (n - 1) then v else v - 2 ^ n

/-- What an atomic member does (R209): the new value if it stores, and its predicate. `n` bits; `b` and `e` as R209 names
them. Members 0 to 12 in order: add, sub, and, or, xor, min, max, xchg, cas, incw, addb, minu, maxu. -/
def atomicMember (n member old b e : Nat) : Option Nat × Bool :=
  match member with
  | 0 => (some ((old + b) % 2 ^ n), false)
  | 1 => (some ((old + (2 ^ n - b % 2 ^ n)) % 2 ^ n), false)
  | 2 => (some (old.land b), false)
  | 3 => (some (old.lor b), false)
  | 4 => (some (old.xor b), false)
  | 5 => (some (if signedN n old ≤ signedN n b then old else b), false)
  | 6 => (some (if signedN n old ≤ signedN n b then b else old), false)
  | 7 => (some b, false)
  | 8 => if old = e then (some b, true) else (none, false)
  | 9 => (some (if b ≤ old then 0 else old + 1), false)
  | 10 => if old + b ≤ e then (some (old + b), false) else (none, true)
  | 11 => (some (min old b), false)
  | _ => (some (max old b), false)

end Sys2Proof.Machine
end

