-- ==== Sys2Proof/Machine/Numbers.lean ====
section
/-!
DEFINITION. Numbers: the formats of R52 to R56, exact values, rounding (R62 to R66), quantisation and companding (R59,
R61, R67), element arithmetic (R68, R69), the estimates of R70, and integers of n bits (R71).
-/

namespace Sys2Proof.Machine

/-! ### Exact values -/

/-- A magnitude n/d · 2^e. -/
structure Mag where
  n : Nat
  d : Nat
  e : Int
  deriving DecidableEq, Repr

/-- The magnitude k · 2^e. -/
def Mag.dyadic (k : Nat) (e : Int) : Mag := ⟨k, 1, e⟩

def Mag.zero : Mag := ⟨0, 1, 0⟩

/-- A value before rounding: NaN, an infinity, or an exact real with the sign it has also at zero (R6, R52). -/
inductive Fp where
  | nan
  | inf (neg : Bool)
  | fin (neg : Bool) (m : Mag)
  deriving DecidableEq, Repr

/-- 2^k for an exponent that is not negative, else 1. -/
def pow2 (k : Int) : Nat := 2 ^ k.toNat

/-- a ≤ b. -/
def Mag.le (a b : Mag) : Bool := decide (a.n * b.d * pow2 (a.e - b.e) ≤ b.n * a.d * pow2 (b.e - a.e))

def Mag.lt (a b : Mag) : Bool := !b.le a

def Mag.mul (a b : Mag) : Mag := ⟨a.n * b.n, a.d * b.d, a.e + b.e⟩

/-- a / b; b is not zero. -/
def Mag.div (a b : Mag) : Mag := ⟨a.n * b.d, a.d * b.n, a.e - b.e⟩

/-- The signed sum of two magnitudes: its sign if it is not zero, and its magnitude. -/
def Mag.addSigned (sa : Bool) (a : Mag) (sb : Bool) (b : Mag) : Bool × Mag :=
  let e := min a.e b.e
  let x := a.n * b.d * pow2 (a.e - e)
  let y := b.n * a.d * pow2 (b.e - e)
  let d := a.d * b.d
  if sa = sb then (sa, ⟨x + y, d, e⟩)
  else if y ≤ x then (sa, ⟨x - y, d, e⟩)
  else (sb, ⟨y - x, d, e⟩)

/-- a + b. -/
def Mag.add (a b : Mag) : Mag := (Mag.addSigned false a false b).2

/-- a - b for b ≤ a. -/
def Mag.sub (a b : Mag) : Mag := (Mag.addSigned false a true b).2

/-- floor(log2 m) of a magnitude that is not zero. -/
def Mag.log2 (m : Mag) : Int :=
  let l : Int := (m.n.log2 : Int) - (m.d.log2 : Int)
  if m.d * pow2 l ≤ m.n * pow2 (-l) then l + m.e else l - 1 + m.e

/-- floor(m / 2^g) and the remainder over its divisor. -/
def Mag.split (m : Mag) (g : Int) : Nat × Nat × Nat :=
  let num := m.n * pow2 (m.e - g)
  let den := m.d * pow2 (g - m.e)
  (num / den, num % den, den)

/-! ### Formats (R52 to R56) -/

/-- A format: width, exponent and fraction bits, bias, and its kind: 0 with infinities and NaN, 1 E4M3, 2 finite only,
3 a two's complement integer in units of 2^-bias. -/
structure Fmt where
  w : Nat
  eb : Nat
  mb : Nat
  bias : Nat
  kind : Nat
  deriving DecidableEq, Repr

def fp32 : Fmt := ⟨32, 8, 23, 127, 0⟩
def bf16 : Fmt := ⟨16, 8, 7, 127, 0⟩
def fp16 : Fmt := ⟨16, 5, 10, 15, 0⟩
def e4m3 : Fmt := ⟨8, 4, 3, 7, 1⟩
def e5m2 : Fmt := ⟨8, 5, 2, 15, 0⟩
def e3m2 : Fmt := ⟨6, 3, 2, 3, 2⟩
def e2m3 : Fmt := ⟨6, 2, 3, 1, 2⟩
def e2m1 : Fmt := ⟨4, 2, 1, 1, 2⟩
def int8 : Fmt := ⟨8, 0, 0, 0, 3⟩
def mxint8 : Fmt := ⟨8, 0, 0, 6, 3⟩

/-- The format of a channel-table code (R54). -/
def codeFmt (code : Nat) : Fmt :=
  match code with
  | 1 => bf16
  | 2 => fp16
  | 3 | 5 => e4m3
  | 4 | 6 => e5m2
  | 7 => e3m2
  | 8 => e2m3
  | 9 | 10 => e2m1
  | 11 => int8
  | 12 => mxint8
  | _ => fp32

/-- A microscaling code (R56). -/
def isMx (code : Nat) : Bool := (decide (5 ≤ code) && decide (code ≤ 9)) || code == 12

/-- The format of a floating lane type (R55). -/
def laneFmt (ty : Nat) : Fmt :=
  match ty with
  | 1 => bf16
  | 2 => fp16
  | 3 => e4m3
  | 4 => e5m2
  | 5 => e2m1
  | _ => fp32

/-- A lane type whose values are floating (R55). -/
def isFloat (ty : Nat) : Bool := decide (ty ≤ 5)

/-- The largest finite magnitude (R52, R53). -/
def Fmt.max (f : Fmt) : Mag :=
  match f.kind with
  | 0 => .dyadic (2 ^ (f.mb + 1) - 1) ((2 ^ f.eb : Nat) - 2 - f.bias - f.mb)
  | 1 => .dyadic (2 ^ (f.mb + 1) - 2) ((2 ^ f.eb : Nat) - 1 - f.bias - f.mb)
  | 2 => .dyadic (2 ^ (f.mb + 1) - 1) ((2 ^ f.eb : Nat) - 1 - f.bias - f.mb)
  | _ => .dyadic 127 (-f.bias)

/-- Exponent of the grid spacing of a format at a magnitude, unbounded above. -/
def Fmt.spacing (f : Fmt) (m : Mag) : Int :=
  if f.kind = 3 then -f.bias
  else if m.n = 0 then 1 - f.bias - f.mb
  else Max.max m.log2 (1 - f.bias) - f.mb

/-- The encoding of a magnitude that lies on the format's grid and does not exceed its maximum (R52, R53). -/
def Fmt.encode (f : Fmt) (neg : Bool) (m : Mag) : Nat :=
  if f.kind = 3 then
    let k := (m.split (-f.bias)).1
    if neg then (2 ^ f.w - k) % 2 ^ f.w else k
  else
    let s := if neg then 2 ^ (f.w - 1) else 0
    if m.n = 0 then s
    else
      let e := Max.max m.log2 (1 - f.bias)
      s + (e + f.bias - 1).toNat * 2 ^ f.mb + (m.split (e - f.mb)).1

/-- The canonical NaN; +0 in a format that has none (R52, R66). -/
def Fmt.nanCode (f : Fmt) : Nat :=
  match f.kind with
  | 0 => (2 ^ f.eb - 1) * 2 ^ f.mb + 2 ^ (f.mb - 1)
  | 1 => 0x7F
  | _ => 0

/-- An infinity of a format that has one. -/
def Fmt.infCode (f : Fmt) (neg : Bool) : Nat := (if neg then 2 ^ (f.w - 1) else 0) + (2 ^ f.eb - 1) * 2 ^ f.mb

/-- The value of an encoding (R52, R53). -/
def Fmt.decode (f : Fmt) (v : Nat) : Fp :=
  if f.kind = 3 then
    if v < 2 ^ (f.w - 1) then .fin false (.dyadic v (-f.bias)) else .fin true (.dyadic (2 ^ f.w - v) (-f.bias))
  else
    let neg := bitsN v (f.w - 1) 1 == 1
    let e := bitsN v f.mb f.eb
    let m := bitsN v 0 f.mb
    if f.kind = 0 ∧ e = 2 ^ f.eb - 1 then (if m = 0 then .inf neg else .nan)
    else if f.kind = 1 ∧ e = 2 ^ f.eb - 1 ∧ m = 2 ^ f.mb - 1 then .nan
    else if e = 0 then .fin neg (.dyadic m (1 - f.bias - f.mb))
    else .fin neg (.dyadic (2 ^ f.mb + m) (e - f.bias - f.mb))

/-! ### Rounding (R62, R63, R65, R66) -/

/-- Rounding modes 0 to 4: RNE, RTZ, RUP, RDN, SR with 8 random bits. -/
def roundUp (mode rnd : Nat) (neg : Bool) (k rem den : Nat) : Bool :=
  match mode with
  | 0 => decide (den < 2 * rem) || (2 * rem == den && k % 2 == 1)
  | 1 => false
  | 2 => !neg && rem != 0
  | 3 => neg && rem != 0
  | _ => decide (256 ≤ 256 * rem / den + rnd)

/-- A magnitude rounded onto the grid of spacing 2^g. -/
def Mag.roundAt (m : Mag) (g : Int) (mode rnd : Nat) (neg : Bool) : Mag :=
  let (k, rem, den) := m.split g
  .dyadic (if roundUp mode rnd neg k rem den then k + 1 else k) g

/-- What a magnitude beyond the largest finite becomes with saturate off (R65, R66). -/
def Fmt.overflow (f : Fmt) (mode : Nat) (neg : Bool) : Nat :=
  match f.kind with
  | 0 => if mode = 1 ∨ (mode = 2 ∧ neg) ∨ (mode = 3 ∧ !neg) then f.encode neg f.max else f.infCode neg
  | 1 => 0x7F
  | _ => f.encode neg f.max

/-- A conversion to a narrower format, or of an exact result to its own (R65, R66). -/
def Fmt.narrow (f : Fmt) (mode : Nat) (sat : Bool) (rnd : Nat) (x : Fp) : Nat :=
  match x with
  | .nan => f.nanCode
  | .inf neg =>
    if f.kind = 0 then (if sat then f.encode neg f.max else f.infCode neg)
    else if f.kind = 1 then (if sat then f.encode neg f.max else 0x7F)
    else f.encode neg f.max
  | .fin neg m =>
    let r := m.roundAt (f.spacing m) mode rnd neg
    if r.le f.max then f.encode neg r
    else if sat then f.encode neg f.max
    else f.overflow mode neg

/-- RoundF32 (R65). -/
def roundF32 (mode : Nat) (x : Fp) : W32 := w32 (fp32.narrow mode false 0 x)

/-- A binary32 encoding as a value. -/
def f32Val (v : W32) : Fp := fp32.decode v.toNat

/-- Rounding to an integer of n bits in a mode, clamped to the signed or unsigned range, NaN giving 0 (R66, R241). -/
def toInteger (n : Nat) (unsigned : Bool) (mode rnd : Nat) (x : Fp) : Nat :=
  let lo : Int := if unsigned then 0 else -(2 ^ (n - 1) : Nat)
  let hi : Int := if unsigned then (2 ^ n - 1 : Nat) else (2 ^ (n - 1) - 1 : Nat)
  let clamp (v : Int) : Nat := (BitVec.ofInt n (min (Max.max v lo) hi)).toNat
  match x with
  | .nan => 0
  | .inf neg => clamp (if neg then lo else hi)
  | .fin neg m =>
    let k := (m.roundAt 0 mode rnd neg).n
    clamp (if neg then -(k : Int) else k)

/-- An integer of n bits as an exact value. -/
def ofInteger (n : Nat) (unsigned : Bool) (v : Nat) : Fp :=
  if unsigned ∨ v < 2 ^ (n - 1) then .fin false (.dyadic v 0) else .fin true (.dyadic (2 ^ n - v) 0)

/-! ### Exact arithmetic with the rules of R65 -/

/-- The exact sum; a zero sum of opposite signs is +0, and -0 under RDN (mode 3). -/
def Fp.add (mode : Nat) (a b : Fp) : Fp :=
  match a, b with
  | .nan, _ => .nan
  | _, .nan => .nan
  | .inf s, .inf t => if s = t then .inf s else .nan
  | .inf s, _ => .inf s
  | _, .inf t => .inf t
  | .fin s x, .fin t y =>
    let r := Mag.addSigned s x t y
    if r.2.n = 0 ∧ s ≠ t then .fin (mode == 3) Mag.zero else .fin r.1 r.2

def Fp.neg (a : Fp) : Fp :=
  match a with
  | .nan => .nan
  | .inf s => .inf !s
  | .fin s m => .fin (!s) m

def Fp.sub (mode : Nat) (a b : Fp) : Fp := a.add mode b.neg

/-- The exact product. -/
def Fp.mul (a b : Fp) : Fp :=
  match a, b with
  | .nan, _ => .nan
  | _, .nan => .nan
  | .inf s, .inf t => .inf (s != t)
  | .inf s, .fin t m => if m.n = 0 then .nan else .inf (s != t)
  | .fin s m, .inf t => if m.n = 0 then .nan else .inf (s != t)
  | .fin s x, .fin t y => .fin (s != t) (x.mul y)

/-- |x| of a value. -/
def Fp.abs (a : Fp) : Fp :=
  match a with
  | .nan => .nan
  | .inf _ => .inf false
  | .fin _ m => .fin false m

def Fp.isNan (a : Fp) : Bool := a == .nan

/-- a < b for ordered values; false when either is NaN. -/
def Fp.lt (a b : Fp) : Bool :=
  match a, b with
  | .nan, _ => false
  | _, .nan => false
  | .inf s, .inf t => s && !t
  | .inf s, .fin _ _ => s
  | .fin _ _, .inf t => !t
  | .fin s x, .fin t y =>
    if x.n = 0 ∧ y.n = 0 then false
    else match s, t with
      | false, false => x.lt y
      | true, true => y.lt x
      | true, false => true
      | false, true => false

/-- a = b, -0 equal to +0; false when either is NaN (R237). -/
def Fp.eq (a b : Fp) : Bool := !a.isNan && !b.isNan && !a.lt b && !b.lt a

/-- The relations of R237. -/
def Fp.rel (r : Nat) (a b : Fp) : Bool :=
  match r with
  | 0 => a.eq b
  | 1 => !a.eq b
  | 2 => a.lt b
  | 3 => a.lt b || a.eq b
  | 4 => b.lt a
  | 5 => b.lt a || a.eq b
  | 6 => !a.isNan && !b.isNan
  | _ => a.isNan || b.isNan

/-- The sign of a value. -/
def Fp.negative (a : Fp) : Bool :=
  match a with
  | .nan => false
  | .inf s => s
  | .fin s _ => s

/-- minimumNumber and maximumNumber (R69): -0 orders below +0. -/
def Fp.minNum (a b : Fp) : Fp :=
  if a.isNan then b else if b.isNan then a
  else if a.lt b then a else if b.lt a then b else if a.negative then a else b

def Fp.maxNum (a b : Fp) : Fp :=
  if a.isNan then b else if b.isNan then a
  else if a.lt b then b else if b.lt a then a else if a.negative then b else a

/-! ### Estimates (R70) -/

/-- The largest k from 128 to 255 with p k, 128 when none. -/
def last8 (p : Nat → Bool) : Nat := (upTo 128).foldl (fun best j => if p (128 + j) then 128 + j else best) 128

/-- floor(2^b · m / 2^(log2 m)) of a magnitude that is not zero. -/
def Mag.lead (m : Mag) (b : Nat) : Nat := (m.split (m.log2 - b)).1

/-- An estimate's result in binary32: truncated below the normal range, ∞ above the largest finite. -/
def estimateOut (neg : Bool) (m : Mag) : W32 :=
  let r := m.roundAt (fp32.spacing m) 1 0 neg
  if r.le fp32.max then w32 (fp32.encode neg r) else w32 (fp32.infCode neg)

def frcpOf (x : Fp) : W32 :=
  match x with
  | .nan => w32 fp32.nanCode
  | .inf s => w32 (fp32.encode s Mag.zero)
  | .fin s m =>
    if m.n = 0 then w32 (fp32.infCode s)
    else estimateOut s (.dyadic (65536 / (2 * m.lead 7 + 1)) (-m.log2 - 8))

def frsqOf (x : Fp) : W32 :=
  match x with
  | .nan => w32 fp32.nanCode
  | .inf s => if s then w32 fp32.nanCode else 0#32
  | .fin s m =>
    if m.n = 0 then w32 (fp32.infCode s)
    else if s then w32 fp32.nanCode
    else
      let k := m.log2 / 2
      let a := (m.split (2 * k - 6)).1
      estimateOut false (.dyadic (last8 fun j => decide (j * j * (2 * a + 1) ≤ 2 ^ 23)) (-k - 8))

/-- floor of an exact value in units of 2^-8. -/
def floor8 (s : Bool) (m : Mag) : Int :=
  let (k, rem, _) := m.split (-8)
  if s then (if rem = 0 then -(k : Int) else -(k : Int) - 1) else k

def fexp2Of (x : Fp) : W32 :=
  match x with
  | .nan => w32 fp32.nanCode
  | .inf s => if s then 0#32 else w32 (fp32.infCode false)
  | .fin s m =>
    if !s && !m.lt (.dyadic 128 0) then w32 (fp32.infCode false)
    else if s && (Mag.dyadic 150 0).lt m then 0#32
    else
      let t := floor8 s m
      let j := (t % 256).toNat
      estimateOut false (.dyadic (last8 fun k => decide (k ^ 512 ≤ 2 ^ (3584 + 2 * j + 1))) (t / 256 - 7))

def flog2Of (x : Fp) : W32 :=
  match x with
  | .nan => w32 fp32.nanCode
  | .inf s => if s then w32 fp32.nanCode else w32 (fp32.infCode false)
  | .fin s m =>
    if m.n = 0 then w32 (fp32.infCode true)
    else if s then w32 fp32.nanCode
    else
      let v : Int := m.log2 * 256 + (((m.lead 7) ^ 256).log2 - 1792 : Nat)
      roundF32 0 (.fin (decide (v < 0)) (.dyadic v.natAbs (-8)))

/-! ### Integers of n bits (R71) -/

/-- A value of n bits as an integer, signed or unsigned. -/
def intOf (n : Nat) (unsigned : Bool) (v : Nat) : Int := if unsigned then v else signedN n v

/-- The low n bits of an exact result, or its clamp to the signed or unsigned range (R71, R239). -/
def intResult (n : Nat) (sat unsigned : Bool) (v : Int) : Nat :=
  if sat then
    let lo : Int := if unsigned then 0 else -(2 ^ (n - 1) : Nat)
    let hi : Int := if unsigned then (2 ^ n - 1 : Nat) else (2 ^ (n - 1) - 1 : Nat)
    (BitVec.ofInt n (min (Max.max v lo) hi)).toNat
  else (BitVec.ofInt n v).toNat

/-- Leading zeros of a value of n bits. -/
def clz (n v : Nat) : Nat := if v = 0 then n else n - 1 - v.log2

/-- One bits of a value of n bits. -/
def popCount (n v : Nat) : Nat := ((upTo n).filter fun k => bitsN v k 1 == 1).length

/-! ### Stochastic rounding (R64) -/

/-- `Mix` of R64. -/
def mix32 (z : W32) : W32 :=
  let z := z ^^^ (z >>> 16)
  let z := z * 0x85EBCA6B#32
  let z := z ^^^ (z >>> 13)
  let z := z * 0xC2B2AE35#32
  z ^^^ (z >>> 16)

/-- The random bits of destination value v at firing n. -/
def laneRandom (seed : W32) (n v : Nat) : Nat := fieldN (mix32 (seed + w32 ((1024 * n + v) * 0x9E3779B9))) 24 8

/-! ### Companding (R61) -/

/-- A companding table: 17 input and 17 output knots. -/
structure Compand where
  u : List Mag
  w : List Mag
  deriving DecidableEq, Repr

/-- The curve with knots u over knots w: the segment of a, the last one extended. -/
def curve (u w : List Mag) (a : Mag) : Mag :=
  let j := (upTo 15).foldl (fun j k => if ((u[k + 1]?).getD Mag.zero).le a then k + 1 else j) 0
  let knot (l : List Mag) (k : Nat) := (l[k]?).getD Mag.zero
  (knot w j).add (((a.sub (knot u j)).mul ((knot w (j + 1)).sub (knot w j))).div ((knot u (j + 1)).sub (knot u j)))

/-- C, when there is a table. -/
def Compand.fwd (c : Option Compand) (a : Mag) : Mag := (c.map fun c => curve c.u c.w a).getD a

/-- C⁻¹, when there is a table. -/
def Compand.bwd (c : Option Compand) (a : Mag) : Mag := (c.map fun c => curve c.w c.u a).getD a

/-- A table from its knots; `none` when they are not finite, not strictly increasing, or do not start at +0 (R61). -/
def Compand.ofKnots (u w : List W32) : Option Compand :=
  let mags (l : List W32) := l.filterMap fun v => match f32Val v with
    | .fin false m => some m
    | _ => none
  let rising (l : List Mag) := (l.zip (l.drop 1)).all fun p => p.1.lt p.2
  let a := mags u
  let b := mags w
  if a.length = 17 ∧ b.length = 17 ∧ u.head? = some 0#32 ∧ w.head? = some 0#32 ∧ rising a ∧ rising b then some ⟨a, b⟩ else none

/-! ### Quantisation (R59, R67) -/

/-- The outcome of one Quantise: its encoding, whether it saturated and whether it underflowed (R75, R76). -/
structure Quantised where
  code : Nat
  sat : Bool
  uflow : Bool
  deriving DecidableEq, Repr

/-- Quantise of R67 in a rounding mode. -/
def quantise (f : Fmt) (scale : Fp) (ct : Option Compand) (mode rnd : Nat) (x : Fp) : Quantised :=
  match x, scale with
  | .nan, _ => ⟨f.nanCode, false, false⟩
  | .inf s, .fin t _ => ⟨f.encode (s != t) f.max, false, false⟩
  | .fin s m, .fin t k =>
    let neg := s != t
    let y := Compand.fwd ct (m.div k)
    let q := y.roundAt (f.spacing y) mode rnd neg
    if q.le f.max then ⟨f.encode neg q, false, m.n != 0 && q.n == 0⟩ else ⟨f.encode neg f.max, true, false⟩
  | _, _ => ⟨f.nanCode, false, false⟩

/-- The decoded value of a rung or channel encoding (R67): exact, in the extended exponent range. -/
def rungValue (f : Fmt) (scale : Fp) (ct : Option Compand) (v : Nat) : Fp :=
  match f.decode v with
  | .nan => .nan
  | .inf s => scale.mul (.inf s)
  | .fin s m => scale.mul ((f32Val (roundF32 0 (.fin false (Compand.bwd ct m)))).mul (.fin s (.dyadic 1 0)))

/-- emax of R59, by code. -/
def emaxOf (code : Nat) : Int :=
  match code with
  | 5 => 8
  | 6 => 15
  | 7 => 4
  | 8 | 9 => 2
  | _ => 0

/-- The exponent X of a block (R59). -/
def blockExp (code : Nat) (xs : List Fp) : Int :=
  let amax := xs.foldl (fun a x => match x with
    | .fin _ m => if a.lt m then m else a
    | _ => a) Mag.zero
  if amax.n = 0 then 0 else min (Max.max (amax.log2 - emaxOf code) (-127)) 127

/-- 2^X as a value. -/
def pow2Fp (x : Int) : Fp := .fin false (.dyadic 1 x)

/-- The scale byte of a block: 0xFF when an element is NaN (R59). -/
def blockScale (code : Nat) (xs : List Fp) : Nat := if xs.any Fp.isNan then 0xFF else (blockExp code xs + 127).toNat

/-- The value of an E8M0 byte (R56). -/
def scaleVal (b : Nat) : Fp := if b = 0xFF then .nan else pow2Fp ((b : Int) - 127)

/-- A channel: its code, its scale register, its companding table (R60). -/
structure Chan where
  code : Nat
  sc : Fp
  ct : Option Compand
  deriving DecidableEq, Repr

def Chan.fmt (c : Chan) : Fmt := codeFmt c.code

/-- The scale of a value that is not microscaled: the channel's register for codes 10 and 11, else 1. -/
def Chan.scale (c : Chan) : Fp := if c.code = 10 ∨ c.code = 11 then c.sc else .fin false (.dyadic 1 0)

end Sys2Proof.Machine
end

