-- ==== Sys2Proof/Machine/Elements.lean ====
section
/-!
DEFINITION. What each element operation computes from its operand strips (R234 to R246), as elements and stage programs
both use it.
-/

namespace Sys2Proof.Machine

/-- An operation as its word fixes it (R141), with its operands and what its folio and its lane generator give it. -/
structure ElemIn where
  op : Nat
  ty : Nat
  mode : Nat
  aux : Nat
  a : Strip
  b : Strip
  c : Strip
  chan : Nat → Chan
  rnd : Nat → Nat

namespace ElemIn

/-- Bits and number of the values of the lane type (R55). -/
def w (i : ElemIn) : Nat := laneBits i.ty
def n (i : ElemIn) : Nat := 4096 / i.w

def fmt (i : ElemIn) : Fmt := laneFmt i.ty

/-- SAT and U of an integer operation (R62). -/
def sat (i : ElemIn) : Bool := bitsN i.mode 0 1 == 1
def uns (i : ElemIn) : Bool := bitsN i.mode 1 1 == 1

/-- A result value by value from A and B (R234). -/
def map2 (i : ElemIn) (f : Nat → Nat → Nat) : Strip :=
  packVals i.w ((upTo i.n).map fun k => f (stripVal i.a i.w k) (stripVal i.b i.w k))

/-- A floating operation: exact result of A, B and C, rounded once (R236). -/
def float3 (i : ElemIn) (f : Fp → Fp → Fp → Fp) : Strip :=
  packVals i.w ((upTo i.n).map fun k =>
    let v (s : Strip) := i.fmt.decode (stripVal s i.w k)
    i.fmt.narrow i.mode false 0 (f (v i.a) (v i.b) (v i.c)))

/-- A value mask (R237): bit k of lane j from value k of lane j. -/
def mask (i : ElemIn) (p : Nat → Nat → Bool) : Strip :=
  let per := 32 / i.w
  ofLanes ((upTo 128).map fun j =>
    w32 (joinBits 1 ((upTo per).map fun k =>
      (p (stripVal i.a i.w (per * j + k)) (stripVal i.b i.w (per * j + k))).toNat)))

/-- An estimate, rounded to the lane type (R70). -/
def estimate (i : ElemIn) (f : Fp → W32) : Strip :=
  packVals i.w ((upTo i.n).map fun k =>
    let r := f (i.fmt.decode (stripVal i.a i.w k))
    if i.ty = 0 then r.toNat else i.fmt.narrow 0 false 0 (f32Val r))

/-- The class of R238. -/
def classOf (f : Fmt) (v : Nat) : Nat :=
  let neg := bitsN v (f.w - 1) 1 == 1
  match f.decode v with
  | .nan => 256
  | .inf s => if s then 1 else 128
  | .fin _ m =>
    if m.n = 0 then (if neg then 8 else 16)
    else if bitsN v f.mb f.eb = 0 then (if neg then 4 else 32)
    else (if neg then 2 else 64)

/-- An integer operation of two values read as integers (R239). DESIGN CHOICE: with SAT and U the values are read unsigned; R71 states
only the range of the clamp (log entry 108). -/
def intMap (i : ElemIn) (f : Int → Int → Int) : Strip :=
  i.map2 fun x y => intResult i.w i.sat i.uns (f (intOf i.w i.uns x) (intOf i.w i.uns y))

/-- A bitwise operation; a pred result has bits [31:1] zero (R55). -/
def bitMap (i : ElemIn) (f : Nat → Nat → Nat) : Strip := i.map2 fun x y => if i.ty = 9 then f x y % 2 else f x y

/-- The relations of R240. -/
def intRel (r : Nat) (x y : Int) : Bool :=
  match r with
  | 0 => decide (x = y)
  | 1 => decide (x ≠ y)
  | 2 => decide (x < y)
  | 3 => decide (x ≤ y)
  | 4 => decide (y < x)
  | _ => decide (y ≤ x)

/-- One value of a conversion from type `src` to type `dst` with SAT and U (R66, R241, R242). -/
def convert (src dst mode : Nat) (sat u : Bool) (rnd v : Nat) : Nat :=
  if isFloat src then
    if isFloat dst then (laneFmt dst).narrow mode sat rnd ((laneFmt src).decode v)
    else toInteger (laneBits dst) u mode rnd ((laneFmt src).decode v)
  else if isFloat dst then (laneFmt dst).narrow mode sat rnd (ofInteger (laneBits src) u v)
  else v

/-- Fields of fcvt, pack and unpack. -/
def dst (i : ElemIn) : Nat := bitsN i.aux 0 4
def part (i : ElemIn) : Nat := bitsN i.aux 4 3

/-- fcvt (R241). -/
def fcvt (i : ElemIn) : Strip :=
  packVals i.w ((upTo i.n).map fun k =>
    convert i.ty i.dst i.mode (bitsN i.aux 7 1 == 1) (bitsN i.aux 8 1 == 1) (i.rnd k) (stripVal i.a i.w k))

/-- pack (R242). DESIGN CHOICE: an integer pack with SAT and U reads its source unsigned; R242 states only the range of the clamp (log
entry 108). -/
def pack (i : ElemIn) : Strip :=
  let wT := laneBits i.dst
  packVals wT ((upTo (4096 / wT)).map fun v =>
    if i.part * i.n ≤ v ∧ v < (i.part + 1) * i.n then
      let x := stripVal i.a i.w (v - i.part * i.n)
      if isFloat i.ty then convert i.ty i.dst i.mode (bitsN i.aux 7 1 == 1) false (i.rnd v) x
      else if i.sat then intResult wT true i.uns (intOf i.w i.uns x)
      else x % 2 ^ wT
    else stripVal i.b wT v)

/-- unpack (R242). -/
def unpack (i : ElemIn) : Strip :=
  let wT := laneBits i.dst
  let nT := 4096 / wT
  packVals wT ((upTo nT).map fun v =>
    let x := stripVal i.a i.w (v + i.part * nT)
    if isFloat i.ty then (laneFmt i.dst).narrow 0 false 0 (i.fmt.decode x)
    else (BitVec.ofInt wT (intOf i.w i.uns x)).toNat)

/-- Fields of quant and dequant: CH, OUT, PART. -/
def ch (i : ElemIn) : Chan := i.chan (bitsN i.aux 0 5)
def qpart (i : ElemIn) : Nat := bitsN i.aux 6 7

/-- The 32 values of A in block b. -/
def blockOf (i : ElemIn) (b : Nat) : List Fp := (upTo 32).map fun j => f32Val (lane i.a (32 * b + j))

/-- quant (R243). -/
def quant (i : ElemIn) : Strip :=
  let c := i.ch
  let wT := c.fmt.w
  if bitsN i.aux 5 1 = 1 then
    ofBytes ((stripBytes i.b).mapIdx fun k b =>
      if 4 * i.qpart ≤ k ∧ k < 4 * i.qpart + 4 then BitVec.ofNat 8 (blockScale c.code (i.blockOf (k - 4 * i.qpart))) else b)
  else
    let scales := (upTo 4).map fun b => if isMx c.code then pow2Fp (blockExp c.code (i.blockOf b)) else c.scale
    packVals wT ((upTo (stripCount wT)).map fun v =>
      if 128 * i.qpart ≤ v ∧ v < 128 * i.qpart + 128 then
        let k := v - 128 * i.qpart
        (quantise c.fmt ((scales[k / 32]?).getD .nan) c.ct i.mode (i.rnd v) (f32Val (lane i.a k))).code
      else stripVal i.b wT v)

/-- dequant (R244). -/
def dequant (i : ElemIn) : Strip :=
  let c := i.ch
  let wT := c.fmt.w
  ofLanes ((upTo 128).map fun k =>
    let s := if isMx c.code then scaleVal (stripVal i.b 8 (4 * i.qpart + k / 32)) else c.scale
    roundF32 0 (rungValue c.fmt s c.ct (stripVal i.a wT (128 * i.qpart + k))))

/-- Operation codes and count of lred and scan (R246). -/
def rop (i : ElemIn) : Nat := bitsN i.aux 0 2
def count (i : ElemIn) : Nat := bitsN i.aux 8 10 + 1

/-- Values of A as lred and scan combine them: binary32, or n bits. -/
def wide (i : ElemIn) (v : Nat) : Nat :=
  if isFloat i.ty then fp32.narrow 0 false 0 (i.fmt.decode v) else v

/-- One step of lred and scan. -/
def combine (i : ElemIn) (x y : Nat) : Nat :=
  if isFloat i.ty then
    let p := fp32.decode x
    let q := fp32.decode y
    match i.rop with
    | 0 => fp32.narrow i.mode false 0 (p.add i.mode q)
    | 1 => fp32.narrow 0 false 0 (p.maxNum q)
    | _ => fp32.narrow 0 false 0 (p.minNum q)
  else
    let p := intOf i.w i.uns x
    let q := intOf i.w i.uns y
    match i.rop with
    | 0 => intResult i.w i.sat i.uns (p + q)
    | 1 => if p ≤ q then y else x
    | _ => if p ≤ q then x else y

/-- A combined value as the lane type holds it. -/
def narrowOut (i : ElemIn) (v : Nat) : Nat :=
  if isFloat i.ty ∧ i.ty ≠ 0 then i.fmt.narrow i.mode false 0 (fp32.decode v) else v

/-- The pairs of one level of the tree of R246. -/
def level (i : ElemIn) : List Nat → List Nat
  | x :: y :: l => i.combine x y :: i.level l
  | l => l

/-- The tree; ten levels reduce 1,024 values. -/
def tree (i : ElemIn) : Nat → List Nat → Nat
  | 0, l => l.headD 0
  | k + 1, l => i.tree k (i.level l)

def firsts (i : ElemIn) : List Nat := ((upTo i.count).map fun k => i.wide (stripVal i.a i.w k))

def lred (i : ElemIn) : Strip := packVals i.w (List.replicate i.n (i.narrowOut (i.tree 10 i.firsts)))

/-- Inclusive prefixes. -/
def prefixes (i : ElemIn) : List Nat → Nat → List Nat
  | [], _ => []
  | x :: l, s => i.combine s x :: i.prefixes l (i.combine s x)

def scan (i : ElemIn) : Strip :=
  match i.firsts with
  | [] => 0
  | x :: l => packVals i.w ((x :: i.prefixes l x).map i.narrowOut)

/-- iota (R245). -/
def iota (i : ElemIn) : Strip :=
  let start := signedN 12 (bitsN i.aux 0 12)
  let step := signedN 12 (bitsN i.aux 12 12)
  packVals i.w ((upTo i.n).map fun v =>
    let x : Int := start + v * step
    if i.ty = 0 then fp32.narrow 0 false 0 (.fin (decide (x < 0)) (.dyadic x.natAbs 0)) else (BitVec.ofInt i.w x).toNat)

/-- lsel (R245). DEDUCED: for pred the whole lane is copied, as R245 says, though R55 has bits [31:1] written 0 (log entry 107). -/
def lsel (i : ElemIn) : Strip :=
  let per := 32 / i.w
  packVals i.w ((upTo i.n).map fun v =>
    if bitAt (lane i.a (v / per)) (v % per) then stripVal i.b i.w v else stripVal i.c i.w v)

/-- The result strip of operation words 0x01 to 0x6A. -/
def result (i : ElemIn) : Strip :=
  match i.op with
  | 0x01 => i.float3 fun x y _ => x.add i.mode y
  | 0x02 => i.float3 fun x y _ => x.sub i.mode y
  | 0x03 => i.float3 fun x y _ => x.mul y
  | 0x04 => i.float3 fun x y z => (x.mul y).add i.mode z
  | 0x05 => i.float3 fun x y z => z.sub i.mode (x.mul y)
  | 0x06 => i.float3 fun x y _ => x.minNum y
  | 0x07 => i.float3 fun x y _ => x.maxNum y
  | 0x08 => i.float3 fun x _ _ => x.abs
  | 0x09 => i.float3 fun x _ _ => x.neg
  | 0x0A => i.mask fun x y => (i.fmt.decode x).rel (bitsN i.aux 0 3) (i.fmt.decode y)
  | 0x0B => i.estimate frcpOf
  | 0x0C => i.estimate frsqOf
  | 0x0D => i.estimate fexp2Of
  | 0x0E => i.estimate flog2Of
  | 0x0F => i.fcvt
  | 0x10 => i.map2 fun x _ => classOf i.fmt x
  | 0x40 => i.intMap fun x y => x + y
  | 0x41 => i.intMap fun x y => x - y
  | 0x42 => i.intMap fun x y => x * y
  | 0x43 => i.bitMap Nat.land
  | 0x44 => i.bitMap Nat.lor
  | 0x45 => i.bitMap Nat.xor
  | 0x46 => i.map2 fun x y => x * 2 ^ (y % i.w) % 2 ^ i.w
  | 0x47 => i.map2 fun x y => x / 2 ^ (y % i.w)
  | 0x48 => i.map2 fun x y => (BitVec.ofInt i.w (signedN i.w x / 2 ^ (y % i.w))).toNat
  | 0x49 => i.map2 fun x y => if intOf i.w i.uns x ≤ intOf i.w i.uns y then x else y
  | 0x4A => i.map2 fun x y => if intOf i.w i.uns x ≤ intOf i.w i.uns y then y else x
  | 0x4B => i.mask fun x y => intRel (bitsN i.aux 0 3) (intOf i.w i.uns x) (intOf i.w i.uns y)
  | 0x4C => i.map2 fun x _ => clz i.w x
  | 0x4D => i.map2 fun x _ => popCount i.w x
  | 0x60 => splat (lane i.a (bitsN i.aux 0 7))
  | 0x61 => ofLanes ((upTo 128).map fun k => lane i.a (fieldN (lane i.b k) 0 7))
  | 0x62 => ofLanes ((upTo 128).map fun k => lane i.a ((k + bitsN i.aux 0 7) % 128))
  | 0x63 => i.pack
  | 0x64 => i.unpack
  | 0x65 => i.quant
  | 0x66 => i.dequant
  | 0x67 => i.lred
  | 0x68 => i.scan
  | 0x69 => i.iota
  | _ => i.lsel

end ElemIn

end Sys2Proof.Machine
end

