-- ==== Sys2Proof/Machine/Fabric.lean ====
section
/-!
DEFINITION. What every unit of the fabric shares: routes, latches and output slots (R31), leaves and their end markers
(R253), held stores (R48), fabric faults (R49, R255, R389, R393), stream mismatches (R36) and the frame of a firing
(R32).
-/

namespace Sys2Proof.Machine

/-! ### Operation words (R141) -/

def FabUnit.ty (f : FabUnit) : Nat := fieldN f.word 52 4
def FabUnit.mode (f : FabUnit) : Nat := fieldN f.word 49 3
def FabUnit.srcA (f : FabUnit) : Nat := fieldN f.word 44 5
def FabUnit.srcB (f : FabUnit) : Nat := fieldN f.word 39 5
def FabUnit.srcC (f : FabUnit) : Nat := fieldN f.word 34 5
def FabUnit.dest (f : FabUnit) : Nat := fieldN f.word 29 5
def FabUnit.aux (f : FabUnit) : Nat := fieldN f.word 0 29

/-- Bits of aux. -/
def FabUnit.auxBits (f : FabUnit) (lo len : Nat) : Nat := bitsN f.aux lo len

/-! ### Units, latches, slots, routes (R31) -/

def State.modUnit (s : State) (u : UKey) (g : FabUnit → FabUnit) : State :=
  { s with units := updWhere (fun f => f.key == u) g s.units }

/-- The token in input latch k. -/
def FabUnit.latch (f : FabUnit) (k : Nat) : Option Token := (f.ins[k]?).join

/-- Output slot of a POUT. -/
def FabUnit.slot (f : FabUnit) (p : Nat) : Slot := f.outs[p]?.getD ⟨none, []⟩

def FabUnit.outFree (f : FabUnit) (p : Nat) : Bool := (f.slot p).tok.isNone

/-- The strip of a data token. -/
def Token.strip? (t : Token) : Option Strip :=
  match t with
  | .data v => some v
  | _ => none

/-- The strip in input latch k. -/
def FabUnit.strip? (f : FabUnit) (k : Nat) : Option Strip := (f.latch k).bind Token.strip?

/-- EOS stands in input latch k. -/
def FabUnit.eosAt (f : FabUnit) (k : Nat) : Bool := f.latch k == some .eos

/-- Input latch k becomes empty; a data or EOS token that is consumed is progress (R401). -/
def State.takeIn (s : State) (u : UKey) (k : Nat) : State :=
  let s := match s.unit? u with
    | some f =>
      match f.latch k with
      | some (.data _) => s.progress f.serial
      | some .eos => s.progress f.serial
      | _ => s
    | none => s
  s.modUnit u fun f => { f with ins := updAt f.ins k fun _ => none }

/-- Routes that leave an output. -/
def State.routesFrom (s : State) (u : UKey) (p : Nat) : List Route :=
  s.routes.filter fun r => r.pout == p && match r.src with
    | .unit a _ => a == u
    | .port _ _ => false

/-- A route leaves the output. -/
def State.routed (s : State) (u : UKey) (p : Nat) : Bool := !(s.routesFrom u p).isEmpty

/-- The route into an input. -/
def State.routeInto (s : State) (u : UKey) (k : Nat) : Option Route :=
  s.routes.find? fun r => r.dst == .unit u k

/-- Places a token in an output slot for some of its routes; with none, the token goes nowhere. -/
def State.emitOn (s : State) (u : UKey) (p : Nat) (t : Token) (ids : List Nat) : State :=
  if ids.isEmpty then s else s.modUnit u fun f => { f with outs := updAt f.outs p fun _ => ⟨some t, ids⟩ }

/-- Places a token in an output slot for every route that leaves it (R31). -/
def State.emit (s : State) (u : UKey) (p : Nat) (t : Token) : State := s.emitOn u p t ((s.routesFrom u p).map Route.id)

/-- The unit that sends what an input receives. -/
def State.feeder (s : State) (u : UKey) (k : Nat) : Option FabUnit :=
  match s.routeInto u k with
  | some r => match r.src with
    | .unit a _ => s.unit? a
    | .port _ _ => none
  | none => none

/-- The input is fed by an entry. -/
def State.fed (s : State) (u : UKey) (k : Nat) : Bool := (s.routeInto u k).isSome

/-- The input is fed directly by a delay line (R39). -/
def State.fedByDelay (s : State) (u : UKey) (k : Nat) : Bool := ((s.feeder u k).map fun f => f.op == 0x85).getD false

/-- The input is fed on the control network (R149, R453). -/
def State.fedByControl (s : State) (u : UKey) (k : Nat) : Bool := ((s.routeInto u k).map fun r => r.pout == 3).getD false

/-- The throttle level L (R443). -/
def State.throttle (s : State) : Nat := fieldN s.sys.mtherm 8 4

/-- A source at throttle level L that has sent 16 - L tokens sends a bubble next (R443). -/
def State.bubbleDue (s : State) (sent : Nat) : Bool := s.throttle != 0 && decide (16 - s.throttle ≤ sent)

/-- Of routes, those that a bubble may take: none into a delay line or into the back edge of a carry (R33). -/
def State.bubbleRoutes (s : State) (ids : List Nat) : List Nat :=
  ids.filter fun id => s.routes.any fun r => r.id == id && match r.dst with
    | .unit u k => !((s.unit? u).map fun g => g.op == 0x85 || g.op == 0x82 && k == 1).getD false
    | .port _ _ => true

/-- The folio's placement. -/
def State.resident? (s : State) (serial folio : Nat) : Option Resident :=
  s.residents.find? fun r => r.serial == serial && r.folio == folio

/-- Channel entry c of a folio, with its scale register and companding table (R60, R155). -/
def Resident.chan (r : Resident) (c : Nat) : Chan :=
  let e := (r.chans[c]?).getD 0#16
  let k := fieldN e 9 3
  ⟨fieldN e 0 4, f32Val ((r.scales[fieldN e 4 5]?).getD 0#32),
   if k = 0 then none
   else Compand.ofKnots ((upTo 17).map fun j => (r.knots[34 * (k - 1) + j]?).getD 0#32)
     ((upTo 17).map fun j => (r.knots[34 * (k - 1) + 17 + j]?).getD 0#32)⟩

/-- Channel entry c as a unit's folio has it. -/
def State.chanOf (s : State) (f : FabUnit) (c : Nat) : Chan :=
  match s.resident? f.serial f.folio with
  | some r => r.chan c
  | none => ⟨0, .nan, none⟩

/-- The unit fires in the running phase of its instance (R25). -/
def State.inPhase (s : State) (serial folio : Nat) : Bool :=
  ((s.inst? serial).map fun i => i.active && i.folios.any fun p => p.1 == folio).getD false

/-! ### Leaves (R48, R253) -/

/-- Units that a unit sends data to, ordering outputs apart. -/
def State.dataTargets (s : State) (u : UKey) : List UKey :=
  s.routes.filterMap fun r => match r.src, r.dst with
    | .unit a _, .unit b _ => if a = u ∧ r.pout < 2 then some b else none
    | _, _ => none

/-- Units reached from a frontier over data routes, `seen` included. -/
def State.grow (s : State) : Nat → List UKey → List UKey → List UKey
  | 0, _, seen => seen
  | n + 1, frontier, seen =>
    let fresh := (distinct (frontier.flatMap s.dataTargets)).filter fun u => !seen.contains u
    if fresh.isEmpty then seen else s.grow n fresh (seen ++ fresh)

/-- The units of the leaf whose head is h. -/
def State.leafSet (s : State) (h : UKey) : List UKey := s.grow 512 [h] []

/-- The counter is a leaf head (R252). -/
def FabUnit.isHead (f : FabUnit) : Bool :=
  match f.st with
  | .ctr use _ _ _ _ _ _ _ _ _ _ _ _ => use == 2
  | _ => false

/-- The head of the leaf a unit belongs to. -/
def State.leafOf (s : State) (f : FabUnit) : Option UKey :=
  ((s.units.filter fun h => h.serial == f.serial && h.isHead).find? fun h => (s.leafSet h.key).contains f.key).map FabUnit.key

/-- The end of a route lies in a set of units. -/
def Route.endsIn (r : Route) (l : List UKey) : Bool :=
  match r.dst with
  | .unit b _ => l.contains b
  | .port _ _ => false

/-- The leaf's sinks: units with a route out of the leaf, ordering routes included, and units with no data-network route
out. -/
def State.leafSinks (s : State) (h : UKey) : List UKey :=
  let l := s.leafSet h
  l.filter fun u =>
    let rs := (upTo 3).flatMap (s.routesFrom u)
    rs.isEmpty || rs.any fun r => !r.endsIn l

/-- Performs held stores in the order given (R48, R103). -/
def State.perform (s : State) (hs : List Held) : State :=
  hs.foldl (fun s h => s.put (tileMem h.tile h.off) (stripBytes h.data)) s

/-! ### Faults (R49, R255, R389, R393) -/

/-- Unit at an entry of a kind 6 frame (R154), measured from the controller. -/
def FabUnit.childAt (f : FabUnit) (lo : Nat) : Option UKey :=
  if fieldN f.frame (lo + 16) 1 = 0 then none
  else
    let dx := signedN 5 (fieldN f.frame (lo + 11) 5)
    let dy := signedN 5 (fieldN f.frame (lo + 6) 5)
    if (f.key.x : Int) + dx < 0 ∨ (f.key.y : Int) + dy < 0 then none
    else some ⟨f.key.q, ((f.key.x : Int) + dx).toNat, ((f.key.y : Int) + dy).toNat, fieldN f.frame lo 6⟩

/-- A seq, pipe or strm node. -/
def FabUnit.isCtl (f : FabUnit) : Bool := f.op == 0x88 || f.op == 0x89 || f.op == 0x8A

/-- Children of a controller, in order (R154). -/
def FabUnit.kids (f : FabUnit) : List UKey := if f.isCtl then (upTo 8).filterMap fun j => f.childAt (17 * j) else []

/-- The counter bound to a controller (R154). -/
def FabUnit.bound (f : FabUnit) : Option UKey := if f.isCtl then f.childAt 136 else none

/-- The controller that names a unit as a child. -/
def State.parentOf (s : State) (u : UKey) : Option FabUnit := s.units.find? fun f => f.kids.contains u

/-- The run of a leaf head that is under way, or else the run that the leaf's markers have reached at a unit. -/
def FabUnit.runNow (f : FabUnit) : Nat :=
  match f.st with
  | .ctr 2 _ _ _ _ run _ _ _ _ _ _ _ => run
  | _ => f.passed

/-- The index vector of a run, if it is under way. -/
def FabUnit.vecOf (f : FabUnit) (run : Nat) : List Nat := ((f.vecs.find? fun v => v.run == run).map fun v => v.own ++ v.outer).getD []

/-- The counter's own index in its run, as its last index token carried it. -/
def noteIdx (run : Nat) (idx : List Nat) (l : List IterVec) : List IterVec :=
  updWhere (fun v => v.run == run) (fun v => { v with own := idx }) l

/-- The iteration vector of a fault in a run of a leaf: the enclosing counter levels of that run, innermost first; empty outside a
leaf (R48, R49; log entry 23). -/
def State.iterVector (s : State) (f : FabUnit) (run : Nat) : List Nat :=
  match (s.leafOf f).bind s.unit? with
  | none => []
  | some h => (h.vecOf run).take 7

/-- FRITERk from an iteration vector (R389). -/
def iterWord (l : List Nat) (k : Nat) : W64 := w64 ((l[2 * k]?).getD 0 % 2 ^ 32 + (l[2 * k + 1]?).getD 0 % 2 ^ 32 * 2 ^ 32)

/-- A fault of an instance on a quire goes to the mailbox and to the instance's record, and the instance enters FAULTED
(R390, R393); its stalled word is abandoned. -/
def State.instFault (s : State) (serial q : Nat) (r : FaultRec) : State :=
  let s := s.modQuire q fun a =>
    let m := a.mbox.note r
    { a with mbox := m, mboxser := if a.mbox.v && m.unitId == a.mbox.unitId then a.mboxser else w32 serial,
             sevent := setBitTo a.sevent 0 true }
  match s.inst? serial with
  | none => s
  | some _ =>
    (s.dropAuto serial).modInst serial fun i =>
      { i with fault := i.fault.note r, stall := none, yieldReq := i.yieldReq && i.state == .faulted,
               state := if i.state = .run ∨ i.state = .placed then .faulted else i.state }

/-- Updates that rmw nodes of run `run` of a unit's leaf have performed (R104, R389). -/
def State.updates (s : State) (f : FabUnit) (run : Nat) : Nat :=
  match s.leafOf f with
  | none => 0
  | some h =>
    let set := s.leafSet h
    (s.units.filter fun g => set.contains g.key).foldl (fun n g =>
      n + ((g.upds.find? fun e => e.1 == run).map Prod.snd).getD 0) 0

/-- The delta of a tile's pass is discarded: a pass that is closed is over; of one that is open the rows to come are dropped too, which
the mmac still counts (R49, R272). -/
def MTile.discard (m : MTile) : MTile :=
  match m.pass with
  | .opened => if m.aStrips.isEmpty then m else { m with lost := true }
  | .replay _ _ _ _ _ _ _ _ _ => { m with pass := .opened, aStrips := [] }

/-- The pass of a tile is of the run in which a unit faults: its mmac lies outside the unit's leaf, or stands in that run of it. -/
def State.holdsRun (s : State) (t : TKey) (u : UKey) (set : List UKey) (run : Nat) : Bool :=
  match s.units.find? fun g => g.op == 0xB2 && g.key.tile == t with
  | some g => g.key == u || !set.contains g.key || g.passed == run
  | none => true

/-- A unit faults in run `run` of its leaf: it fires no more and has passed no later run, that invocation's held stores and its
tile's open delta are discarded, and the fault is recorded (R49, R255). -/
def State.unitFaultIn (s : State) (u : UKey) (run cause sub : Nat) (detail : W64) : State :=
  match s.unit? u with
  | none => s
  | some f =>
    let it := s.iterVector f run
    let r : FaultRec := { FaultRec.reset with
      cause := BitVec.ofNat 8 cause, sub := BitVec.ofNat 8 sub, origin := 1#2,
      unitId := unitWord f.folio f.fx f.fy f.key.slot f.op u.q,
      iter0 := iterWord it 0, iter1 := iterWord it 1, iter2 := iterWord it 2, iter3 := iterWord it 3,
      detail := detail, upd := w32 (s.updates f run), time := s.nsec, cyc := s.cycle }
    let leaf := s.leafOf f
    let set := (leaf.map s.leafSet).getD [u]
    let s := { s with
      helds := s.helds.filter fun h => !(h.serial == f.serial && some h.leaf == leaf && h.run == run),
      mtiles := updWhere (fun m => set.any (fun k => k.tile == m.key) && s.holdsRun m.key u set run) MTile.discard s.mtiles }
    ((s.modUnit u fun f => { f with dead := true, passed := min f.passed run }).noteEcc cause).instFault f.serial u.q r

/-- A unit faults in the run that its leaf's markers have reached at it, a leaf head in the run that it sends (R49, R116). -/
def State.unitFault (s : State) (u : UKey) (cause sub : Nat) (detail : W64) : State :=
  s.unitFaultIn u (((s.unit? u).map FabUnit.runNow).getD 0) cause sub detail

/-! ### Stream mismatches (R36, R39, R251, R254) -/

/-- EOS in input a while input b holds a data token. -/
def FabUnit.clash (f : FabUnit) (a b : Nat) : Bool := f.eosAt a && (f.strip? b).isSome

/-- EOS in one of two inputs and a data token in the other. -/
def FabUnit.clash2 (f : FabUnit) (a b : Nat) : Bool := f.clash a b || f.clash b a

/-- A predicate token's value (R34). -/
def Token.pred (t : Token) : Bool :=
  match t with
  | .data v => bitAt v 0
  | _ => false

/-- EOS in one of two inputs and a data token in the other, neither fed by a delay line (R39). -/
def State.clashes (s : State) (f : FabUnit) (a b : Nat) : Bool :=
  !s.fedByDelay f.key a && !s.fedByDelay f.key b && f.clash2 a b

/-- A stream mismatch stands in the unit's latches: for a merge, an EOS in pred or in the input that pred selects; for a gate,
only where its control input is fed on the data network and the token there is not discarded (R36, R248, R453); for every
other unit EOS on one input and data on another, delay-fed inputs apart. -/
def State.mismatch (s : State) (f : FabUnit) : Bool :=
  let due (k : Nat) : Bool := !s.fedByDelay f.key k
  match f.op with
  | 0x81 =>
    due 0 && (due 1 && f.clash 0 1 || due 2 && f.clash 0 2) ||
      ((f.strip? 0).map fun p => if bitAt p 0 then due 2 && f.eosAt 2 else due 1 && f.eosAt 1).getD false
  | 0x82 => s.clashes f 1 2
  | 0x83 => !s.fedByControl f.key 1 && due 0 && due 1 && (f.clash 1 0 || f.auxBits 0 3 == 0 && f.clash 0 1)
  | 0x80 | 0x86 | 0xB4 => s.clashes f 0 1
  | op => (decide (op < 0x80) || op == 0xC3) && (s.clashes f 0 1 || s.clashes f 0 2 || s.clashes f 1 2)

/-- Raises EOSMIS when a mismatch stands in the latches (R36, R254). -/
def State.checkEos (s : State) (u : UKey) : State :=
  match s.unit? u with
  | some f => if !f.dead && s.mismatch f then s.unitFault u 0x07 0x01 0 else s
  | none => s

/-! ### Leaf markers (R253) -/

/-- The leaf marker that stands in a latch of the unit. -/
def FabUnit.marker (f : FabUnit) : Option (UKey × Nat) :=
  f.ins.findSome? fun t => match t with
    | some (.leafEnd h r) => some (h, r)
    | _ => none

/-- The marker of head h stands in latch k. -/
def FabUnit.markedAt (f : FabUnit) (h : UKey) (k : Nat) : Bool :=
  match f.latch k with
  | some (.leafEnd a _) => a == h
  | _ => false

/-- Inputs by which the leaf's run reaches a unit: those fed from the leaf, not over an ordering output, and over a delay line
only where no other input is (R253; log entry 97). -/
def State.leafFed (s : State) (f : FabUnit) (h : UKey) (set : List UKey) : List Nat :=
  let ks := (upTo 3).filter fun k =>
    match s.routeInto f.key k with
    | some r => decide (r.pout < 2) && match r.src with
      | .unit a _ => a == h || set.contains a
      | .port _ _ => false
    | none => false
  let direct := ks.filter fun k => !s.fedByDelay f.key k
  if direct.isEmpty then ks else direct

/-- An input of a matrix tile that takes what a load node sends again: a marker that comes there says nothing of the run's data,
which reach the unit by its other inputs (R253, R264). -/
def FabUnit.refetches (f : FabUnit) (k : Nat) : Bool := f.op == 0xB0 && k == 1 || f.op == 0xB2 && k == 2

/-- Nothing that reached the unit earlier is still in it: no token, and no walk that a token started (the program of a store
node runs once from `go`, R282). -/
def FabUnit.idle (f : FabUnit) : Bool :=
  match f.st with
  | .carry loop retired _ _ _ _ => loop.isEmpty && retired.isEmpty
  | .prog w _ _ resend _ _ _ _ => (f.op == 0xC2 || !w.running) && resend.isEmpty
  | .ring _ count _ => count == 0
  | _ => true

/-- Passes the marker on once every earlier token has left the unit: consumed from the latches `ks`, sent on the routes that
stay in the leaf (R253). The ordering tokens of a store node follow its leaf's done (R101), so none of them holds it up. -/
def State.forwardMarker (s : State) (f : FabUnit) (h : UKey) (run : Nat) (set : List UKey) (ks : List Nat) : Option State :=
  let ids (p : Nat) := ((s.routesFrom f.key p).filter fun r => r.endsIn set).map Route.id
  if !f.outFree 0 || !f.outFree 1 || f.op != 0xC2 && !f.outFree 2 then none
  else
    let s := ks.foldl (fun s k => s.takeIn f.key k) s
    let s := (upTo 2).foldl (fun s p => s.emitOn f.key p (.leafEnd h run) (ids p)) s
    some (s.modUnit f.key fun f => { f with passed := f.passed + 1 })

/-- Passes a leaf marker through the unit, if one stands in it and can go on. In a delay line it takes its place behind the
tokens there; at an input over which it comes round again (over a delay line, or the loop inputs of a carry), or by which a matrix tile takes
strips sent again, it ends. -/
def State.passMarker (s : State) (f : FabUnit) : Option State :=
  match f.marker with
  | none => none
  | some (h, run) =>
    let set := s.leafSet h
    let ks := (s.leafFed f h set).filter fun k => !f.refetches k
    let ends (k : Nat) : Bool := if f.op = 0x82 then k != 0 else !ks.contains k
    let spent := (upTo 3).filter fun k => ends k && f.markedAt h k
    if !spent.isEmpty then some (spent.foldl (fun s k => s.takeIn f.key k) s)
    else match f.op, f.st with
    | 0x85, .delay stages => some ((s.takeIn f.key 0).modUnit f.key fun f => { f with st := .delay (stages ++ [.leafEnd h run]) })
    | _, _ =>
      if !f.idle then none
      else if f.op = 0x82 then s.forwardMarker f h run set [0]
      else if ks.all (f.markedAt h) then
        if f.op = 0xB1 then
          some (({ s with mtiles := updWhere (fun m => m.key == f.key.tile) (fun m => { m with path := m.path ++ [.leafEnd h run] }) s.mtiles } : State).takeIn
            f.key 0 |>.modUnit f.key fun f => { f with passed := f.passed + 1 })
        else s.forwardMarker f h run set ks
      else none

/-! ### Firing (R32, R254) -/

/-- The unit fires: its inputs are consumed, a waiting configuration or latch error is found (R254), and the firing is
noted for eviction (R29). -/
def State.firing (s : State) (f : FabUnit) (ks : List Nat) (go : State → State) : State :=
  let s := ks.foldl (fun s k => s.takeIn f.key k) s
  if f.cfgBad then s.unitFault f.key 0x07 0x03 0
  else if f.eccBad then s.unitFault f.key 0x07 0x04 0
  else
    let s := s.modUnit f.key fun f => { f with fired := s.cycle.toNat }
    go { s with residents := updWhere (fun r => r.serial == f.serial && r.folio == f.folio)
                  (fun r => { r with lastFire := s.cycle.toNat }) s.residents }

/-- A cut marker has reached the unit: it fires no more (R397). -/
def FabUnit.halted (f : FabUnit) : Bool := f.left || f.cut.any id

/-- A turn of a unit with one of the opcodes `ops`: a leaf marker passes first; else it acts when it is ready. A unit
that is not there, faulted, of another opcode, or outside its phase does nothing. -/
def unitTurn (u : UKey) (op : Nat) (act : FabUnit → State → State) (s : State) : Host.Outcome State Fault Refusal :=
  match s.unit? u with
  | none => .next s
  | some f =>
    if f.op != op || f.dead || f.halted || !s.inPhase f.serial f.folio then .next s
    else match s.passMarker f with
      | some t => .next t
      | none => .next (act f s)

/-! ### Elements (R232 to R246) -/

/-- The operand a source code of an element names: a latch, the immediate, zero, or nothing (R142). -/
def FabUnit.operand (f : FabUnit) (code : Nat) : Option Strip :=
  match code with
  | 24 => f.strip? 0
  | 25 => f.strip? 1
  | 26 => f.strip? 2
  | 27 => some (splat (immLane f.ty f.aux))
  | _ => some 0#4096

/-- Input latches an element reads (R232). -/
def FabUnit.reads (f : FabUnit) : List Nat :=
  (upTo 3).filter fun k => [f.srcA, f.srcB, f.srcC].contains (24 + k)

/-- An element fires when every latch it reads holds a data token and its output slot is free (R32, R232). -/
def elementAct (f : FabUnit) (s : State) : State :=
  match f.operand f.srcA, f.operand f.srcB, f.operand f.srcC with
  | some a, some b, some c =>
    if f.outFree 0 then
      s.firing f f.reads fun s =>
        let i : ElemIn := ⟨f.op, f.ty, f.mode, f.aux, a, b, c, s.chanOf f, laneRandom f.seed f.gen⟩
        let s := if f.mode = 4 then
            s.modUnit f.key fun f => { f with gen := (f.gen + 1) % 2 ^ 22 } else s
        s.emit f.key 0 (.data i.result)
    else s
  | _, _, _ => s

/-- Discarding a bubble (R33). -/
def State.dropBubble (s : State) (u : UKey) (k : Nat) : State :=
  match s.unit? u with
  | some f => if f.latch k = some .bubble then s.takeIn u k else s
  | none => s

/-- R33. -/
def execBubbleDiscard (u : UKey) (input : Nat) (s : State) : Host.Outcome State Fault Refusal := .next (s.dropBubble u input)

/-- R236. -/
def execFadd (u : UKey) (s : State) : Host.Outcome State Fault Refusal := unitTurn u 0x01 elementAct s

/-- R236. -/
def execFsub (u : UKey) (s : State) : Host.Outcome State Fault Refusal := unitTurn u 0x02 elementAct s

/-- R236. -/
def execFmul (u : UKey) (s : State) : Host.Outcome State Fault Refusal := unitTurn u 0x03 elementAct s

/-- R236. -/
def execFma (u : UKey) (s : State) : Host.Outcome State Fault Refusal := unitTurn u 0x04 elementAct s

/-- R236. -/
def execFnma (u : UKey) (s : State) : Host.Outcome State Fault Refusal := unitTurn u 0x05 elementAct s

/-- R236. -/
def execFmin (u : UKey) (s : State) : Host.Outcome State Fault Refusal := unitTurn u 0x06 elementAct s

/-- R236. -/
def execFmax (u : UKey) (s : State) : Host.Outcome State Fault Refusal := unitTurn u 0x07 elementAct s

/-- R236. -/
def execFabs (u : UKey) (s : State) : Host.Outcome State Fault Refusal := unitTurn u 0x08 elementAct s

/-- R236. -/
def execFneg (u : UKey) (s : State) : Host.Outcome State Fault Refusal := unitTurn u 0x09 elementAct s

/-- R237. -/
def execFcmp (u : UKey) (s : State) : Host.Outcome State Fault Refusal := unitTurn u 0x0A elementAct s

/-- R70. -/
def execFrcp (u : UKey) (s : State) : Host.Outcome State Fault Refusal := unitTurn u 0x0B elementAct s

/-- R70. -/
def execFrsq (u : UKey) (s : State) : Host.Outcome State Fault Refusal := unitTurn u 0x0C elementAct s

/-- R70. -/
def execFexp2 (u : UKey) (s : State) : Host.Outcome State Fault Refusal := unitTurn u 0x0D elementAct s

/-- R70. -/
def execFlog2 (u : UKey) (s : State) : Host.Outcome State Fault Refusal := unitTurn u 0x0E elementAct s

/-- R241. -/
def execFcvt (u : UKey) (s : State) : Host.Outcome State Fault Refusal := unitTurn u 0x0F elementAct s

/-- R238. -/
def execFclass (u : UKey) (s : State) : Host.Outcome State Fault Refusal := unitTurn u 0x10 elementAct s

/-- R239. -/
def execIadd (u : UKey) (s : State) : Host.Outcome State Fault Refusal := unitTurn u 0x40 elementAct s

/-- R239. -/
def execIsub (u : UKey) (s : State) : Host.Outcome State Fault Refusal := unitTurn u 0x41 elementAct s

/-- R239. -/
def execImul (u : UKey) (s : State) : Host.Outcome State Fault Refusal := unitTurn u 0x42 elementAct s

/-- R239. -/
def execIand (u : UKey) (s : State) : Host.Outcome State Fault Refusal := unitTurn u 0x43 elementAct s

/-- R239. -/
def execIor (u : UKey) (s : State) : Host.Outcome State Fault Refusal := unitTurn u 0x44 elementAct s

/-- R239. -/
def execIxor (u : UKey) (s : State) : Host.Outcome State Fault Refusal := unitTurn u 0x45 elementAct s

/-- R239. -/
def execIshl (u : UKey) (s : State) : Host.Outcome State Fault Refusal := unitTurn u 0x46 elementAct s

/-- R239. -/
def execIshr (u : UKey) (s : State) : Host.Outcome State Fault Refusal := unitTurn u 0x47 elementAct s

/-- R239. -/
def execIsra (u : UKey) (s : State) : Host.Outcome State Fault Refusal := unitTurn u 0x48 elementAct s

/-- R239. -/
def execImin (u : UKey) (s : State) : Host.Outcome State Fault Refusal := unitTurn u 0x49 elementAct s

/-- R239. -/
def execImax (u : UKey) (s : State) : Host.Outcome State Fault Refusal := unitTurn u 0x4A elementAct s

/-- R240. -/
def execIcmp (u : UKey) (s : State) : Host.Outcome State Fault Refusal := unitTurn u 0x4B elementAct s

/-- R239. -/
def execIclz (u : UKey) (s : State) : Host.Outcome State Fault Refusal := unitTurn u 0x4C elementAct s

/-- R239. -/
def execIpopc (u : UKey) (s : State) : Host.Outcome State Fault Refusal := unitTurn u 0x4D elementAct s

/-- R245. -/
def execBcast (u : UKey) (s : State) : Host.Outcome State Fault Refusal := unitTurn u 0x60 elementAct s

/-- R245. -/
def execPerm (u : UKey) (s : State) : Host.Outcome State Fault Refusal := unitTurn u 0x61 elementAct s

/-- R245. -/
def execLrot (u : UKey) (s : State) : Host.Outcome State Fault Refusal := unitTurn u 0x62 elementAct s

/-- R242. -/
def execPack (u : UKey) (s : State) : Host.Outcome State Fault Refusal := unitTurn u 0x63 elementAct s

/-- R242. -/
def execUnpack (u : UKey) (s : State) : Host.Outcome State Fault Refusal := unitTurn u 0x64 elementAct s

/-- R243. -/
def execQuant (u : UKey) (s : State) : Host.Outcome State Fault Refusal := unitTurn u 0x65 elementAct s

/-- R244. -/
def execDequant (u : UKey) (s : State) : Host.Outcome State Fault Refusal := unitTurn u 0x66 elementAct s

/-- R246. -/
def execLred (u : UKey) (s : State) : Host.Outcome State Fault Refusal := unitTurn u 0x67 elementAct s

/-- R246. -/
def execScan (u : UKey) (s : State) : Host.Outcome State Fault Refusal := unitTurn u 0x68 elementAct s

/-- R245. -/
def execIota (u : UKey) (s : State) : Host.Outcome State Fault Refusal := unitTurn u 0x69 elementAct s

/-- R245. -/
def execLsel (u : UKey) (s : State) : Host.Outcome State Fault Refusal := unitTurn u 0x6A elementAct s

end Sys2Proof.Machine
end

