-- ==== Sys2Proof/Machine/Legal.lean ====
section
/-!
DEFINITION. Which operation words are legal on which carrier (R55, R62, R141 to R145, R232 to R253, R256, R268, R277, R308
to R311). A word that is not legal raises FRAME at placement, with the subcause given here, or is rejected by `abind`.
-/

namespace Sys2Proof.Machine

/-- What an operation word stands on (R145, R147): an element slot, a router or controller slot, a matrix or memory tile, a
stage program. -/
inductive Carrier where
  | element
  | node
  | matrix
  | memory
  | stage
  deriving DecidableEq, Repr

/-- FRAME subcauses (R388). -/
def frField : Nat := 1
def frSlot : Nat := 2
def frOrder : Nat := 3
def frRoute : Nat := 4
def frOperand : Nat := 5
def frCtmono : Nat := 6
def frCapacity : Nat := 7
def frLadder : Nat := 8
def frMeasure : Nat := 9

/-- The subcause of a condition that must hold. -/
def need (sub : Nat) (b : Bool) : Option Nat := if b then none else some sub

/-- The first breach of a list of checks. -/
def firstOf (l : List (Option Nat)) : Option Nat := l.findSome? id

/-- What an element operation takes: sources read and sources that may be an immediate (A 1, B 2, C 4), lane types by bit,
how its rnd/flags field reads (0 RNE to RDN, 1 RNE to SR, 2 zero, 3 SAT and U, 4 by lane type), aux bits. -/
structure LaneRow where
  srcs : Nat
  imm : Nat
  types : Nat
  rnd : Nat
  aux : Nat
  deriving DecidableEq, Repr

def laneRow (op : Nat) : Option LaneRow :=
  match op with
  | 0x01 | 0x02 | 0x03 => some ⟨3, 3, 0x007, 0, 0⟩
  | 0x04 | 0x05 => some ⟨7, 7, 0x007, 0, 0⟩
  | 0x06 | 0x07 => some ⟨3, 3, 0x007, 2, 0⟩
  | 0x08 | 0x09 | 0x0B | 0x0C | 0x0D | 0x0E | 0x10 => some ⟨1, 0, 0x007, 2, 0⟩
  | 0x0A => some ⟨3, 0, 0x007, 2, 0x7⟩
  | 0x0F => some ⟨1, 0, 0x1DF, 1, 0x1FF⟩
  | 0x40 | 0x41 | 0x42 | 0x46 | 0x47 | 0x48 | 0x49 | 0x4A => some ⟨3, 3, 0x1C0, 3, 0⟩
  | 0x43 | 0x44 | 0x45 => some ⟨3, 3, 0x3C0, 3, 0⟩
  | 0x4B => some ⟨3, 0, 0x1C0, 3, 0x7⟩
  | 0x4C | 0x4D => some ⟨1, 1, 0x1C0, 3, 0⟩
  | 0x60 | 0x62 => some ⟨1, 0, 0x3FF, 2, 0x7F⟩
  | 0x61 => some ⟨3, 2, 0x3FF, 2, 0⟩
  | 0x63 => some ⟨3, 0, 0x0DF, 1, 0x1FF⟩
  | 0x64 => some ⟨1, 0, 0x1BE, 2, 0x1FF⟩
  | 0x65 => some ⟨3, 0, 0x001, 1, 0x1FFF⟩
  | 0x66 => some ⟨3, 0, 0x001, 2, 0x1FFF⟩
  | 0x67 | 0x68 => some ⟨1, 0, 0x1C7, 4, 0x3FF03⟩
  | 0x69 => some ⟨1, 0, 0x0C1, 2, 0xFFFFFF⟩
  | 0x6A => some ⟨7, 6, 0x3FF, 2, 0⟩
  | _ => none

/-- Pairs of fcvt (R241) and of pack (R242), wide type first. -/
def fcvtPairs : List (Nat × Nat) := [(0, 6), (1, 2), (1, 7), (2, 7), (3, 4), (3, 8), (4, 8)]

def packPairs : List (Nat × Nat) :=
  [(0, 1), (0, 2), (0, 3), (0, 4), (0, 5), (1, 3), (1, 4), (1, 5), (2, 3), (2, 4), (2, 5), (3, 5), (4, 5), (6, 7), (6, 8), (7, 8)]

/-- An operation word's fields. -/
structure OpWord where
  op : Nat
  ty : Nat
  rnd : Nat
  a : Nat
  b : Nat
  c : Nat
  dst : Nat
  aux : Nat
  deriving DecidableEq, Repr

def opWord (w : W64) : OpWord :=
  ⟨fieldN w 56 8, fieldN w 52 4, fieldN w 49 3, fieldN w 44 5, fieldN w 39 5, fieldN w 34 5, fieldN w 29 5, fieldN w 0 29⟩

/-- Integer lane types. -/
def isInt (ty : Nat) : Bool := ty == 6 || ty == 7 || ty == 8

/-- The rnd/flags field (R62, R239, R246). -/
def rndOk (w : OpWord) (k : Nat) : Bool :=
  if k = 3 ∨ (k = 4 ∧ isInt w.ty) then
    let satOk := w.op == 0x40 || w.op == 0x41 || w.op == 0x42 || k == 4
    let sat := w.rnd % 2 == 1
    let u := w.rnd / 2 % 2 == 1
    decide (w.rnd < 4) && (!sat || satOk) &&
      (!u || (sat && satOk) || k == 4 || w.op == 0x49 || w.op == 0x4A || w.op == 0x4B)
  else
    match k with
    | 0 | 4 => decide (w.rnd ≤ 3)
    | 1 => decide (w.rnd ≤ 4)
    | _ => w.rnd == 0

/-- aux of pack and unpack and their flags (R242). -/
def packOk (w : OpWord) : Bool :=
  let t := bitsN w.aux 0 4
  let part := bitsN w.aux 4 3
  let wide := if w.op = 0x63 then w.ty else t
  let thin := if w.op = 0x63 then t else w.ty
  packPairs.contains (wide, thin) && decide (part < laneBits wide / laneBits thin) && decide (w.aux < 512) &&
    if isInt w.ty then
      bitsN w.aux 7 2 == 0 && decide (w.rnd < 4) && (if w.op = 0x63 then w.rnd != 2 else w.rnd % 2 == 0)
    else decide (w.rnd ≤ if w.op = 0x63 then 4 else 0) && bitsN w.aux 8 1 == 0

/-- aux limits beyond the mask (R240, R241, R244, R246). -/
def auxOk (w : OpWord) : Bool :=
  match w.op with
  | 0x0F =>
    let t := bitsN w.aux 0 4
    (fcvtPairs.contains (w.ty, t) || fcvtPairs.contains (t, w.ty)) && bitsN w.aux 4 3 == 0 &&
      !(bitsN w.aux 7 1 == 1 && isInt t) && !(bitsN w.aux 8 1 == 1 && !isInt w.ty && !isInt t)
  | 0x4B => decide (bitsN w.aux 0 3 ≤ 5)
  | 0x66 => bitsN w.aux 5 1 == 0
  | 0x67 | 0x68 => bitsN w.aux 0 2 != 3 && decide (bitsN w.aux 8 10 + 1 ≤ 4096 / laneBits w.ty)
  | _ => true

/-- A source field: given exactly when read, an immediate only where allowed. -/
def srcOk (r : LaneRow) (bit v : Nat) : Bool :=
  (bitsN r.srcs bit 1 == 1) == (v != 31) && (v != 27 || bitsN r.imm bit 1 == 1)

/-- An element operation (R232 to R246, R308). -/
def laneFault (c : Carrier) (w : OpWord) : Option Nat :=
  match laneRow w.op with
  | none => some frField
  | some r =>
    let imm := w.a == 27 || w.b == 27 || w.c == 27
    firstOf [
      need frField (c != .stage || ((w.ty == 0 || w.ty == 6 || w.ty == 9) && w.rnd != 4 &&
        decide (w.op < 0x63 ∨ 0x66 < w.op) && (w.op != 0x0F || (w.ty == 0 && bitsN w.aux 0 4 == 6) || (w.ty == 6 && bitsN w.aux 0 4 == 0)))),
      need frField (bitsN r.types w.ty 1 == 1),
      need frOperand (srcOk r 0 w.a && (w.op == 0x66 || srcOk r 1 w.b) && srcOk r 2 w.c && !(w.op == 0x66 && w.b == 27)),
      need frOperand (w.dst != 31),
      need frOperand (c != .element || [w.a, w.b, w.c].any fun v => decide (24 ≤ v ∧ v ≤ 26)),
      if w.op = 0x63 ∨ w.op = 0x64 then need frField (packOk w)
      else firstOf [
        need frField (rndOk w r.rnd),
        need frField (if imm then immOk w.ty w.aux else w.aux == w.aux.land r.aux),
        need frField (auxOk w)]]

/-- Operands and aux of a router, controller, matrix, memory or stage-only operation: A, B, C and destination, 32 where the
entry gives several, and the aux bits (R247 to R253, R260, R261, R263, R268, R277, R311). -/
def fixedRow (op : Nat) : Option (Nat × Nat × Nat × Nat × Nat) :=
  match op with
  | 0x80 => some (24, 25, 31, 24, 0)
  | 0x81 => some (24, 25, 26, 24, 0)
  | 0x82 => some (24, 25, 26, 24, 0xF)
  | 0x83 => some (24, 25, 31, 24, 0x7)
  | 0x84 => some (32, 31, 31, 24, 0x1FFFF)
  | 0x85 => some (24, 31, 31, 24, 0xF)
  | 0x86 => some (24, 25, 31, 24, 0)
  | 0x87 => some (31, 31, 31, 24, 0)
  | 0x88 | 0x89 | 0x8A => some (31, 31, 31, 31, 0)
  | 0xA0 | 0xA1 | 0xA2 | 0xA3 => some (31, 31, 31, 32, 0)
  | 0xA4 => some (31, 31, 31, 32, 0x3)
  | 0xA5 => some (31, 31, 31, 32, 0)
  | 0xA6 | 0xA7 => some (32, 31, 31, 31, 0)
  | 0xA8 | 0xA9 => some (32, 31, 31, 31, 0x7)
  | 0xAA => some (31, 31, 31, 32, 0xF)
  | 0xB0 => some (24, 32, 31, 31, 0x1F)
  | 0xB1 => some (24, 25, 31, 24, 0xF)
  | 0xB2 => some (24, 25, 32, 32, 0x1FFFF)
  | 0xB3 => some (24, 31, 31, 24, 0x7F)
  | 0xB4 => some (24, 25, 31, 31, 0x7F)
  | 0xB5 => some (24, 31, 31, 31, 0x7F)
  | 0xC0 => some (32, 31, 31, 24, 0x7)
  | 0xC1 => some (32, 32, 31, 24, 0x3FFFFF)
  | 0xC2 => some (32, 25, 31, 32, 0xF)
  | 0xC3 => some (24, 25, 32, 32, 0x1F)
  | 0xC4 => some (24, 31, 31, 31, 0x7FFFFF)
  | 0xC5 => some (24, 25, 31, 24, 0)
  | _ => none

/-- The codes that the flags of an operation ask for where its row gives several. -/
def flagOperands (w : OpWord) : Bool :=
  let x (k : Nat) : Bool := bitsN w.aux k 1 == 1
  match w.op with
  | 0x84 => w.a == (if x 0 then 31 else 24)
  | 0xC0 => w.a == (if x 2 then 24 else 31)
  | 0xC1 => w.a == (if !x 2 || x 3 then 24 else 31) && w.b == (if x 4 then 25 else 31)
  | 0xC2 => w.a == (if x 2 then 31 else 24) && w.dst == (if x 3 then 24 else 31)
  | 0xC3 => w.c == (if bitsN w.aux 0 4 = 8 ∨ bitsN w.aux 0 4 = 10 then 26 else 31)
  | 0xA6 | 0xA7 | 0xA8 | 0xA9 => w.a != 31
  | 0xA0 | 0xA1 | 0xA2 | 0xA3 | 0xA4 | 0xA5 | 0xAA => w.dst != 31
  | _ => true

/-- Limits of fields of such an operation. -/
def flagFields (w : OpWord) : Bool :=
  let x (k : Nat) : Bool := bitsN w.aux k 1 == 1
  match w.op with
  | 0x84 => if x 0 then w.aux / 2 != 0 else w.aux == 0
  | 0xA4 => w.aux != 3
  | 0xA8 => decide (w.aux ≤ 5)
  | 0xB1 => w.aux % 8 != 0
  | 0xC1 => x 2 || !(x 3 || x 4 || x 5)
  | 0xC2 => x 2 || !x 3
  | 0xC3 => decide (bitsN w.aux 0 4 ≤ 12)
  | 0xC4 => bitsN w.aux 0 16 != 0
  | _ => true

/-- The lane type a stage-only operation has (R311), 0 for every other one. -/
def fixedType (op : Nat) : Nat :=
  match op with
  | 0xA0 | 0xA1 | 0xA2 | 0xA3 | 0xA4 => 6
  | 0xA5 | 0xA6 | 0xA7 => 9
  | _ => 0

/-- Source and destination codes that a carrier has (R142). -/
def carrierSrc (c : Carrier) (v : Nat) : Bool :=
  match c with
  | .stage => decide (v < 24) || v == 27 || v == 28 || v == 31
  | .element => decide (24 ≤ v ∧ v ≤ 28) || v == 31
  | _ => decide (24 ≤ v ∧ v ≤ 26) || v == 31

def carrierDst (c : Carrier) (v : Nat) : Bool :=
  match c with
  | .stage => decide (v < 16) || v == 31
  | _ => v == 24 || v == 31

/-- Opcodes of a carrier (R145, R147). -/
def carrierOp (c : Carrier) (op : Nat) : Bool :=
  match c with
  | .element => decide (0x01 ≤ op ∧ op ≤ 0x7F)
  | .node => decide (0x80 ≤ op ∧ op ≤ 0x9F)
  | .matrix => decide (0xB0 ≤ op ∧ op ≤ 0xBF)
  | .memory => decide (0xC0 ≤ op ∧ op ≤ 0xCF)
  | .stage => decide (0x01 ≤ op ∧ op ≤ 0x7F) || decide (0xA0 ≤ op ∧ op ≤ 0xAF)

/-- The first rule that an operation word breaks on a carrier, as a FRAME subcause. -/
def wordFault (c : Carrier) (word : W64) : Option Nat :=
  let w := opWord word
  if !carrierOp c w.op then some frField
  else if !(carrierSrc c w.a && carrierSrc c w.b && carrierSrc c w.c && carrierDst c w.dst) then some frOperand
  else match fixedRow w.op with
    | none => laneFault c w
    | some (a, b, d, e, m) =>
      let is (want v : Nat) : Bool := want == 32 || v == want
      firstOf [
        need frOperand (is a w.a && is b w.b && is d w.c && is e w.dst && flagOperands w),
        need frOperand (!(w.a == 27)),
        need frField (w.ty == fixedType w.op && w.rnd == 0 && w.aux == w.aux.land m && flagFields w)]

end Sys2Proof.Machine
end

