-- ==== Sys2Proof/Machine/Image.lean ====
section
/-!
DEFINITION. Images in memory: header and parts (R134, R157, R158), chain and stream records (R160), stage records' places
(R159), and folios as lists of configuration frames (R127, R129, R146 to R156).
-/

namespace Sys2Proof.Machine

/-! ### Parts (R158) -/

/-- Offset and size of a part: 0 text, 1 stage, 2 folio, 3 chain, 4 data, 5 colophon. -/
def partOff (h : BitVec 4096) (k : Nat) : Nat := fieldN h (512 + 64 * k) 32
def partSize (h : BitVec 4096) (k : Nat) : Nat := fieldN h (544 + 64 * k) 32

def Inst.nfolio (i : Inst) : Nat := fieldN i.header 160 16

/-- Bytes of an image as the device reads them. -/
def State.imageBytes (s : State) (w : Who) (image : W64) (off n : Nat) : Except DevErr (List Byte) :=
  s.devRead w (image + w64 off) n

/-! ### Frames (R146) -/

/-- A 256-bit frame. -/
structure Frame where
  kind : Nat
  x : Nat
  y : Nat
  slot : Nat
  pay : Payload
  deriving DecidableEq, Repr

def frameOf (l : List Byte) : Frame :=
  let v : BitVec 256 := BitVec.ofNat 256 (bytesNat l)
  ⟨fieldN v 252 4, fieldN v 249 3, fieldN v 246 3, fieldN v 240 6, v.extractLsb' 0 240⟩

/-- The frames that bytes hold. -/
def framesOf : Nat → List Byte → List Frame
  | 0, _ => []
  | n + 1, l => frameOf (l.take 32) :: framesOf n (l.drop 32)

/-- A folio: its header frame and its other frames, in image order. -/
abbrev Folio := List Frame

/-- The header's payload. -/
def Folio.head (f : Folio) : Payload := (f.head?.map Frame.pay).getD 0

/-- FRAMES of a folio header, at least 1. -/
def headFrames (p : Payload) : Nat := max 1 (fieldN p 10 9)

/-- The offset of folio n's record in the image: each record ends where its FRAMES says (R134, R148). -/
def State.folioOff (s : State) (w : Who) (image : W64) (off : Nat) : Nat → Except DevErr Nat
  | 0 => .ok off
  | n + 1 =>
    match s.folioOff w image off n with
    | .error e => .error e
    | .ok a => (s.imageBytes w image a 32).map fun l => a + 32 * headFrames (frameOf l).pay

/-- The bytes of folio n of an image, as they stand in it (R135). -/
def State.folioBytes (s : State) (w : Who) (image : W64) (header : BitVec 4096) (n : Nat) : Except DevErr (List Byte) :=
  match s.folioOff w image (partOff header 2) n with
  | .error e => .error e
  | .ok a => match s.imageBytes w image a 32 with
    | .error e => .error e
    | .ok l => s.imageBytes w image a (32 * headFrames (frameOf l).pay)

/-- FRAMES of folio n is the number of the frames in its record: after them comes another record's header frame, or the end of
the folio part (R134, R148). What cannot be read raises nothing here. -/
def State.framesMatch (s : State) (w : Who) (image : W64) (header : BitVec 4096) (n : Nat) : Bool :=
  let past := partOff header 2 + partSize header 2
  match s.folioOff w image (partOff header 2) (n + 1) with
  | .error _ => true
  | .ok e => e == past || decide (e + 32 ≤ past) && match s.imageBytes w image e 32 with
    | .ok l => (frameOf l).kind == 0
    | .error _ => true

/-- What the binder's reading of folio n does beside: walks, meters, fences (R386, R408, R420). -/
def State.folioTouch (s : State) (w : Who) (image : W64) (header : BitVec 4096) (n : Nat) : State :=
  let heads := (upTo (n + 1)).foldl (fun (t : State) k => match s.folioOff w image (partOff header 2) k with
    | .ok a => t.devTouch w (image + w64 a) 32
    | .error _ => t) s
  match s.folioOff w image (partOff header 2) n with
  | .error _ => heads
  | .ok a => match s.imageBytes w image a 32 with
    | .error _ => heads
    | .ok l => heads.devTouch w (image + w64 a) (32 * headFrames (frameOf l).pay)

/-- A folio from its bytes. -/
def folioOf (l : List Byte) : Folio := framesOf (l.length / 32) l

/-- Folio n of an instance's image as the binder reads it. -/
def State.folio (s : State) (i : Inst) (n : Nat) : Except DevErr Folio :=
  (s.folioBytes i.device i.image i.header n).map folioOf

/-! ### The header frame (R127, R148) -/

def Folio.id (f : Folio) : Nat := fieldN f.head 0 8
def Folio.shape (f : Folio) : Nat := fieldN f.head 8 2
def Folio.nports (f : Folio) : Nat := fieldN f.head 19 6
def Folio.rootBit (f : Folio) : Bool := bitAt f.head 25

/-- Width and height in slots of a shape. -/
def shapeW (shape : Nat) : Nat := if shape % 2 = 1 then 2 else 1
def shapeH (shape : Nat) : Nat := if 2 ≤ shape then 2 else 1

/-- Base slots that a shape may take in a quire, and the slots of its run from a base (R127). -/
def shapeBases (shape : Nat) : List Nat :=
  match shape with
  | 0 => [0, 1, 2, 3]
  | 1 => [0, 2]
  | 2 => [0, 1]
  | _ => [0]

def shapeRun (shape base : Nat) : List Nat :=
  match shape with
  | 0 => [base]
  | 1 => [base, base + 1]
  | 2 => [base, base + 2]
  | _ => [0, 1, 2, 3]

/-- The quire tile of a folio position (R11, R127). -/
def tileX (base x : Nat) : Nat := x + 4 * (base % 2)
def tileY (base y : Nat) : Nat := y + 4 * (base / 2)

/-- A port: out or in, its edge (0 north, 1 east, 2 south, 3 west) and k. -/
structure PortDef where
  out : Bool
  edge : Nat
  k : Nat
  deriving DecidableEq, Repr

def Folio.port (f : Folio) (j : Nat) : PortDef :=
  ⟨bitAt f.head (48 + 6 * j + 5), fieldN f.head (48 + 6 * j + 3) 2, fieldN f.head (48 + 6 * j) 3⟩

def Folio.ports (f : Folio) : List PortDef := (upTo (min 32 f.nports)).map f.port

/-- Port j is there and of a direction. -/
def Folio.hasPort (f : Folio) (out : Bool) (j : Nat) : Bool := decide (j < min 32 f.nports) && (f.port j).out == out

/-- The virtual position of a port (R129). -/
def PortDef.pos (p : PortDef) (shape : Nat) : Int × Int :=
  match p.edge with
  | 0 => (p.k, -1)
  | 1 => (4 * (shapeW shape : Nat), p.k)
  | 2 => (p.k, 4 * (shapeH shape : Nat))
  | _ => (-1, p.k)

/-- The folio tile that a port enters (R149). -/
def PortDef.tile (p : PortDef) (shape : Nat) : Nat × Nat :=
  match p.edge with
  | 0 => (p.k, 0)
  | 1 => (4 * shapeW shape - 1, p.k)
  | 2 => (p.k, 4 * shapeH shape - 1)
  | _ => (0, p.k)

/-! ### Nodes, programs, routes -/

/-- The frame of a kind at a place. -/
def Folio.at (f : Folio) (kind x y slot : Nat) : Option Frame :=
  f.find? fun a => a.kind == kind && a.x == x && a.y == y && a.slot == slot

def Frame.word (a : Frame) : W64 := a.pay.extractLsb' 0 64
def Frame.seed (a : Frame) : W32 := a.pay.extractLsb' 64 32

/-- Kind 1 frames. -/
def Folio.nodes (f : Folio) : List Frame := f.filter fun a => a.kind == 1

/-- The node at a place. -/
def Folio.node (f : Folio) (x y slot : Nat) : Option Frame := f.at 1 x y slot

/-- The operation at a place. -/
def Folio.op (f : Folio) (x y slot : Nat) : Option OpWord := (f.node x y slot).map fun a => opWord a.word

/-- The payload of a kind at a place, zero without a frame. -/
def Folio.payAt (f : Folio) (kind x y slot : Nat) : Payload := ((f.at kind x y slot).map Frame.pay).getD 0

/-- A route entry in use, with the tile of its frame. -/
structure RouteDef where
  x : Nat
  y : Nat
  pslot : Nat
  pout : Nat
  dx : Int
  dy : Int
  cslot : Nat
  cin : Nat
  deriving DecidableEq, Repr

/-- Route entry e of a kind 2 frame. -/
def Frame.route (a : Frame) (e : Nat) : Option RouteDef :=
  let at0 := 27 * e
  if bitAt a.pay (at0 + 26) then
    some ⟨a.x, a.y, fieldN a.pay (at0 + 20) 6, fieldN a.pay (at0 + 18) 2, signedN 5 (fieldN a.pay (at0 + 13) 5),
      signedN 5 (fieldN a.pay (at0 + 8) 5), fieldN a.pay (at0 + 2) 6, fieldN a.pay at0 2⟩
  else none

def Folio.routes (f : Folio) : List RouteDef :=
  (f.filter fun a => a.kind == 2).flatMap fun a => (upTo 8).filterMap a.route

/-- Where a route entry measures from: its tile, or the virtual position of its in port. -/
def Folio.routeFrom (f : Folio) (r : RouteDef) : Int × Int :=
  if r.pslot < 32 then (r.x, r.y) else (f.port (r.pslot - 32)).pos f.shape

/-- Where a route entry leads. -/
def Folio.routeTo (f : Folio) (r : RouteDef) : Int × Int := ((f.routeFrom r).1 + r.dx, (f.routeFrom r).2 + r.dy)

/-- The consumer's place. -/
def Folio.consumer (f : Folio) (r : RouteDef) : Nat × Nat × Nat :=
  ((f.routeTo r).1.toNat, (f.routeTo r).2.toNat, r.cslot)

/-- The position that an entry of a kind 6 frame names (R154). -/
def ctlPos (p : Payload) (x y lo : Nat) : Int × Int :=
  ((x : Int) + signedN 5 (fieldN p (lo + 11) 5), (y : Int) + signedN 5 (fieldN p (lo + 6) 5))

/-- The unit at an entry of a kind 6 frame (R154). -/
def ctlEntry (p : Payload) (x y lo : Nat) : Option (Nat × Nat × Nat) :=
  if !bitAt p (lo + 16) then none else some ((ctlPos p x y lo).1.toNat, (ctlPos p x y lo).2.toNat, fieldN p lo 6)

/-- The entry names no position west or north of the folio (R154). -/
def ctlInside (p : Payload) (x y lo : Nat) : Bool :=
  !bitAt p (lo + 16) || decide (0 ≤ (ctlPos p x y lo).1 ∧ 0 ≤ (ctlPos p x y lo).2)

/-- Children that a controller frame names. -/
def ctlChildren (p : Payload) (x y : Nat) : List (Nat × Nat × Nat) := (upTo 8).filterMap fun j => ctlEntry p x y (17 * j)

/-- A seq, pipe or strm opcode. -/
def isCtlOp (op : Nat) : Bool := op == 0x88 || op == 0x89 || op == 0x8A

/-- Controllers of a folio. -/
def Folio.ctls (f : Folio) : List Frame := f.nodes.filter fun a => isCtlOp (opWord a.word).op

/-- Nodes of a folio that have ROOT set (R154). -/
def Folio.roots (f : Folio) : Nat := (f.ctls.filter fun a => bitAt (f.payAt 6 a.x a.y a.slot) 157).length

/-! ### Channels and preloads (R155, R156) -/

def Folio.chan (f : Folio) (n : Nat) : BitVec 16 := (f.payAt 7 0 0 (33 + n / 15)).extractLsb' (16 * (n % 15)) 16

def Folio.scale (f : Folio) (n : Nat) : W32 := (f.payAt 7 0 0 (36 + n / 7)).extractLsb' (32 * (n % 7)) 32

/-- Knot j of table k, from 0. -/
def Folio.knot (f : Folio) (k j : Nat) : W32 := (f.payAt 7 0 0 (41 + 5 * k + j / 7)).extractLsb' (32 * (j % 7)) 32

/-- Preload frames at a place. -/
def Folio.preloads (f : Folio) (x y slot : Nat) : List Payload :=
  (f.filter fun a => a.kind == 8 && a.x == x && a.y == y && a.slot == slot).map Frame.pay

/-- Run j of a preload: first lane, lanes, value. -/
def preloadRun (p : Payload) (j : Nat) : Nat × Nat × W32 :=
  (fieldN p (8 + 46 * j) 7, fieldN p (8 + 46 * j + 7) 7 + 1, p.extractLsb' (8 + 46 * j + 14) 32)

/-- Runs of a stage. -/
def stageRuns (ps : List Payload) (stage : Nat) : List (Nat × Nat × W32) :=
  (ps.filter fun p => fieldN p 0 4 == stage).flatMap fun p => (upTo (min 5 (fieldN p 4 3))).map (preloadRun p)

/-- The token of a stage, if a frame names it. -/
def stageToken (ps : List Payload) (stage : Nat) : Option Strip :=
  if ps.any fun p => fieldN p 0 4 == stage then
    let rs := stageRuns ps stage
    some (ofLanes ((upTo 128).map fun l =>
      ((rs.find? fun r => decide (r.1 ≤ l ∧ l < r.1 + r.2.1)).map fun r => r.2.2).getD 0#32))
  else none

/-- Stages present, 0 on. -/
def stageCount (ps : List Payload) : Nat := ((upTo 16).filter fun k => (stageToken ps k).isSome).length

/-! ### Tiles a folio configures (R12) and live masks (R151, R152) -/

def Folio.tiles (f : Folio) : List (Nat × Nat) :=
  distinct ((f.filter fun a => decide (1 ≤ a.kind ∧ a.kind ≤ 6) || a.kind == 8).map fun a => (a.x, a.y))

/-- Tile frames: position and mask. -/
def Folio.live (f : Folio) : List (Nat × Nat × Nat) :=
  (f.filter fun a => (a.kind == 3 || a.kind == 4) && a.slot == 32).map fun a => (a.x, a.y, fieldN a.pay 0 16)

/-! ### Chain and stream records (R160) -/

/-- A record of the chain part. -/
structure ChainRec where
  type : Nat
  handle : Nat
  engine : Nat
  ffolio : Nat
  fport : Nat
  tfolio : Nat
  tport : Nat
  reserved : Bool
  deriving DecidableEq, Repr

def chainRec (l : List Byte) : ChainRec :=
  let v := bytesNat l
  ⟨bitsN v 0 2, bitsN v 2 4, bitsN v 6 3, bitsN v 16 8, bitsN v 24 5, bitsN v 32 8, bitsN v 40 5,
    bitsN v 9 7 != 0 || bitsN v 29 3 != 0 || bitsN v 45 19 != 0⟩

def chainRecs : Nat → List Byte → List ChainRec
  | 0, _ => []
  | n + 1, l => chainRec (l.take 8) :: chainRecs n (l.drop 8)

/-- The chain part of an image. -/
def State.chainPart (s : State) (w : Who) (image : W64) (h : BitVec 4096) : Except DevErr (List ChainRec) :=
  (s.imageBytes w image (partOff h 3) (partSize h 3)).map fun l => chainRecs (partSize h 3 / 8) l

end Sys2Proof.Machine
end

