-- ==== Sys2Proof/Machine/MatrixFeed.lean ====
section
/-!
DEFINITION. The arithmetic of a matrix tile: stored forms and slabs (R257 to R259, R270, R271), the feed converter with
its counts (R59, R67, R75, R76, R454), and the sum order with its absolute sums (R72, R73, R77).
-/

namespace Sys2Proof.Machine

/-- Dot-group depth of a format code (R15). -/
def depthOf (code : Nat) : Nat := if code = 1 ∨ code = 2 then 4 else if code = 9 ∨ code = 10 then 16 else 8

/-- K_t of R15. -/
def ktOf (code : Nat) : Nat := 64 * depthOf code

/-- N of R15. -/
def ntOf (code : Nat) : Nat := if depthOf code = 16 then 128 else 64

/-- Values of a strip in stored form (R258). -/
def valsPerStrip (code : Nat) : Nat := if (codeFmt code).w = 6 then 512 else 4096 / (codeFmt code).w

/-- What a tile's words and ladder fix: the stored channels, the rungs' channels, SPARSE, the budgets and c. -/
structure Geom where
  sa : Chan
  sb : Chan
  ra : List Chan
  rb : List Chan
  sparse : Bool
  satMax : Nat
  uflowMax : Nat
  cancMax : Nat
  cbits : Nat
  deriving DecidableEq, Repr

/-- The code of rung f. -/
def Geom.code (g : Geom) (f : Nat) : Nat := ((g.ra[f]?).map Chan.code).getD 0

def Geom.ks (g : Geom) : Nat := ktOf (g.code 0)
def Geom.ns (g : Geom) : Nat := ntOf (g.code 0)
def Geom.rungs (g : Geom) : Nat := g.ra.length
def Geom.pair (g : Geom) : Bool := depthOf (g.code 0) == 16

/-- Sub-passes along K and column halves at rung f (R257). -/
def Geom.nK (g : Geom) (f : Nat) : Nat := g.ks / ktOf (g.code f)
def Geom.nN (g : Geom) (f : Nat) : Nat := g.ns / ntOf (g.code f)

/-- Blocks of a row or column (R58, R258). -/
def Geom.blocks (g : Geom) : Nat := g.ks / 32

/-- Strips of an A row (R258), and rows after one scale strip (R58). -/
def Geom.rowStrips (g : Geom) : Nat := max 1 (g.ks / valsPerStrip g.sa.code)
def Geom.rowGroup (g : Geom) : Nat := 512 / g.blocks

/-- Value, scale and metadata strips of a B slab (R259). -/
def Geom.kv (g : Geom) : Nat := if g.sparse then g.ks / 2 else g.ks
def Geom.slabVals (g : Geom) : Nat := g.ns * g.kv / valsPerStrip g.sb.code
def Geom.slabScales (g : Geom) : Nat := if isMx g.sb.code then g.ns * g.blocks / 512 else 0
def Geom.slabMeta (g : Geom) : Nat := if g.sparse then g.ns * g.ks / 4096 else 0
def Geom.slabStrips (g : Geom) : Nat := g.slabVals + g.slabScales + g.slabMeta

/-- Strips of 64 rows with their scale strips (R265). -/
def Geom.passStrips (g : Geom) : Nat :=
  64 * g.rowStrips + if isMx g.sa.code then (64 + g.rowGroup - 1) / g.rowGroup else 0

/-- Whole rows among n strips of a pass. -/
def Geom.rowsIn (g : Geom) (n : Nat) : Nat :=
  if isMx g.sa.code then
    let per := 1 + g.rowGroup * g.rowStrips
    n / per * g.rowGroup + (n % per - 1) / g.rowStrips
  else n / g.rowStrips

/-- Strips of n whole rows, their scale strips included. -/
def Geom.stripsIn (g : Geom) (n : Nat) : Nat := n * g.rowStrips + if isMx g.sa.code then (n + g.rowGroup - 1) / g.rowGroup else 0

/-- Value k of a sequence that strips carry (R258, R259). -/
def seqVal (code : Nat) (l : List Strip) (k : Nat) : Nat :=
  stripVal ((l[k / valsPerStrip code]?).getD 0) (codeFmt code).w (k % valsPerStrip code)

/-- Byte k of a sequence of strips. -/
def seqByte (l : List Strip) (k : Nat) : Nat := fieldN ((l[k / 512]?).getD 0) (8 * (k % 512)) 8

/-- The exact value of a stored element, `b` its scale byte when the form is MX (R67). -/
def Chan.value (c : Chan) (b e : Nat) : Fp := rungValue c.fmt (if isMx c.code then scaleVal b else c.scale) c.ct e

/-- Row r of a pass, from the pass's strips. -/
def Geom.row (g : Geom) (l : List Strip) (r : Nat) : List Fp :=
  let mx := isMx g.sa.code
  let per := 1 + g.rowGroup * g.rowStrips
  let base := if mx then r / g.rowGroup * per else 0
  let first := if mx then base + 1 + r % g.rowGroup * g.rowStrips else r * g.rowStrips
  let strips := (l.drop first).take g.rowStrips
  (upTo g.ks).map fun k =>
    g.sa.value (seqByte ((l.drop base).take 1) (g.blocks * (r % g.rowGroup) + k / 32)) (seqVal g.sa.code strips k)

/-- The four metadata bits of group j of column n (R270). -/
def Geom.metaOf (g : Geom) (l : List Strip) (n j : Nat) : Nat :=
  let m := l.drop (g.slabVals + g.slabScales)
  let bit := g.ks * n + 4 * j
  fieldN ((m[bit / 4096]?).getD 0) (bit % 4096) 4

/-- The first bad group in column order among the metadata strips that have come of a slab: column and group (R271). -/
def Geom.badGroup (g : Geom) (l : List Strip) : Option (Nat × Nat) :=
  if !g.sparse then none
  else
    let per := g.ks / 4
    ((upTo (g.ns * per)).find? fun i =>
      let v := g.metaOf l (i / per) (i % per)
      decide (g.slabVals + g.slabScales + (g.ks * (i / per) + 4 * (i % per)) / 4096 < l.length) && decide (v / 4 ≤ v % 4)).map fun i => (i / per, i % per)

/-- Column n of a slab, from the slab's strips; a K position that sparsity leaves out is `none` (R270). -/
def Geom.column (g : Geom) (l : List Strip) (n : Nat) : List (Option Fp) :=
  let val (j k : Nat) : Fp :=
    g.sb.value (seqByte (l.drop g.slabVals) (g.blocks * n + k / 32)) (seqVal g.sb.code l (g.kv * n + j))
  (upTo g.ks).map fun k =>
    if g.sparse then
      let v := g.metaOf l n (k / 4)
      if v % 4 = k % 4 then some (val (2 * (k / 4)) k)
      else if v / 4 = k % 4 then some (val (2 * (k / 4) + 1) k)
      else none
    else some (val k k)

/-! ### The feed converter -/

def Counts.add (a b : Counts) : Counts := ⟨a.sat + b.sat, a.uflow + b.uflow, a.canc + b.canc, a.forced || b.forced⟩

def Counts.sum (l : List Counts) : Counts := l.foldl Counts.add Counts.zero

/-- One value into a rung: its rung value and its counts (R67, R75, R76). `scale` is the one that quantises, `out` the one
that the element carries, NaN when another element of its block is. -/
def feedOne (c : Chan) (top : Bool) (scale out : Fp) (x : Fp) : Fp × Counts :=
  let q := quantise c.fmt scale c.ct 0 0 x
  let v := rungValue c.fmt out c.ct q.code
  match x with
  | .inf _ => if c.fmt.kind = 0 then (v, Counts.zero) else (v, ⟨1, 0, 0, !top⟩)
  | .nan =>
    if isMx c.code then (.nan, Counts.zero)
    else if c.fmt.kind ≤ 1 then (v, Counts.zero)
    else (v, ⟨1, 0, 0, !top⟩)
  | .fin _ _ => (v, ⟨q.sat.toNat, q.uflow.toNat, 0, false⟩)

/-- One block, or any values under one scale. -/
def feedBlock (c : Chan) (top : Bool) (xs : List (Option Fp)) : List (Option Fp) × Counts :=
  let ys := xs.filterMap id
  let scale := if isMx c.code then pow2Fp (blockExp c.code ys) else c.scale
  let out := if isMx c.code && ys.any Fp.isNan then .nan else scale
  let r := xs.map fun x => x.map (feedOne c top scale out)
  (r.map fun x => x.map Prod.fst, Counts.sum (r.filterMap fun x => x.map Prod.snd))

/-- Blocks of 32, `n` of them. -/
def blocksOf {α : Type} : Nat → List α → List (List α)
  | 0, _ => []
  | n + 1, l => l.take 32 :: blocksOf n (l.drop 32)

/-- The same binding: format, companding and scale by their contents, whichever registers hold them (R60, R67). DESIGN CHOICE: R67
does not say whether two registers of equal contents are one binding (log entry 98). -/
def Chan.same (a b : Chan) : Bool := a.code == b.code && a.ct == b.ct && a.scale == b.scale

/-- Values of a stored form into a rung; a stored form that is the rung's passes through and counts nothing (R67, R454). -/
def feed (stored c : Chan) (top : Bool) (xs : List (Option Fp)) : List (Option Fp) × Counts :=
  if stored.same c then (xs, Counts.zero)
  else
    let bs := (blocksOf (xs.length / 32) xs).map (feedBlock c top)
    (bs.flatMap Prod.fst, Counts.sum (bs.map Prod.snd))

/-! ### The sum order -/

/-- T12 of R77. DESIGN CHOICE: above the FP32 maximum is tested before the truncation to 12 bits; R77 does not say which (log
entry 99). -/
def t12 (x : Fp) : Fp :=
  match x with
  | .nan => .nan
  | .inf _ => .fin false fp32.max
  | .fin s m =>
    if m.n = 0 ∨ m.lt (.dyadic 1 (-126)) then .fin false Mag.zero
    else if fp32.max.lt m then .fin s fp32.max
    else .fin s (m.roundAt (m.log2 - 11) 1 0 s)

/-- Products of a dot group; a K position left out enters none. -/
def products (a b : List (Option Fp)) : List Fp :=
  (a.zip b).filterMap fun p => match p.1, p.2 with
    | some x, some y => some (x.mul y)
    | _, _ => none

/-- The exact sum of a list from +0. -/
def exactSum (l : List Fp) : Fp := l.foldl (fun g x => g.add 0 x) (.fin false Mag.zero)

/-- One lane through the PE rows of a sub-pass: D and Σ (R72, R77). -/
def dotLane (d : Nat) : Nat → List (Option Fp) → List (Option Fp) → W32 × W32 → W32 × W32
  | 0, _, _, acc => acc
  | n + 1, a, b, (dv, sv) =>
    let ps := products (a.take d) (b.take d)
    let g := f32Val (roundF32 0 (exactSum ps))
    let dv := roundF32 0 ((f32Val dv).add 0 g)
    let sv := roundF32 0 (t12 ((f32Val sv).add 0 (t12 (exactSum (ps.map Fp.abs)))))
    dotLane d n (a.drop d) (b.drop d) (dv, sv)

/-- Sub-pass (h, sub) of a pass at rung f: the rows of `dm` and `sm` with columns of half h gone on, and the counts, A's
only in the first column half (R72, R454). -/
def Geom.subPass (g : Geom) (f h sub m : Nat) (a b : List Strip) (dm sm : List (List W32)) :
    List (List W32) × List (List W32) × Counts :=
  let top := f + 1 == g.rungs
  let ca := (g.ra[f]?).getD g.sa
  let cb := (g.rb[f]?).getD g.sb
  let kt := ktOf ca.code
  let nt := ntOf ca.code
  let cut {α : Type} (l : List α) : List α := (l.drop (sub * kt)).take kt
  let rows := (upTo m).map fun r => feed g.sa ca top (cut ((g.row a r).map some))
  let cols := (upTo nt).map fun n => feed g.sb cb top (cut (g.column b (h * nt + n)))
  let lane (r n : Nat) (o : W32 × W32) : W32 × W32 :=
    if n / nt = h then
      dotLane (depthOf ca.code) 64 ((rows[r]?).map Prod.fst |>.getD []) ((cols[n % nt]?).map Prod.fst |>.getD []) o
    else o
  let at0 (l : List (List W32)) (r n : Nat) : W32 := (((l[r]?).getD [])[n]?).getD 0#32
  let out := (upTo m).map fun r => (upTo g.ns).map fun n => lane r n (at0 dm r n, at0 sm r n)
  (out.map fun r => r.map Prod.fst, out.map fun r => r.map Prod.snd,
    (Counts.sum (cols.map Prod.snd)).add (if h = 0 then Counts.sum (rows.map Prod.snd) else Counts.zero))

/-- The lane is a cancellation (R77). -/
def cancels (c : Nat) (d s : W32) : Bool :=
  match f32Val d, f32Val s with
  | .fin _ x, .fin _ y => y.n != 0 && (x.mul (.dyadic (2 ^ c) 0)).lt y
  | _, _ => false

/-- Cancellations of a pass. -/
def Geom.cancellations (g : Geom) (dm sm : List (List W32)) : Nat :=
  ((dm.zip sm).map fun r => ((r.1.zip r.2).filter fun p => cancels g.cbits p.1 p.2).length).sum

/-- The pass is over budget at rung f (R78). -/
def Geom.overBudget (g : Geom) (f : Nat) (c : Counts) : Bool :=
  f + 1 != g.rungs &&
    (decide (g.satMax < c.sat) || decide (g.uflowMax < c.uflow) || decide (g.cancMax < c.canc) || c.forced)

/-- A matrix of +0. -/
def zeroRows (m n : Nat) : List (List W32) := List.replicate m (List.replicate n 0#32)

end Sys2Proof.Machine
end

