-- ==== Sys2Proof/Machine/FrameCheck.lean ====
section
/-!
DEFINITION. The checks of a folio at placement (R3, R25, R38, R60, R61, R128 to R131, R135, R142 to R156, R232, R243, R244,
R247 to R253, R256, R257, R265, R275, R277, R447): the FRAME subcause of the first rule that breaks, in the order below (log
entry 24).
-/

namespace Sys2Proof.Machine

/-! ### Header and frames -/

/-- Bits [hi:lo] of a payload are 0 (R3). -/
def clear (p : Payload) (lo len : Nat) : Bool := fieldN p lo len == 0

/-- The header frame (R146, R148). -/
def headerOk (f : Folio) (id : Nat) : Bool :=
  match f.head? with
  | none => false
  | some a =>
    a.kind == 0 && a.x == 0 && a.y == 0 && a.slot == 0 && f.id == id && fieldN a.pay 10 9 == f.length &&
      decide (f.length ≤ 256) && decide (f.nports ≤ 32) && clear a.pay 26 22 &&
      ((upTo 32).all fun j => decide (j < f.nports) || clear a.pay (48 + 6 * j) 6) &&
      (f.ports.all fun p => decide (p.k < 4 * if p.edge % 2 = 0 then shapeW f.shape else shapeH f.shape)) &&
      ((upTo f.ports.length).all fun i => (upTo i).all fun j =>
        !((f.port i).edge == (f.port j).edge && (f.port i).k == (f.port j).k))

/-- Tile kinds of R10. -/
def isMatrix (x y : Nat) : Bool := x % 2 == 0 && y % 2 == 0
def isMemory (x y : Nat) : Bool := x % 2 == 1 && y % 2 == 1

/-- The slot takes the frame's kind (R146, R147). -/
def slotOk (f : Folio) (a : Frame) : Bool :=
  let op := ((f.op a.x a.y a.slot).map OpWord.op).getD 0
  let element := !isMatrix a.x a.y && !isMemory a.x a.y
  decide (a.x < 4 * shapeW f.shape) && decide (a.y < 4 * shapeH f.shape) &&
    match a.kind with
    | 1 => decide (a.slot < 8) || (element && decide (a.slot < 16))
    | 2 => decide (24 ≤ a.slot ∧ a.slot ≤ 31)
    | 3 => isMatrix a.x a.y && (a.slot == 32 || (decide (a.slot < 8) && op == 0xB2))
    | 4 => isMemory a.x a.y && a.slot == 32
    | 5 => isMemory a.x a.y && decide (8 ≤ a.slot ∧ a.slot ≤ 11)
    | 6 => element && decide (0x87 ≤ op ∧ op ≤ 0x8A)
    | 7 => a.x == 0 && a.y == 0 && decide (33 ≤ a.slot ∧ a.slot ≤ 60)
    | 8 => element && (op == 0x84 || op == 0x85)
    | _ => false

/-- The key of the canonical order (R135). -/
def Frame.key (a : Frame) : Nat := a.y * 2 ^ 13 + a.x * 2 ^ 10 + a.slot * 2 ^ 4 + a.kind

/-- Canonical order; only preloads share a place and a kind. DESIGN CHOICE: two other frames with one place and kind break it, for
no rule names a subcause of their own (R135; log entry 100). -/
def orderOk (f : Folio) : Bool :=
  let l := f.drop 1
  (l.zip (l.drop 1)).all fun p => decide (p.1.key < p.2.key) || (p.1.key == p.2.key && p.1.kind == 8)

/-- The carrier of a node. -/
def carrierOf (a : Frame) : Carrier :=
  if isMatrix a.x a.y then .matrix else if isMemory a.x a.y then .memory else if a.slot < 8 then .element else .node

/-- Positions of a kind 7 frame in use, as w-bit fields. -/
def chanFieldsOk (a : Frame) : Bool :=
  if a.slot ≤ 35 then
    (upTo 15).all fun m =>
      let v := fieldN a.pay (16 * m) 16
      if 15 * (a.slot - 33) + m < 32 then
        decide (bitsN v 0 4 ≤ 12) && decide (bitsN v 9 3 ≤ 4) && bitsN v 12 4 == 0 &&
          (bitsN v 9 3 == 0 || decide (7 ≤ bitsN v 0 4 ∧ bitsN v 0 4 ≤ 10))
      else v == 0
  else
    let used (m : Nat) : Bool := if a.slot ≤ 40 then decide (7 * (a.slot - 36) + m < 32) else decide (7 * ((a.slot - 41) % 5) + m < 34)
    clear a.pay 224 16 && (upTo 7).all fun m => used m || clear a.pay (32 * m) 32

/-- A preload frame (R156). -/
def preloadOk (p : Payload) : Bool :=
  decide (fieldN p 4 3 ≤ 5) && clear p 7 1 && clear p 238 2 &&
    (upTo 5).all fun j =>
      if j < fieldN p 4 3 then decide ((preloadRun p j).1 + (preloadRun p j).2.1 ≤ 128) else clear p (8 + 46 * j) 46

/-- A counter's or controller's frame (R154). -/
def ctlFrameOk (f : Folio) (a : Frame) : Bool :=
  let op := ((f.op a.x a.y a.slot).map OpWord.op).getD 0
  if op = 0x87 then clear a.pay 227 13
  else
    let isOp (ok : Nat → Bool) (k : Nat × Nat × Nat) : Bool := ((f.op k.1 k.2.1 k.2.2).map fun w => ok w.op).getD false
    clear a.pay 158 82 && ((upTo 9).all fun j => ctlInside a.pay a.x a.y (17 * j)) && ((ctlChildren a.pay a.x a.y).all (isOp fun o => isCtlOp o || o == 0x87)) &&
      ((ctlEntry a.pay a.x a.y 136).all (isOp fun o => o == 0x87)) &&
      (if op = 0x89 then decide (1 ≤ fieldN a.pay 153 4 ∧ fieldN a.pay 153 4 ≤ 8) else clear a.pay 153 4)

/-- Reserved fields and limits of one frame's payload. DESIGN CHOICE: a seq, pipe or strm node with no kind 6 frame, for which R154
states no fault, is placed with no child, no bound counter and DEPTH 0 (log entry 121). -/
def payloadOk (f : Folio) (a : Frame) : Bool :=
  match a.kind with
  | 1 =>
    clear a.pay 96 144 && (clear a.pay 64 32 || (carrierOf a == .element && fieldN a.word 49 3 == 4)) &&
      ((opWord a.word).op != 0x87 || decide (1 ≤ fieldN (f.payAt 6 a.x a.y a.slot) 224 3))
  | 2 => clear a.pay 216 24 && (upTo 8).all fun e => bitAt a.pay (27 * e + 26) || clear a.pay (27 * e) 27
  | 3 => if a.slot = 32 then clear a.pay 16 224 else clear a.pay 86 154
  | 4 => clear a.pay 16 224
  | 5 =>
    clear a.pay 200 40 && clear a.pay 16 9 &&
      (upTo 4).all fun j => clear a.pay (40 + 40 * j + 16) 9 && clear a.pay (40 + 40 * j + 39) 1
  | 6 => ctlFrameOk f a
  | 7 => chanFieldsOk a
  | 8 => preloadOk a.pay
  | _ => false

/-! ### Channels (R60, R61, R243, R244) -/

/-- The channel entry as the folio's own tables give it. -/
def Folio.chanVal (f : Folio) (n : Nat) : Chan :=
  let e := f.chan n
  let k := fieldN e 9 3
  ⟨fieldN e 0 4, f32Val (f.scale (fieldN e 4 5)),
    if k = 0 then none
    else Compand.ofKnots ((upTo 17).map fun j => f.knot (k - 1) j) ((upTo 17).map fun j => f.knot (k - 1) (17 + j))⟩

/-- A bound scale register is finite and not zero. -/
def chanScaleOk (c : Chan) : Bool :=
  if c.code = 10 ∨ c.code = 11 then
    match c.sc with
    | .fin _ m => m.n != 0
    | _ => false
  else true

/-- quant and dequant against their channel entry. -/
def quantFault (f : Folio) (w : OpWord) : Option Nat :=
  if w.op ≠ 0x65 ∧ w.op ≠ 0x66 then none
  else
    let code := fieldN (f.chan (bitsN w.aux 0 5)) 0 4
    let part := bitsN w.aux 6 7
    firstOf [
      need frField (code != 0),
      need frField (if bitsN w.aux 5 1 = 1 then isMx code else decide (128 * part + 128 ≤ stripCount (codeFmt code).w)),
      need frOperand (w.op != 0x66 || (if isMx code then decide (24 ≤ w.b ∧ w.b ≤ 26) else w.b == 31))]

/-! ### Routes (R149, R232) -/

/-- Inputs that an operation word reads. -/
def OpWord.reads (w : OpWord) : List Nat := (upTo 3).filter fun k => [w.a, w.b, w.c].contains (24 + k)

/-- Outputs that a node has. -/
def OpWord.pouts (w : OpWord) : List Nat :=
  let data := if w.dst = 24 then [0] else []
  match w.op with
  | 0x80 | 0x82 => [0, 1]
  | 0x87 => [0, 3]
  | 0x88 | 0x89 | 0x8A => [3]
  | 0xB2 => data ++ [3]
  | 0xC1 => data ++ (if bitsN w.aux 4 1 = 1 then [1, 2] else [2])
  | 0xC2 => if bitsN w.aux 3 1 = 1 then data else [2]
  | 0xC3 => data ++ [2]
  | _ => data

/-- The input takes a route of the control network (R149, R453). -/
def takesControl (w : OpWord) (k : Nat) : Bool :=
  match w.op with
  | 0x83 | 0xB1 | 0xB2 => k == 1
  | 0xC1 => k == 1
  | 0xC4 => k == 0
  | _ => false

/-- The producer of a route entry: a node of its tile with that output, or an in port at its tile. DESIGN CHOICE: POUT of an entry from
an in port, which has no outputs of R149's list, must be 0 (log entry 119). -/
def producerOk (f : Folio) (r : RouteDef) : Bool :=
  if r.pslot < 32 then
    match f.op r.x r.y r.pslot with
    | some w => w.pouts.contains r.pout
    | none => false
  else f.hasPort false (r.pslot - 32) && r.pout == 0 && (f.port (r.pslot - 32)).tile f.shape == (r.x, r.y)

/-- The consumer of a route entry: an input that its operation reads, or an out port at its position. DESIGN CHOICE: CIN of an entry
to an out port, which has no inputs, must be 0 (R149; log entry 109). -/
def consumerOk (f : Folio) (r : RouteDef) : Bool :=
  let toE := f.routeTo r
  if r.cslot < 32 then
    decide (0 ≤ toE.1 ∧ toE.1 < 4 * (shapeW f.shape : Nat) ∧ 0 ≤ toE.2 ∧ toE.2 < 4 * (shapeH f.shape : Nat)) &&
      match f.op toE.1.toNat toE.2.toNat r.cslot with
      | some w => w.reads.contains r.cin && (r.pout != 3 || takesControl w r.cin)
      | none => false
  else f.hasPort true (r.cslot - 32) && r.cin == 0 && r.pout != 3 && toE == (f.port (r.cslot - 32)).pos f.shape

/-- Route entries into an input. -/
def Folio.into (f : Folio) (x y slot k : Nat) : List RouteDef :=
  f.routes.filter fun r => f.consumer r == (x, y, slot) && r.cin == k && decide (r.cslot < 32)

/-- Every input is fed exactly once; an mmac's in0 by its own mswap (R149, R256). -/
def nodeFed (f : Folio) (a : Frame) : Bool :=
  let w := opWord a.word
  w.reads.all fun k =>
    match f.into a.x a.y a.slot k with
    | [r] =>
      w.op != 0xB2 || k != 0 ||
        (r.pslot < 16 && r.dx == 0 && r.dy == 0 && r.pout == 0 && ((f.op a.x a.y r.pslot).map fun p => p.op == 0xB1).getD false)
    | _ => false

/-- A route leaves a node's output. -/
def Folio.leaves (f : Folio) (a : Frame) (pout : Nat) : Bool :=
  f.routes.any fun r => r.x == a.x && r.y == a.y && r.pslot == a.slot && r.pout == pout

/-- A gate fed on the data network has RANK 0 (R447). -/
def gateOk (f : Folio) (a : Frame) : Bool :=
  let w := opWord a.word
  w.op != 0x83 || w.aux % 8 == 0 || (f.into a.x a.y a.slot 1).all fun r => r.pout == 3

/-! ### Memory nodes (R275, R277) -/

/-- The slot of the program that a memory node uses. -/
def programSlot (a : Frame) : Option Nat :=
  let w := opWord a.word
  if w.op = 0xC0 ∨ ((w.op = 0xC1 ∨ w.op = 0xC2) ∧ bitsN w.aux 2 1 = 1) then some (8 + bitsN w.aux 0 2) else none

/-- A node's program is there, fits the pool it runs in, and no other node names it; ESL names a scratch slice. DESIGN CHOICE:
BASE[39:38] of a program that no node names, which runs in no pool, may be anything (R153; log entry 120). -/
def programOk (f : Folio) (scratch : Nat) (a : Frame) : Bool :=
  let w := opWord a.word
  let edge := w.op == 0xC1 && bitsN w.aux 5 1 == 1
  (match programSlot a with
    | none => true
    | some k =>
      (f.at 5 a.x a.y k).isSome && (edge || clear (f.payAt 5 a.x a.y k) 38 2) &&
        (f.nodes.filter fun b => b.x == a.x && b.y == a.y && programSlot b == some k).length == 1) &&
    (!edge || decide (bitsN w.aux 6 6 < scratch))

/-! ### Matrix tiles (R131, R151, R256, R257, R263, R265) -/

/-- Matrix nodes of an opcode in a tile. -/
def Folio.inTile (f : Folio) (x y op : Nat) : List Frame :=
  f.nodes.filter fun a => a.x == x && a.y == y && (opWord a.word).op == op

/-- The rungs' channels of a ladder frame. -/
def rungChans (f : Folio) (p : Payload) (lo : Nat) : List Chan :=
  (upTo (fieldN p 0 2)).map fun k => f.chanVal (fieldN p (lo + 10 * k) 5)

/-- What a tile's words and ladder fix, from the folio. -/
def Folio.geom (f : Folio) (mm ml : Frame) : Geom :=
  let p := f.payAt 3 mm.x mm.y mm.slot
  ⟨f.chanVal (bitsN (opWord mm.word).aux 11 5), f.chanVal (bitsN (opWord ml.word).aux 0 5), rungChans f p 2, rungChans f p 7,
    bitAt p 85, fieldN p 32 16, fieldN p 48 16, fieldN p 64 16, fieldN p 80 5⟩

/-- Rungs: bound channels of one format, each of less depth than the one before; stored forms no shallower than the top. -/
def ladderOk (g : Geom) : Bool :=
  let codes := g.ra.map Chan.code
  let top := g.code (g.rungs - 1)
  ((g.ra.zip g.rb).all fun p => p.1.code != 0 && p.1.code == p.2.code) &&
    ((codes.zip (codes.drop 1)).all fun p => decide (depthOf p.2 < depthOf p.1)) &&
    [g.sa.code, g.sb.code].all fun c => c == 0 || decide (depthOf top ≤ depthOf c)

/-- Fields of the mmac (R263, R265). -/
def mmacOk (g : Geom) (w : OpWord) : Bool :=
  let slot := bitsN w.aux 0 4
  let scnt := bitsN w.aux 4 4 + 1
  let arep := bitsN w.aux 16 1 == 1
  (!g.pair || (slot % 2 == 0 && scnt % 2 == 0)) && decide (slot + scnt ≤ 16) && bitsN w.aux 8 3 != 1 &&
    (arep || g.rungs == 1 || decide (g.passStrips ≤ 256))

def matrixFault (f : Folio) (x y : Nat) : Option Nat :=
  match f.inTile x y 0xB2, f.inTile x y 0xB0, f.inTile x y 0xB1 with
  | [], [], [] => none
  | [mm], [ml], [_] =>
    let g := f.geom mm ml
    let w := opWord mm.word
    let p := f.payAt 3 x y mm.slot
    let multi := decide (1 < g.rungs)
    firstOf [
      need frField ((f.at 3 x y mm.slot).isSome && g.rungs != 0 && (2 ≤ g.rungs || clear p 12 10) && (3 ≤ g.rungs || clear p 22 10)),
      need frLadder (ladderOk g),
      need frOperand ((w.c == if bitsN w.aux 16 1 = 1 ∧ multi = true then 26 else 31) &&
        ((opWord ml.word).b == if multi then 25 else 31)),
      need frField (mmacOk g w)]
  | _, _, _ => some frField

/-! ### Preloads and capacity (R38, R156) -/

/-- Depth of a delay node, 1 for a const. -/
def stagesOf (w : OpWord) : Nat := if w.op = 0x85 then bitsN w.aux 0 4 + 1 else 1

/-- Present stages are 0 to n - 1 with n within the depth; no two runs cover one lane of a stage. -/
def stagesOk (f : Folio) (a : Frame) : Bool :=
  let ps := f.preloads a.x a.y a.slot
  let n := stageCount ps
  decide (n ≤ stagesOf (opWord a.word)) && ((upTo n).all fun k => (stageToken ps k).isSome) &&
    (upTo n).all fun k =>
      let rs := stageRuns ps k
      (upTo rs.length).all fun i => (upTo i).all fun j =>
        match rs[i]?, rs[j]? with
        | some a, some b => decide (a.1 + a.2.1 ≤ b.1) || decide (b.1 + b.2.1 ≤ a.1)
        | _, _ => true

/-- Delay lines whose every stage is preloaded: the only units that add no free place to a cycle (R38; log entry 25). -/
def fullDelays (f : Folio) : List Frame :=
  f.nodes.filter fun a =>
    let w := opWord a.word
    w.op == 0x85 && stageCount (f.preloads a.x a.y a.slot) == stagesOf w

/-- Delays of a list that one of the list follows inside its tile. -/
def prune (f : Folio) : Nat → List Frame → List Frame
  | 0, l => l
  | n + 1, l =>
    prune f n (l.filter fun a => f.routes.any fun r =>
      r.x == a.x && r.y == a.y && r.pslot == a.slot && r.dx == 0 && r.dy == 0 &&
        l.any fun b => b.x == a.x && b.y == a.y && b.slot == r.cslot)

/-- Every cycle holds fewer tokens than its capacity: none runs through full delay lines of one tile alone (R38). -/
def capacityOk (f : Folio) : Bool := let l := fullDelays f; (prune f l.length l).isEmpty

/-! ### All checks -/

/-- The checks of a node's word and surroundings. -/
def nodeFault (f : Folio) (scratch : Nat) (a : Frame) : Option Nat :=
  firstOf [
    wordFault (carrierOf a) a.word,
    quantFault f (opWord a.word),
    need frField (programOk f scratch a && gateOk f a && stagesOk f a),
    need frOperand ((opWord a.word).op != 0xC3 || ((opWord a.word).dst == 24) == f.leaves a 0),
    need frRoute (nodeFed f a)]

/-- The FRAME subcause of a folio that is not legal. `scratch`: scratch slices of the partition. DESIGN CHOICE: more than 8 route
entries of one output, which R31 and R149 give no check for, are placed (log entry 117). -/
def folioFault (f : Folio) (id scratch : Nat) : Option Nat :=
  firstOf [
    need frField (headerOk f id),
    need frField (f.drop 1 |>.all fun a => decide (1 ≤ a.kind ∧ a.kind ≤ 8)),
    need frSlot (f.drop 1 |>.all (slotOk f)),
    need frOrder (orderOk f),
    need frField (f.drop 1 |>.all (payloadOk f)),
    need frField (!f.rootBit || f.roots != 0),
    need frField ((upTo 32).all fun c => chanScaleOk (f.chanVal c)),
    need frCtmono ((upTo 32).all fun c => fieldN (f.chan c) 9 3 == 0 || (f.chanVal c).ct.isSome),
    need frRoute (f.routes.all fun r => producerOk f r && consumerOk f r),
    firstOf (f.nodes.map (nodeFault f scratch)),
    firstOf ((f.nodes.filter fun a => isMatrix a.x a.y).map fun a => matrixFault f a.x a.y),
    need frCapacity (capacityOk f)]

end Sys2Proof.Machine
end

