-- ==== Sys2Proof/Machine/Routers.lean ====
section
/-!
DEFINITION. Router and controller nodes: steer, merge, carry, gate, const, delay, ord, counters and the controller tree
(R34 to R43, R247 to R253, R453), and the end of stream at elements and routers (R36, R39, R44).
-/

namespace Sys2Proof.Machine

def State.setSt (s : State) (u : UKey) (n : NodeSt) : State := s.modUnit u fun f => { f with st := n }

/-- The unit's part in the phase has ended. -/
def State.setEnded (s : State) (u : UKey) : State := s.modUnit u fun f => { f with ended := true }

/-- Every output the unit has is free. -/
def FabUnit.outsFree (f : FabUnit) (ps : List Nat) : Bool := ps.all f.outFree

/-- Inputs `ks` are consumed, EOS goes out on outputs `ps`, and the unit's part has ended (R44). -/
def State.forwardEos (s : State) (f : FabUnit) (ks ps : List Nat) : State :=
  if f.outsFree ps then
    let s := ks.foldl (fun s k => s.takeIn f.key k) s
    (ps.foldl (fun s p => s.emit f.key p .eos) s).setEnded f.key
  else s

/-! ### steer, merge, carry (R34, R35, R36) -/

def steerAct (f : FabUnit) (s : State) : State :=
  match f.strip? 0, f.strip? 1 with
  | some p, some v =>
    let out := if bitAt p 0 then 0 else 1
    if f.outFree out then s.firing f [0, 1] fun s => s.emit f.key out (.data v) else s
  | _, _ => s

def mergeAct (f : FabUnit) (s : State) : State :=
  match f.strip? 0 with
  | none => s
  | some p =>
    let k := if bitAt p 0 then 2 else 1
    match f.strip? k with
    | none => s
    | some v => if f.outFree 0 then s.firing f [0, k] fun s => s.emit f.key 0 (.data v) else s

/-- Permit count P of a carry (R247). -/
def FabUnit.permits (f : FabUnit) : Nat := f.auxBits 0 4 + 1

/-- The oldest admitted token that has not left goes out, when it has finished (R35). -/
def carryExit (f : FabUnit) (s : State) : State :=
  match f.st with
  | .carry loop retired nextId nextExit a b =>
    match retired.find? fun e => e.1 == nextExit with
    | some e =>
      if f.outFree 1 then
        (s.emit f.key 1 e.2).setSt f.key (.carry loop (retired.filter fun e => e.1 != nextExit) nextId (nextExit + 1) a b)
      else s
    | none => s
  | _ => s

/-- The one action of a carry in a cycle, in the order of preference of R35. DEDUCED: while all P retire slots are taken, a back token
that has finished waits in its latch with its pred, and nothing else happens in that cycle; R35 does not say so (log entry 115). -/
def carryMain (f : FabUnit) (s : State) : State :=
  match f.st with
  | .carry loop retired nextId nextExit a b =>
    match f.strip? 1, f.strip? 2, loop with
    | some v, some p, k :: ks =>
      if bitAt p 0 then
        if f.outFree 0 then
          s.firing f [1, 2] fun s => (s.emit f.key 0 (.data v)).setSt f.key (.carry (ks ++ [k]) retired nextId nextExit a b)
        else s
      else if retired.length < f.permits then
        s.firing f [1, 2] fun s => s.setSt f.key (.carry ks (retired ++ [(k, .data v)]) nextId nextExit a b)
      else s
    | _, _, _ =>
      match f.strip? 0 with
      | some v =>
        if loop.length < f.permits ∧ f.outFree 0 then
          s.firing f [0] fun s =>
            (s.emit f.key 0 (.data v)).setSt f.key (.carry (loop ++ [nextId]) retired (nextId + 1) nextExit a b)
        else s
      | none => s
  | _ => s

def carryAct (f : FabUnit) (s : State) : State :=
  let s := carryExit f s
  match s.unit? f.key with
  | some f => carryMain f s
  | none => s

/-- End of stream at a carry (R36). -/
def carryEos (f : FabUnit) (s : State) : State :=
  match f.st with
  | .carry loop retired nextId nextExit a b =>
    if !a then
      if f.eosAt 0 && loop.isEmpty && f.outFree 0 then
        (s.emit f.key 0 .eos).setSt f.key (.carry loop retired nextId nextExit true b)
      else s
    else if !b then
      if retired.isEmpty && f.outFree 1 then (s.emit f.key 1 .eos).setSt f.key (.carry loop retired nextId nextExit a true) else s
    else if f.eosAt 1 && f.eosAt 2 then s.forwardEos f [0, 1, 2] []
    else s
  | _ => s

/-! ### gate, const, delay, ord (R248 to R251) -/

/-- A control token qualifies at a gate of rank `rank` (R248). -/
def Token.qualifies (rank : Nat) (t : Token) : Bool :=
  match t with
  | .endTok r _ => decide (rank ≤ r)
  | .permit _ => rank == 0
  | .doneTok _ => rank == 0
  | .data _ => rank == 0
  | _ => false

/-- A leaf marker. -/
def Token.isLeafEnd (t : Token) : Bool :=
  match t with
  | .leafEnd _ _ => true
  | _ => false

def gateAct (f : FabUnit) (s : State) : State :=
  match f.latch 1 with
  | none => s
  | some .eos => if s.fedByControl f.key 1 && (f.ended || !s.fedByDelay f.key 0) then s.takeIn f.key 1 else s
  | some t =>
    if t.isLeafEnd then s
    else if f.ended || !t.qualifies (f.auxBits 0 3) then s.takeIn f.key 1
    else match f.strip? 0 with
      | some v => if f.outFree 0 then s.firing f [0, 1] fun s => s.emit f.key 0 (.data v) else s
      | none => s

def constAct (f : FabUnit) (s : State) : State :=
  match f.st with
  | .const v left =>
    if f.auxBits 0 1 = 0 then
      match f.strip? 0 with
      | some _ => if f.outFree 0 then s.firing f [0] fun s => s.emit f.key 0 (.data v) else s
      | none => s
    else if f.ended ∨ !f.outFree 0 then s
    else if left = 0 then (s.emit f.key 0 .eos).setEnded f.key
    else s.firing f [] fun s => (s.emit f.key 0 (.data v)).setSt f.key (.const v (left - 1))
  | _ => s

/-- Every consumer of a unit's data output has ended; an out port never has (R39, R250). -/
def State.takersEnded (s : State) (u : UKey) : Bool :=
  (s.routesFrom u 0).all fun r => match r.dst with
    | .unit k _ => ((s.unit? k).map FabUnit.ended).getD true
    | .port _ _ => false

/-- Stages of a delay line (R250). -/
def FabUnit.depth (f : FabUnit) : Nat := f.auxBits 0 4 + 1

/-- The delay line emits its last stage, then takes one token (R37); a configuration or stage error that waits is found when it
does either (R254). A leaf marker that comes to the output goes on along the routes of its leaf and takes no stage (R253). -/
def delayAct (f : FabUnit) (s : State) : State :=
  match f.st with
  | .delay stages =>
    let marked := (stages.head?.map Token.isLeafEnd).getD false
    let emits := !stages.isEmpty && f.outFree 0
    let rest : List Token := if emits then stages.drop 1 else stages
    let room := decide ((rest.filter fun t => !t.isLeafEnd).length < f.depth)
    let takes := room && (f.strip? 0).isSome
    if (emits && !marked || takes) && (f.cfgBad || f.eccBad) then s.firing f (if takes then [0] else []) id
    else
      let s : State := match emits, stages with
        | true, .leafEnd h r :: _ =>
          let ids := ((s.routesFrom f.key 0).filter fun a => a.endsIn (s.leafSet h)).map Route.id
          (s.emitOn f.key 0 (.leafEnd h r) ids).modUnit f.key fun f => { f with passed := f.passed + 1 }
        | true, t :: _ => if t = .eos then (s.emit f.key 0 t).setEnded f.key else s.emit f.key 0 t
        | _, _ => s
      match f.latch 0 with
      | some (.data v) => if takes then s.firing f [0] fun s => s.setSt f.key (.delay (rest ++ [.data v])) else s.setSt f.key (.delay rest)
      | some .eos =>
        if s.takersEnded f.key then ((s.takeIn f.key 0).setSt f.key (.delay rest)).setEnded f.key
        else if room then (s.takeIn f.key 0).setSt f.key (.delay (rest ++ [.eos]))
        else s.setSt f.key (.delay rest)
      | _ => s.setSt f.key (.delay rest)
  | _ => s

def ordAct (f : FabUnit) (s : State) : State :=
  match f.strip? 0, f.latch 1 with
  | some v, some (.data _) => if f.outFree 0 then s.firing f [0, 1] fun s => s.emit f.key 0 (.data v) else s
  | _, _ => s

/-- The consumer of a delay line has ended: the token offered to it is discarded, and with the last consumer the line's
contents (R39). -/
def State.dropDelay (s : State) (u : UKey) (k : Nat) : State :=
  match s.routeInto u k, s.feeder u k with
  | some r, some d =>
    let s := (s.takeIn u k).modUnit d.key fun d =>
      { d with outs := updAt d.outs 0 fun o =>
          let todo := o.todo.erase r.id
          if todo.isEmpty then ⟨none, []⟩ else ⟨o.tok, todo⟩ }
    let s := { s with routes := updWhere (fun a => a.id == r.id) (fun a => { a with hops := a.hops.map fun _ => [] }) s.routes }
    if s.takersEnded d.key then
      s.modUnit d.key fun d => match d.st with
        | .delay stages => { d with st := .delay [], ended := d.ended || stages.contains .eos }
        | _ => d
    else s
  | _, _ => s

/-- End of stream at a unit that reads the inputs `ks`: once EOS stands in each of them that no delay line feeds, EOS goes out on
`ps`, and what the delay lines offer is discarded (R39, R44). -/
def State.eosOn (s : State) (f : FabUnit) (ks ps : List Nat) : State :=
  let late := ks.filter (s.fedByDelay f.key)
  let live := ks.filter fun k => !late.contains k
  let need := if live.isEmpty then late else live
  if need.all f.eosAt && f.outsFree ps then late.foldl (fun s k => s.dropDelay f.key k) (s.forwardEos f need ps) else s

/-- End of stream at an element (R39, R44). -/
def elementEos (f : FabUnit) (s : State) : State := s.eosOn f f.reads [0]

/-- End of stream at a gate: a control input fed on the control network does not count, unless a delay line feeds the data
(R39, R248, R453). -/
def gateEos (f : FabUnit) (s : State) : State :=
  if s.fedByControl f.key 1 && !s.fedByDelay f.key 0 then
    if f.eosAt 0 then s.forwardEos f [0, 1] [0] else s
  else s.eosOn f [0, 1] [0]

/-! ### Counters (R41 to R43, R252) -/

/-- A counter's nest: trip counts and index of its levels, level 1 first, and its bound queue. -/
structure Nest where
  trips : List W32
  idx : List Nat
  bounds : List (Nat × W32)
  deriving DecidableEq, Repr

/-- Trip count and index of level j, from 1. -/
def Nest.trip (n : Nest) (j : Nat) : Nat := ((n.trips[j - 1]?).getD 0#32).toNat

def Nest.at (n : Nest) (j : Nat) : Nat := (n.idx[j - 1]?).getD 0

def Nest.set (n : Nest) (j v : Nat) : Nest := { n with idx := updAt n.idx (j - 1) fun _ => v }

/-- Entry to level j: its index is 0 and it takes the oldest queued bound that names it (R43). -/
def Nest.entry (n : Nest) (j : Nat) : Nest :=
  let n := n.set j 0
  match n.bounds.find? fun b => b.1 == j with
  | some b => { n with trips := updAt n.trips (j - 1) fun _ => b.2, bounds := n.bounds.erase b }
  | none => n

/-- Goes on to the next index: `entering` says whether level j is entered next or has just ended, `top` is the highest
level entered so far, `rank` the highest level ended. A level that ended without an index token, with no bound queued for
it or a lower level, ends so each time (R41). Answers the nest, the rank of the end token if not 0, and whether the run is
over. -/
def Nest.next : Nat → Bool → Nat → Nat → Nat → Nest → Nest × Nat × Bool
  | 0, _, _, _, rank, n => (n, rank, true)
  | fuel + 1, true, j, top, rank, n =>
    if j = 0 then (n, rank, false)
    else
      let n := n.entry j
      if n.trip j = 0 then Nest.next fuel false j (max top j) (max rank j) n
      else Nest.next fuel true (j - 1) (max top j) rank n
  | fuel + 1, false, j, top, rank, n =>
    if n.trips.length ≤ j then (n, max rank j, true)
    else
      let empty := j ≠ 0 ∧ j ≤ top ∧ !n.bounds.any fun b => decide (b.1 ≤ j)
      let v := if empty then n.trip (j + 1) else n.at (j + 1) + 1
      let n := n.set (j + 1) v
      if v < n.trip (j + 1) then Nest.next fuel true j top rank n
      else Nest.next fuel false (j + 1) top (max rank (j + 1)) n

/-- A run starts: every level is entered, the outermost first. -/
def Nest.start (n : Nest) : Nest × Nat × Bool := Nest.next 256 true n.trips.length 0 0 n

/-- The index token has gone: the next index, or the end of levels. -/
def Nest.advance (n : Nest) : Nest × Nat × Bool := Nest.next 256 false 0 0 0 n

/-- The index token (R252). -/
def indexToken (n : Nest) (pos rank : Nat) : Strip :=
  ofLanes (((upTo 7).map fun j => w32 ((n.idx[j]?).getD 0)) ++ [w32 pos, w32 (2 ^ rank - 1)])

/-- A run of a counter starts (R252). -/
def NodeSt.startRun (c : NodeSt) : NodeSt :=
  match c with
  | .ctr use trips idx bounds pos run _ _ runs want ends marks fin =>
    let (n, rank, last) := Nest.start ⟨trips, idx, bounds⟩
    let ends := if rank = 0 then ends else ends ++ [(rank, pos)]
    .ctr use n.trips n.idx n.bounds pos (if last then run + 1 else run) (!last) (!last) runs want ends
      (if last ∧ use = 2 then marks ++ [run] else marks) fin
  | c => c

/-- One action of a counter (R252, R453): an end token, a leaf marker, an index token, a new run, or EOS. -/
def ctrAct (f : FabUnit) (s : State) : State :=
  match f.st with
  | .ctr use trips idx bounds pos run ready on runs want ends marks fin =>
    match ends, marks with
    | (rank, p) :: l, _ =>
      if f.outFree 3 then
        (s.emit f.key 3 (.endTok rank p)).setSt f.key (.ctr use trips idx bounds pos run ready on runs want l marks fin)
      else s
    | [], m :: l =>
      let set := s.leafSet f.key
      let ids := ((s.routesFrom f.key 0).filter fun r => r.endsIn set).map Route.id
      if f.outFree 0 then
        (s.emitOn f.key 0 (.leafEnd f.key m) ids).setSt f.key (.ctr use trips idx bounds pos run ready on runs want [] l fin)
      else s
    | [], [] =>
      if on ∧ ready then
        if (use = 1 ∧ want = 0) ∨ !f.outFree 0 then s
        else s.firing f [] fun s =>
          let n : Nest := ⟨trips, idx, bounds⟩
          let (m, rank, last) := n.advance
          ((s.emit f.key 0 (.data (indexToken n pos rank))).modUnit f.key fun f => { f with vecs := noteIdx run idx f.vecs }).setSt f.key
            (.ctr use m.trips m.idx m.bounds (pos + 1) (if last then run + 1 else run) (!last) (!last) runs (want - 1)
              (if rank = 0 then [] else [(rank, pos + 1)]) (if last ∧ use = 2 then [run] else []) fin)
      else if runs ≠ 0 ∧ use ≠ 1 then
        s.setSt f.key (NodeSt.ctr use trips idx bounds pos run ready on (runs - 1) want [] [] fin).startRun
      else if fin ∧ !f.ended ∧ f.outFree 0 ∧ f.outFree 3 then ((s.emit f.key 0 .eos).emit f.key 3 .eos).setEnded f.key
      else s
  | _ => s

/-! ### The controller tree (R40, R253, R453) -/

/-- A child receives a go-ahead permit with the index vector of the iteration it is for: a controller queues it, a leaf head is asked
for a run. -/
def FabUnit.permitted (v : List Nat) (f : FabUnit) : FabUnit :=
  match f.st with
  | .ctl p on it sent dones total fin e => { f with st := .ctl (p + 1) on it sent dones total fin e, given := f.given ++ [v] }
  | .ctr use trips idx bounds pos run ready on runs want ends marks fin =>
    { f with st := .ctr use trips idx bounds pos run ready on (runs + 1) want ends marks fin,
             vecs := f.vecs ++ [⟨run + on.toNat + runs, [], v⟩] }
  | _ => f

def State.permit (s : State) (v : List Nat) (u : UKey) : State := s.modUnit u (FabUnit.permitted v)

/-- A unit's done for a run goes to its parent, or is the root's done (R25, R40). -/
def State.sendDone (s : State) (f : FabUnit) : State :=
  match s.parentOf f.key with
  | some p =>
    let j := (findAt (fun k => k == f.key) p.kids).getD 0
    s.modUnit p.key fun p => match p.st with
      | .ctl a on it sent dones total fin e => { p with st := .ctl a on it sent (updAt dones j (· + 1)) total fin e }
      | _ => p
  | none => if f.isCtl ∧ fieldN f.frame 157 1 = 1 then s.modInst f.serial fun i => { i with rootDone := true } else s

/-- No further permit will come to a unit. -/
def State.finish (s : State) (u : UKey) : State :=
  s.modUnit u fun f => match f.st with
    | .ctl p on it sent dones total _ e => { f with st := .ctl p on it sent dones total true e }
    | .ctr use trips idx bounds pos run ready on runs want ends marks _ =>
      { f with st := .ctr use trips idx bounds pos run ready on runs want ends marks true }
    | _ => f

/-- What a controller may do next in its run, as its bound counter stands: whether another iteration can start now, and
whether none is left (R40). -/
def State.iterState (s : State) (f : FabUnit) (iter : Nat) : Bool × Bool :=
  match f.bound.bind s.unit? with
  | none => (iter == 0, iter != 0)
  | some c => match c.st with
    | .ctr _ _ _ _ _ _ ready on _ want _ _ _ => (on && ready && want == 0, !on && want == 0)
    | _ => (false, true)

/-- The permit rule of R40 for child j of a running controller: its permit for the next iteration may go. -/
def FabUnit.mayPermit (f : FabUnit) (iter : Nat) (sent dones : List Nat) (j : Nat) : Bool :=
  let s := (sent[j]?).getD 0
  let before := (dones[j - 1]?).getD 0
  let after := (dones[j + 1]?).getD 0
  match f.op with
  | 0x88 => decide (s + 1 = iter) && before == iter
  | 0x89 =>
    decide (s < iter) && decide (s < before) && (j + 1 == sent.length || decide (s < fieldN f.frame 153 4 + after))
  | _ => false

/-- Every child's done has come for every iteration started. -/
def allDone (iter : Nat) (dones : List Nat) : Bool := dones.all fun d => d == iter

/-- A new iteration may start, as far as the kind's permit rule goes (R40). -/
def FabUnit.mayStart (f : FabUnit) (iter : Nat) (dones : List Nat) : Bool :=
  if f.op = 0x89 then dones.length ≤ 1 || decide (iter < fieldN f.frame 153 4 + (dones[1]?).getD 0)
  else allDone iter dones

/-- The indices that a controller's bound counter sends next. -/
def State.boundIdx (s : State) (f : FabUnit) : List Nat :=
  match (f.bound.bind s.unit?).map FabUnit.st with
  | some (.ctr _ _ idx _ _ _ _ _ _ _ _ _ _) => idx
  | _ => []

/-- Iteration `iter` starts: permits on the control output and to the first child, or to every child of a strm. -/
def State.startIter (s : State) (f : FabUnit) (iter : Nat) : State :=
  let v : IterVec := ⟨iter, s.boundIdx f, f.given.head?.getD []⟩
  let s := (s.emit f.key 3 (.permit iter)).modUnit f.key fun f => { f with vecs := f.vecs ++ [v] }
  let s := match f.bound with
    | some c => s.modUnit c fun c => match c.st with
      | .ctr use trips idx bounds pos run ready on runs _ ends marks fin =>
        { c with st := .ctr use trips idx bounds pos run ready on runs 1 ends marks fin }
      | _ => c
    | none => s
  (if f.op = 0x8A then f.kids else f.kids.take 1).foldl (fun s u => s.permit (v.own ++ v.outer) u) s

/-- One action of a controller: a run begins, a child's permit goes, an iteration starts, the run ends, or EOS goes out
on the control output. A parity error of its configuration is found when it has a permit to serve (R254). -/
def ctlAct (f : FabUnit) (s : State) : State :=
  match f.st with
  | .ctl p on iter sent dones total fin eosSent =>
    if f.cfgBad && (on || p != 0) then s.firing f [] id
    else if !on then
      if p ≠ 0 then
        let s := match f.bound with
          | some c => s.modUnit c fun c => { c with st := c.st.startRun }
          | none => s
        let z := f.kids.map fun _ => 0
        s.setSt f.key (.ctl (p - 1) true 0 z z total fin eosSent)
      else if fin ∧ !eosSent ∧ f.outFree 3 then
        let s := (f.kids ++ f.bound.toList).foldl State.finish s
        ((s.emit f.key 3 .eos).setSt f.key (.ctl p on iter sent dones total fin true)).setEnded f.key
      else s
    else
      match (upTo sent.length).find? fun j => j != 0 && f.mayPermit iter sent dones j with
      | some j =>
        (s.setSt f.key (.ctl p on iter (updAt sent j (· + 1)) dones total fin eosSent)).permit (f.vecOf ((sent[j]?).getD 0))
          ((f.kids[j]?).getD f.key)
      | none =>
        let (can, last) := s.iterState f iter
        if can && f.mayStart iter dones then
          if f.outFree 3 then
            let sent := sent.mapIdx fun j n => if j = 0 ∨ f.op = 0x8A then n + 1 else n
            (s.setSt f.key (.ctl p on (iter + 1) sent dones total fin eosSent)).startIter f iter
          else s
        else if last && allDone iter dones then
          ((s.setSt f.key (.ctl p false iter sent dones (total + 1) fin eosSent)).modUnit f.key fun f =>
            { f with given := f.given.drop 1, vecs := [] }).sendDone f
        else s
  | _ => s

/-! ### The leaf's done (R48, R253) -/

/-- The head has sent the end marker of run k: the run is over and no earlier marker waits. -/
def FabUnit.markSent (f : FabUnit) (k : Nat) : Bool :=
  match f.st with
  | .ctr _ _ _ _ _ run _ _ _ _ _ marks _ => decide (k < run) && !marks.contains k
  | _ => false

/-- Ordering tokens that stores performed for consumers outside their leaf (R101): one for each store of a unit. -/
def State.creditStores (s : State) (hs : List Held) : State :=
  hs.foldl (fun s h => s.modUnit h.unitKey fun f => match f.st with
    | .prog w us r rs q fin re es => { f with st := .prog w us r rs (q + 1) fin re es }
    | _ => f) s

/-- The done of the oldest run whose marker has passed every leaf sink and in which no unit has faulted: its held stores perform in
order, and the parent has its done. A unit that faulted in a later run has passed this one, and so has a head that did (R49, R103). The
marker passes the head when the head sends it; the head's own `passed` counts its dones. -/
def State.leafDone (s : State) (u : UKey) : State :=
  match s.unit? u with
  | none => s
  | some f =>
    let k := f.passed
    if f.isHead && !f.halted && f.markSent k &&
        ((s.leafSinks u).all fun x => x == u || ((s.unit? x).map fun g => decide (k < g.passed)).getD false) &&
        ((s.leafSet u).all fun x => x == u || !((s.unit? x).map fun g => g.dead && decide (g.passed ≤ k)).getD false) then
      let mine := s.helds.filter fun h => h.leaf == u && h.run == k && h.serial == f.serial
      let s := (s.perform mine).creditStores mine
      let set := s.leafSet u
      let s := { s with helds := s.helds.filter fun h => !mine.contains h,
                        units := updWhere (fun g => set.contains g.key) (fun g => { g with upds := g.upds.filter fun e => e.1 != k }) s.units }
      (s.modUnit u fun f => { f with passed := k + 1, vecs := f.vecs.filter fun v => v.run != k }).sendDone f
    else s

/-- R253. -/
def execLeafDone (u : UKey) (s : State) : Host.Outcome State Fault Refusal := .next (s.leafDone u)

/-- R34. -/
def execSteer (u : UKey) (s : State) : Host.Outcome State Fault Refusal := unitTurn u 0x80 steerAct s

/-- R34. -/
def execMerge (u : UKey) (s : State) : Host.Outcome State Fault Refusal := unitTurn u 0x81 mergeAct s

/-- R35. -/
def execCarry (u : UKey) (s : State) : Host.Outcome State Fault Refusal := unitTurn u 0x82 carryAct s

/-- R248. -/
def execGate (u : UKey) (s : State) : Host.Outcome State Fault Refusal := unitTurn u 0x83 gateAct s

/-- R249. -/
def execConst (u : UKey) (s : State) : Host.Outcome State Fault Refusal := unitTurn u 0x84 constAct s

/-- R250. -/
def execDelay (u : UKey) (s : State) : Host.Outcome State Fault Refusal := unitTurn u 0x85 delayAct s

/-- R251. -/
def execOrd (u : UKey) (s : State) : Host.Outcome State Fault Refusal := unitTurn u 0x86 ordAct s

/-- R252. -/
def execCtr (u : UKey) (s : State) : Host.Outcome State Fault Refusal := unitTurn u 0x87 ctrAct s

/-- R40. -/
def execSeq (u : UKey) (s : State) : Host.Outcome State Fault Refusal := unitTurn u 0x88 ctlAct s

/-- R40. -/
def execPipe (u : UKey) (s : State) : Host.Outcome State Fault Refusal := unitTurn u 0x89 ctlAct s

/-- R40. -/
def execStrm (u : UKey) (s : State) : Host.Outcome State Fault Refusal := unitTurn u 0x8A ctlAct s

end Sys2Proof.Machine
end

