-- ==== Sys2Proof/Machine/Ports.lean ====
section
/-!
DEFINITION. How tokens move: hops over link buffers (R31), entry ports (R26, R27), push and pop streams (R190 to R194),
chains, and the fence check of a token that crosses quires (R407, R409).
-/

namespace Sys2Proof.Machine

/-! ### Entry ports (R26, R27) -/

def State.port? (s : State) (serial folio port : Nat) : Option InPort :=
  s.ports.find? fun p => p.serial == serial && p.folio == folio && p.port == port

def State.modPort (s : State) (serial folio port : Nat) (f : InPort → InPort) : State :=
  { s with ports := updWhere (fun p => p.serial == serial && p.folio == folio && p.port == port) f s.ports }

/-- Places of an entry port: 64 and SPILL more (R27, R158). -/
def State.portCap (s : State) (serial : Nat) : Nat := 64 + ((s.inst? serial).map fun i => fieldN i.header 192 16).getD 0

/-- Tokens under way to a destination between the parts of a confidential partition (R416). -/
def State.underWay (s : State) (serial : Nat) (d : Dest) : Nat := (s.transits.filter fun t => t.serial == serial && t.dst == d).length

/-- The port can take a token. -/
def State.portRoom (s : State) (serial folio port : Nat) : Bool :=
  ((s.port? serial folio port).map fun p =>
    decide (p.q.length + s.underWay serial (.port folio port) < s.portCap serial)).getD false

/-- Routes that leave an in port of a placed folio. -/
def State.portRoutes (s : State) (serial folio port : Nat) : List Nat :=
  (s.routes.filter fun r => r.serial == serial && r.folio == folio && r.src == .port folio port).map Route.id

/-- The port is fed by a stream or an engine, and not by a chain or the attention pipeline (R33). -/
def State.streamPort (s : State) (serial folio port : Nat) : Bool :=
  !((s.inst? serial).map fun i => i.chains.any fun c => c.2.2.1 == folio && c.2.2.2 == port).getD false &&
    !s.attns.any fun a => a.serial == serial && a.folio == folio && a.oport == port

/-- The port's oldest token comes to its output slot, or a bubble that is due (R26, R33, R443); the oldest token of the spill area comes
into the buffer, and its place is free (R27). -/
def State.refill (s : State) (serial folio port : Nat) : State :=
  match s.port? serial folio port with
  | none => s
  | some p =>
    let ids := s.portRoutes serial folio port
    let bubs := s.bubbleRoutes ids
    match p.slot.tok, p.q with
    | none, t :: q =>
      if ids.isEmpty || p.cut || !s.inPhase serial folio then s
      else if s.streamPort serial folio port && s.bubbleDue p.sent && !bubs.isEmpty then
        s.modPort serial folio port fun p => { p with slot := ⟨some .bubble, bubs⟩, sent := 0 }
      else s.modPort serial folio port fun p =>
        { p with slot := ⟨some t, ids⟩, q := q, stamps := p.stamps.drop 1, sent := p.sent + 1, places := p.places.drop 1 }
    | _, _ => s

/-- The number of an entry port among those of its instance, in folio-id order and then port-id order (R27). -/
def State.portRank (s : State) (serial folio port : Nat) : Nat :=
  (s.ports.filter fun p => p.serial == serial && (decide (p.folio < folio) || p.folio == folio && decide (p.port < port))).length

/-- A place of a spill area: the strip, then 16 bytes that begin with the token kind (R27). -/
def spillBytes (t : Token) : List Byte :=
  natBytes 512 (((t.strip?).getD 0#4096).toNat) ++ natBytes 16 (if t = .eos then 1 else 0)

/-- Where the port spill areas start after the launch record: behind its header and every folio save area, and the thread's (R27, R29,
R199, R395; log entry 38). -/
def spillBase (serial : Nat) : Nat :=
  let ends := (upTo 257).map fun f => (Config.folioArea serial f).1 + (Config.folioArea serial f).2
  4096 * (1 + ends.foldl max 0 + Config.spillArea serial)

/-- A place of a port's spill area that holds no token; which of them, no rule says (log entry 38). -/
def InPort.freePlace (p : InPort) (n pick : Nat) : Nat :=
  let free := (upTo n).filter fun k => !p.places.contains k
  (free[pick % free.length]?).getD 0

/-- A token that finds the 64 places of the port's buffer taken is written into a free place of its spill area in the launch record
(R27). -/
def State.spill (s : State) (serial folio port : Nat) (t : Token) : State :=
  match s.inst? serial, s.port? serial folio port with
  | some i, some p =>
    let n := fieldN i.header 192 16
    if p.q.length < 64 ∨ n = 0 then s
    else
      let k := p.freePlace n (Config.spillPlace s.free)
      (({ s with free := s.free + 1 } : State).devRecord i.device (i.recVA + w64 (spillBase serial + 528 * (n * s.portRank serial folio port + k)))
        (spillBytes t)).modPort serial folio port fun p => { p with places := p.places ++ [k] }
  | _, _ => s

/-- A token enters an entry port (R26, R27). -/
def State.portPut (s : State) (serial folio port : Nat) (t : Token) : State :=
  ((s.spill serial folio port t).modPort serial folio port fun p =>
    { p with q := p.q ++ [t], stamps := p.stamps ++ [s.cycle.toNat], gotEos := p.gotEos || t == .eos }).refill serial folio port

/-! ### Crossing quires (R407 to R409) -/

/-- Quires on the XY route from one quire to another, both ends included (R9, R409). -/
def quirePath (a b : Nat) : List Nat :=
  let xs := if a % 4 ≤ b % 4 then (upTo (b % 4 - a % 4 + 1)).map (a % 4 + ·) else (upTo (a % 4 - b % 4 + 1)).map (a % 4 - ·)
  let ys := if a / 4 ≤ b / 4 then (upTo (b / 4 - a / 4 + 1)).map (a / 4 + ·) else (upTo (a / 4 - b / 4 + 1)).map (a / 4 - ·)
  xs.map (fun x => 4 * (a / 4) + x) ++ (ys.drop 1).map fun y => 4 * y + b % 4

/-- A token of partition p passes every fence on its way (R407). -/
def State.pathOpen (s : State) (p a b : Nat) : Bool :=
  (quirePath a b).all fun q =>
    match s.partOfQuire q with
    | some d => d == p || s.tunnels.any fun t => t.joins 1 p && fieldN t.cfg 7 5 == d
    | none => false

/-- The quire a folio stands on, or else the first of its instance's region, where its ports wait. -/
def State.folioQuire (s : State) (serial folio : Nat) : Nat :=
  match s.resident? serial folio with
  | some r => r.q
  | none => (((s.inst? serial).bind fun i => i.region.head?).map Prod.fst).getD 0

/-- The quire of an instance's control thread, where its stream queues stand. -/
def Inst.threadQuire (i : Inst) : Nat := ((i.hw.map htQuire).orElse fun _ => i.region.head?.map Prod.fst).getD 0

def State.modHandle (s : State) (serial h : Nat) (f : Handle → Handle) : State :=
  s.modInst serial fun i => { i with handles := updAt i.handles h f }

/-- A destination takes a token. -/
def State.deliver (s : State) (serial : Nat) (d : Dest) (t : Token) : State :=
  match d with
  | .port folio port => s.portPut serial folio port t
  | .pop h => s.modHandle serial h fun a => { a with q := a.q ++ [t], eosNow := a.eosNow || t == .eos }

/-- A destination can take a token: an entry port, or a pop queue of 16 (R26, R188). -/
def State.destRoom (s : State) (i : Inst) (d : Dest) : Bool :=
  match d with
  | .port folio port => s.portRoom i.serial folio port
  | .pop h => decide (((i.handles[h]?).getD Handle.free).q.length + s.underWay i.serial d < 16)

/-- The tag under which a token is sealed, with a transit key and an IV (R416; log entry 15). -/
def transitTag (key : Nat) (iv : BitVec 96) (t : Token) : BitVec 128 := Config.gcmTag key iv 0#128 (spillBytes t)

/-- A token goes from a quire to a destination in another: dropped at a closed fence (R407, R408); sealed under the next number
of its source router where it crosses between the parts of a confidential partition, which holds it back while that router's
numbers of tokens are used up (R416, R417); behind what is under way to the same destination. `none`: it must wait. -/
def State.sendToken (s : State) (i : Inst) (a b : Nat) (d : Dest) (t : Token) : Option State :=
  if !s.pathOpen i.part a b then some (s.fenceDrop i.part 0#64)
  else if !s.destRoom i d then none
  else if (s.part i.part).crosses a b then
    let router := (s.part i.part).source a b
    if (s.part i.part).spent router 0 then none
    else
      let gen := (s.part i.part).gen.toNat
      let n := s.number i.part router 0
      let tag := transitTag (s.part i.part).tkey (transitIv i.part router 0 gen n.1) t
      some { n.2 with transits := n.2.transits ++ [⟨i.part, i.serial, router, gen, n.1, tag, t, d⟩] }
  else if s.underWay i.serial d ≠ 0 then none
  else some (s.deliver i.serial d t)

/-! ### Where an out port leads -/

/-- The handle bound as the pop stream of an out port. -/
def Inst.popHandle (i : Inst) (folio port : Nat) : Option Nat := findAt (fun h => h.bind == .pop folio port) i.handles

/-- DESIGN CHOICE: an image of another tool whose records give an out port two consumers is accepted, and the port sends to the pop
stream, or else along its first chain; R160 names no failure (log entry 116). A token reaches an out port: the attention pipeline's query port, a pop queue (which takes no bubble, R190), or the
entry port of a chain. `none`: it must wait. -/
def State.outPort (s : State) (serial folio port : Nat) (t : Token) : Option State :=
  match s.inst? serial with
  | none => none
  | some i =>
    if s.attns.any fun a => a.serial == serial && a.folio == folio && a.qport == port then
      if t = .bubble then some s
      else if s.attns.any fun a => a.serial == serial && a.folio == folio && a.qport == port && decide (a.inq.length < 2) then
        some { s with attns := updWhere (fun a => a.serial == serial && a.folio == folio && a.qport == port)
                        (fun a => { a with inq := a.inq ++ [t] }) s.attns }
      else none
    else match i.popHandle folio port with
      | some h =>
        if t = .bubble then some s else s.sendToken i (s.folioQuire serial folio) i.threadQuire (.pop h) t
      | none =>
        match i.chains.find? fun c => c.1 == folio && c.2.1 == port with
        | none => none
        | some (_, _, g, k) => s.sendToken i (s.folioQuire serial folio) (s.folioQuire serial g) (.port g k) t

/-! ### TOKEN_HOP (R31) -/

def State.modRoute (s : State) (id : Nat) (f : Route → Route) : State :=
  { s with routes := updWhere (fun r => r.id == id) f s.routes }

/-- The token at the start of hop k of a route. -/
def State.hopToken (s : State) (r : Route) (k : Nat) : Option Token :=
  if k = 0 then
    let o : Slot := match r.src with
      | .unit u _ => ((s.unit? u).map fun f : FabUnit => f.slot r.pout).getD ⟨none, []⟩
      | .port f p => ((s.port? r.serial f p).map InPort.slot).getD ⟨none, []⟩
    if o.todo.contains r.id then o.tok else none
  else ((r.hops[k - 1]?).getD []).head?

/-- The consumer has taken the token of a slot: the slot is free when every consumer has (R31). -/
def Slot.took (o : Slot) (id : Nat) : Slot :=
  let todo := o.todo.erase id
  if todo.isEmpty then ⟨none, []⟩ else ⟨o.tok, todo⟩

/-- The token leaves the start of hop k. -/
def State.hopLeave (s : State) (r : Route) (k : Nat) : State :=
  if k = 0 then
    match r.src with
    | .unit u _ => s.modUnit u fun f => { f with outs := updAt f.outs r.pout fun o => o.took r.id }
    | .port f p => (s.modPort r.serial f p fun a => { a with slot := a.slot.took r.id }).refill r.serial f p
  else s.modRoute r.id fun r => { r with hops := updAt r.hops (k - 1) fun l => l.drop 1 }

/-- A token enters a latch. -/
def State.latchIn (s : State) (u : UKey) (i : Nat) (t : Token) : State :=
  (s.modUnit u fun f => { f with ins := updAt f.ins i fun _ => some t }).checkEos u

/-- The token arrives at the end of hop k: a link buffer of two, a latch, or a port. A cut input takes no token, but a loop
input of a unit that has sent the marker on saves what comes before its own, bubbles apart (R396, R397, R448). -/
def State.hopArrive (s : State) (r : Route) (k : Nat) (t : Token) : Option State :=
  match r.hops[k]? with
  | some l => if l.length < 2 then some (s.modRoute r.id fun r => { r with hops := updAt r.hops k fun l => l ++ [t] }) else none
  | none =>
    if k ≠ r.hops.length then none
    else match r.dst with
      | .unit u i =>
        match s.unit? u with
        | none => none
        | some f =>
          if (f.cut[i]?).getD false then none
          else if f.left then some (if t = .bubble then s else s.modUnit u fun f => { f with loopIn := f.loopIn ++ [(i, t)] })
          else if (f.latch i).isNone then some (s.latchIn u i t)
          else none
      | .port f p => s.outPort r.serial f p t

/-- The token that a loop input saved first comes before any other, at the last hop of its route (R448). -/
def State.loopToken (s : State) (r : Route) (k : Nat) : Option State :=
  match r.dst with
  | .port _ _ => none
  | .unit u i =>
    if k ≠ r.hops.length then none
    else match s.unit? u with
      | none => none
      | some f =>
        if f.left then none
        else match f.loopIn.find? fun e => e.1 == i with
          | none => none
          | some e =>
            if (f.latch i).isNone then some ((s.modUnit u fun f => { f with loopIn := f.loopIn.erase e }).latchIn u i e.2)
            else some s

/-- One hop of a token. The marker of a cut has passed what stands behind it on the route (R397). -/
def State.tokenHop (s : State) (id k : Nat) : State :=
  match s.routes.find? fun r => r.id == id with
  | none => s
  | some r =>
    match s.loopToken r k with
    | some u => u
    | none =>
      if (r.mark.map fun m => decide (k ≤ m)).getD false then s
      else match s.hopToken r k with
        | none => s
        | some t =>
          match s.hopArrive r k t with
          | none => s
          | some u => u.hopLeave r k

/-- R31. -/
def execTokenHop (r hop : Nat) (s : State) : Host.Outcome State Fault Refusal := .next (s.tokenHop r hop)

/-! ### Push ports (R192, R193) -/

/-- The port takes the oldest token of its push queue, while its phase runs and its EOS has not come (R193). -/
def State.pushEmit (s : State) (serial h : Nat) : State :=
  match s.inst? serial with
  | none => s
  | some i =>
    match i.handles[h]? with
    | some ⟨.push folio port, t :: q, _, _⟩ =>
      if s.inPhase serial folio && ((s.port? serial folio port).map fun p => !p.gotEos && !p.cut).getD false &&
          !s.transits.any fun x => x.serial == serial && x.dst == .port folio port && x.tok == .eos then
        match s.sendToken i i.threadQuire (s.folioQuire serial folio) (.port folio port) t with
        | some u => u.modHandle serial h fun a => { a with q := q }
        | none => s
      else s
    | _ => s

/-- R192. -/
def execPushPortEmit (serial h : Nat) (s : State) : Host.Outcome State Fault Refusal := .next (s.pushEmit serial h)

end Sys2Proof.Machine
end

