-- ==== Sys2Proof/Machine/Sync.lean ====
section
/-!
DEFINITION. Atomics, lock tokens, barrier objects, the words of the wait-for table, priorities and fences (R111, R208 to
R225).
-/

namespace Sys2Proof.Machine

/-! ### Atomics (R208 to R212) -/

/-- An atomic at its pipeline: the new value, if it stores; an arrival that wraps COUNT of a watched object advances GEN
in the same step (R210, R218). Answers the old value and the predicate. -/
def State.atomicAt (s : State) (k n member b e : Nat) : (Nat × Bool) × State :=
  let old := s.num k n
  let m := atomicMember (8 * n) member old b e
  match m.1 with
  | none => ((old, m.2), s)
  | some v =>
    let t := s.putNum k n v
    match s.bars.find? fun o => decide (k ≤ o.addr) && decide (o.addr + 4 ≤ k + n) with
    | none => ((old, m.2), t)
    | some o =>
      if (s.num o.addr 4 + 1) % 2 ^ 32 = s.num (o.addr + 4) 4 ∧ t.num o.addr 4 = 0 then
        ((old, m.2), t.putNum (o.addr + 8) 4 (t.num (o.addr + 8) 4 + 1))
      else ((old, m.2), t)

/-- An atomic on local HBM: a tile is touched only if the member stores, and a sealed tile of which a part was written is
sealed again (R210, R415). -/
def State.atomicHbm (s : State) (part : Nat) (sealed : Bool) (pa n member b e : Nat) : (Nat × Bool) × State :=
  let old := bytesNat (if sealed then s.bytes (hbmKey pa) n else s.rawBytes pa n)
  let m := atomicMember (8 * n) member old b e
  match m.1 with
  | none => ((old, m.2), s)
  | some _ =>
    let r := (if sealed then s else s.breakSeal (pa / 4096)).atomicAt (hbmKey pa) n member b e
    (r.1, if sealed then r.2.reseal part pa else r.2)

/-- An atomic at a place that the checks have passed: the pipeline of a window's tile or slice, or of HBM. -/
def State.atomicPlace (s : State) (p : Place) (n member b e : Nat) : (Nat × Bool) × State :=
  match p with
  | .win pool o =>
    let r := s.atomicAt (pool.mem o) n member b e
    (r.1, r.2.sealedTo s.who pool)
  | .hbm pa sealed =>
    let r := s.atomicHbm s.who.part sealed pa n member b e
    (r.1, r.2.hbmMoved s.who.owner n)
  | _ => ((0, false), s)

/-- A request to a window of the other part of a confidential partition can be numbered (R417). -/
def State.canCross (s : State) (p : Place) : Bool :=
  match p with
  | .win pool _ => !(s.keyHeld s.who pool)
  | _ => true

/-- An atomic of the thread that executes: CheckAccess with R211, then one step at the pipeline that serves the address
(R90, R92, R210), or a remote request; after the thread's earlier stores (R109). -/
def State.atomic (s : State) (va : W64) (n member b e : Nat) : Ans (Nat × Bool) :=
  if va.toNat % n != 0 then .trap (trapAt 0x03 0 va) s
  else (s.inOrder (some (remoteWait va))).bind fun _ s => (s.locate .both va).bind fun p s =>
    match p with
    | .win pool o =>
      if !s.canCross (.win pool o) then .wait (some (remoteWait va)) s
      else if s.poisoned (pool.mem o) n then .trap (trapAt 0x12 0x03 va) s
      else .ok (s.atomicPlace (.win pool o) n member b e).1 (s.atomicPlace (.win pool o) n member b e).2
    | .hbm pa sealed =>
      if !s.mayReach pa then .trap (trapAt 0x13 0x02 va) (s.fenceDrop s.who.part va)
      else match s.hbmRead s.who.part 0 sealed pa n with
        | .error (c, r) => .trap (trapAt c r va) s
        | .ok _ => .ok (s.atomicPlace (.hbm pa sealed) n member b e).1 (s.atomicPlace (.hbm pa sealed) n member b e).2
    | .host _ => .trap (trapAt 0x05 0x06 va) s
    | .peer k pa =>
      (s.remoteAsk (some k) 2 pa va n (natBytes n b) (w64 e) member 0x05).bind fun l s =>
        .ok (bytesNat (l.take n), l.getD 8 0#8 == 1#8) s

/-- Bytes of an atomic: `.w` or `.d` (R208). -/
def atomicBytes (w : BitVec 1) : Nat := if w = 1#1 then 8 else 4

/-- A word of the atomics: the old value to xd, and for `acas` and `aaddb` the predicate to pd (R210). -/
def atomicWord (member : Nat) (d a b : BitVec 5) (p : BitVec 3) (w : BitVec 1) (g : BitVec 3) (s : State) :
    Host.Outcome State Fault Refusal :=
  runWord s false 0 [d, a, b] g fun s =>
    let n := atomicBytes w
    (s.atomic (s.rd a) n member ((s.rd b).toNat % 2 ^ (8 * n)) ((s.rd d).toNat % 2 ^ (8 * n))).bind fun r s =>
      .ok .next ((s.wr d (w64 r.1)).pw p r.2)

/-- R209 member 0: stores old + b. -/
def execAadd (d a b : BitVec 5) (w : BitVec 1) (g : BitVec 3) (s : State) : Host.Outcome State Fault Refusal :=
  atomicWord 0 d a b 0#3 w g s

/-- R209 member 1: stores old - b. -/
def execAsub (d a b : BitVec 5) (w : BitVec 1) (g : BitVec 3) (s : State) : Host.Outcome State Fault Refusal :=
  atomicWord 1 d a b 0#3 w g s

/-- R209 member 2: stores old and b. -/
def execAand (d a b : BitVec 5) (w : BitVec 1) (g : BitVec 3) (s : State) : Host.Outcome State Fault Refusal :=
  atomicWord 2 d a b 0#3 w g s

/-- R209 member 3: stores old or b. -/
def execAor (d a b : BitVec 5) (w : BitVec 1) (g : BitVec 3) (s : State) : Host.Outcome State Fault Refusal :=
  atomicWord 3 d a b 0#3 w g s

/-- R209 member 4: stores old xor b. -/
def execAxor (d a b : BitVec 5) (w : BitVec 1) (g : BitVec 3) (s : State) : Host.Outcome State Fault Refusal :=
  atomicWord 4 d a b 0#3 w g s

/-- R209 member 5: stores the smaller, signed. -/
def execAmin (d a b : BitVec 5) (w : BitVec 1) (g : BitVec 3) (s : State) : Host.Outcome State Fault Refusal :=
  atomicWord 5 d a b 0#3 w g s

/-- R209 member 6: stores the larger, signed. -/
def execAmax (d a b : BitVec 5) (w : BitVec 1) (g : BitVec 3) (s : State) : Host.Outcome State Fault Refusal :=
  atomicWord 6 d a b 0#3 w g s

/-- R209 member 7: stores b. -/
def execAxchg (d a b : BitVec 5) (w : BitVec 1) (g : BitVec 3) (s : State) : Host.Outcome State Fault Refusal :=
  atomicWord 7 d a b 0#3 w g s

/-- R209 member 8: stores b if old = e. -/
def execAcas (d a b : BitVec 5) (p : BitVec 3) (w : BitVec 1) (g : BitVec 3) (s : State) : Host.Outcome State Fault Refusal :=
  atomicWord 8 d a b p w g s

/-- R209 member 9: stores 0 if old ≥ b, old + 1 otherwise. -/
def execAincw (d a b : BitVec 5) (w : BitVec 1) (g : BitVec 3) (s : State) : Host.Outcome State Fault Refusal :=
  atomicWord 9 d a b 0#3 w g s

/-- R209 member 10: stores old + b unless it exceeds e. -/
def execAaddb (d a b : BitVec 5) (p : BitVec 3) (w : BitVec 1) (g : BitVec 3) (s : State) : Host.Outcome State Fault Refusal :=
  atomicWord 10 d a b p w g s

/-- R209 member 11: stores the smaller, unsigned. -/
def execAminu (d a b : BitVec 5) (w : BitVec 1) (g : BitVec 3) (s : State) : Host.Outcome State Fault Refusal :=
  atomicWord 11 d a b 0#3 w g s

/-- R209 member 12: stores the larger, unsigned. -/
def execAmaxu (d a b : BitVec 5) (w : BitVec 1) (g : BitVec 3) (s : State) : Host.Outcome State Fault Refusal :=
  atomicWord 12 d a b 0#3 w g s

/-! ### Lock tokens (R213 to R215) -/

/-- Rows 1 to 5 of R179 for a synchronisation address, which must lie in a window or in local HBM (R213). -/
def State.syncPlace (s : State) (acc : Acc) (va : W64) (align : Nat) : Ans Place :=
  if va.toNat % align != 0 then .trap (trapAt 0x03 0 va) s
  else (s.locate acc va).bind fun p s =>
    match p with
    | .host _ => .trap (trapAt 0x05 0x07 va) s
    | .peer _ _ => .trap (trapAt 0x05 0x07 va) s
    | p => if s.canCross p then .ok p s else .wait none s

/-- The packets of a request to a synchronisation object (R416). -/
def State.syncSent (s : State) (p : Place) : State :=
  match p with
  | .win pool _ => s.sealedTo s.who pool
  | _ => s

/-- The waiter or holder that the thread that executes is. -/
def State.meParty (s : State) : Party := .thread s.meId

/-- A trap of the thread would be taken now: it does not wait for the core's other thread (R353). -/
def State.trapReady (s : State) (t : Trap) : Bool :=
  match s.cur with
  | .ctl n =>
    let b := s.sup (htCore n)
    b.active == some n || b.active.isNone || ((s.instOn n).map fun i => i.takesUser t).getD true
  | .trearo _ => true

/-- A `lock` of a token that the thread holds: a cycle record of length 1 and DEADLOCK at once (R214). -/
def State.selfLock (s : State) (va : W64) : Ans Flow :=
  let t (d : W32) : Trap := ⟨0x0D, 0, 0#64, 0, false, d.setWidth 64, 3, false⟩
  if !s.trapReady (t 0) then .wait none s
  else
    let r := s.cycleRecord [⟨s.meParty, objectWord 3 va.toNat false, s.meParty, s.nsec⟩]
    .trap (t r.1) (r.2.modMe fun i => { i with dlcount := satInc32 i.dlcount })

/-- `lock` (R214). -/
def lockBody (va : W64) (s : State) : Ans Flow :=
  (s.syncPlace .load va 8).bind fun p s =>
    match s.tokenAt s.who.part p with
    | none => .trap (trapAt 0x05 0x07 va) s
    | some t =>
      if s.holderOf t = some s.meParty then s.selfLock va
      else if 16 ≤ (s.locks.filter fun l => l.holder == s.meParty).length then .trap (trapAt 0x06 0x0D va) s
      else if (s.holderOf t).isSome then .wait (some ⟨3, va.toNat % 2 ^ 57, some t⟩) s
      else .ok .next (({ s with locks := s.locks ++ [⟨t.1, t.2, s.meParty⟩] } : State).relink.syncSent p)

/-- `unlock` (R215): a release, so the thread's earlier stores have performed (R113). -/
def unlockBody (va : W64) (s : State) : Ans Flow :=
  (s.syncPlace .load va 8).bind fun p s =>
    match s.tokenAt s.who.part p with
    | none => .trap (trapAt 0x05 0x07 va) s
    | some t =>
      if s.holderOf t = some s.meParty then (s.inOrder none).bind fun _ s => .ok .next ((s.release t).syncSent p)
      else .trap (trapAt 0x06 0x0C va) s

/-- R214. -/
def execLock (a : BitVec 5) (g : BitVec 3) (s : State) : Host.Outcome State Fault Refusal :=
  runWord s false 0 [a] g fun s => lockBody (s.rd a) s

/-- R215. -/
def execUnlock (a : BitVec 5) (g : BitVec 3) (s : State) : Host.Outcome State Fault Refusal :=
  runWord s false 0 [a] g fun s => unlockBody (s.rd a) s

/-! ### Barrier objects (R216 to R219) -/

/-- The pool that serves a place, and the place's memory key (R90, R92, R217). -/
def State.poolAt (s : State) (p : Place) : Pool × Nat :=
  match p with
  | .win pool o => (pool, pool.mem o)
  | .hbm pa _ => (s.cachePool s.who.part pa, hbmKey pa)
  | .host pa => (.cache 64, hostKey pa)
  | .peer _ pa => (.cache 64, hostKey pa)

/-- The later rows of R179 for an object that is read (the fence, the tag and the error, R211), and its 16 bytes. -/
def State.objectRead (s : State) (p : Place) (va : W64) : Ans (List Byte) :=
  match p with
  | .win pool o => if s.poisoned (pool.mem o) 16 then .trap (trapAt 0x12 0x03 va) s else .ok (s.bytes (pool.mem o) 16) s
  | .hbm pa sealed =>
    if !s.mayReach pa then .trap (trapAt 0x13 0x02 va) (s.fenceDrop s.who.part va)
    else match s.hbmRead s.who.part 0 sealed pa 16 with
      | .error (c, r) => .trap (trapAt c r va) s
      | .ok l => .ok l (s.hbmMoved s.who.owner 16)
  | _ => .trap (trapAt 0x05 0x07 va) s

/-- Writes the 16 bytes of an object as a store does (R177, R179: no trap past row 5; a store that fails is reported later).
Answers whether they were written. -/
def State.objectWrite (s : State) (p : Place) (va : W64) (l : List Byte) : Bool × State :=
  match p with
  | .win pool o => (true, (s.put (pool.mem o) l).sealedTo s.who pool)
  | .hbm pa sealed =>
    if !s.mayReach pa then (false, (s.fenceDrop s.who.part va).failStore va)
    else match s.hbmWrite s.who.part 0 sealed pa l with
      | .error _ => (false, s.failStore va)
      | .ok s => (true, s.hbmMoved s.who.owner 16)
  | _ => (false, s)

/-- `barinit` (R217): the object and its place in the watch of 8; a target of 0 takes it out. -/
def barinitBody (va : W64) (target : Nat) (s : State) : Ans Flow :=
  (s.syncPlace .store va 16).bind fun p s => (s.inOrder none).bind fun _ s =>
    let w := s.poolAt p
    let known := s.bars.any fun o => o.addr == w.2
    if target != 0 && !known && decide (8 ≤ (s.bars.filter fun o => o.pool == w.1).length) then .trap (trapAt 0x06 0x0E va) s
    else
      let l := if target = 0 then List.replicate 16 0#8 else natBytes 4 0 ++ natBytes 4 target ++ List.replicate 8 0#8
      let r := s.objectWrite p va l
      let bars := if target = 0 then r.2.bars.filter fun o => o.addr != w.2 else if known then r.2.bars else r.2.bars ++ [⟨w.1, w.2, s.meId⟩]
      .ok .next (if r.1 then { r.2 with bars := bars } else r.2)

/-- `barrive` (R218): `aincw.w` on COUNT with bound TARGET - 1; the GEN that the step read. A release, so the thread's earlier
stores have performed (R113). -/
def barriveBody (d : BitVec 5) (va : W64) (s : State) : Ans Flow :=
  (s.syncPlace .both va 16).bind fun p s => (s.inOrder none).bind fun _ s =>
    (s.objectRead p va).bind fun l s =>
      if !s.bars.any fun o => o.addr == (s.poolAt p).2 then .trap (trapAt 0x06 0x0F va) s
      else
        let gen := bytesNat ((l.drop 8).take 4)
        .ok .next ((s.atomicPlace p 4 9 ((bytesNat ((l.drop 4).take 4) + (2 ^ 32 - 1)) % 2 ^ 32) 0).2.wr d (w64 gen))

/-- `barwait` (R219): a read of the object, after the thread's earlier stores (R109). -/
def barwaitBody (va : W64) (gen : Nat) (s : State) : Ans Flow :=
  (s.syncPlace .load va 16).bind fun p s => (s.inOrder none).bind fun _ s =>
    (s.objectRead p va).bind fun l s =>
      if !s.bars.any fun o => o.addr == (s.poolAt p).2 then .trap (trapAt 0x06 0x0F va) s
      else if bytesNat ((l.drop 8).take 4) = gen then .wait (some ⟨1, va.toNat % 2 ^ 57, none⟩) s
      else .ok .next (s.syncSent p)

/-- R217. -/
def execBarinit (d a : BitVec 5) (g : BitVec 3) (s : State) : Host.Outcome State Fault Refusal :=
  runWord s false 0 [d, a] g fun s => barinitBody (s.rd a) ((s.rd d).toNat % 2 ^ 32) s

/-- R218. -/
def execBarrive (d a : BitVec 5) (g : BitVec 3) (s : State) : Host.Outcome State Fault Refusal :=
  runWord s false 0 [d, a] g fun s => barriveBody d (s.rd a) s

/-- R219. -/
def execBarwait (d a : BitVec 5) (g : BitVec 3) (s : State) : Host.Outcome State Fault Refusal :=
  runWord s false 0 [d, a] g fun s => barwaitBody (s.rd a) ((s.rd d).toNat % 2 ^ 32) s

/-! ### Software waits, declarations and priority (R222 to R225) -/

/-- A software registration or declaration that is refused: WTFULL under STRICT, else predicate 0 and SWOVF (R223,
R224). -/
def refuseSoft (p : BitVec 3) (i : Inst) (s : State) : Ans Flow :=
  if i.strict then .trap (trapOf 0x0E 0) s
  else .ok .next ((s.modMe fun i => { i with swovf := satInc32 i.swovf }).pw p false)

/-- `wreg` (R223): in place of the thread's earlier software entry. -/
def wregBody (p : BitVec 3) (kind : Nat) (va : W64) (s : State) : Ans Flow :=
  match s.me, s.cur with
  | some i, .ctl n =>
    let t := { s with waits := s.waits.filter fun w => !(w.waiter == Party.thread i.serial && w.sw) }
    match t.register (.thread i.serial) (htQuire n) kind (va.toNat % 2 ^ 57) true none with
    | some t => .ok .next (t.pw p true)
    | none => refuseSoft p i s
  | _, _ => .ok .next (s.pw p false)

/-- `whold` (R224): at most 4 declarations. -/
def wholdBody (p : BitVec 3) (kind : Nat) (va : W64) (s : State) : Ans Flow :=
  match s.me with
  | some i =>
    let d : Decl := ⟨i.serial, kind, va.toNat % 2 ^ 57⟩
    if s.decls.contains d then .ok .next (s.pw p true)
    else if 4 ≤ (s.decls.filter fun e => e.serial == i.serial).length then refuseSoft p i s
    else .ok .next (({ s with decls := s.decls ++ [d] } : State).relink.pw p true)
  | none => .ok .next (s.pw p false)

/-- `wrel` (R224). -/
def wrelBody (kind : Nat) (va : W64) (s : State) : Ans Flow :=
  match s.me with
  | some i => .ok .next ({ s with decls := s.decls.filter fun e => e != ⟨i.serial, kind, va.toNat % 2 ^ 57⟩ } : State).relink
  | none => .ok .next s

/-- R223. -/
def execWreg (a : BitVec 5) (p k : BitVec 3) (g : BitVec 3) (s : State) : Host.Outcome State Fault Refusal :=
  runWord s false 0 [a] g fun s => wregBody p k.toNat (s.rd a) s

/-- R223: the thread's software entry goes. -/
def execWunreg (g : BitVec 3) (s : State) : Host.Outcome State Fault Refusal :=
  runPlain s [] g fun s => { s with waits := s.waits.filter fun w => !(w.waiter == s.meParty && w.sw) }

/-- R224. -/
def execWhold (a : BitVec 5) (p k : BitVec 3) (g : BitVec 3) (s : State) : Host.Outcome State Fault Refusal :=
  runWord s false 0 [a] g fun s => wholdBody p k.toNat (s.rd a) s

/-- R224. -/
def execWrel (a : BitVec 5) (k : BitVec 3) (g : BitVec 3) (s : State) : Host.Outcome State Fault Refusal :=
  runWord s false 0 [a] g fun s => wrelBody k.toNat (s.rd a) s

/-- The base priority of an instance, in the instance and in its entries of the wait-for table (R221, R225). -/
def State.setBase (s : State) (serial v : Nat) : State :=
  { s.modInst serial fun i => { i with base := v } with
      waits := updWhere (fun w => w.waiter.serial? == some serial) (fun w => { w with base := v }) s.waits }

/-- R225: xd := BASE, then BASE := min(xa, CEIL). -/
def execPrio (d a : BitVec 5) (g : BitVec 3) (s : State) : Host.Outcome State Fault Refusal :=
  runPlain s [d, a] g fun s =>
    match s.me with
    | some i => (s.wr d (w64 i.base)).setBase i.serial (min (s.rd a).toNat i.ceil)
    | none => s.wr d 0#64

/-- R226: effective priorities follow the wait links and bases as they stand. -/
def execPriorityPropagation (s : State) : Host.Outcome State Fault Refusal := .next s.reprioritise

/-! ### Fence (R111, R187) -/

/-- Every engine request of the thread has responded (R111 scope p). -/
def Inst.answered (i : Inst) : Bool := i.handles.all fun h => h.reqs.all fun r => r.fabric || r.resp.isSome

/-- What a fence of scope i, p, k or s waits for (R111). Stores to windows and to local HBM have performed, and stores
through a tunnel are acknowledged, when the word that made them completes. What the thread does later waits by itself for its
posted stores (R109), but for the commands that only a fence orders: `Inst.fenced` remembers it for them (R110). -/
def State.fenceDone (s : State) (sc : Nat) : Bool :=
  (sc == 0 || (s.me.map Inst.answered).getD true) &&
    (sc != 3 || !s.remotes.any fun r => r.posted && s.mine r.serial)

/-- R187. -/
def execFence (sc : BitVec 2) (g : BitVec 3) (s : State) : Host.Outcome State Fault Refusal :=
  runWord s false 0 [] g fun s =>
    if s.fenceDone sc.toNat then .ok .next (s.modMe fun i => { i with fenced := s.nextId }) else .wait none s

/-- A command that a fence orders behind a posted store waits for it (R110, R111: `spush`, `sbound`, `seos`, `cfg`). -/
def State.fencedIn (s : State) : Bool :=
  match s.me with
  | some i => s.remotes.any fun r => r.posted && r.serial == i.serial && r.ans.isNone && decide (r.id < i.fenced)
  | none => false

end Sys2Proof.Machine
end

