-- ==== Sys2Proof/Machine/MemTile.lean ====
section
/-!
DEFINITION. Memory tiles: address-generator programs (R153, R276), ag, ldn with its units, rewind and resolve, stn,
elastic buffers, rmw, bankpass and lkpool (R275 to R288), with bank ownership (R47, R99) and ordering tokens (R101).
-/

namespace Sys2Proof.Machine

/-! ### Programs (R153, R276) -/

/-- Count of level j of the program in a kind 5 payload. -/
def progCount (p : Payload) (j : Nat) : Nat := fieldN p (40 + 40 * j) 16

/-- Stride of level j in bytes. -/
def progStride (p : Payload) (j : Nat) : Int := signedN 23 (fieldN p (56 + 40 * j) 23)

/-- Number of levels used. -/
def progLevels (p : Payload) : Nat :=
  if progCount p 1 = 0 then 1 else if progCount p 2 = 0 then 2 else if progCount p 3 = 0 then 3 else 4

/-- Iterations of level j in the walk. -/
def progIters (p : Payload) (j : Nat) : Nat := if j < progLevels p then progCount p j else 1

/-- The index vector of a walk. -/
def Walk.idx (w : Walk) : List Nat := [w.i0, w.i1, w.i2, w.i3]

/-- The offset of an index vector, modulo 2^bits. -/
def progOffset (p : Payload) (bits : Nat) (w : Walk) : Nat :=
  let sum : Int := (upTo (progLevels p)).foldl (fun a j => a + (((w.idx[j]?).getD 0 : Nat) : Int) * progStride p j) (fieldN p 16 24 : Nat)
  (sum % (2 ^ bits : Nat)).toNat

/-- Index j is the last of its level. -/
def progLast (p : Payload) (w : Walk) (j : Nat) : Bool := (w.idx[j]?).getD 0 + 1 == progIters p j

/-- The next index vector, `running` off after the last. -/
def progNext (p : Payload) (w : Walk) : Walk :=
  if !progLast p w 0 then { w with i0 := w.i0 + 1 }
  else if !progLast p w 1 then { w with i0 := 0, i1 := w.i1 + 1 }
  else if !progLast p w 2 then { w with i0 := 0, i1 := 0, i2 := w.i2 + 1 }
  else if !progLast p w 3 then { w with i0 := 0, i1 := 0, i2 := 0, i3 := w.i3 + 1 }
  else ⟨false, 0, 0, 0, 0⟩

/-- A run begins; a program whose LVL0 count is 0 has no offset. -/
def progStart (p : Payload) : Walk := ⟨progCount p 0 != 0, 0, 0, 0, 0⟩

/-- Offsets of one run. -/
def progTotal (p : Payload) : Nat := progIters p 0 * progIters p 1 * progIters p 2 * progIters p 3

/-- The index vector of the n-th offset of a run. -/
def progNth (p : Payload) (n : Nat) : Walk :=
  let a := progIters p 0
  let b := progIters p 1
  let c := progIters p 2
  ⟨true, n % a, n / a % b, n / (a * b) % c, n / (a * b * c)⟩

/-! ### Bank ownership (R47, R99) -/

/-- Bank of an offset (R83, R86). -/
def bankOf (off : Nat) : Nat := off / 512 % 16

/-- The tile a memory node works on, or the scratch slice of a push load node or of a bankpass with EDGE (R281, R288). -/
def State.poolOf (s : State) (f : FabUnit) (edge : Bool) (esl : Nat) : Pool :=
  if edge then .slice (((s.scratch (((s.inst? f.serial).map Inst.part).getD 0))[esl]?).getD 64) else .tile f.key.tile

/-- The configurations that the phase has placed at a tile or slice, first first (R99). -/
def State.confsAt (s : State) (p : Pool) (serial : Nat) : List Nat :=
  ((s.confs.find? fun c => c.pool == p && c.serial == serial).map TileConfs.confs).getD []

/-- The place of a folio among them: its latest, counting from `k`. -/
def latestConf (folio : Nat) : Nat → List Nat → Nat → Nat
  | _, [], best => best
  | k, c :: l, best => latestConf folio (k + 1) l (if c = folio then k else best)

/-- The place of a folio among the configurations of a tile or slice: its latest. -/
def State.confPos (s : State) (p : Pool) (serial folio : Nat) : Nat := latestConf folio 0 (s.confsAt p serial) 0

def State.bankTok? (s : State) (p : Pool) (serial bank : Nat) : Option BankTok :=
  s.bankToks.find? fun b => b.pool == p && b.serial == serial && b.bank == bank

/-- The place that has a bank's token, or to which it is on its way: from `go` the first (R47). -/
def State.bankPos (s : State) (p : Pool) (serial bank : Nat) : Nat := ((s.bankTok? p serial bank).map BankTok.pos).getD 0

/-- The folio holds the bank's token: from `go` the first configuration, else the one that has received it. A folio that was evicted
and placed again holds what it had (R47; log entry 114). -/
def State.bankHere (s : State) (p : Pool) (serial folio bank : Nat) : Bool :=
  match s.bankTok? p serial bank with
  | none => ((s.confsAt p serial).head?.getD folio) == folio
  | some b => b.given && (s.confsAt p serial)[b.pos]? == some folio

/-- The place of the next configuration after the one that has the bank, other than a folio placed again (R288, R99). -/
def State.nextConf (s : State) (p : Pool) (serial folio bank : Nat) : Nat :=
  let l := s.confsAt p serial
  let k := s.bankPos p serial bank
  ((upTo l.length).find? fun j => decide (k < j) && l[j]? != some folio).getD (max l.length (k + 1))

/-- The folio has handed the bank on (R288). -/
def State.bankGone (s : State) (p : Pool) (serial folio bank : Nat) : Bool :=
  match s.bankTok? p serial bank with
  | none => false
  | some b => decide (s.confPos p serial folio < b.pos)

/-- A generator may issue to an offset: its bank is free, or the token has come, handed on since or not (R99, R276). -/
def State.mayIssue (s : State) (f : FabUnit) (p : Pool) (off : Nat) : Bool :=
  !bitAt f.frame (bankOf off) || s.bankHere p f.serial f.folio (bankOf off) || s.bankGone p f.serial f.folio (bankOf off)

/-- A token on its way reaches the next configuration placed there. -/
def State.bankArrive (s : State) (p : Pool) (bank : Nat) : State :=
  { s with bankToks := s.bankToks.map fun b =>
      if b.pool == p && b.bank == bank && !b.given &&
          ((s.confs.find? fun c => c.pool == p && c.serial == b.serial).map fun c => decide (b.pos < c.confs.length)).getD false then
        { b with given := true } else b }

/-- R99. -/
def execBankTokenArrival (t : TKey) (slice : Option Nat) (bank : Nat) (s : State) : Host.Outcome State Fault Refusal :=
  .next (s.bankArrive (match slice with | some n => .slice n | none => .tile t) bank)

/-! ### The matrix tile that a load node feeds -/

/-- The unit of an opcode in the tile of a unit, of its folio. -/
def State.sibling (s : State) (f : FabUnit) (op : Nat) : Option FabUnit :=
  s.units.find? fun g => g.op == op && g.key.tile == f.key.tile && g.serial == f.serial && g.folio == f.folio

/-- The stored channels, ladder and budgets of a tile (R151, R257). -/
def State.geom (s : State) (f : FabUnit) : Geom :=
  let mm := (s.sibling f 0xB2).getD f
  let p := mm.frame
  let chan (lo f : Nat) : Chan := s.chanOf mm (fieldN p (lo + 10 * f) 5)
  { sa := s.chanOf mm (mm.auxBits 11 5),
    sb := s.chanOf mm (((s.sibling f 0xB0).map fun l => l.auxBits 0 5).getD 0),
    ra := (upTo (fieldN p 0 2)).map (chan 2), rb := (upTo (fieldN p 0 2)).map (chan 7),
    sparse := bitAt p 85, satMax := fieldN p 32 16, uflowMax := fieldN p 48 16, cancMax := fieldN p 64 16,
    cbits := fieldN p 80 5 }

/-- Strips of a slab at the tile of an mload (R259). -/
def State.slabStripsAt (s : State) (l : FabUnit) : Nat := (s.geom l).slabStrips

/-! ### Reads and writes of strips -/

/-- The strip at an offset as a unit of the tile loads it in a run of its leaf: held stores of that invocation over the bank
(R103, R279). -/
def State.tileStrip (s : State) (f : FabUnit) (run off : Nat) : Strip :=
  let held : Option Held := match s.leafOf f with
    | none => none
    | some h => (s.helds.filter fun a => a.tile == f.key.tile && a.serial == f.serial && a.leaf == h && a.run == run && a.off == off).getLast?
  match held with
  | some a => a.data
  | none => ofBytes (s.bytes (tileMem f.key.tile off) 512)

/-- The token of an ordering output; its contents are discarded (R251). -/
def orderToken : Token := .data 0#4096

/-- A bubble goes before the next strip of a memory read: it is due, and a route of the output may take one (R33, R443). -/
def State.bubbleOut (s : State) (f : FabUnit) (p : Nat) : Bool :=
  s.bubbleDue f.sent && !(s.bubbleRoutes ((s.routesFrom f.key p).map Route.id)).isEmpty

/-- A strip leaves a memory read, or a bubble that is due goes before it (R33, R443). Answers whether the strip went. -/
def State.readOut (s : State) (f : FabUnit) (p : Nat) (v : Strip) : Bool × State :=
  if s.bubbleOut f p then
    (false, (s.emitOn f.key p .bubble (s.bubbleRoutes ((s.routesFrom f.key p).map Route.id))).modUnit f.key fun f => { f with sent := 0 })
  else (true, (s.emit f.key p (.data v)).modUnit f.key fun f => { f with sent := f.sent + 1 })

/-- The unit feeds a matrix tile, whose pass its accesses wait for (R101, R106). -/
def State.feedsMatrix (s : State) (u : UKey) : Bool :=
  (s.takers u).any fun k => ((s.unit? k).map fun g => g.op == 0xB0 || g.op == 0xB1).getD false

/-- An address token's offset (R275). -/
def offsetOf (v : Strip) : Nat := fieldN v 0 22

/-- One ordering token goes out when some wait and the output is free (R101). -/
def State.orderOut (s : State) (f : FabUnit) : Option State :=
  match f.st with
  | .prog w us r rs (q + 1) fin re es =>
    if f.outFree 2 then
      let set := (s.leafOf f).map s.leafSet
      let rts := s.routesFrom f.key 2
      let ids := (if f.op = 0xC2 then match set with
        | some l => rts.filter fun r => !r.endsIn l
        | none => rts
        else rts).map Route.id
      some ((s.emitOn f.key 2 orderToken ids).setSt f.key (.prog w us r rs q fin re es))
    else none
  | _ => none

/-! ### ag (R278) -/

/-- The address token of an offset. -/
def addressToken (p : Payload) (w : Walk) : Strip :=
  let last := joinBits 1 ((upTo 4).map fun j => (progLast p w j).toNat)
  ofLanes ([w32 (progOffset p 22 w)] ++ w.idx.map w32 ++ [w32 last])

def agAct (f : FabUnit) (s : State) : State :=
  match f.st with
  | .prog w us r rs q fin re es =>
    let trig := f.auxBits 2 1 == 1
    if w.running then
      if f.outFree 0 && s.mayIssue f (.tile f.key.tile) (progOffset f.frame 22 w) then
        let n := progNext f.frame w
        s.firing f (if trig && !n.running then [0] else []) fun s =>
          (s.emit f.key 0 (.data (addressToken f.frame w))).setSt f.key (.prog n us r rs q (fin || !trig && !n.running) re es)
      else s
    else if trig then
      match f.latch 0 with
      | some (.data _) =>
        let n := progStart f.frame
        if n.running then s.setSt f.key (.prog n us r rs q fin re es) else s.takeIn f.key 0
      | _ => s
    else if fin && !f.ended then s.forwardEos f [] [0]
    else s
  | _ => s

def agEos (f : FabUnit) (s : State) : State :=
  match f.st with
  | .prog w _ _ _ _ _ _ _ => if f.eosAt 0 && !w.running then s.forwardEos f [0] [0] else s
  | _ => s

/-! ### ldn (R279 to R281) -/

/-- Fields of an ldn's aux (R277). -/
def FabUnit.agv (f : FabUnit) : Bool := f.auxBits 2 1 == 1
def FabUnit.trig (f : FabUnit) : Bool := f.auxBits 3 1 == 1
def FabUnit.ref (f : FabUnit) : Bool := f.auxBits 4 1 == 1
def FabUnit.edge (f : FabUnit) : Bool := f.auxBits 5 1 == 1
def FabUnit.pps (f : FabUnit) : Nat := f.auxBits 12 8 + 1
def FabUnit.ulv (f : FabUnit) : Nat := f.auxBits 20 2 + 1

/-- Bits of an offset of the node's program (R276). -/
def FabUnit.offBits (f : FabUnit) : Nat := if f.edge then 24 else 22

/-- The pool an ldn loads from. -/
def State.ldPool (s : State) (f : FabUnit) : Pool := s.poolOf f f.edge (f.auxBits 6 6)

/-- The strip an ldn reads: a push load node reads no held store (R281). -/
def State.ldStrip (s : State) (f : FabUnit) (run off : Nat) : Strip :=
  if f.edge then ofBytes (s.bytes ((s.ldPool f).mem off) 512) else s.tileStrip f run off

/-- A load at an offset faults: BANK after the bank was handed on, ECC on an uncorrectable error (R288, R387). -/
def State.loadFault (s : State) (f : FabUnit) (p : Pool) (off : Nat) : Option (Nat × Nat) :=
  if s.bankGone p f.serial f.folio (bankOf off) then some (0x06, 0x0B)
  else if s.poisoned (p.mem off) 512 then some (0x12, 0x03)
  else none

/-- The units a REF load node has sent, after one more offset in a run; the unit ends when level ULV - 1 completes (R280). -/
def addRef (us : List RefUnit) (off run : Nat) (last : Bool) : List RefUnit :=
  match us.getLast? with
  | some u => if u.whole then us ++ [⟨[off], [run], last⟩] else us.dropLast ++ [⟨u.offs ++ [off], u.runs ++ [run], last⟩]
  | none => [⟨[off], [run], last⟩]

/-- The loads of a node that feeds a matrix tile without REF, which wait for their pass. -/
def addWait (us : List RefUnit) (off run : Nat) : List RefUnit :=
  match us with
  | [] => [⟨[off], [run], true⟩]
  | u :: _ => [⟨u.offs ++ [off], u.runs ++ [run], true⟩]

/-- Offsets from where a walk stands to the end of the unit it stands in, `ulv` levels long (R280). -/
def unitRest (p : Payload) (bits ulv : Nat) : Nat → Walk → List Nat
  | 0, _ => []
  | n + 1, w => progOffset p bits w :: if (upTo ulv).all (progLast p w) then [] else unitRest p bits ulv n (progNext p w)

/-- The offsets of the current unit of a REF node, those it has not read yet included; none while no unit has begun and none is to come
of a walk that runs (R280). -/
def FabUnit.unitOffs (f : FabUnit) (w : Walk) (us : List RefUnit) : List Nat :=
  let rest := if f.agv && w.running then unitRest f.frame f.offBits f.ulv (progTotal f.frame) w else []
  match us with
  | u :: _ => if u.whole then u.offs else u.offs ++ rest
  | [] => rest

/-- The run in which the current unit read the first of the offsets still to be sent again, `total` of them in all; of an offset it has
not read yet, the present one. -/
def resendRun (us : List RefUnit) (total left : Nat) (now : Nat) : Nat :=
  match us.head? with
  | some u => (u.runs[total - left]?).getD now
  | none => now

/-- An ldn loads one offset: the strip on POUT 0, and its ordering token at once, or when its pass has resolved (R101). -/
def State.ldnLoad (s : State) (f : FabUnit) (off : Nat) (ks : List Nat) (next : Walk) (last : Bool) : State :=
  match f.st with
  | .prog _ us r rs q fin re es =>
    let matrix := f.ref || s.feedsMatrix f.key
    match s.loadFault f (s.ldPool f) off with
    | some (c, b) => s.firing f ks fun s => s.unitFault f.key c b 0
    | none =>
      if s.bubbleOut f 0 then (s.readOut f 0 0).2
      else s.firing f ks fun s =>
        let v := s.ldStrip f f.passed off
        let s := (s.readOut f 0 v).2
        let us := if f.ref then addRef us off f.passed last else if matrix then addWait us off f.passed else us
        let q := if matrix || !s.routed f.key 2 then q else q + 1
        s.setSt f.key (.prog next us r rs q (fin || f.agv && !f.trig && !next.running) re es)
  | _ => s

/-- The end of an ldn: EOS on its data output after the last strip; then, once every ordering token has gone, EOS on the
ordering output, and on the refetch output of a REF node (R251, R280, R453). -/
def ldnEos (f : FabUnit) (s : State) : State :=
  match f.st with
  | .prog w us r rs q fin re es =>
    let dataDone := !w.running && (if f.agv && !f.trig then fin else f.eosAt 0)
    if !es then
      if dataDone && f.outFree 0 then
        ((if f.agv && !f.trig then s else s.takeIn f.key 0).emit f.key 0 .eos).setSt f.key (.prog w us r rs q fin re true)
      else s
    else if f.ended then s
    else if f.ref then
      if re && rs.isEmpty && q == 0 && f.latch 1 == none then s.forwardEos f [] [1, 2] else s
    else if us.isEmpty && q == 0 then s.forwardEos f [] [2]
    else s
  | _ => s

def ldnAct (f : FabUnit) (s : State) : State :=
  match s.orderOut f with
  | some t => t
  | none =>
    match f.st with
    | .prog w us r rs q fin re es =>
      if f.agv then
        if w.running then
          let off := progOffset f.frame f.offBits w
          if f.outFree 0 && s.mayIssue f (s.ldPool f) off then
            let n := progNext f.frame w
            s.ldnLoad f off (if f.trig && !n.running then [0] else []) n ((upTo f.ulv).all (progLast f.frame w))
          else s
        else if f.trig then
          match f.latch 0 with
          | some (.data _) =>
            let n := progStart f.frame
            if n.running then s.setSt f.key (.prog n us r rs q fin re es) else s.takeIn f.key 0
          | _ => ldnEos f s
        else ldnEos f s
      else
        match f.strip? 0 with
        | some v =>
          if f.outFree 0 then
            if offsetOf v % 512 ≠ 0 then s.firing f [0] fun s => s.unitFault f.key 0x07 0x02 0
            else s.ldnLoad f (offsetOf v) [0] w false
          else s
        | none => ldnEos f s
    | _ => s

/-- The iteration field of the mmac's control token: kind in bits [31:30] (R266). -/
def FabUnit.doneKind (f : FabUnit) : Option Nat :=
  match f.latch 1 with
  | some (.doneTok w) => some (fieldN w 30 2)
  | _ => none

/-- The unit that a REWIND resends has strips still to send although its consumer has had a whole slab, or a closed pass, from
it: it is too long (R280). -/
def State.tooLong (s : State) (f : FabUnit) (u : RefUnit) : Bool :=
  !u.whole && match (s.takers f.key).filterMap s.unit? |>.find? fun g => g.op == 0xB0 with
    | some g => decide (s.slabStripsAt g ≤ u.offs.length)
    | none => true

/-- REWIND: the current unit is read again, strip by strip, onto POUT 1, as loads of the runs that read it first; one that is
too long faults REFLEN. Where the units have retired too soon, the next unit is sent, also as far as it has not been sent yet, and
nothing faults; a REWIND that finds no unit waits for one (R280). -/
def ldnRewindAct (f : FabUnit) (s : State) : State :=
  match f.st with
  | .prog w us r rs q fin re es =>
    match rs with
    | off :: l =>
      let run := resendRun us (f.unitOffs w us).length rs.length f.passed
      if f.doneKind = some 1 then s.firing f [1] fun s => s.unitFaultIn f.key run 0x06 0x09 0
      else if f.outFree 1 then
        match s.loadFault f (s.ldPool f) off with
        | some (c, b) => s.firing f [] fun s => s.unitFaultIn f.key run c b 0
        | none =>
          let (went, s) := s.readOut f 1 (s.ldStrip f run off)
          if went then s.setSt f.key (.prog w us r l q fin re es) else s
      else s
    | [] =>
      let offs := f.unitOffs w us
      if f.doneKind = some 1 && !offs.isEmpty then
        s.firing f [1] fun s =>
          if (us.head?.map (s.tooLong f)).getD false then
            s.unitFaultIn f.key (resendRun us offs.length offs.length f.passed) 0x06 0x09 0
          else s.setSt f.key (.prog w us r offs q fin re es)
      else s
  | _ => s

/-- Ordering tokens for n accesses, if an output takes them. -/
def State.orderCredit (s : State) (u : UKey) (n : Nat) : State :=
  if s.routed u 2 then
    s.modUnit u fun f => match f.st with
      | .prog w us r rs q fin re es => { f with st := .prog w us r rs (q + n) fin re es }
      | _ => f
  else s

/-- RESOLVE: counted toward PPS; the current unit retires (R280). -/
def ldnResolveAct (f : FabUnit) (s : State) : State :=
  match f.st with
  | .prog w us r rs q fin re es =>
    if f.doneKind = some 0 then
      s.firing f [1] fun s =>
        match us with
        | [] => s
        | u :: l =>
          if r + 1 < f.pps then s.setSt f.key (.prog w us (r + 1) rs q fin re es)
          else (s.setSt f.key (.prog w l 0 rs q fin re es)).orderCredit f.key u.offs.length
    else s
  | _ => s

/-- EOS from the mmac: every outstanding unit retires; a unit not wholly sent faults REFLEN, also one of a walk that runs of which no
strip has been sent (R280). -/
def ldnRefEosAct (f : FabUnit) (s : State) : State :=
  match f.st with
  | .prog w us r rs q fin _ es =>
    if f.ref && f.eosAt 1 then
      s.firing f [1] fun s =>
        if us.any (fun u => !u.whole) || f.agv && w.running then s.unitFault f.key 0x06 0x09 0
        else (s.setSt f.key (.prog w [] r rs q fin true es)).orderCredit f.key ((us.map fun u => u.offs.length).sum)
    else s
  | _ => s

/-! ### stn and elastic buffers (R282, R283) -/

def FabUnit.elastic (f : FabUnit) : Bool := f.auxBits 3 1 == 1

/-- Held stores of a tile in the group of an offset (R83). -/
def State.groupHeld (s : State) (t : TKey) (off : Nat) : List Held :=
  s.helds.filter fun h => h.tile == t && bankOf h.off / 4 == bankOf off / 4

/-- A store at an offset (R48, R101, R103): held for the unit's invocation, or performed at once outside a leaf. -/
def State.stnStore (s : State) (f : FabUnit) (off : Nat) (v : Strip) (ks : List Nat) (st : NodeSt) : State :=
  if off % 512 ≠ 0 then s.firing f ks fun s => s.unitFault f.key 0x07 0x02 0
  else if s.bankGone (.tile f.key.tile) f.serial f.folio (bankOf off) then
    s.firing f ks fun s => s.unitFault f.key 0x06 0x0B 0
  else match s.leafOf f with
    | none => s.firing f ks fun s =>
        ((s.put (tileMem f.key.tile off) (stripBytes v)).setSt f.key st).orderCredit f.key 1
    | some h =>
      let group := s.groupHeld f.key.tile off
      let mine := group.filter fun a => a.serial == f.serial && a.leaf == h && a.run == f.passed
      let inside := ((s.routesFrom f.key 2).filter fun r => r.endsIn (s.leafSet h)).map Route.id
      if 256 ≤ mine.length then s.firing f ks fun s => s.unitFault f.key 0x06 0x05 0
      else if 256 ≤ group.length ∨ (!inside.isEmpty ∧ !f.outFree 2) then s
      else s.firing f ks fun s =>
        let held : Held := ⟨f.key.tile, f.serial, h, f.passed, f.key, off, v⟩
        (({ s with helds := s.helds ++ [held] } : State).setSt f.key st).emitOn f.key 2 orderToken inside

/-- The end of an stn: EOS on in1 ends its part, and what offsets are left or still come are dropped; EOS on the ordering output
follows the last ordering token (R251, R282). -/
def stnEos (f : FabUnit) (s : State) : State :=
  match f.st with
  | .prog w us r rs q fin re es =>
    if !es then
      if f.eosAt 1 then (s.takeIn f.key 1).setSt f.key (.prog w us r rs q fin re true) else s
    else if f.eosAt 0 || (f.strip? 0).isSome then s.takeIn f.key 0
    else if f.ended then s
    else if q == 0 && !s.helds.any fun h => h.unitKey == f.key && h.serial == f.serial then s.forwardEos f [] [2]
    else s
  | _ => s

def stnAct (f : FabUnit) (s : State) : State :=
  match s.orderOut f with
  | some t => t
  | none =>
    match f.st with
    | .prog w us r rs q fin re es =>
      match f.strip? 1 with
      | some v =>
        if f.agv then
          if w.running then
            let off := progOffset f.frame 22 w
            if s.mayIssue f (.tile f.key.tile) off then s.stnStore f off v [1] (.prog (progNext f.frame w) us r rs q fin re es) else s
          else s.firing f [1] fun s => s.unitFault f.key 0x06 0x0A 0
        else match f.strip? 0 with
          | some a => s.stnStore f (offsetOf a) v [0, 1] f.st
          | none => s
      | none => stnEos f s
    | _ => s

/-- An elastic buffer emits its oldest strip, and takes one when it holds fewer than CAP (R283). Either is a firing at a bank: an
error that waits in the unit or in the strip is found (R254, R387), and so is a bank that was handed on (R288). -/
def elasticAct (f : FabUnit) (s : State) : State :=
  match f.st with
  | .ring first count e =>
    let total := progTotal f.frame
    let at0 (k : Nat) := progOffset f.frame 22 (progNth f.frame (k % total))
    let pool : Pool := .tile f.key.tile
    if count != 0 && f.outFree 0 then
      match s.loadFault f pool (at0 first) with
      | some (c, b) => s.firing f [] fun s => s.unitFault f.key c b 0
      | none => s.firing f [] fun s =>
        (s.emit f.key 0 (.data (ofBytes (s.bytes (pool.mem (at0 first)) 512)))).setSt f.key (.ring ((first + 1) % total) (count - 1) e)
    else match f.strip? 1 with
    | some v =>
      let off := at0 (first + count)
      if count < total && s.mayIssue f pool off then
        s.firing f [1] fun s =>
          if s.bankGone pool f.serial f.folio (bankOf off) then s.unitFault f.key 0x06 0x0B 0
          else (s.put (pool.mem off) (stripBytes v)).setSt f.key (.ring first (count + 1) e)
      else s
    | none => s
  | _ => s

def elasticEos (f : FabUnit) (s : State) : State :=
  match f.st with
  | .ring _ count _ => if f.eosAt 1 && count == 0 then s.forwardEos f [1] [0] else s
  | _ => s

/-! ### rmw (R284, R285) -/

/-- One more update of a run. -/
def bumpUpd (l : List (Nat × Nat)) (run : Nat) : List (Nat × Nat) :=
  if l.any fun e => e.1 == run then l.map fun e => if e.1 == run then (e.1, e.2 + 1) else e else l ++ [(run, 1)]

/-- An operand of D: lane 0, or lane pair 0. -/
def rmwOperand (d : Bool) (v : Strip) : Nat := if d then fieldN v 0 64 else fieldN v 0 32

def rmwAct (f : FabUnit) (s : State) : State :=
  let op := f.auxBits 0 4
  let d := f.auxBits 4 1 == 1
  let n := if d then 8 else 4
  let three := op == 8 || op == 10
  match f.strip? 0, f.strip? 1, (if three then f.strip? 2 else some 0#4096) with
  | some a, some b, some e =>
    if f.outFree 0 && f.outFree 2 then
      let o := offsetOf a / n * n
      let k := tileMem f.key.tile o
      s.firing f (if three then [0, 1, 2] else [0, 1]) fun s =>
        if s.bankGone (.tile f.key.tile) f.serial f.folio (bankOf o) then s.unitFault f.key 0x06 0x0B 0
        else if s.poisoned k n then s.unitFault f.key 0x12 0x03 0
        else
          let r := s.atomicAt k n op (rmwOperand d b) (rmwOperand d e)
          let s := r.2.modUnit f.key fun f => { f with upds := bumpUpd f.upds f.passed }
          let s := s.emit f.key 0 (.data (ofLanes [w32 r.1.1, if d then w32 (r.1.1 / 2 ^ 32) else 0#32, w32 r.1.2.toNat]))
          s.emit f.key 2 orderToken
    else s
  | _, _, _ => s

/-- EOS on every input an rmw reads, delay lines apart, goes out on its data and ordering outputs (R39, R44, R251). -/
def rmwEos (f : FabUnit) (s : State) : State :=
  let op := f.auxBits 0 4
  s.eosOn f (if op = 8 ∨ op = 10 then [0, 1, 2] else [0, 1]) [0, 2]

/-! ### bankpass (R288) -/

/-- Banks a bankpass names. -/
def FabUnit.banks (f : FabUnit) : List Nat := (upTo 16).filter fun b => f.auxBits b 1 == 1

/-- The configuration's stores to a bank have performed, and its loads for a matrix tile from it have retired. -/
def State.bankDrained (s : State) (f : FabUnit) (p : Pool) (bank : Nat) : Bool :=
  !(s.helds.any fun h => h.serial == f.serial && p == .tile h.tile && bankOf h.off == bank &&
      ((s.unit? h.unitKey).map fun g => g.folio == f.folio).getD false) &&
  !(s.units.any fun g => g.op == 0xC1 && g.serial == f.serial && g.folio == f.folio && s.ldPool g == p &&
      match g.st with
      | .prog _ us _ _ _ _ _ _ => us.any fun u => u.offs.any fun o => bankOf o == bank
      | _ => false)

def bankpassAct (f : FabUnit) (s : State) : State :=
  match f.latch 0 with
  | none => s
  | some .eos => s.forwardEos f [0] []
  | some .bubble => s
  | some (.leafEnd _ _) => s
  | some _ =>
    let p := s.poolOf f (f.auxBits 16 1 == 1) (f.auxBits 17 6)
    let gone (b : Nat) : Bool := s.bankGone p f.serial f.folio b
    if f.banks.all fun b => s.bankDrained f p b && (s.bankHere p f.serial f.folio b || gone b) then
      let mine := f.banks.filter fun b => !gone b
      s.firing f [0] fun s =>
        { s with bankToks := (s.bankToks.filter fun t => !(t.pool == p && t.serial == f.serial && mine.contains t.bank)) ++
                   mine.map fun b => ⟨p, f.serial, b, s.nextConf p f.serial f.folio b, false⟩ }
    else s

/-! ### lkpool (R286, R287) -/

/-- The tile-window address of a tile's offset in an instance's region (R88, R89). -/
def State.windowAddr (s : State) (serial : Nat) (t : TKey) (off : Nat) : Nat :=
  let region := ((s.inst? serial).map Inst.region).getD []
  0x00F0000000000000 + ((upTo (4 * region.length)).find? fun k => regionTile region k == some t).getD 0 * 2 ^ 22 + off

/-- The lkpool's wait ends: its entry is gone. -/
def State.endSubWait (s : State) (f : FabUnit) : State :=
  { s with waits := s.waits.filter fun w => w.waiter != .sub f.serial f.key }

/-- An acquire that waits behind another holder is registered (R221, R287). -/
def State.lkRegister (s : State) (f : FabUnit) (t : Pool × Nat) (a : Strip) : State :=
  s.autoRegister (.sub f.serial f.key) f.key.q 3 (s.windowAddr f.serial f.key.tile (offsetOf a)) (some t) f.serial

/-- An acquire (R287): granted, waiting registered behind another holder, or waiting unregistered behind itself or behind a
16th token. -/
def lkAcquireAct (f : FabUnit) (s : State) : State :=
  match f.st, f.strip? 0 with
  | .lk held since, some a =>
    let t : Pool × Nat := (.tile f.key.tile, lockHash (offsetOf a))
    let me : Party := .sub f.serial f.key
    let take (s : State) : State :=
      ((s.firing f [0] fun s => (s.emit f.key 0 (.data a)).setSt f.key (.lk (held ++ [t.2]) none)).endSubWait f).relink
    if held.contains t.2 then (if since.isSome then s else s.setSt f.key (.lk held (some s.nsec.toNat)))
    else if 16 ≤ held.length then s
    else match s.holderOf t with
      | some h =>
        if h = me then (if f.outFree 0 then take s else s)
        else if since.isSome then s
        else (s.setSt f.key (.lk held (some s.nsec.toNat))).lkRegister f t a
      | none => if f.outFree 0 then take { s with locks := s.locks ++ [⟨t.1, t.2, me⟩] } else s
  | _, _ => s

/-- A release (R287): the token goes to its next waiter; the pool's own acquire, if it waited for that token and another waiter
has it now, waits registered. -/
def lkReleaseAct (f : FabUnit) (s : State) : State :=
  match f.st, f.strip? 1 with
  | .lk held since, some a =>
    let k := lockHash (offsetOf a)
    s.firing f [1] fun s =>
      if held.contains k then
        let t : Pool × Nat := (.tile f.key.tile, k)
        let u := (s.setSt f.key (.lk (held.erase k) since)).release t
        match f.strip? 0, u.holderOf t with
        | some b, some h =>
          if since.isSome ∧ lockHash (offsetOf b) = k ∧ h ≠ .sub f.serial f.key then u.lkRegister f t b else u
        | _, _ => u
      else s.unitFault f.key 0x06 0x0C 0
  | _, _ => s

def lkEos (f : FabUnit) (s : State) : State := if f.eosAt 0 && f.eosAt 1 then s.forwardEos f [0, 1] [0] else s

/-! ### Turns -/

/-- R278. -/
def execAg (u : UKey) (s : State) : Host.Outcome State Fault Refusal := unitTurn u 0xC0 agAct s

/-- R279. -/
def execLdn (u : UKey) (s : State) : Host.Outcome State Fault Refusal := unitTurn u 0xC1 ldnAct s

/-- R280. -/
def execLdnRewind (u : UKey) (s : State) : Host.Outcome State Fault Refusal := unitTurn u 0xC1 ldnRewindAct s

/-- R280. -/
def execLdnResolve (u : UKey) (s : State) : Host.Outcome State Fault Refusal := unitTurn u 0xC1 ldnResolveAct s

/-- R280. -/
def execLdnRefEos (u : UKey) (s : State) : Host.Outcome State Fault Refusal := unitTurn u 0xC1 ldnRefEosAct s

/-- R282. -/
def execStn (u : UKey) (s : State) : Host.Outcome State Fault Refusal := unitTurn u 0xC2 stnAct s

/-- R283. -/
def execElasticBuffer (u : UKey) (s : State) : Host.Outcome State Fault Refusal := unitTurn u 0xC2 elasticAct s

/-- R284. -/
def execRmw (u : UKey) (s : State) : Host.Outcome State Fault Refusal := unitTurn u 0xC3 rmwAct s

/-- R288. -/
def execBankpass (u : UKey) (s : State) : Host.Outcome State Fault Refusal := unitTurn u 0xC4 bankpassAct s

/-- R287. -/
def execLkpoolAcquire (u : UKey) (s : State) : Host.Outcome State Fault Refusal := unitTurn u 0xC5 lkAcquireAct s

/-- R287. -/
def execLkpoolRelease (u : UKey) (s : State) : Host.Outcome State Fault Refusal := unitTurn u 0xC5 lkReleaseAct s

end Sys2Proof.Machine
end

