-- ==== Sys2Proof/Machine/Matrix.lean ====
section
/-!
DEFINITION. Matrix tiles: mload and the B registers, mswap and swap marks, the mmac with its passes, commits, squashes and
replays, and the accumulator slot operations (R80, R256 to R274).
-/

namespace Sys2Proof.Machine

/-! ### Tiles -/

def State.mtile? (s : State) (t : TKey) : Option MTile := s.mtiles.find? fun m => m.key == t

def State.modMtile (s : State) (t : TKey) (f : MTile → MTile) : State :=
  { s with mtiles := updWhere (fun m => m.key == t) f s.mtiles }

/-- Slot, row and column of the accumulator store (R80). -/
def slotIdx (slot row col : Nat) : Nat := 4096 * slot + 64 * row + col

/-- A value of the accumulator store; what the list does not hold is +0. -/
def slotGet : List (Nat × W32) → Nat → W32
  | [], _ => 0#32
  | (k, v) :: l, a => if a = k then v else slotGet l a

/-- Puts a value at its place in rising order. -/
def slotIns : List (Nat × W32) → Nat → W32 → List (Nat × W32)
  | [], a, v => [(a, v)]
  | (k, w) :: l, a, v => if a < k then (a, v) :: (k, w) :: l else (k, w) :: slotIns l a v

/-- Writes one value, in rising order, +0 not listed. -/
def slotPut (l : List (Nat × W32)) (a : Nat) (v : W32) : List (Nat × W32) :=
  let l := l.filter fun e => e.1 != a
  if v = 0#32 then l else slotIns l a v

/-- RoundF32(a + b, RNE). -/
def addF32 (a b : W32) : W32 := roundF32 0 ((f32Val a).add 0 (f32Val b))

/-! ### Ordering tokens of loads without REF (R101, R106) -/

/-- n of the loads that wait for their pass at the load node of an input count toward ordering tokens. -/
def State.releaseLoads (s : State) (u : UKey) (k n : Nat) : State :=
  match s.feeder u k with
  | some g =>
    match g.st with
    | .prog w (⟨offs, runs, whole⟩ :: _) r rs q fin re es =>
      if g.op == 0xC1 && !g.ref then
        let left := offs.drop n
        (s.setSt g.key (.prog w (if left.isEmpty then [] else [⟨left, runs.drop n, whole⟩]) r rs q fin re es)).orderCredit g.key
          (min n offs.length)
      else s
    | _ => s
  | none => s

/-! ### End tokens under way (R41, R269) -/

/-- Positions of the end tokens on their way to an input: pending in their counter, in its output slot, in the link buffers, taken
from one by a cut marker, in the latch. A subscriber acts on one before its next firing (R41), and each comes no later than the data sent with it (R269). -/
def State.endsComing (s : State) (u : UKey) (k : Nat) : List Nat :=
  match s.routeInto u k with
  | none => []
  | some r =>
    let src : List Token := match r.src with
      | .unit a _ => ((s.unit? a).map fun f : FabUnit =>
          (if (f.slot r.pout).todo.contains r.id then (f.slot r.pout).tok.toList else []) ++
            match f.st with
            | .ctr _ _ _ _ _ _ _ _ _ _ ends _ _ => ends.map fun e => Token.endTok e.1 e.2
            | _ => []).getD []
      | .port _ _ => []
    let here : List Token := ((s.unit? u).bind fun f => f.latch k).toList
    (src ++ r.hops.flatMap id ++ r.saved.flatMap id ++ here).filterMap fun t => match t with
      | .endTok _ p => some p
      | _ => none

/-- An end token whose position has been reached is still on its way to an input. -/
def State.endLate (s : State) (u : UKey) (k reached : Nat) : Bool := (s.endsComing u k).any fun p => decide (p ≤ reached)

/-! ### mload (R260, R271) -/

/-- A slab with a bad group stops mload in a run of its leaf (R271). -/
def State.spmeta (s : State) (f : FabUnit) (run slab : Nat) (g : Nat × Nat) : State :=
  s.unitFaultIn f.key run 0x08 0 (w64 (slab % 2 ^ 32 + g.1 % 2 ^ 16 * 2 ^ 32 + g.2 % 2 ^ 16 * 2 ^ 48))

/-- Whether the sub-pass whose REWIND went out still takes strips of its slab, or (a) rows sent again (R264). -/
def MTile.awaits (m : MTile) (slabStrips : Nat) (a : Bool) : Bool :=
  match m.pass with
  | .replay _ _ _ _ true _ _ _ _ =>
    if a then decide (m.aRefetch.length < m.aStrips.length) else decide (m.refetch.length < slabStrips)
  | _ => false

/-- The slab that the active register holds, among this mload's slabs of the phase (R271). -/
def FabUnit.activeSlab (f : FabUnit) (m : MTile) : Nat :=
  match f.st with
  | .mload _ _ k => if m.loading.full then k - 2 else k - 1
  | _ => 0

/-- The refetch input: a strip of the slab sent again, or EOS. Strips beyond the slab wait for the next REWIND (R264,
R280). A bad group is found as it is decoded, in the run whose pass is replayed (R271). -/
def mloadRef (f : FabUnit) (s : State) : State :=
  match f.latch 1, f.st with
  | some (.data v), _ =>
    match s.mtile? f.key.tile with
    | none => s
    | some m =>
      if m.awaits (s.geom f).slabStrips false then
        s.firing f [1] fun s =>
          match (s.geom f).badGroup (m.refetch ++ [v]) with
          | some e =>
            (s.modMtile f.key.tile fun m => { m with refetch := [], active := .empty }).spmeta f
              (((s.sibling f 0xB2).map FabUnit.passed).getD f.passed) (f.activeSlab m) e
          | none => s.modMtile f.key.tile fun m => { m with refetch := m.refetch ++ [v] }
      else s
  | some .eos, .mload a _ n =>
    let s := (s.takeIn f.key 1).setSt f.key (.mload a true n)
    if a then s.setEnded f.key else s
  | _, _ => s

/-- The first fetch: a strip into the loading register, or EOS. A bad group is found as it is decoded, and no part of its slab stays
(R271). -/
def mloadMain (f : FabUnit) (s : State) : State :=
  match s.mtile? f.key.tile, f.st with
  | some m, .mload _ b n =>
    match f.latch 0 with
    | some (.data v) =>
      if m.loading.full then s
      else s.firing f [0] fun s =>
        let g := s.geom f
        let l := m.loading.strips ++ [v]
        let full := decide (g.slabStrips ≤ l.length)
        let bad := g.badGroup l
        let s := s.modMtile f.key.tile fun m =>
          { m with loading := if bad.isSome then .empty else ⟨l, 0, full⟩, badLoading := m.badLoading && !m.loading.strips.isEmpty }
        match bad with
        | some e => s.spmeta f f.passed n e
        | none =>
          if full then
            s.modUnit f.key fun f => match f.st with
              | .mload a b n => { f with st := .mload a b (n + 1) }
              | _ => f
          else s
    | some .eos =>
      if !m.loading.full && !m.loading.strips.isEmpty then s.firing f [0] fun s => s.unitFault f.key 0x07 0x01 0
      else
        let s := (s.takeIn f.key 0).setSt f.key (.mload true b n)
        if b || !s.fed f.key 1 then s.setEnded f.key else s
    | _ => s
  | _, _ => s

def mloadAct (f : FabUnit) (s : State) : State :=
  let s := mloadRef f s
  match s.unit? f.key with
  | some f => if f.dead then s else mloadMain f s
  | none => s

/-! ### mswap (R261) -/

/-- Places of the path from the mswap to the mmac. -/
def pathCap : Nat := 2

def State.pathPut (s : State) (f : FabUnit) (i : PathItem) : State :=
  s.modMtile f.key.tile fun m => { m with path := m.path ++ [i] }

/-- A control token at in1: an end token of rank RANK or higher gives the place of a swap mark. -/
def mswapCtl (f : FabUnit) (s : State) : State :=
  match f.latch 1, f.st with
  | none, _ => s
  | some (.endTok r p), .mswap passed i ends =>
    (s.takeIn f.key 1).setSt f.key (.mswap passed i (if f.auxBits 0 3 ≤ r ∧ !f.ended then ends ++ [(r, p)] else ends))
  | some _, _ => s.takeIn f.key 1

/-- The next item goes to the mmac: a swap mark at its place, an A strip, or EOS; no strip beyond the position of an end token that
is still on its way (R41, R261). -/
def mswapMain (f : FabUnit) (s : State) : State :=
  match s.mtile? f.key.tile, f.st with
  | some m, .mswap passed i ends =>
    if f.ended ∨ pathCap ≤ m.path.length ∨ s.endLate f.key 1 passed then s
    else if f.auxBits 3 1 = 1 ∧ !i then (s.pathPut f .mark).setSt f.key (.mswap passed true ends)
    else if (ends.head?.map fun e => decide (e.2 ≤ passed)).getD false then
      (s.pathPut f .mark).setSt f.key (.mswap passed i (ends.drop 1))
    else match f.latch 0 with
      | some (.data v) => s.firing f [0] fun s => (s.pathPut f (.strip v)).setSt f.key (.mswap (passed + 1) i ends)
      | some .eos => (((s.takeIn f.key 0).pathPut f .eos).setSt f.key (.mswap passed i [])).setEnded f.key
      | _ => s
  | _, _ => s

def mswapAct (f : FabUnit) (s : State) : State :=
  let s := mswapCtl f s
  match s.unit? f.key with
  | some f => mswapMain f s
  | none => s

/-! ### Passes (R262 to R267) -/

/-- SLOT, SCNT, SRANK and AREP of an mmac (R263). -/
def FabUnit.slot0 (f : FabUnit) : Nat := f.auxBits 0 4
def FabUnit.scnt (f : FabUnit) : Nat := f.auxBits 4 4 + 1
def FabUnit.srank (f : FabUnit) : Nat := f.auxBits 8 3
def FabUnit.arep (f : FabUnit) : Bool := f.auxBits 16 1 == 1

/-- The oldest waiting end token has its position. -/
def endDue (taken : Nat) (ends : List (Nat × Nat)) : Bool := (ends.head?.map fun e => decide (e.2 ≤ taken)).getD false

/-- Slot rotation after a closing end token (R263). -/
def FabUnit.rotate (f : FabUnit) (pair : Bool) (rank cur : Nat) : Nat :=
  if f.srank ≠ 0 ∧ f.srank ≤ rank then f.slot0 + (cur - f.slot0 + if pair then 2 else 1) % f.scnt else cur

/-- Counter of one mmac goes through `f` (R274). -/
def Inst.mxUpd (i : Inst) (u : FabUnit) (f : MxCount → MxCount) : Inst :=
  let here (c : MxCount) : Bool := c.folio == u.folio && c.tx == u.fx / 2 && c.ty == u.fy / 2
  if i.mx.any here then { i with mx := updWhere here f i.mx }
  else { i with mx := i.mx ++ [f ⟨u.folio, u.fx / 2, u.fy / 2, [0, 0, 0], [0, 0, 0], 0, 0⟩] }

/-- An attempt at rung f begins (R274). -/
def State.countAttempt (s : State) (u : FabUnit) (f : Nat) : State :=
  s.modInst u.serial fun i => i.mxUpd u fun c => { c with att := updAt c.att f satInc32 }

/-- A squash at rung f (R267, R274): why, by the budgets of R78. -/
def State.countSquash (s : State) (u : FabUnit) (g : Geom) (f : Nat) (c : Counts) : State :=
  let why := (decide (g.satMax < c.sat)).toNat + 2 * (decide (g.uflowMax < c.uflow)).toNat +
    4 * (decide (g.cancMax < c.canc)).toNat + 8 * c.forced.toNat
  let s := s.modInst u.serial fun i =>
    { i.mxUpd u (fun x => { x with sq := updAt x.sq f satInc32, last := BitVec.ofNat 4 why }) with mxsq := satInc32 i.mxsq }
  s.meter (((s.inst? u.serial).map Inst.owner).getD 0) (13 + f) 1

/-- Row firings of a sub-pass (R420). -/
def State.countRows (s : State) (u : FabUnit) (g : Geom) (f m : Nat) : State :=
  s.meter (((s.inst? u.serial).map Inst.owner).getD 0) (g.code f) m

/-- The mmac's outputs can take what a commit sends. -/
def FabUnit.commitReady (f : FabUnit) : Bool := f.outFree 3 && (f.dest != 24 || f.outFree 0)

/-- The iteration field of an mmac's control token (R266). -/
def mmacIter (passNo f h sub kind : Nat) : W32 :=
  w32 (passNo % 2 ^ 24 + f % 4 * 2 ^ 24 + h % 2 * 2 ^ 26 + sub % 4 * 2 ^ 27 + kind * 2 ^ 30)

/-- The pass record (R267). -/
def passRecord (passNo f m cur : Nat) (c : Counts) (squashes : Nat) : Strip :=
  ofLanes ([passNo, f, m, cur, c.sat, c.uflow, c.canc, squashes].map w32)

/-- The delta is added into the current slot, or slot pair (R72, R80, R263). -/
def commitSlots (slots : List (Nat × W32)) (cur : Nat) (dm : List (List W32)) : List (Nat × W32) :=
  (dm.zipIdx).foldl (fun sl r => (r.1.zipIdx).foldl (fun sl c =>
    let k := slotIdx (cur + c.2 / 64) r.2 (c.2 % 64)
    slotPut sl k (addF32 (slotGet sl k) c.1)) sl) slots

/-- The pass commits: slots, RESOLVE, the record, rotation, and the ordering tokens of its loads (R106, R263, R264). -/
def State.commitPass (s : State) (u : FabUnit) (g : Geom) (m : MTile) (rank f squashes : Nat) (dm : List (List W32))
    (c : Counts) : State :=
  match u.st with
  | .mmac n cur passNo e0 e1 ends sink =>
    let s := s.modMtile u.key.tile fun t => { t with slots := commitSlots t.slots cur dm, pass := .opened, aStrips := [] }
    let s := s.emit u.key 3 (.doneTok (mmacIter passNo f 0 0 0))
    let s := if u.dest = 24 then s.emit u.key 0 (.data (passRecord passNo f dm.length cur c squashes)) else s
    let s := s.modInst u.serial fun i => { i with mxcommit := satInc32 i.mxcommit }
    let s := s.setSt u.key (.mmac n (u.rotate g.pair rank cur) ((passNo + 1) % 2 ^ 24) e0 e1 ends sink)
    match s.sibling u 0xB1 with
    | some w => s.releaseLoads w.key 0 m.aStrips.length
    | none => s
  | _ => s

/-- A part of the tile that a node reads has an uncorrectable error: the node faults (R272). -/
def State.tileEcc (s : State) (u : FabUnit) : State := s.firing u [] fun s => s.unitFault u.key 0x12 0x03 0

/-- A slot of the current pass has an uncorrectable error. -/
def MTile.slotBad (m : MTile) (pair : Bool) (cur : Nat) : Bool := m.badSlots.any fun k => k == cur || pair && k == cur + 1

/-- The attempt at rung f has run: a commit, or a squash and the next rung (R78, R264); an error in what it reads faults (R272). -/
def State.concludePass (s : State) (u : FabUnit) (g : Geom) (m : MTile) (rank f squashes : Nat) (dm sm : List (List W32))
    (c : Counts) : State :=
  let c := { c with canc := g.cancellations dm sm }
  let cur := match u.st with
    | .mmac _ cur _ _ _ _ _ => cur
    | _ => 0
  if m.badDelta || !g.overBudget f c && m.slotBad g.pair cur then s.tileEcc u
  else if g.overBudget f c then
    let z := zeroRows dm.length g.ns
    ((s.countSquash u g f c).countAttempt u (f + 1)).modMtile u.key.tile fun t =>
      { t with pass := .replay rank (f + 1) 0 0 false (squashes + 1) z z Counts.zero }
  else s.commitPass u g m rank f squashes dm c

/-- A unit of the invocation in whose run the mmac stands has faulted: every result of that invocation is withheld (R49, R272). -/
def State.runLost (s : State) (u : FabUnit) : Bool :=
  match s.leafOf u with
  | none => false
  | some h => (h :: s.leafSet h).any fun x => ((s.unit? x).map fun g => g.dead && g.runNow == u.passed).getD false

/-- SLAB_PASS: a closing end token that has its position closes the pass: an empty one only turns the slots, and so does one that a
fault has discarded; else the trial attempt runs from the active register, or its refetch begins (R263, R264, R272). -/
def slabPassAct (u : FabUnit) (s : State) : State :=
  match s.mtile? u.key.tile, u.st with
  | some m, .mmac n cur passNo e0 e1 ((rank, p) :: ends) sink =>
    if m.pass ≠ .opened ∨ n < p then s
    else
      let g := s.geom u
      let rows := g.rowsIn m.aStrips.length
      if rows = 0 ∨ m.lost = true ∨ s.runLost u = true then
        (s.setSt u.key (.mmac n (u.rotate g.pair rank cur) passNo e0 e1 ends sink)).modMtile u.key.tile fun m =>
          { m with aStrips := [], lost := false }
      else if !u.commitReady then s
      else
        let z := zeroRows rows g.ns
        let s := (s.setSt u.key (.mmac n cur passNo e0 e1 ends sink)).countAttempt u 0
        match s.unit? u.key with
        | none => s
        | some u =>
          if m.active.full ∧ m.active.rung = 0 ∧ m.badActive = true then s.tileEcc u
          else if m.active.full ∧ m.active.rung = 0 then
            let (dm, sm, c) := g.subPass 0 0 0 rows m.aStrips m.active.strips z z
            (s.countRows u g 0 rows).concludePass u g m rank 0 0 dm sm c
          else s.modMtile u.key.tile fun m => { m with pass := .replay rank 0 0 0 false 0 z z Counts.zero }
  | _, _ => s

/-- SLAB_REPLAY: the REWIND of a sub-pass goes out; or, once the slab (and with AREP the rows) has come again, the
sub-pass runs, and after the last one the attempt is decided (R264). -/
def slabReplayAct (u : FabUnit) (s : State) : State :=
  match s.mtile? u.key.tile, u.st with
  | some m, .mmac _ _ passNo _ _ _ _ =>
    match m.pass with
    | .opened => s
    | .replay rank f h sub false sq dm sm c =>
      if u.outFree 3 then
        (s.emit u.key 3 (.doneTok (mmacIter passNo f h sub 1))).modMtile u.key.tile fun m =>
          { m with pass := .replay rank f h sub true sq dm sm c }
      else s
    | .replay rank f h sub true sq dm sm c =>
      let g := s.geom u
      let nb := g.slabStrips
      let na := m.aStrips.length
      if m.refetch.length < nb ∨ (u.arep ∧ m.aRefetch.length < na) ∨ !u.commitReady then s
      else if !u.arep && m.badRows then s.tileEcc u
      else
        let slab := m.refetch.take nb
        let s := s.modMtile u.key.tile fun m =>
          { m with refetch := m.refetch.drop nb, aRefetch := if u.arep then m.aRefetch.drop na else m.aRefetch,
                   active := if (g.badGroup slab).isSome then .empty else ⟨slab, f, f == 0⟩, badActive := false }
        match g.badGroup slab, s.sibling u 0xB0 with
        | some e, some l => s.spmeta l u.passed (l.activeSlab m) e
        | _, _ =>
          let (dm, sm, k) := g.subPass f h sub dm.length (if u.arep then m.aRefetch.take na else m.aStrips) slab dm sm
          let s := s.countRows u g f dm.length
          let c := c.add k
          if sub + 1 < g.nK f then s.modMtile u.key.tile fun m => { m with pass := .replay rank f h (sub + 1) false sq dm sm c }
          else if h + 1 < g.nN f then s.modMtile u.key.tile fun m => { m with pass := .replay rank f (h + 1) 0 false sq dm sm c }
          else s.concludePass u g m rank f sq dm sm c
  | _, _ => s

/-- SWAP_MARK: a mark at the front of the path exchanges the B registers once every earlier pass has resolved and a whole
slab is loaded, or faults NOSLAB (R262). -/
def swapMarkAct (u : FabUnit) (s : State) : State :=
  match s.mtile? u.key.tile, u.st with
  | some m, .mmac n _ _ _ _ ends _ =>
    if m.path.head? ≠ some .mark ∨ m.pass ≠ .opened ∨ !m.aStrips.isEmpty ∨ endDue n ends then s
    else if m.loading.full then
      let s := s.modMtile u.key.tile fun m => { m with path := m.path.drop 1, active := m.loading, loading := .empty, badActive := m.badLoading, badLoading := false }
      match s.sibling u 0xB0 with
      | some l => s.releaseLoads l.key 0 m.active.strips.length
      | none => s
    else
      let ended : Bool := match (s.sibling u 0xB0).map FabUnit.st with
        | some (.mload true _ _) => true
        | _ => false
      if ended && m.loading.strips.isEmpty then
        s.firing u [] fun s => (s.modMtile u.key.tile fun m => { m with path := m.path.drop 1 }).unitFault u.key 0x06 0x06 0
      else s
  | _, _ => s

/-- A token at in1 of an mmac: an end token waits for its position; one past the end of an ended stream is never reached
(R41, R263). -/
def mmacCtl (u : FabUnit) (s : State) : State :=
  match u.latch 1, u.st with
  | none, _ => s
  | some (.endTok r p), .mmac n cur k e0 e1 ends sink =>
    (s.takeIn u.key 1).setSt u.key (.mmac n cur k e0 e1 (if e0 ∧ n < p then ends else ends ++ [(r, p)]) sink)
  | some .eos, .mmac n cur k e0 _ ends sink => (s.takeIn u.key 1).setSt u.key (.mmac n cur k e0 true ends sink)
  | some _, _ => s.takeIn u.key 1

/-- A token at in2: a row sent again, or EOS. -/
def mmacRef (u : FabUnit) (s : State) : State :=
  match u.latch 2, u.st with
  | some (.data v), _ =>
    if ((s.mtile? u.key.tile).map fun m => m.awaits 0 true).getD false then
      s.firing u [2] fun s => s.modMtile u.key.tile fun m => { m with aRefetch := m.aRefetch ++ [v] }
    else s
  | some .eos, _ => s.takeIn u.key 2
  | _, _ => s

/-- The next item of the path, once no closed pass is unresolved and no closing token is due: the mmac fires once for each whole
row (R258), and begins no row, ends no stream and passes no run beyond the position of an end token that is still on its way
(R41, R263). -/
def mmacPath (u : FabUnit) (s : State) : State :=
  match s.mtile? u.key.tile, u.st with
  | some m, .mmac n cur k _ e1 ends sink =>
    let g := s.geom u
    let rows := g.rowsIn m.aStrips.length
    if m.pass ≠ .opened ∨ endDue n ends ∨ (s.endLate u.key 1 n ∧ m.aStrips.length ≤ g.stripsIn rows) then s
    else
      let pop (s : State) : State := s.modMtile u.key.tile fun m => { m with path := m.path.drop 1 }
      match m.path.head? with
      | some (.strip v) =>
        s.firing u [] fun s =>
          let s := pop s
          if m.active.strips.isEmpty then s.unitFault u.key 0x06 0x06 0
          else
            let l := m.aStrips ++ [v]
            let s := s.modMtile u.key.tile fun m => { m with aStrips := l }
            let s := s.modUnit u.key fun f => match f.st with
              | .mmac n a b c d e f' => { f with st := .mmac (n + (g.rowsIn l.length - rows)) a b c d e f' }
              | _ => f
            if 64 < g.rowsIn l.length ∧ m.lost = false then s.unitFault u.key 0x06 0x07 0 else s
      | some .eos =>
        let ends := ends.filter fun e => decide (e.2 ≤ n)
        (pop s).setSt u.key (.mmac n cur k true e1 (if m.aStrips.isEmpty then ends else ends ++ [(1, n)]) sink)
      | some (.leafEnd h run) => ((pop s).forwardMarker u h run (s.leafSet h) []).getD s
      | some .mark => s
      | none => s
  | _, _ => s

/-- The end of the mmac's part in the phase (R263, R453). -/
def mmacEnd (u : FabUnit) (s : State) : State :=
  match s.mtile? u.key.tile, u.st with
  | some m, .mmac n cur k true true [] false =>
    if m.pass = .opened ∧ m.aStrips.isEmpty ∧ u.commitReady then
      let s := (s.emit u.key 3 .eos).setSt u.key (.mmac n cur k true true [] true)
      let s := if u.dest = 24 then s.emit u.key 0 .eos else s
      let s := match s.sibling u 0xB0 with
        | some l => s.releaseLoads l.key 0 (2 ^ 32)
        | none => s
      s.setEnded u.key
    else s
  | _, _ => s

/-- One step of a turn of a unit that has several. -/
def State.thenUnit (s : State) (u : UKey) (f : FabUnit → State → State) : State :=
  match s.unit? u with
  | some g => if g.dead then s else f g s
  | none => s

def mmacAct (u : FabUnit) (s : State) : State :=
  ((((mmacCtl u s).thenUnit u.key mmacRef).thenUnit u.key mmacPath).thenUnit u.key mmacEnd)

/-! ### Accumulator slot operations (R268, R269) -/

/-- A pass of the tile whose closing end token has reached the mmac is unresolved. -/
def State.slotsWait (s : State) (f : FabUnit) : Bool :=
  match s.mtile? f.key.tile, s.sibling f 0xB2 with
  | some m, some u =>
    match u.st with
    | .mmac n _ _ _ _ ends _ =>
      let last := n - (s.geom u).rowsIn m.aStrips.length
      m.pass != .opened || (ends.map Prod.snd ++ s.endsComing u.key 1).any fun p => decide (last < p)
    | _ => false
  | _, _ => false

/-- Row, slot and column mask of an address token. -/
def accRow (a : Strip) : Nat := fieldN a 0 6
def FabUnit.accSlot (f : FabUnit) (a : Strip) : Nat := (f.auxBits 0 4 + fieldN a 6 4) % 16
def FabUnit.accPair (f : FabUnit) : Bool := f.auxBits 4 1 == 1
def FabUnit.accCols (f : FabUnit) (a : Strip) : List Nat :=
  (upTo (if f.accPair then 128 else 64)).filter fun c => f.auxBits 5 1 == 0 || bitAt a (32 + c)

/-- The place of column c of a row in the accumulator store. -/
def accIdx (q row c : Nat) : Nat := slotIdx (q + c / 64) row (c % 64)

/-- Columns of a row through `f`, by column and old value. -/
def mapRow (slots : List (Nat × W32)) (q row : Nat) (cols : List Nat) (f : Nat → W32 → W32) : List (Nat × W32) :=
  cols.foldl (fun sl c => slotPut sl (accIdx q row c) (f c (slotGet sl (accIdx q row c)))) slots

/-- What an accrd reads (R268). -/
def readRow (slots : List (Nat × W32)) (q row : Nat) (cols : List Nat) : Strip :=
  ofLanes ((upTo 128).map fun c => if cols.contains c then slotGet slots (accIdx q row c) else 0#32)

/-- A slot operation fires on its inputs; an odd slot with PAIR faults (R268), and so does an error in a slot it reads (R272). -/
def State.slotOp (s : State) (f : FabUnit) (ks : List Nat) (a : Strip) (reads : Bool) (go : MTile → Nat → State → State) : State :=
  if s.slotsWait f then s
  else match s.mtile? f.key.tile with
    | none => s
    | some m => s.firing f ks fun s =>
        if f.accPair ∧ f.accSlot a % 2 = 1 then s.unitFault f.key 0x06 0x08 0
        else if reads && m.slotBad f.accPair (f.accSlot a) then s.unitFault f.key 0x12 0x03 0
        else go m (f.accSlot a) s

def accrdAct (f : FabUnit) (s : State) : State :=
  match f.strip? 0 with
  | some a =>
    if f.outFree 0 then
      s.slotOp f [0] a true fun m q s =>
        let s := s.emit f.key 0 (.data (readRow m.slots q (accRow a) (f.accCols a)))
        if f.auxBits 6 1 = 1 then
          s.modMtile f.key.tile fun m => { m with slots := mapRow m.slots q (accRow a) (f.accCols a) fun _ _ => 0#32 }
        else s
    else s
  | none => s

def accwrAct (f : FabUnit) (s : State) : State :=
  match f.strip? 0, f.strip? 1 with
  | some a, some d =>
    s.slotOp f [0, 1] a (f.auxBits 6 1 == 1) fun _ q s =>
      let new (c : Nat) (old : W32) : W32 := if f.auxBits 6 1 = 1 then addF32 old (lane d c) else lane d c
      s.modMtile f.key.tile fun m => { m with slots := mapRow m.slots q (accRow a) (f.accCols a) new }
  | _, _ => s

def accclrAct (f : FabUnit) (s : State) : State :=
  match f.strip? 0 with
  | some a =>
    s.slotOp f [0] a false fun _ q s =>
      let rows := if f.auxBits 6 1 = 1 then upTo 64 else [accRow a]
      s.modMtile f.key.tile fun m =>
        { m with slots := rows.foldl (fun sl r => mapRow sl q r (f.accCols a) fun _ _ => 0#32) m.slots,
                 badSlots := if rows.length = 64 ∧ f.auxBits 5 1 = 0 then m.badSlots.filter fun k => k != q && !(f.accPair && k == q + 1)
                             else m.badSlots }
  | none => s

/-- EOS at a slot operation (R39, R44, R268). -/
def accEos (f : FabUnit) (s : State) : State :=
  s.eosOn f (if f.op = 0xB4 then [0, 1] else [0]) (if f.op = 0xB3 then [0] else [])

/-! ### Turns -/

/-- R260. -/
def execMload (u : UKey) (s : State) : Host.Outcome State Fault Refusal := unitTurn u 0xB0 mloadAct s

/-- R261. -/
def execMswap (u : UKey) (s : State) : Host.Outcome State Fault Refusal := unitTurn u 0xB1 mswapAct s

/-- R262. -/
def execSwapMark (u : UKey) (s : State) : Host.Outcome State Fault Refusal := unitTurn u 0xB2 swapMarkAct s

/-- R263. -/
def execMmac (u : UKey) (s : State) : Host.Outcome State Fault Refusal := unitTurn u 0xB2 mmacAct s

/-- R264. -/
def execSlabPass (u : UKey) (s : State) : Host.Outcome State Fault Refusal := unitTurn u 0xB2 slabPassAct s

/-- R264. -/
def execSlabReplay (u : UKey) (s : State) : Host.Outcome State Fault Refusal := unitTurn u 0xB2 slabReplayAct s

/-- R268. -/
def execAccrd (u : UKey) (s : State) : Host.Outcome State Fault Refusal := unitTurn u 0xB3 accrdAct s

/-- R268. -/
def execAccwr (u : UKey) (s : State) : Host.Outcome State Fault Refusal := unitTurn u 0xB4 accwrAct s

/-- R268. -/
def execAccclr (u : UKey) (s : State) : Host.Outcome State Fault Refusal := unitTurn u 0xB5 accclrAct s

end Sys2Proof.Machine
end

