-- ==== Sys2Proof/Machine/Phases.lean ====
section
/-!
DEFINITION. The end of stream at a unit of any kind (R36, R39, R44, R453) and the end of a phase (R25).
-/

namespace Sys2Proof.Machine

/-! ### EOS_FORWARD (R44) -/

/-- What a unit does with the EOS that stands at it, by its opcode. -/
def eosAct (f : FabUnit) (s : State) : State :=
  match f.op with
  | 0x80 => s.eosOn f [0, 1] [0, 1]
  | 0x81 => s.eosOn f [0, 1, 2] [0]
  | 0x82 => carryEos f s
  | 0x83 => gateEos f s
  | 0x84 => if f.auxBits 0 1 == 0 && f.eosAt 0 then s.forwardEos f [0] [0] else s
  | 0x86 => s.eosOn f [0, 1] [0]
  | 0xB3 | 0xB4 | 0xB5 => accEos f s
  | 0xC0 => agEos f s
  | 0xC1 => ldnEos f s
  | 0xC2 => if f.elastic then elasticEos f s else stnEos f s
  | 0xC3 => rmwEos f s
  | 0xC5 => lkEos f s
  | op => if op < 0x80 then elementEos f s else s

/-- A leaf marker ahead of the EOS passes first. A source unit, a controller, a delay line, and the mload, mswap, mmac and
bankpass end in their own turns. -/
def State.eosForward (s : State) (u : UKey) : State :=
  match s.unit? u with
  | none => s
  | some f => if f.dead || f.ended || f.halted || !s.inPhase f.serial f.folio || f.marker.isSome then s else eosAct f s

/-- R44. -/
def execEosForward (u : UKey) (s : State) : Host.Outcome State Fault Refusal := .next (s.eosForward u)

/-! ### PHASE_END (R25) -/

/-- The unit is a sink: an mmac, or a unit with no data-network route out (R25, R253, R263). Controllers take no EOS. -/
def State.isSink (s : State) (f : FabUnit) : Bool :=
  !f.isCtl && (f.op == 0xB2 || ((upTo 3).flatMap (s.routesFrom f.key)).isEmpty)

/-- Every sink of a placed folio has received its end of stream, and no unit of it has faulted. -/
def State.folioEnded (s : State) (serial folio : Nat) : Bool :=
  s.units.all fun f => !(f.serial == serial && f.folio == folio) || !f.dead && (!s.isSink f || f.ended)

/-- The pop streams of the phase's folios have received their EOS (R190). -/
def Inst.popsEnded (i : Inst) : Bool :=
  i.handles.all fun h => match h.bind with
    | .pop folio _ => h.eosNow || !i.folios.any fun p => p.1 == folio
    | _ => true

/-- The four conditions of R25. -/
def State.phaseOver (s : State) (i : Inst) : Bool :=
  i.active && i.rootDone && i.popsEnded &&
    (i.folios.all fun p =>
      if (s.resident? i.serial p.1).isSome then s.folioEnded i.serial p.1 else i.endedFolios.contains p.1) &&
    !(s.helds.any fun h => h.serial == i.serial) &&
    i.handles.all fun h => h.reqs.all fun r => !r.inPhase || r.resp.isSome

/-- The phase ends: ACTIVE clears. -/
def State.phaseEnd (s : State) (serial : Nat) : State :=
  match s.inst? serial with
  | none => s
  | some i => if s.phaseOver i then s.modInst serial fun i => { i with active := false } else s

/-- R25. -/
def execPhaseEnd (serial : Nat) (s : State) : Host.Outcome State Fault Refusal := .next (s.phaseEnd serial)

end Sys2Proof.Machine
end

