-- ==== Sys2Proof/Machine/Binder.lean ====
section
/-!
DEFINITION. The binder: placement, eviction and the choice rule (R12, R25 to R29, R47, R64, R82, R84, R99, R148 to R156,
R195, R217, R418).
-/

namespace Sys2Proof.Machine

/-! ### Units and routes of a folio at a base -/

/-- The frame that a unit reads beside its word: a matrix or controller frame, or its program (R151, R153, R154). -/
def Folio.sideFrame (f : Folio) (a : Frame) : Payload :=
  let w := opWord a.word
  match programSlot a with
  | some k => f.payAt 5 a.x a.y k
  | none => if w.op = 0xB2 then f.payAt 3 a.x a.y a.slot else f.payAt 6 a.x a.y a.slot

/-- How a counter is used: 0 free-standing, 1 bound, 2 leaf head (R252). -/
def Folio.ctrUse (f : Folio) (a : Frame) : Nat :=
  let me := (a.x, a.y, a.slot)
  if f.ctls.any fun c => ctlEntry (f.payAt 6 c.x c.y c.slot) c.x c.y 136 == some me then 1
  else if f.ctls.any fun c => (ctlChildren (f.payAt 6 c.x c.y c.slot) c.x c.y).contains me then 2
  else 0

/-- The node state of a unit that is placed for the first time. -/
def Folio.nodeSt (f : Folio) (a : Frame) : NodeSt :=
  let w := opWord a.word
  let p := f.sideFrame a
  let ps := f.preloads a.x a.y a.slot
  match w.op with
  | 0x82 => .carry [] [] 0 0 false false
  | 0x84 => .const ((stageToken ps 0).getD 0#4096) 0
  | 0x85 => .delay ((upTo (stageCount ps)).filterMap fun k => (stageToken ps k).map Token.data)
  | 0x87 =>
    let n := fieldN p 224 3
    .ctr (f.ctrUse a) ((upTo n).map fun j => p.extractLsb' (32 * j) 32) (List.replicate n 0) [] 0 0 false false 0 0 [] [] false
  | 0x88 | 0x89 | 0x8A =>
    let z := (ctlChildren p a.x a.y).map fun _ => 0
    .ctl 0 false 0 z z 0 false false
  | 0xB0 => .mload false false 0
  | 0xB1 => .mswap 0 false []
  | 0xB2 => .mmac 0 (bitsN w.aux 0 4) 0 false false [] false
  | 0xC0 | 0xC1 => .prog ⟨false, 0, 0, 0, 0⟩ [] 0 [] 0 false false false
  | 0xC2 => if bitsN w.aux 3 1 = 1 then .ring 0 0 false else .prog ⟨false, 0, 0, 0, 0⟩ [] 0 [] 0 false false false
  | 0xC5 => .lk [] none
  | _ => .plain

/-- A unit as its frames describe it. -/
def Folio.unit (f : Folio) (serial q base : Nat) (a : Frame) : FabUnit :=
  ⟨⟨q, tileX base a.x, tileY base a.y, a.slot⟩, serial, f.id, a.x, a.y, a.word, a.seed, f.sideFrame a,
    [none, none, none], List.replicate 4 ⟨none, []⟩, false, [false, false, false], false, false, false, 0, 0, 0, [], [], 0, false, [], [],
    f.nodeSt a⟩

/-- A route in force. -/
def Folio.route (f : Folio) (serial q base id : Nat) (r : RouteDef) : Route :=
  let c := f.consumer r
  let src : End := if r.pslot < 32 then .unit ⟨q, tileX base r.x, tileY base r.y, r.pslot⟩ r.pout else .port f.id (r.pslot - 32)
  let dst : End := if r.cslot < 32 then .unit ⟨q, tileX base c.1, tileY base c.2.1, r.cslot⟩ r.cin else .port f.id (r.cslot - 32)
  let empty := List.replicate (r.dx.natAbs + r.dy.natAbs) []
  ⟨id, serial, f.id, src, r.pout, dst, empty, empty, none⟩

/-! ### The start of a phase at a unit (R25, R42, R252, R263, R276) -/

/-- A walk that starts with the phase: a program with no trigger. -/
def FabUnit.freeWalk (f : FabUnit) : Bool :=
  match f.op with
  | 0xC0 => f.auxBits 2 1 == 0
  | 0xC1 => f.agv && !f.trig
  | 0xC2 => f.agv
  | _ => false

/-- A unit's node state at the start of a phase. `root`: it is the phase's root controller, which has its go-ahead
permit. Delay contents, trip counts and queued bounds stay (R29, R43). -/
def FabUnit.fresh (f : FabUnit) : NodeSt :=
  match f.st with
  | .carry _ _ _ _ _ _ => .carry [] [] 0 0 false false
  | .delay l => .delay (l.filter fun t => t.strip?.isSome)
  | .const v _ => .const v (if f.auxBits 0 1 = 1 then f.auxBits 1 16 else 0)
  | .ctr use trips idx bounds _ _ _ _ _ _ _ _ _ =>
    .ctr use trips (idx.map fun _ => 0) bounds 0 0 false false (if use = 0 then 1 else 0) 0 [] [] (use == 0)
  | .ctl _ _ _ sent dones _ _ _ =>
    let root := fieldN f.frame 157 1
    .ctl root false 0 (sent.map fun _ => 0) (dones.map fun _ => 0) 0 (root == 1) false
  | .prog _ _ _ _ _ _ _ _ =>
    if f.freeWalk then
      let w := progStart f.frame
      .prog w [] 0 [] 0 (!w.running) false false
    else .prog ⟨false, 0, 0, 0, 0⟩ [] 0 [] 0 false false false
  | .ring _ _ _ => .ring 0 0 false
  | .mload _ _ _ => .mload false false 0
  | .mswap _ _ _ => .mswap 0 false []
  | .mmac _ _ _ _ _ _ _ => .mmac 0 (f.auxBits 0 4) 0 false false [] false
  | n => n

/-- A unit at the start of a phase. -/
def FabUnit.phaseStart (f : FabUnit) : FabUnit :=
  { f with ins := f.ins.map fun _ => none, outs := f.outs.map fun _ => ⟨none, []⟩, sent := 0, given := [], vecs := [], passed := 0,
           ended := false, upds := [], st := f.fresh }

/-- Units, routes and matrix tiles of a placed folio at the start of a phase. -/
def State.startFolio (s : State) (serial folio : Nat) : State :=
  { s with
    units := updWhere (fun f => f.serial == serial && f.folio == folio) FabUnit.phaseStart s.units,
    routes := updWhere (fun r => r.serial == serial && r.folio == folio) (fun r => { r with hops := r.hops.map fun _ => [] }) s.routes,
    mtiles := updWhere (fun m => m.serial == serial && m.folio == folio)
      (fun m => { m with refetch := [], aStrips := [], aRefetch := [], pass := .opened, lost := false, path := [], badRows := false, badDelta := false }) s.mtiles }

/-! ### Pools and their configurations (R47, R99) -/

/-- Memory tiles of a folio's slots. -/
def memTiles (q shape base : Nat) : List TKey :=
  (upTo (4 * shapeH shape)).flatMap fun y => ((upTo (4 * shapeW shape)).filter fun x => isMemory x y).map fun x =>
    ⟨q, tileX base x, tileY base y⟩

/-- Pools that a placed folio works on: its memory tiles, and the slices of its push load nodes and bankpass nodes. -/
def State.poolsOf (s : State) (r : Resident) : List Pool :=
  let us := s.units.filter fun f => f.serial == r.serial && f.folio == r.folio
  (memTiles r.q r.shape r.base).map Pool.tile ++
    distinct (us.filterMap fun f =>
      if f.op = 0xC1 ∧ f.edge then some (s.ldPool f)
      else if f.op = 0xC4 ∧ f.auxBits 16 1 = 1 then some (s.poolOf f true (f.auxBits 17 6)) else none)

/-- The folio was placed in the phase at a pool, and has handed none of its banks on since, or nothing was placed there after it: placed
again, it is the same configuration (R29, R47; log entry 114). -/
def State.sameConf (s : State) (p : Pool) (serial folio : Nat) : Bool :=
  let l := s.confsAt p serial
  l.contains folio && (l.getLast? == some folio ||
    !s.bankToks.any fun b => b.pool == p && b.serial == serial && decide (s.confPos p serial folio < b.pos))

/-- The folio is the next configuration that the phase places at each of its pools. -/
def State.addConf (s : State) (r : Resident) : State :=
  (s.poolsOf r).foldl (fun s p =>
    let here (c : TileConfs) : Bool := c.pool == p && c.serial == r.serial
    if s.sameConf p r.serial r.folio then s
    else if s.confs.any here then { s with confs := updWhere here (fun c => { c with confs := c.confs ++ [r.folio] }) s.confs }
    else { s with confs := s.confs ++ [⟨p, r.serial, [r.folio]⟩] }) s

/-! ### Eviction (R29, R82, R84) -/

/-- Nothing of a running invocation, pass, loop or ring is in the unit. -/
def FabUnit.quiet (f : FabUnit) : Bool :=
  !f.dead && f.ins.all Option.isNone && f.loopIn.isEmpty && (f.outs.all fun o => o.tok.isNone) &&
    match f.st with
    | .carry _ retired _ _ _ _ => retired.isEmpty
    | .ctr use _ _ _ _ _ _ on runs want ends marks _ => ends.isEmpty && marks.isEmpty && want == 0 && (use != 2 || !on && runs == 0)
    | .prog _ us _ resend q _ _ _ => us.isEmpty && resend.isEmpty && q == 0
    | .ring _ count _ => count == 0
    | .mswap _ _ ends => ends.isEmpty
    | .mmac _ _ _ _ _ ends _ => ends.isEmpty
    | .lk held since => held.isEmpty && since.isNone
    | _ => true

/-- Nothing is under way in a matrix tile: no pass, no strip, and no loaded slab that a pass can still use. -/
def State.tileQuiet (s : State) (m : MTile) : Bool :=
  m.path.isEmpty && m.aStrips.isEmpty && m.pass == .opened && m.loading.strips.isEmpty && m.refetch.isEmpty &&
    m.aRefetch.isEmpty &&
    (m.active.strips.isEmpty || (s.units.any fun f => f.key.tile == m.key && f.op == 0xB2 && f.ended))

/-- Leaf runs and held stores of a folio: none in flight. -/
def State.leavesQuiet (s : State) (serial folio : Nat) : Bool :=
  let us := s.units.filter fun f => f.serial == serial && f.folio == folio
  !(s.helds.any fun h => us.any fun f => f.key == h.leaf) &&
    us.all fun f => !f.isHead || f.markSent f.passed == false

/-- A resident folio that may be evicted: of no running phase, or quiescent and not pinned (R29, R84). -/
def State.quiescent (s : State) (r : Resident) : Bool :=
  !s.inPhase r.serial r.folio ||
    !r.pinned && (s.units.all fun f => !(f.serial == r.serial && f.folio == r.folio) || f.quiet) &&
      (s.routes.all fun a => !(a.serial == r.serial && a.folio == r.folio) || a.hops.all List.isEmpty) &&
      (s.ports.all fun p => !(p.serial == r.serial && p.folio == r.folio) || p.slot.tok.isNone) &&
      (s.mtiles.all fun m => !(m.serial == r.serial && m.folio == r.folio) || s.tileQuiet m) && s.leavesQuiet r.serial r.folio

/-- Live mask of a folio position, all zero where no frame gives one (R151, R152). -/
def Resident.mask (r : Resident) (x y : Nat) : Nat :=
  ((r.live.find? fun e => e.1 == x && e.2.1 == y).map fun e => e.2.2).getD 0

/-- Cells of a memory tile by offset, in the banks that `keep` allows. -/
def State.tileCells (s : State) (t : TKey) (keep : Nat → Bool) : List Host.Cell :=
  ((memSlice s.mem (tileMem t 0) (2 ^ 22)).map fun c => (c.1 - tileMem t 0, c.2)).filter fun c => keep (bankOf c.1)

/-- What an eviction keeps of a folio: its live-mask banks among it, whether it was pinned or not (R84). -/
def State.saveOf (s : State) (r : Resident) : FolioSave :=
  { folio := r.folio,
    ver := ((s.inst? r.serial).map Inst.epoch).getD 0,
    phase := if s.inPhase r.serial r.folio then ((s.inst? r.serial).map fun i => i.phaseNo + 1).getD 0 else 0,
    units := s.units.filter fun f => f.serial == r.serial && f.folio == r.folio,
    slots := (s.mtiles.filter fun m => m.serial == r.serial && m.folio == r.folio).map fun m =>
      let x := m.key.x - tileX r.base 0
      let y := m.key.y - tileY r.base 0
      (x, y, m.slots.filter fun e => (r.mask x y).testBit (e.1 / 4096)),
    banks := (memTiles r.q r.shape r.base).map fun t =>
      let x := t.x - tileX r.base 0
      let y := t.y - tileY r.base 0
      (x, y, s.tileCells t fun b => (r.mask x y).testBit b) }

/-- A folio leaves the region. -/
def State.removeFolio (s : State) (serial folio : Nat) : State :=
  { s with residents := s.residents.filter fun r => !(r.serial == serial && r.folio == folio),
           units := s.units.filter fun f => !(f.serial == serial && f.folio == folio),
           routes := s.routes.filter fun r => !(r.serial == serial && r.folio == folio),
           mtiles := s.mtiles.filter fun m => !(m.serial == serial && m.folio == folio) }

/-- The save area of a folio in its instance's launch record, or for 256 that of the thread (R29, R199, R395; log entry 12):
its address and its size. -/
def Inst.areaOf (i : Inst) (folio : Nat) : W64 × Nat :=
  let a := Config.folioArea i.serial folio
  (i.recVA + w64 (4096 * (1 + a.1)), 4096 * a.2)

/-- The save area is written, under EPOCH (R415); what stands in it the manual does not lay out (log entry 12). -/
def State.writeArea (s : State) (i : Inst) (folio : Nat) : Option DevErr × State :=
  let a := i.areaOf folio
  ({ s with free := s.free + 1 } : State).devWriteVer i.device i.epoch a.1 ((upTo a.2).map (Config.folioSave s.free))

/-- The save area is read under the version under which it was written. -/
def State.readArea (s : State) (i : Inst) (folio ver : Nat) : Option DevErr × State :=
  let a := i.areaOf folio
  match s.devReadVer i.device ver a.1 a.2 with
  | (.error e, s) => (some e, s)
  | (.ok _, s) => (none, s)

/-- Eviction: the save is written, and the folio leaves (R29); a fault of the write leaves it where it is. -/
def State.evict (s : State) (r : Resident) : Option DevErr × State :=
  match s.inst? r.serial with
  | none => (none, s)
  | some i =>
    match s.writeArea i r.folio with
    | (some e, s) => (some e, s)
    | (none, s) =>
      let keep := s.saveOf r
      let gone := s.inPhase r.serial r.folio && s.folioEnded r.serial r.folio
      (none, (s.removeFolio r.serial r.folio).modInst r.serial fun i =>
        { i with foldSaves := keep :: i.foldSaves.filter fun e => e.folio != r.folio,
                 endedFolios := if gone then i.endedFolios ++ [r.folio] else i.endedFolios })

/-- Evictions in order, up to the first that faults. -/
def State.evictAll (s : State) : List Resident → Option DevErr × State
  | [] => (none, s)
  | r :: l =>
    match s.evict r with
    | (some e, s) => (some e, s)
    | (none, s) => s.evictAll l

/-! ### Placement (R82, R84, R127) -/

/-- Clears a memory tile but for the banks given, and takes the barrier objects of cleared banks out of the watch (R84,
R217). -/
def State.clearTile (s : State) (t : TKey) (mask : Nat) (cells : List Host.Cell) : State :=
  let s := s.zero (tileMem t 0) (2 ^ 22)
  { s with mem := memCells s.mem (cells.map fun c => (tileMem t c.1, c.2)),
           bars := s.bars.filter fun o => o.pool != .tile t || mask.testBit (bankOf (o.addr - tileMem t 0)) }

/-- The saved part of a folio position. -/
def savedAt {α : Type} (l : List (Nat × Nat × List α)) (x y : Nat) : List α :=
  ((l.find? fun e => e.1 == x && e.2.1 == y).map fun e => e.2.2).getD []

/-- A bound enters a counter's queue. -/
def FabUnit.pushBound (f : FabUnit) (level : Nat) (trips : W32) : FabUnit :=
  match f.st with
  | .ctr use t idx bounds pos run ready on runs want ends marks fin =>
    { f with st := .ctr use t idx (bounds ++ [(level, trips)]) pos run ready on runs want ends marks fin }
  | _ => f

/-- Bounds that waited for the folio are delivered (R195). -/
def State.deliverBounds (s : State) (serial folio : Nat) : State :=
  let ws := ((s.inst? serial).map Inst.boundWaits).getD []
  let s := (ws.filter fun w => w.folio == folio).foldl (fun s w =>
    { s with units := updWhere (fun f => f.serial == serial && f.folio == folio && f.fx == w.fx && f.fy == w.fy && f.key.slot == w.slot)
                (fun f => f.pushBound w.level w.trips) s.units }) s
  s.modInst serial fun i => { i with boundWaits := i.boundWaits.filter fun w => w.folio != folio }

/-- A unit of a folio that is loaded again: its frames from the image, its state as it was saved, if the operation is the same
(R29). -/
def FabUnit.resume (u : FabUnit) (saved : List FabUnit) : FabUnit :=
  match saved.find? fun v => v.fx == u.fx && v.fy == u.fy && v.key.slot == u.key.slot && v.op == u.op with
  | some v => { v with key := u.key, word := u.word, seed := u.seed, frame := u.frame }
  | none => u

/-- Places a folio at a base of a quire. -/
def State.place (s : State) (i : Inst) (f : Folio) (q base : Nat) (pinned : Bool) : State :=
  let saved := i.foldSaves.find? fun e => e.folio == f.id
  let r : Resident := ⟨i.serial, f.id, q, base, f.shape, pinned, (upTo 32).map f.chan, (upTo 32).map f.scale,
    (upTo 4).flatMap fun k => (upTo 34).map (f.knot k), f.tiles, f.live, s.cycle.toNat⟩
  let us := f.nodes.map fun a => (f.unit i.serial q base a).resume ((saved.map FolioSave.units).getD [])
  let rs := f.routes.zipIdx.map fun (d, k) => f.route i.serial q base (s.nextId + k) d
  let ms := (f.tiles.filter fun p => isMatrix p.1 p.2).map fun (x, y) =>
    (⟨⟨q, tileX base x, tileY base y⟩, i.serial, f.id, .empty, .empty, [], [], [], .opened, false, [],
      (saved.map fun e => savedAt e.slots x y).getD [], false, false, false, false, []⟩ : MTile)
  let s := { s with residents := s.residents ++ [r], units := s.units ++ us, routes := s.routes ++ rs,
                    mtiles := s.mtiles ++ ms, nextId := s.nextId + rs.length }
  let s := if pinned then s else (memTiles q f.shape base).foldl (fun s t =>
    let x := t.x - tileX base 0
    let y := t.y - tileY base 0
    s.clearTile t (r.mask x y) ((saved.map fun e => savedAt e.banks x y).getD [])) s
  let s := if s.inPhase i.serial f.id then
      let s := if (saved.map FolioSave.phase).getD 0 = i.phaseNo + 1 then s else s.startFolio i.serial f.id
      (s.addConf r).modInst i.serial fun i => { i with endedFolios := i.endedFolios.filter fun e => e != f.id }
    else s
  let s := (s.deliverBounds i.serial f.id).modInst i.serial fun i =>
    { i with foldSaves := i.foldSaves.filter fun e => e.folio != f.id }
  (upTo f.nports).foldl (fun s j => s.refill i.serial f.id j) s

/-! ### Runs and victims (R12, R28, R29) -/

/-- The folio configures a borrowed tile of a bound quire at a base (R12). -/
def Folio.borrows (f : Folio) (base : Nat) : Bool :=
  f.tiles.any fun p => (tileX base p.1, tileY base p.2) == (2, 0) || (tileX base p.1, tileY base p.2) == (4, 0)

/-- Legal base slots of a folio in a region: quire and base (R12, R127, R196). -/
def State.legalBases (s : State) (region : List (Nat × Nat)) (f : Folio) : List (Nat × Nat) :=
  region.filter fun b =>
    (shapeBases f.shape).contains b.2 && ((shapeRun f.shape b.2).all fun k => region.contains (b.1, k)) &&
      !((s.attns.any fun a => a.q == b.1) && f.borrows b.2)

/-- A placed folio stands on a slot of the run. -/
def Resident.onRun (r : Resident) (q shape base : Nat) : Bool :=
  r.q == q && (shapeRun r.shape r.base).any fun k => (shapeRun shape base).contains k

/-- The bases of a list whose run no placed folio holds. -/
def freeBases (rs : List Resident) (shape : Nat) (bs : List (Nat × Nat)) : List (Nat × Nat) :=
  bs.filter fun b => !rs.any fun r => r.onRun b.1 shape b.2

/-- The folios to evict, in order, until a run is free; none if the victims are not enough (R29). -/
def evictUntil (shape : Nat) (bs : List (Nat × Nat)) : List Resident → List Resident → List Resident → Option (List Resident)
  | rs, [], done => if (freeBases rs shape bs).isEmpty then none else some done
  | rs, v :: vs, done =>
    if (freeBases rs shape bs).isEmpty then evictUntil shape bs (rs.filter fun r => r != v) vs (done ++ [v]) else some done

/-- Placed folios of an instance that may be evicted, the one that fired longest ago first; `running`: those of its
running phase too. -/
def State.victims (s : State) (serial : Nat) (running : Bool) : List Resident :=
  let named := ((s.inst? serial).map Inst.named).getD []
  sortBy (fun a b : Resident => decide (a.lastFire ≤ b.lastFire))
    (s.residents.filter fun r => r.serial == serial && s.quiescent r &&
      (if running then true else !s.inPhase serial r.folio && !named.any fun p => p.1 == r.folio))

/-- The evictions that let a folio be placed at one of its bases. -/
def State.plan (s : State) (i : Inst) (f : Folio) (pin : Option Nat) (running : Bool) : Option (List Resident × List (Nat × Nat)) :=
  let bs := match pin with
    | some k => (s.legalBases i.region f).filter fun b => i.region[k]? == some b
    | none => s.legalBases i.region f
  (evictUntil f.shape bs s.residents (s.victims i.serial running) []).map fun vs =>
    (vs, freeBases (s.residents.filter fun r => !vs.contains r) f.shape bs)

/-! ### The choice rule (R28) -/

/-- Tokens that wait at a folio's entry ports. -/
def State.waiting (s : State) (serial folio : Nat) : Nat :=
  ((s.ports.filter fun p => p.serial == serial && p.folio == folio).map fun p => p.q.length).sum

/-- The cycle at which the oldest of them came. -/
def State.oldest (s : State) (serial folio : Nat) : Nat :=
  ((s.ports.filter fun p => p.serial == serial && p.folio == folio).flatMap fun p => p.stamps.take 1).foldl Nat.min (2 ^ 64)

def Inst.ageOf (i : Inst) (folio : Nat) : Nat := ((i.ages.find? fun a => a.1 == folio).map Prod.snd).getD 0

def Inst.setAge (i : Inst) (folio age : Nat) : Inst :=
  { i with ages := (i.ages.filter fun a => a.1 != folio) ++ (if age = 0 then [] else [(folio, age)]) }

/-- A candidate of the binder: folio, its frames, its pin. -/
structure Cand where
  folio : Nat
  frames : Folio
  pin : Option Nat
  score : Nat
  since : Nat
  deriving DecidableEq, Repr

/-- Folios of the running phase that are not resident and have tokens waiting. -/
def State.cands (s : State) (i : Inst) : List Cand :=
  if !i.active then []
  else i.folios.filterMap fun (n, pin) =>
    let w := s.waiting i.serial n
    if (s.resident? i.serial n).isSome || w == 0 then none
    else match s.folio i n with
      | .ok f => some ⟨n, f, pin, min w 4095 + 16 * i.ageOf n, s.oldest i.serial n⟩
      | .error _ => none

/-- Those among which the binder chooses: that fit a free run, or if there are none, for which evictions free one. -/
def State.eligible (s : State) (i : Inst) : List Cand :=
  let can := (s.cands i).filterMap fun c => (s.plan i c.frames c.pin true).map fun p => (c, p.1.isEmpty)
  let fit := can.filter Prod.snd
  (if fit.isEmpty then can else fit).map Prod.fst

/-- The first of two candidates under R28. -/
def Cand.before (a b : Cand) : Bool :=
  decide (b.score < a.score) ||
    (a.score == b.score && (decide (a.since < b.since) || (a.since == b.since && decide (a.folio ≤ b.folio))))

/-- The binder's choice. -/
def State.choice (s : State) (i : Inst) : Option Cand := (sortBy Cand.before (s.eligible i)).head?

/-- Another instance of higher effective priority shares the quire's binder and has a choice to make (R28). -/
def State.outranked (s : State) (i : Inst) (q : Nat) : Bool :=
  s.insts.any fun j => j.serial != i.serial && decide (i.eff < j.eff) && (j.region.any fun r => r.1 == q) && (s.choice j).isSome

/-! ### BINDER_LOAD -/

/-- The region slot to which a binding pins a folio (R292). -/
def Inst.bindPin (i : Inst) (n : Nat) : Option Nat := (i.bindings.find? fun b => fieldN b.desc 48 8 == n).map Binding.rslot

/-- A folio of the named set, with its pin. -/
def Inst.namedPin (i : Inst) (n : Nat) : Option (Option Nat) :=
  (i.named.find? fun p => p.1 == n).map fun p => (i.bindPin n).orElse fun _ => p.2

/-- A fault of the binder: for FRAME the record names the folio, for every other cause the address (R25, R385, R389). -/
def State.bindFault (s : State) (serial q folio : Nat) (e : DevErr) : State :=
  s.instFault serial q { FaultRec.reset with
    cause := BitVec.ofNat 8 e.cause, sub := BitVec.ofNat 8 e.sub, origin := 2#2, addr := if e.cause = 0x09 then 0#64 else e.va,
    detail := if e.cause = 0x09 then w64 (folio % 256) else 0#64, time := s.nsec, cyc := s.cycle }

/-- A folio is evicted, or the instance faults (R385). -/
def State.evicted (s : State) (r : Resident) : State :=
  match s.evict r with
  | (some e, s) => s.bindFault r.serial r.q r.folio e
  | (none, s) => s

/-- FRAME, with a subcause (R388). -/
def frameErr (sub : Nat) : DevErr := ⟨0x09, sub, 0#64⟩

/-- Why a folio that has been read may not be placed: it is not what was measured at its instance's first placement (R418), or
it is not legal (R25, R148). -/
def State.folioBad (s : State) (i : Inst) (n : Nat) (f : Folio) : Option Nat :=
  let bytes := (s.folioBytes i.device i.image i.header n).toOption.getD []
  if (s.part i.part).conf && i.measures[n]? != some (Config.sha384 bytes) then some frMeasure
  else if !s.framesMatch i.device i.image i.header n then some frField
  else folioFault f n (s.scratch i.part).length

/-- Measures, checks and places a folio at base slot `base` of the region, after the evictions given and with what the folio's last
eviction saved (R25, R29, R418); a fault of its reading or of a save area faults the instance (R385). -/
def State.load1 (s : State) (i : Inst) (n : Nat) (f : Folio) (pin : Option Nat) (base : Nat)
    (plan : List Resident × List (Nat × Nat)) : State :=
  match i.region[base]? with
  | none => s
  | some (q, b) =>
    if !plan.2.contains (q, b) then s
    else
      let t := s.folioTouch i.device i.image i.header n
      match s.folioBad i n f with
      | some e => t.bindFault i.serial q n (frameErr e)
      | none =>
        match t.evictAll plan.1 with
        | (some e, t) => t.bindFault i.serial q n e
        | (none, t) =>
          match t.inst? i.serial with
          | none => t
          | some i =>
            let got := match i.foldSaves.find? fun e => e.folio == n with
              | some e => t.readArea i n e.ver
              | none => (none, t)
            match got.1 with
            | some e => got.2.bindFault i.serial q n e
            | none => got.2.place i f q b pin.isSome

/-- The binder loads a folio (R25, R28): one that `cfg` has named, into slots that the running phase does not hold; one
that `go` has started and that has not been placed in this phase; or the choice of R28 among those with tokens waiting. -/
def State.binderLoad (s : State) (serial n base : Nat) : State :=
  match s.inst? serial with
  | none => s
  | some i =>
    let q := ((i.region[base]?).map Prod.fst).getD 0
    if i.region.length ≤ base then s
    else if !(i.state == .run || i.state == .placed) || i.cut.isSome || i.kill.isSome || (s.resident? serial n).isSome then s
    else if !(i.named.any fun p => p.1 == n) && !s.inPhase serial n then s
    else match s.folio i n with
      | .error e => (s.folioTouch i.device i.image i.header n).bindFault serial q n e
      | .ok f =>
        match (if i.active then i.folios.find? fun p => p.1 == n else none) with
        | some (_, pin) =>
          if s.waiting serial n = 0 then
            if i.foldSaves.any fun e => e.folio == n && e.phase == i.phaseNo + 1 then s
            else match s.plan i f pin false with
              | some p => s.load1 i n f pin base p
              | none => s
          else if s.outranked i q then s
          else match s.choice i with
            | some c =>
              if c.folio = n then
                match s.plan i f pin true with
                | some p =>
                  let others := ((s.eligible i).filter fun o => o.folio != n).map Cand.folio
                  let t := s.load1 i n f pin base p
                  if (t.resident? serial n).isSome then
                    t.modInst serial fun i => (others.foldl (fun i o => i.setAge o (min 255 (i.ageOf o + 1))) i).setAge n 0
                  else t
                | none => s
              else s
            | none => s
        | none =>
          match i.namedPin n with
          | some pin =>
            match s.plan i f pin false with
            | some p => s.load1 i n f pin base p
            | none => s
          | none => s

/-- R28. -/
def execBinderLoad (serial folio base : Nat) (s : State) : Host.Outcome State Fault Refusal :=
  .next (s.binderLoad serial folio base)

end Sys2Proof.Machine
end

