-- ==== Sys2Proof/Machine/Streams.lean ====
section
/-!
DEFINITION. Stream and phase commands of the control thread: spush, spop, sbound, seos, cfg, go, drain (R188 to R198).
-/

namespace Sys2Proof.Machine

/-! ### Handles (R188, R189) -/

/-- The object of a queue wait (R221): 0 push, 1 pop, 2 response, 3 launch. -/
def queueWait (serial h code : Nat) : WaitFor := ⟨4, serial % 2 ^ 32 + h % 16 * 2 ^ 32 + code * 2 ^ 36, none⟩

/-- A handle of a kind the word takes; any other traps BOUND before it has an effect (R188). -/
def withHandle (h : BitVec 4) (ok : Bind → Bool) (body : Inst → Handle → State → Ans Flow) (s : State) : Ans Flow :=
  match s.me with
  | none => .trap (trapOf 0x06 0x01) s
  | some i =>
    let a := (i.handles[h.toNat]?).getD Handle.free
    if ok a.bind then body i a s else .trap (trapOf 0x06 0x01) s

def Bind.isPush (b : Bind) : Bool :=
  match b with
  | .push _ _ => true
  | _ => false

def Bind.isPop (b : Bind) : Bool :=
  match b with
  | .pop _ _ => true
  | .engine _ => true
  | _ => false

/-- A token goes to the push queue of h, which holds 16 (R188, R192), after what an earlier fence orders before it (R111). -/
def pushBody (h : BitVec 4) (t : Token) (s : State) : Ans Flow :=
  withHandle h Bind.isPush (fun i a s =>
    if s.fencedIn then .wait none s
    else if 16 ≤ a.q.length then .wait (some (queueWait i.serial h.toNat 0)) s
    else .ok .next (s.modHandle i.serial h.toNat fun a => { a with q := a.q ++ [t] })) s

/-- The token of `spush.p` (R192). -/
def pairToken (a b : W64) : Token :=
  .data (ofLanes [a.extractLsb' 0 32, a.extractLsb' 32 32, b.extractLsb' 0 32, b.extractLsb' 32 32])

/-- The token of `spush.b` (R192). -/
def broadToken (a : W64) : Token := .data (splat (a.extractLsb' 0 32))

/-- R192. -/
def execSpushP (h : BitVec 4) (a b : BitVec 5) (g : BitVec 3) (s : State) : Host.Outcome State Fault Refusal :=
  runWord s false 0 [a, b] g fun s => pushBody h (pairToken (s.rd a) (s.rd b)) s

/-- R192. -/
def execSpushB (h : BitVec 4) (a : BitVec 5) (g : BitVec 3) (s : State) : Host.Outcome State Fault Refusal :=
  runWord s false 0 [a] g fun s => pushBody h (broadToken (s.rd a)) s

/-- R193. -/
def execSeos (h : BitVec 4) (g : BitVec 3) (s : State) : Host.Outcome State Fault Refusal :=
  runWord s false 0 [] g fun s => pushBody h .eos s

/-! ### spop (R194) -/

/-- The oldest response of an engine stream that has not been popped: its oldest request's, once its done token has gone
(R206). -/
def Handle.response (a : Handle) : Option Strip :=
  match a.reqs with
  | r :: _ => if r.fabric || !r.told then none else r.resp
  | [] => none

/-- What the word would read: the oldest token of a pop queue, or the oldest response. -/
def Handle.oldest (a : Handle) : Option Token :=
  match a.bind with
  | .engine _ => a.response.map Token.data
  | _ => a.q.head?

/-- The oldest is consumed. -/
def Handle.popped (a : Handle) : Handle :=
  match a.bind with
  | .engine _ => { a with reqs := a.reqs.drop 1 }
  | _ => { a with q := a.q.drop 1 }

def popBody (h : BitVec 4) (d q : BitVec 5) (p : BitVec 3) (keep : Bool) (s : State) : Ans Flow :=
  withHandle h Bind.isPop (fun i a s =>
    match a.oldest with
    | none => .wait (some (queueWait i.serial h.toNat 1)) s
    | some t =>
      let pair := fieldN (s.rd q) 0 6
      let s := if keep then s else s.modHandle i.serial h.toNat Handle.popped
      match t with
      | .data v => .ok .next ((s.wr d (lanePair v pair)).pw p true)
      | _ => .ok .next ((s.wr d 0#64).pw p false)) s

/-- R194. -/
def execSpop (h : BitVec 4) (d q : BitVec 5) (p g : BitVec 3) (s : State) : Host.Outcome State Fault Refusal :=
  runWord s false 0 [d, q] g fun s => popBody h d q p false s

/-- R194. -/
def execSpopK (h : BitVec 4) (d q : BitVec 5) (p g : BitVec 3) (s : State) : Host.Outcome State Fault Refusal :=
  runWord s false 0 [d, q] g fun s => popBody h d q p true s

/-! ### sbound (R43, R195) -/

/-- Fields of a counter reference. -/
structure CtrRef where
  folio : Nat
  x : Nat
  y : Nat
  slot : Nat
  level : Nat
  deriving DecidableEq, Repr

def ctrRef (v : W64) : CtrRef := ⟨fieldN v 0 8, fieldN v 8 3, fieldN v 11 3, fieldN v 14 4, fieldN v 18 3⟩

/-- The counter that a reference names, as its unit is placed. -/
def State.ctrUnit (s : State) (serial : Nat) (r : CtrRef) : Option FabUnit :=
  s.units.find? fun f => f.serial == serial && f.folio == r.folio && f.fx == r.x && f.fy == r.y && f.key.slot == r.slot

/-- Levels of the counter that stands at a place of the image's folio; 0 where none stands. -/
def State.ctrLevels (s : State) (i : Inst) (r : CtrRef) : Nat :=
  match s.folio i r.folio with
  | .error _ => 0
  | .ok f => if (f.op r.x r.y r.slot).any fun w => w.op == 0x87 then fieldN (f.payAt 6 r.x r.y r.slot) 224 3 else 0

/-- Bounds queued at a counter. -/
def FabUnit.bounds (f : FabUnit) : Nat :=
  match f.st with
  | .ctr _ _ _ b _ _ _ _ _ _ _ _ _ => b.length
  | _ => 0

/-- Bounds queued for a counter, placed or not. -/
def State.boundCount (s : State) (i : Inst) (r : CtrRef) : Nat :=
  match s.ctrUnit i.serial r with
  | some f => f.bounds
  | none =>
    (i.boundWaits.filter fun w => w.folio == r.folio && w.fx == r.x && w.fy == r.y && w.slot == r.slot).length +
      (((i.foldSaves.find? fun e => e.folio == r.folio).bind fun e =>
        (e.units.find? fun f => f.fx == r.x && f.fy == r.y && f.key.slot == r.slot).map FabUnit.bounds).getD 0)

/-- A bound token of the thread is accepted. -/
def State.boundOk (s : State) (i : Inst) (a b : W64) : Bool :=
  let r := ctrRef a
  (i.named.any (fun p => p.1 == r.folio) || (i.started && i.folios.any fun p => p.1 == r.folio)) &&
    fieldN a 21 43 == 0 && fieldN b 32 32 == 0 && decide (8 ≤ r.slot) && decide (1 ≤ r.level) &&
    decide (r.level ≤ s.ctrLevels i r)

def boundBody (a b : W64) (p : BitVec 3) (s : State) : Ans Flow :=
  match s.me with
  | none => .ok .next (s.pw p false)
  | some i =>
    let r := ctrRef a
    if s.fencedIn then .wait none s
    else if !s.boundOk i a b then .ok .next (s.pw p false)
    else if 4 ≤ s.boundCount i r then
      .wait (some ⟨4, i.serial % 2 ^ 32 + 2 ^ 38 + r.folio * 2 ^ 39 + r.x * 2 ^ 47 + r.y * 2 ^ 50 + (r.slot - 8) * 2 ^ 53, none⟩) s
    else
      let n := b.extractLsb' 0 32
      let s := match s.ctrUnit i.serial r with
        | some f => s.modUnit f.key fun f => f.pushBound r.level n
        | none => s.modInst i.serial fun i =>
            { i with boundWaits := i.boundWaits ++ [(⟨r.folio, r.x, r.y, r.slot, r.level, n⟩ : BoundWait)] }
      .ok .next (s.pw p true)

/-- R195. -/
def execSbound (a b : BitVec 5) (p : BitVec 3) (g : BitVec 3) (s : State) : Host.Outcome State Fault Refusal :=
  runWord s false 0 [a, b] g fun s => boundBody (s.rd a) (s.rd b) p s

/-! ### cfg (R196) -/

/-- The named set with one more folio. -/
def Inst.name (i : Inst) (folio : Nat) (pin : Option Nat) : Inst :=
  if i.named.any fun p => p.1 == folio then i else { i with named := i.named ++ [(folio, pin)] }

/-- A region slot is a legal base slot for a shape: its whole run lies in one quire of the region (R127, R196). -/
def legalSlot (region : List (Nat × Nat)) (shape k : Nat) : Bool :=
  match region[k]? with
  | some (q, b) => (shapeBases shape).contains b && (shapeRun shape b).all fun j => region.contains (q, j)
  | none => false

def cfgBody (folio : Nat) (s : State) : Ans Flow :=
  match s.me with
  | none => .trap (trapOf 0x06 0x02) s
  | some i =>
    if i.nfolio ≤ folio then .trap (trapOf 0x06 0x02) s
    else if s.fencedIn then .wait none s
    else .ok .next (s.modInst i.serial fun i => i.name folio none)

/-- An image that cannot be read is found at placement. -/
def cfgPinBody (slot : W64) (folio : Nat) (s : State) : Ans Flow :=
  match s.me with
  | none => .trap (trapOf 0x06 0x02) s
  | some i =>
    if i.nfolio ≤ folio then .trap (trapOf 0x06 0x02) s
    else
      let ok := match s.folio i folio with
        | .ok f => legalSlot i.region f.shape slot.toNat
        | .error _ => decide (slot.toNat < i.region.length)
      if !ok then .trap (trapOf 0x06 0x03) s
      else if s.fencedIn then .wait none s
      else .ok .next (s.modInst i.serial fun i => i.name folio (some slot.toNat))

/-- R196. -/
def execCfg (f : BitVec 8) (g : BitVec 3) (s : State) : Host.Outcome State Fault Refusal :=
  runWord s false 0 [] g fun s => cfgBody f.toNat s

/-- R196. -/
def execCfgPin (a : BitVec 5) (f : BitVec 8) (g : BitVec 3) (s : State) : Host.Outcome State Fault Refusal :=
  runWord s false 0 [a] g fun s => cfgPinBody (s.rd a) f.toNat s

/-! ### go and drain (R25, R47, R197, R198) -/

/-- The wait for the running phase (R221). -/
def Inst.phaseWait (i : Inst) : WaitFor := ⟨0, i.serial % 2 ^ 32 + i.phaseNo % 16 * 2 ^ 32, none⟩

/-- ROOT nodes of the named folios. -/
def State.rootCount (s : State) (i : Inst) : Nat :=
  (i.named.map fun p => match s.folio i p.1 with
    | .ok f => f.roots
    | .error _ => 0).sum

/-- The pin a folio of the named set has: its own, or its binding's (R292). -/
def Inst.pins (i : Inst) : List (Nat × Nat) :=
  i.named.filterMap (fun p => p.2.map fun k => (p.1, k)) ++
    (i.bindings.map fun b => (fieldN b.desc 48 8, b.rslot)).filter fun b => i.named.any fun p => p.1 == b.1

/-- Slots of a pinned run. -/
def State.pinRun (s : State) (i : Inst) (folio k : Nat) : List (Nat × Nat) :=
  match i.region[k]?, s.folio i folio with
  | some (q, b), .ok f => (shapeRun f.shape b).map fun j => (q, j)
  | some r, .error _ => [r]
  | none, _ => []

/-- Two pins need one slot: of two folios, or two slots for one folio. -/
def State.pinClash (s : State) (i : Inst) : Bool :=
  let ps := distinct i.pins
  (upTo ps.length).any fun a => (upTo a).any fun b =>
    match ps[a]?, ps[b]? with
    | some x, some y => x.1 == y.1 || (s.pinRun i x.1 x.2).any fun k => (s.pinRun i y.1 y.2).contains k
    | _, _ => false

/-- The status of `go`. -/
def State.goStatus (s : State) (i : Inst) : Nat :=
  if i.named.isEmpty then 1 else if s.rootCount i ≠ 1 then 2 else if s.pinClash i then 3 else 0

/-- The attention pipelines of an instance at the start of a phase (R292). -/
def Attn.phaseStart (a : Attn) : Attn :=
  { a with inq := [], head := none, opened := [], blocks := [], eosIn := false, eosSent := false, cut := false }

/-- A folio of the phase that is resident starts, unless its pin names another slot. -/
def State.goFolio (s : State) (serial folio : Nat) (pin : Option Nat) : State :=
  match s.inst? serial, s.resident? serial folio with
  | some i, some r =>
    match pin with
    | some k =>
      if i.region[k]? ≠ some (r.q, r.base) then s
      else
        let here (a : Resident) : Bool := a.serial == serial && a.folio == folio
        ({ s with residents := updWhere here (fun a => { a with pinned := true }) s.residents }.startFolio serial folio).addConf r
    | none =>
      let here (a : Resident) : Bool := a.serial == serial && a.folio == folio
      ({ s with residents := updWhere here (fun a => { a with pinned := false }) s.residents }.startFolio serial folio).addConf r
  | _, _ => s

/-- A phase starts (R25, R47, R197). -/
def State.startPhase (s : State) (i : Inst) : State :=
  let folios := i.named.map fun p => (p.1, (i.bindPin p.1).orElse fun _ => p.2)
  let moved := folios.foldl (fun (s : State) p =>
    match s.resident? i.serial p.1, p.2 with
    | some r, some k => if i.region[k]? ≠ some (r.q, r.base) then s.evicted r else s
    | _, _ => s) s
  let s := moved.modInst i.serial fun i =>
    { i with phaseNo := if i.started then i.phaseNo + 1 else 0, started := true, active := true, folios := folios, named := [],
             rootDone := false, endedFolios := [], handles := i.handles.map fun h => { h with eosNow := false } }
  let s := { s with bankToks := s.bankToks.filter fun b => b.serial != i.serial,
                    confs := s.confs.filter fun c => c.serial != i.serial,
                    ports := updWhere (fun p => p.serial == i.serial) (fun p => { p with gotEos := false, sent := 0 }) s.ports,
                    attns := updWhere (fun a => a.serial == i.serial) Attn.phaseStart s.attns }
  let s := folios.foldl (fun s p => s.goFolio i.serial p.1 p.2) s
  (s.ports.filter fun p => p.serial == i.serial).foldl (fun s p => s.refill i.serial p.folio p.port) s

/-- `go`: a release, so a phase starts once the thread's earlier stores have performed (R110, R197). -/
def goBody (d : BitVec 5) (s : State) : Ans Flow :=
  match s.me with
  | none => .ok .next (s.wr d 1#64)
  | some i =>
    if i.active then .wait (some i.phaseWait) s
    else
      let st := s.goStatus i
      if st = 0 then (s.inOrder none).bind fun _ s => .ok .next ((s.startPhase i).wr d 0#64)
      else .ok .next ((s.modInst i.serial fun i => { i with named := [] }).wr d (w64 st))

/-- `drain`. -/
def drainBody (s : State) : Ans Flow :=
  match s.me with
  | some i => if i.active then .wait (some i.phaseWait) s else .ok .next s
  | none => .ok .next s

/-- R197. -/
def execGo (d : BitVec 5) (g : BitVec 3) (s : State) : Host.Outcome State Fault Refusal :=
  runWord s false 0 [d] g fun s => goBody d s

/-- R198. -/
def execDrain (g : BitVec 3) (s : State) : Host.Outcome State Fault Refusal :=
  runWord s false 0 [] g fun s => drainBody s

end Sys2Proof.Machine
end

