-- ==== Sys2Proof/Machine/Launch.lean ====
section
/-!
DEFINITION. Launch checks (R158, R160, R161, R201, R365), the creation of an instance (R22, R125, R162, R201), and the
words launch and join (R200 to R202).
-/

namespace Sys2Proof.Machine

/-! ### The image header (R158) -/

/-- Two parts do not overlap; an empty part overlaps nothing. -/
def apart (a b : Nat × Nat) : Bool := a.2 == 0 || b.2 == 0 || decide (a.1 + a.2 ≤ b.1) || decide (b.1 + b.2 ≤ a.1)

/-- Offset and size of the header and of each part (R134). -/
def imageParts (h : BitVec 4096) : List (Nat × Nat) := (0, 512) :: (upTo 6).map fun k => (partOff h k, partSize h k)

/-- The parts stand at multiples of 512 and do not overlap. DESIGN CHOICE: their order and the padding between them, which R134 gives and
no rule names an error for, are not checked (log entry 118). -/
def partsOk (h : BitVec 4096) : Bool :=
  let l := imageParts h
  (l.all fun p => p.1 % 512 == 0) &&
    (upTo l.length).all fun a => (upTo a).all fun b => apart ((l[a]?).getD (0, 0)) ((l[b]?).getD (0, 0))

/-- The header's own fields. -/
def headerBitsOk (h : BitVec 4096) : Bool :=
  fieldN h 0 32 == 0x42495848 && fieldN h 32 8 == 0x02 && decide (fieldN h 40 8 ≤ 1) && decide (fieldN h 48 8 ≤ 32) &&
    fieldN h 60 4 == 0 && fieldN h 208 304 == 0 && fieldN h 896 128 == 0 && fieldN h 1536 2560 == 0 && partsOk h &&
    fieldN h 96 32 % 4 == 0 && decide (fieldN h 96 32 < partSize h 0) &&
    decide (1 ≤ fieldN h 64 16 ∧ fieldN h 64 16 ≤ 128 ∧ fieldN h 80 16 ≤ 4096 ∧ fieldN h 128 32 ≤ 65536 ∧ fieldN h 160 16 ≤ 256)

/-- Header frames of the folios from offset `off` on. -/
def State.folioHeads (s : State) (w : Who) (image : W64) : Nat → Nat → Except DevErr (List Frame)
  | _, 0 => .ok []
  | off, n + 1 =>
    match s.imageBytes w image off 32 with
    | .error e => .error e
    | .ok l => (s.folioHeads w image (off + 32 * headFrames (frameOf l).pay) n).map fun r => frameOf l :: r

/-- Slots of a shape. -/
def shapeSlots (shape : Nat) : Nat := shapeW shape * shapeH shape

/-- The folio of a list of header frames has the port. -/
def portIn (fs : List Frame) (folio : Nat) (out : Bool) (port : Nat) : Bool :=
  match fs[folio]? with
  | some f => Folio.hasPort [f] out port
  | none => false

/-- A chain or stream record names what is there (R160). -/
def chainOk (fs : List Frame) (r : ChainRec) : Bool :=
  !r.reserved &&
    match r.type with
    | 0 => portIn fs r.ffolio true r.fport && portIn fs r.tfolio false r.tport
    | 1 => portIn fs r.ffolio false r.fport
    | 2 => portIn fs r.ffolio true r.fport
    | _ => r.engine != 7

/-- No handle is bound twice. -/
def handlesOk (rs : List ChainRec) : Bool :=
  let hs := (rs.filter fun r => r.type != 0).map ChainRec.handle
  (distinct hs).length == hs.length

/-- The colophon's 150-byte record (R157). -/
def colophonOf (l : List Byte) : Nat := bytesNat (((upTo 5).map fun k => (l.drop (32 * k)).take 30).flatMap id)

/-- MEAS of a colophon (R157). -/
def colophonMeas (c : Nat) : BitVec 384 := BitVec.ofNat 384 (bitsN c 48 384)

/-- The image's colophon. -/
def State.colophon (s : State) (w : Who) (image : W64) (h : BitVec 4096) : Except DevErr Nat :=
  (s.imageBytes w image (partOff h 5) (min 160 (partSize h 5))).map colophonOf

/-- The colophon part is five kind 9 frames at tile (0, 0), slots 0 to 4 in order (R157). -/
def colophonFrames (l : List Byte) : Bool :=
  l.length == 160 && (framesOf 5 l).zipIdx.all fun (a, k) => a.kind == 9 && a.x == 0 && a.y == 0 && a.slot == k

/-- ALG is one that is not reserved, and an unsigned image has SIG zero (R157). -/
def colophonOk (c : Nat) : Bool := decide (bitsN c 0 8 ≤ 1) && (bitsN c 0 8 != 0 || c / 2 ^ 432 == 0)

/-- What the header frames, the chain and stream records and the colophon part of an image must be (R157, R158, R160). -/
def partsFit (h : BitVec 4096) (fs : List Frame) (rs : List ChainRec) (l : List Byte) : Bool :=
  colophonFrames l && colophonOk (colophonOf l) && (fs.all fun f => decide (shapeSlots (Folio.shape [f]) ≤ fieldN h 64 16)) &&
    rs.all (chainOk fs) && handlesOk rs

/-- What lies beyond the header: folio shapes, chain records, the colophon and its measurement (R157, R158, R160). What cannot be
read is an error of the image. -/
def State.partsGood (s : State) (w : Who) (image : W64) (h : BitVec 4096) : Bool :=
  match s.folioHeads w image (partOff h 2) (fieldN h 160 16), s.chainPart w image h,
      s.imageBytes w image (partOff h 5) (partSize h 5) with
  | .ok fs, .ok rs, .ok l =>
    partsFit h fs rs l &&
      (match s.imageBytes w image 0 (bitsN (colophonOf l) 16 32) with
        | .ok b => Config.sha384 b == colophonMeas (colophonOf l)
        | .error _ => false)
  | _, _, _ => false

/-- All header checks. -/
def State.headerOk (s : State) (w : Who) (image : W64) (h : BitVec 4096) : Bool := headerBitsOk h && s.partsGood w image h

/-- What reading n folios' header frames from offset `off` on does beside, up to the first that cannot be read; `s` is read. -/
def State.headsTouch (s : State) (w : Who) (image : W64) : Nat → Nat → State → State
  | _, 0, t => t
  | off, n + 1, t =>
    let t := t.devTouch w (image + w64 off) 32
    match s.imageBytes w image off 32 with
    | .error _ => t
    | .ok l => s.headsTouch w image (off + 32 * headFrames (frameOf l).pay) n t

/-- What the header checks' reads of an image do beside (R386, R408, R420): the folios' header frames, the chain part, the colophon
part, and the bytes that MEAS measures once all else fits, each after the one before it could be read. -/
def State.checkTouch (s : State) (w : Who) (image : W64) (h : BitVec 4096) : State :=
  let part (k : Nat) (t : State) : State := t.devTouch w (image + w64 (partOff h k)) (partSize h k)
  if !headerBitsOk h then s
  else
    let t := s.headsTouch w image (partOff h 2) (fieldN h 160 16) s
    match s.folioHeads w image (partOff h 2) (fieldN h 160 16), s.chainPart w image h, s.imageBytes w image (partOff h 5) (partSize h 5) with
    | .error _, _, _ => t
    | .ok _, .error _, _ => part 3 t
    | .ok _, .ok _, .error _ => part 5 (part 3 t)
    | .ok fs, .ok rs, .ok l =>
      let u := part 5 (part 3 t)
      if partsFit h fs rs l then u.devTouch w image (bitsN (colophonOf l) 16 32) else u

/-- Slots of the largest folio shape of an image, at least 1, and its shape code. -/
def State.largestShape (s : State) (w : Who) (image : W64) (h : BitVec 4096) : Nat :=
  match s.folioHeads w image (partOff h 2) (fieldN h 160 16) with
  | .ok fs => fs.foldl (fun a f =>
      let b := Folio.shape [f]
      if shapeSlots a < shapeSlots b then b else a) 0
  | .error _ => 0

/-! ### Creation (R22, R125, R162, R201) -/

/-- The bindings of the handles (R160, R188). -/
def bindOf (r : ChainRec) : Bind :=
  match r.type with
  | 1 => .push r.ffolio r.fport
  | 2 => .pop r.ffolio r.fport
  | _ => .engine r.engine

def handlesOf (rs : List ChainRec) : List Handle :=
  (upTo 16).map fun h => match rs.find? fun r => r.type != 0 && r.handle == h with
    | some r => { Handle.free with bind := bindOf r }
    | none => Handle.free

def chainsOf (rs : List ChainRec) : List (Nat × Nat × Nat × Nat) :=
  (rs.filter fun r => r.type == 0).map fun r => (r.ffolio, r.fport, r.tfolio, r.tport)

/-- Registers at the first issue (R125). -/
def startCtx (data rec par pc : W64) : Ctx :=
  { ((Ctx.zero.wr 1#5 data).wr 2#5 rec).wr 3#5 par with pc := pc }

/-- What a launch brings. -/
structure LaunchAsk where
  owner : Nat
  part : Nat
  role : Bool
  src : Source
  image : W64
  header : BitVec 4096
  base : Nat
  params : List Byte
  deriving DecidableEq, Repr

/-- The first serial from `n` on that no live instance has (R183); `fuel` bounds the search. -/
def State.freshSerial (s : State) : Nat → Nat → Nat
  | 0, n => n % 2 ^ 32
  | fuel + 1, n =>
    if s.insts.any fun i => i.serial == n % 2 ^ 32 && i.live then s.freshSerial fuel (n + 1) else n % 2 ^ 32

/-- A new instance in QUEUED. Its launch record, parameter block and save directory are written by the device, and its text and
data sections stand where the device OS maps them, which no rule gives (log entry 6); the first pc is the text section's address and
ENTRY together (R125, R162). Answers its SERIAL. -/
def State.create (s : State) (a : LaunchAsk) : Nat × State :=
  let n := s.freshSerial s.insts.length s.nextSerial
  let w : Who := ⟨a.part, false, [], 0, some a.owner⟩
  let rs := (s.chainPart w a.image a.header).toOption.getD []
  let data := w64 ((Config.dataPage n).toNat * 4096)
  let rec0 := Config.recordVA n
  let par := Config.paramVA n
  let save := Config.saveArea n
  let i : Inst := { Inst.blank with
    serial := n, owner := a.owner, part := a.part, role := a.role, src := a.src, image := a.image, header := a.header,
    base := a.base, eff := a.base, ceil := a.base, strict := bitAt a.header 59,
    ctx := startCtx data rec0 par (w64 ((Config.textPart n).toNat * 512 + fieldN a.header 96 32)),
    dataVA := data, recVA := rec0, parVA := par, handles := handlesOf rs, chains := chainsOf rs,
    saveBase := save.1, saveSize := save.2, arrival := s.nsec, lastProgress := s.nsec }
  let s := s.devTouch w (a.image + w64 (partOff a.header 3)) (partSize a.header 3)
  let s := { s with insts := (s.insts.filter fun j : Inst => j.serial != n) ++ [i], nextSerial := (n + 1) % 2 ^ 32 }
  let s := s.devRecord w (rec0 + 0x2C0#64) (natBytes 8 save.1.toNat ++ natBytes 8 save.2.toNat ++ List.replicate 16 0#8)
  (n, s.devRecord w par (a.params ++ List.replicate (fieldN a.header 128 32 - a.params.length) 0#8))

/-! ### launch (R200, R201) -/

/-- The failure word of launch and join: bit 63, the subcause, LAUNCH. -/
def launchFail (sub : Nat) : W64 := w64 (2 ^ 63 + sub * 2 ^ 8 + 0x14)

/-- Fields of a launch descriptor that R201 step 1 checks; `extra` says which bits above PSET a host entry may set. -/
def descOk (d : BitVec 512) (reserved : List (Nat × Nat)) : Bool :=
  (reserved.all fun r => fieldN d r.1 r.2 == 0) && fieldN d 0 64 % 512 == 0 && fieldN d 64 64 % 8 == 0 &&
    decide (fieldN d 128 32 ≤ 65536)

/-- Base priority of a child: PRIO or the header's, clamped (R201). -/
def launchBase (d : BitVec 512) (h : BitVec 4096) (limit : Nat) : Nat :=
  min (if bitAt d 163 then fieldN d 160 3 else fieldN h 56 3) limit

/-- The child is created, and its request goes to the partition queue of 64, or to the kitty. -/
def launchMake (d : BitVec 5) (i : Inst) (desc : BitVec 512) (h : BitVec 4096) (params : List Byte) (s : State) : Ans Flow :=
  let queue := decide ((s.part i.part).queue.length < 64)
  if !queue && decide (fieldN i.header 80 16 ≤ i.kitty.length) then .wait (some (queueWait i.serial 0 3)) s
  else
    let (n, s) := s.create ⟨i.owner, i.part, i.role, ⟨i.src.fn, i.src.queue, 0, 0, some i.serial⟩, desc.extractLsb' 0 64, h,
      launchBase desc h i.base, params⟩
    let s := if queue then s.modPart i.part fun p => { p with queue := p.queue ++ [n] }
      else s.modInst i.serial fun i => { i with kitty := i.kitty ++ [n] }
    .ok .next ((s.modInst i.serial fun i => { i with children := i.children ++ [n] }).wr d (w64 (n % 2 ^ 32)))

/-- `launch`: after the parent's earlier accesses (R110); a partition that is not enabled accepts none (R404; log entry 101). -/
def launchBody (d : BitVec 5) (a : W64) (s : State) : Ans Flow :=
  (s.loadDesc a).bind fun desc s =>
    match s.me with
    | none => .ok .next (s.wr d (launchFail 3))
    | some i =>
      if !(s.part i.part).en then .ok .next (s.wr d (launchFail 6))
      else if !descOk desc [(164, 348)] then .ok .next (s.wr d (launchFail 1))
      else
        let image := desc.extractLsb' 0 64
        (s.readSpan 8 image 512).bind fun l s =>
          let h : BitVec 4096 := BitVec.ofNat 4096 (bytesNat l)
          let w : Who := { i.who with user := s.level == 0 }
          let good := s.headerOk w image h
          let s := s.checkTouch w image h
          if !good then .ok .next (s.wr d (launchFail 2))
          else if fieldN h 128 32 < fieldN desc 128 32 then .ok .next (s.wr d (launchFail 1))
          else if 256 ≤ i.children.length then .ok .next (s.wr d (launchFail 3))
          else (s.readSpan 32 (desc.extractLsb' 64 64) (fieldN desc 128 32)).bind fun ps s => launchMake d i desc h ps s

/-- R200. -/
def execLaunch (d a : BitVec 5) (g : BitVec 3) (s : State) : Host.Outcome State Fault Refusal :=
  runWord s false 0 [d, a] g fun s => launchBody d (s.rd a) s

/-! ### join (R202) -/

/-- The result of a child that has finished. -/
def Inst.joinResult (c : Inst) : W64 := if c.state = .killed then w64 (2 ^ 63 + c.killCause % 256) else 0#64

def joinBody (d : BitVec 5) (a : W64) (s : State) : Ans Flow :=
  match s.me with
  | none => .ok .next (s.wr d (launchFail 4))
  | some i =>
    let n := fieldN a 0 32
    if !i.children.contains n then .ok .next (s.wr d (launchFail 4))
    else match s.inst? n with
      | none => .ok .next (s.wr d (launchFail 4))
      | some c =>
        if c.live then .wait (some ⟨2, n, none⟩) s
        else .ok .next ((s.modInst i.serial fun i => { i with children := i.children.erase n }).wr d c.joinResult)

/-- R202. -/
def execJoin (d a : BitVec 5) (g : BitVec 3) (s : State) : Host.Outcome State Fault Refusal :=
  runWord s false 0 [d, a] g fun s => joinBody d (s.rd a) s

end Sys2Proof.Machine
end

