-- ==== Sys2Proof/Machine/Engines.lean ====
section
/-!
DEFINITION. Engine commands and what an engine does with a request, unit by unit (R46, R91, R107, R114, R115, R203 to
R207, R385, R431, R433, R435).
-/

namespace Sys2Proof.Machine

/-! ### Accesses of an engine -/

/-- What reading a unit gives: bytes, an error, an access that goes out to the host or a peer, or a wait for a key (R417). -/
inductive Got where
  | bytes (l : List Byte)
  | bad (cause sub : Nat)
  | away (peer : Option Nat) (pa : Nat)
  | hold
  deriving DecidableEq, Repr

/-- An access of an engine to a window of the other part waits while a source of its packets has used up its numbers (R417). -/
def State.keyWait (s : State) (i : Inst) (pool : Pool) : Bool := s.keyHeld i.who pool

/-- Reads n bytes of one page for an instance, under a version (R203, R407, R415, R416). -/
def State.engRead (s : State) (i : Inst) (ver : Nat) (va : W64) (n : Nat) : Got × State :=
  match s.resolve i.who .load va with
  | .trap t s => (.bad t.cause t.sub, s.noteEcc t.cause)
  | .wait _ s => (.bad 0x13 0x01, s)
  | .ok p s =>
    match p with
    | .win pool o =>
      if s.keyWait i pool then (.hold, s)
      else if s.poisoned (pool.mem o) n then (.bad 0x12 0x03, s.noteEcc 0x12)
      else (.bytes (s.bytes (pool.mem o) n), s.sealedTo i.who pool)
    | .hbm pa sealed =>
      if !s.fencePass i.part pa then (.bad 0x13 0x02, s.fenceDrop i.part va)
      else match s.hbmRead i.part ver sealed pa n with
        | .error (c, b) => (.bad c b, s.noteEcc c)
        | .ok l => (.bytes l, s.hbmMoved (some i.owner) n)
    | .host pa => (.away none pa, s)
    | .peer k pa => (.away (some k) pa, s)

/-- Writes bytes of one page for an instance. `bytes []`: written. -/
def State.engWrite (s : State) (i : Inst) (ver : Nat) (va : W64) (l : List Byte) : Got × State :=
  match s.resolve i.who .store va with
  | .trap t s => (.bad t.cause t.sub, s.noteEcc t.cause)
  | .wait _ s => (.bad 0x13 0x01, s)
  | .ok p s =>
    match p with
    | .win pool o => if s.keyWait i pool then (.hold, s) else (.bytes [], (s.put (pool.mem o) l).sealedTo i.who pool)
    | .hbm pa sealed =>
      if !s.fencePass i.part pa then (.bad 0x13 0x02, s.fenceDrop i.part va)
      else match s.hbmWrite i.part ver sealed pa l with
        | .error (c, b) => (.bad c b, s.noteEcc c)
        | .ok s => (.bytes [], s.hbmMoved (some i.owner) l.length)
    | .host pa => (.away none pa, s)
    | .peer k pa => (.away (some k) pa, s)

/-- The address lies in a window (R88). -/
def inWindow (va : W64) : Bool := fieldN va 48 16 == 0x00F0 || fieldN va 48 16 == 0x00F1

/-- HBM address and SEAL of what an address leads to, if it leads to local HBM. -/
def State.hbmAt (s : State) (i : Inst) (va : W64) : Option (Nat × Bool) :=
  match s.resolve i.who .store va with
  | .ok (.hbm pa sealed) _ => some (pa, sealed)
  | _ => none

/-- A whole sealed data tile stands at the address, and the write has the bytes for it: it is sealed as one (R204, R415). -/
def State.wholeTile (s : State) (i : Inst) (va : W64) (n : Nat) : Bool :=
  va.toNat % 4096 == 0 && decide (4096 ≤ n) && ((s.hbmAt i va).map Prod.snd).getD false

/-- Bytes that a write of n bytes at `va` writes at once: a whole sealed tile, a strip in a window, else 64 (R94, R415). -/
def State.writeSize (s : State) (i : Inst) (va : W64) (n : Nat) : Nat :=
  if s.wholeTile i va n then 4096 else if inWindow va then 512 else 64

/-! ### Requests (R203) -/

def Request.dst (r : Request) : W64 := r.desc.extractLsb' 0 64
def Request.src (r : Request) : W64 := r.desc.extractLsb' 64 64
def Request.len (r : Request) : Nat := fieldN r.desc 128 32
def Request.ver (r : Request) : Nat := fieldN r.desc 160 32
def Request.count (r : Request) : Nat := fieldN r.desc 192 32
def Request.aux (r : Request) : Nat := fieldN r.desc 224 16
def Request.index (r : Request) : W64 := r.desc.extractLsb' 256 64
/-- NV, NFOLIO and NPORT, which token descriptors hold elsewhere (R324). -/
def Request.nv (r : Request) : Bool := if 6 < r.member then bitAt r.desc 429 else bitAt r.desc 333
def Request.nfolio (r : Request) : Nat := if 6 < r.member then fieldN r.desc 416 8 else fieldN r.desc 320 8
def Request.nport (r : Request) : Nat := if 6 < r.member then fieldN r.desc 424 5 else fieldN r.desc 328 5
def Request.indexed (r : Request) : Bool := r.member == 1 || r.member == 2

/-- A new request. -/
def Request.new (id member : Nat) (desc : BitVec 512) (tag : W64) (ord fabric inPhase : Bool) : Request :=
  ⟨id, member, desc, tag, ord, fabric, inPhase, 0, 0, none, none, none, false, none, false⟩

/-- Element sizes of R204. -/
def eszOk (n : Nat) : Bool := n == 64 || n == 128 || n == 256 || n == 512 || n == 1024 || n == 2048 || n == 4096

/-- Addresses that the member names: both ends, or one. -/
def Request.ends (r : Request) : List W64 :=
  match r.member with
  | 3 | 6 => [r.dst]
  | 5 => [r.src]
  | _ => [r.dst, r.src]

/-- Every address is a multiple of 64, and of 512 when an end lies in a window; so is the length of a copy or fill, and the
element size of a gather or scatter, whose elements' addresses it fixes (R204). -/
def Request.alignOk (r : Request) : Bool :=
  let m := if r.ends.any inWindow then 512 else 64
  (r.ends.all fun a => a.toNat % m == 0) && (decide (3 < r.member) || r.len % m == 0) && (!r.indexed || r.index.toNat % m == 0)

/-- Descriptor fields that the member does not use (R203). -/
def Request.unusedOk (r : Request) : Bool :=
  let z (lo n : Nat) : Bool := fieldN r.desc lo n == 0
  z 240 16 && z 334 178 &&
    match r.member with
    | 0 | 3 => z 192 32 && z 224 16 && z 256 64
    | 1 | 2 => z 224 16
    | 4 => z 192 32 && z 232 8 && z 272 48
    | 5 => z 0 64 && z 192 32 && z 272 48
    | _ => z 64 64 && z 192 32 && z 256 64

/-- The limits of R204, R205, R428, R431 and R433. -/
def Request.limitsOk (r : Request) (part : Nat) : Bool :=
  match r.member with
  | 0 | 3 => true
  | 1 | 2 => eszOk r.len
  | 4 => decide (r.aux % 16 ≤ 2) && [0, 1, 6].contains (r.aux / 16 % 16) &&
      (Config.collGroup (fieldN r.desc 256 16)).isSome
  | 5 => decide (1 ≤ r.len ∧ r.len ≤ 65536) && decide (fieldN r.desc 256 16 ≤ 4095)
  | _ => r.aux / 2 ^ 11 == part

/-- The done token's port is there (R205). -/
def State.portThere (s : State) (i : Inst) (r : Request) : Bool :=
  !r.nv || (decide (r.nfolio < i.nfolio) &&
    match s.folio i r.nfolio with
    | .ok f => f.hasPort false r.nport
    | .error _ => false)

/-- No limit is broken (R204, R205). -/
def State.requestOk (s : State) (i : Inst) (r : Request) : Bool := r.unusedOk && r.alignOk && r.limitsOk i.part && s.portThere i r

/-! ### Responses (R206) -/

/-- The response record. -/
def respStrip (cause sub : Nat) (tag : W64) (done : Nat) (faddr : W64) (members : Nat) : Strip :=
  BitVec.ofNat 4096 (cause % 256 + sub % 256 * 2 ^ 8 + tag.toNat * 2 ^ 64 + done % 2 ^ 64 * 2 ^ 128 + faddr.toNat * 2 ^ 192 +
    members % 2 ^ 256 * 2 ^ 256)

/-- A request goes through `f`. -/
def State.modReq (s : State) (serial h id : Nat) (f : Request → Request) : State :=
  s.modHandle serial h fun a => { a with reqs := updWhere (fun r => r.id == id) f a.reqs }

/-- The request responds. -/
def State.respond (s : State) (serial h : Nat) (r : Request) (cause sub done : Nat) (faddr : W64) (members : Nat) : State :=
  (s.progress serial).modReq serial h r.id fun a =>
    { a with resp := some (respStrip cause sub a.tag done faddr members), wait := none, buf := none, told := !(a.nv || a.fabric) }

/-- What DONE counts after an error (R115): bytes, or the whole elements of a gather or scatter. -/
def Request.written (r : Request) : Nat := if r.indexed then r.pos / r.len else r.pos

/-- The request ends in an error. -/
def State.failReq (s : State) (serial h : Nat) (r : Request) (cause sub : Nat) (faddr : W64) : State :=
  s.respond serial h r cause sub r.written faddr 0

/-! ### copy, gather, scatter, fill (R204) -/

/-- Bytes that the request moves. -/
def Request.total (r : Request) : Nat := if r.indexed then r.count * r.len else r.len

/-- Element, and offset in it. -/
def Request.elem (r : Request) : Nat := if r.indexed then r.pos / r.len else 0
def Request.offs (r : Request) : Nat := if r.indexed then r.pos % r.len else r.pos

/-- Source and destination of the unit at `pos`. -/
def Request.srcAt (r : Request) : W64 :=
  match r.member with
  | 1 => r.src + w64 (r.idx.getD 0 * r.len + r.offs)
  | 2 => r.src + w64 r.pos
  | _ => r.src + w64 r.pos

def Request.dstAt (r : Request) : W64 :=
  match r.member with
  | 2 => r.dst + w64 (r.idx.getD 0 * r.len + r.offs)
  | _ => r.dst + w64 r.pos

/-- Bytes left of the element or of the transfer. -/
def Request.left (r : Request) : Nat := if r.indexed then r.len - r.offs else r.len - r.pos

/-- The unit that is written at once: a whole sealed data tile that the request covers; a strip when an end is in a window; else
64 bytes (R94, R204, R415). -/
def State.unitSize (s : State) (i : Inst) (r : Request) : Nat :=
  if s.wholeTile i r.dstAt r.left then 4096
  else if inWindow r.dstAt || (r.member != 3 && inWindow r.srcAt) then 512
  else 64

/-- Nanoseconds that a request to the host, a peer or a message channel may take (R93, R427, R429, R431, R435). -/
def Remote.limit (r : Remote) : Nat :=
  match r.kind with
  | 4 => 1000000000
  | 5 | 6 | 7 => 50000000
  | _ => if r.peer.isSome then 2000000 else 50000000

/-- The time for the request's completion is over. -/
def State.overdue (s : State) (r : Remote) : Bool := decide (r.sent.toNat + r.limit ≤ s.nsec.toNat)

/-- An engine's access that goes out: it counts as the instance's, not as its thread's. -/
def engineSerial (serial : Nat) : Nat := 2 ^ 42 + serial

/-- The request waits for an access that goes out. -/
def State.sendReq (s : State) (i : Inst) (h : Nat) (r : Request) (peer : Option Nat) (kind pa : Nat) (va : W64) (n : Nat)
    (data : List Byte) : State :=
  let id := s.nextId
  (s.sendOut ⟨id, engineSerial i.serial, s.rootFn 16 i, peer, kind, pa, va, n, data, 0, 0, false, s.nsec, true, none, none⟩ i.part i.owner).modReq
    i.serial h r.id fun a => { a with wait := some id }

/-- The unit has been written. -/
def State.advance (s : State) (i : Inst) (h : Nat) (r : Request) (n : Nat) : State :=
  let r' := { r with pos := r.pos + n }
  (s.progress i.serial).modReq i.serial h r.id fun a =>
    { a with pos := r.pos + n, buf := none, wait := none, idx := if r.indexed && r'.offs == 0 then none else a.idx }

/-- The unit's bytes are there: it is written. -/
def State.writeUnit (s : State) (i : Inst) (h : Nat) (r : Request) (l : List Byte) : State :=
  match s.engWrite i r.ver r.dstAt l with
  | (.bytes _, s) => s.advance i h r l.length
  | (.bad c b, s) => s.failReq i.serial h r c b r.dstAt
  | (.hold, s) => s.modReq i.serial h r.id fun a => { a with buf := some l, wait := none }
  | (.away peer pa, s) =>
    (s.modReq i.serial h r.id fun a => { a with buf := some l }).sendReq i h r peer 1 pa r.dstAt l.length l

/-- Bytes that one access of a unit reads: a strip when an end is in a window, else 64. -/
def Request.piece (r : Request) : Nat := if inWindow r.dstAt || inWindow r.srcAt then 512 else 64

/-- A read of a request sees what its earlier units have left: those of a whole tile that wait to be sealed as one (R204). -/
def State.overlay (s : State) (i : Inst) (r : Request) (va : W64) (l : List Byte) : List Byte :=
  match s.hbmAt i va, s.hbmAt i r.dstAt with
  | some (a, _), some (d, _) =>
    let buf := r.buf.getD []
    l.zipIdx.map fun (b, k) => if d ≤ a + k ∧ a + k < d + buf.length then (buf[a + k - d]?).getD b else b
  | _, _ => l

/-- An error before a whole tile is complete: the units of it that were read are written as a part of it (R115, R385). -/
def State.flushUnits (s : State) (i : Inst) (h : Nat) (r : Request) (cause sub : Nat) (va : W64) : State :=
  let l := r.buf.getD []
  let fail (s : State) (r : Request) : State := s.failReq i.serial h r cause sub va
  if l.isEmpty then fail s r
  else match s.engWrite i r.ver r.dstAt l with
    | (.bytes _, s) => fail (s.advance i h r l.length) { r with pos := r.pos + l.length }
    | (_, s) => fail s r

/-- More bytes of the unit have come. -/
def State.takeBytes (s : State) (i : Inst) (h : Nat) (r : Request) (l : List Byte) : State :=
  let l := r.buf.getD [] ++ l
  if s.unitSize i r ≤ l.length then s.writeUnit i h r l
  else s.modReq i.serial h r.id fun a => { a with buf := some l, wait := none }

/-- Pattern bytes of a fill. -/
def fillBytes (v : W64) (n : Nat) : List Byte := (List.replicate (n / 8) (natBytes 8 v.toNat)).flatMap id

/-- One unit of a transfer: the index when an element begins, else the unit's bytes and then the unit (R204). -/
def State.moveUnit (s : State) (i : Inst) (h : Nat) (r : Request) : State :=
  if r.total ≤ r.pos then s.respond i.serial h r 0 0 (if r.indexed then r.count else r.total) 0 0
  else if r.indexed && r.idx.isNone then
    let va := r.index + w64 (4 * r.elem)
    match s.engRead i r.ver va 4 with
    | (.bytes l, s) => s.modReq i.serial h r.id fun a => { a with idx := some (bytesNat l) }
    | (.bad c b, s) => s.failReq i.serial h r c b va
    | (.hold, s) => s
    | (.away peer pa, s) => s.sendReq i h r peer 0 pa va 4 []
  else if r.member = 3 then s.writeUnit i h r (fillBytes r.src (s.unitSize i r))
  else if s.unitSize i r ≤ (r.buf.getD []).length then s.writeUnit i h r (r.buf.getD [])
  else
    let va := r.srcAt + w64 (r.buf.getD []).length
    match s.engRead i r.ver va r.piece with
    | (.bytes l, s) => (s.progress i.serial).takeBytes i h r (s.overlay i r va l)
    | (.bad c b, s) => s.flushUnits i h r c b va
    | (.hold, s) => s
    | (.away peer pa, s) => s.sendReq i h r peer 0 pa va r.piece []

/-- What came back of an access that went out: 0 with bytes, or a REMOTE subcause. The unit's read, its index or its write
goes on; an error ends the request. -/
def State.moveBack (s : State) (i : Inst) (h : Nat) (r : Request) (a : Remote) (st : Nat) (l : List Byte) : State :=
  if st ≠ 0 then
    if a.kind = 0 ∧ r.idx.isSome = r.indexed then s.flushUnits i h r 0x13 st a.va else s.failReq i.serial h r 0x13 st a.va
  else if a.kind = 1 then s.advance i h r a.size
  else if r.indexed && r.idx.isNone then s.modReq i.serial h r.id fun x => { x with idx := some (bytesNat l), wait := none }
  else (s.progress i.serial).takeBytes i h r l

/-! ### zsend, zrecv, coll (R205, R431, R435) -/

/-- The bytes that a message or a contribution takes next: whole units of 64, the last one short. -/
def Request.nextRead (r : Request) : Nat := min (if inWindow r.srcAt then 512 else 64) (r.len - r.pos)

/-- Fields packed from bit 0 up: value and width of each. -/
def packBits : List (Nat × Nat) → Nat
  | [] => 0
  | (v, n) :: l => v % 2 ^ n + 2 ^ n * packBits l

/-- A block of values on the wire (R434): E0, w, and each value's sign, exponent below E0, and fraction; `fr`: fraction
bits. Field widths and their contents. -/
def wireBlock (fr : Nat) (vs : List Nat) : List (Nat × Nat) :=
  let es := vs.map fun v => bitsN v fr 8
  let e0 := es.foldl max 0
  let d := (es.map fun e => e0 - e).foldl max 0
  let w := if d = 0 then 0 else Nat.log2 d + 1
  (e0, 8) :: (w, 4) :: vs.flatMap fun v => [(bitsN v (fr + 8) 1, 1), (e0 - bitsN v fr 8, w), (bitsN v 0 fr, fr)]

/-- Values of n bytes, in blocks of 64, the last padded with +0. -/
def wireBlocks (n : Nat) (data : List Byte) : List (List Nat) :=
  (upTo ((data.length + 64 * n - 1) / (64 * n))).map fun b => (upTo 64).map fun k => bytesNat ((data.drop ((64 * b + k) * n)).take n)

/-- A contribution on the wire: f32 and bf16 lanes in blocks, other lanes as they stand (R434). The fields are packed from
bit 0 of byte 0 up (log entry 36). -/
def collWire (ltype : Nat) (data : List Byte) : List Byte :=
  let pack (n fr : Nat) : List Byte :=
    let fs := (wireBlocks n data).flatMap (wireBlock fr)
    natBytes (((fs.map Prod.snd).sum + 7) / 8) (packBits fs)
  if ltype = 0 then pack 4 23 else if ltype = 1 then pack 2 7 else data

/-- The packets that carry a payload, of at most 1,024 flits each (R428): the first 48 bytes of each in its header flit. `hdr`:
the header for a number of flits and its own bytes. -/
def packets (hdr : Nat → Nat → BitVec 512) : Nat → List Byte → List Packet
  | 0, _ => []
  | fuel + 1, l =>
    let a := l.take 65584
    let one : Packet := ⟨hdr (flitsOf a.length) (bytesNat (a.take 48)), a.drop 48⟩
    if l.length ≤ 65584 then [one] else one :: packets hdr fuel (l.drop 65584)

/-- The message or contribution goes out, and its answer is awaited (R431, R435). -/
def State.sendData (s : State) (i : Inst) (h : Nat) (r : Request) : State :=
  let data := r.buf.getD []
  let id := s.nextId
  let group := fieldN r.desc 256 16
  let peer := if r.member = 5 then group else 0
  let arg := if r.member = 5 then r.aux else group + ((Config.collGroup group).map Prod.snd).getD 0 * 2 ^ 16
  let wire := if r.member = 5 then data else collWire (r.aux / 16 % 16) data
  let hdr (flits rest : Nat) : BitVec 512 :=
    packetHdr (if r.member = 5 then 6 else 8) peer s.sys.mpkg.toNat i.part i.owner id flits 0 arg rest
  let a : Remote := ⟨id, engineSerial i.serial, s.rootFn 16 i, some peer, if r.member = 5 then 3 else 5, r.aux, 0, r.len, data, 0, 0,
    false, s.nsec, (s.portFor peer).isSome, none, s.sentOn peer⟩
  let s : State := { s with remotes := s.remotes ++ [a], nextId := id + 1 }
  ((packets hdr (wire.length / 65584 + 1) wire).foldl (fun (s : State) p => s.emitPacket id p) (s.zilSent i.owner peer r.len)).modReq
    i.serial h r.id fun x => { x with wait := some id }

/-- A message or contribution is read, unit by unit; then it goes out. -/
def State.gatherOut (s : State) (i : Inst) (h : Nat) (r : Request) : State :=
  if r.pos < r.len then
    match s.engRead i r.ver r.srcAt r.nextRead with
    | (.bytes l, s) => (s.progress i.serial).modReq i.serial h r.id fun a =>
        { a with pos := r.pos + l.length, buf := some (r.buf.getD [] ++ l), wait := none }
    | (.bad c b, s) => s.respond i.serial h r c b 0 r.srcAt 0
    | (.hold, s) => s
    | (.away peer pa, s) => s.sendReq i h r peer 0 pa r.srcAt r.nextRead []
  else s.sendData i h r

/-- What came back for a message or contribution: bytes of the source, a piece of the result written, a message ack, a commit,
INCOMPLETE with its MEMBERS (256), or a timeout. A member that has written its DST is of kind 6 (R435); one that times out while it
writes (kind 7) counts what it has written (R115). -/
def State.sentBack (s : State) (i : Inst) (h : Nat) (r : Request) (a : Remote) (st : Nat) (l : List Byte) : State :=
  if a.kind = 0 then
    if st ≠ 0 then s.respond i.serial h r 0x13 st 0 a.va 0
    else (s.progress i.serial).modReq i.serial h r.id fun x =>
      { x with pos := r.pos + l.length, buf := some (r.buf.getD [] ++ l), wait := none }
  else if a.kind = 1 then
    if st ≠ 0 then ({ s with remotes := s.remotes.filter fun x => some x.id != r.idx } : State).respond i.serial h r 0x13 st r.pos a.va 0
    else (s.progress i.serial).modReq i.serial h r.id fun x =>
      { x with pos := r.pos + a.size, buf := some ((r.buf.getD []).drop a.size), wait := none }
  else if st = 256 then s.respond i.serial h r 0x18 0x01 (if a.kind = 6 then r.len else 0) 0 (bytesNat l)
  else if st ≠ 0 then s.respond i.serial h r 0x13 st (if a.kind = 6 then r.len else if a.kind = 7 then r.pos else 0) 0 0
  else s.respond i.serial h r 0 0 r.len 0 0

/-- The result of a collective is written at DST, unit by unit; then the member returns written (R435). `id`: its contribution,
which may time out or fail meanwhile; a write that fails is the response. -/
def State.collUnit (s : State) (i : Inst) (h : Nat) (r : Request) (id : Nat) : State :=
  let l := r.buf.getD []
  let out : State := { s with remotes := s.remotes.filter fun x => x.id != id }
  match s.remotes.find? fun x => x.id == id with
  | none => s
  | some a =>
    match a.ans with
    | some (st, m) => out.sentBack i h r a st m
    | none =>
      if l.isEmpty then
        let group := fieldN r.desc 256 16
        let me := ((Config.collGroup group).map Prod.snd).getD 0
        let s := { s with remotes := updWhere (fun x => x.id == id) (fun x => { x with kind := 6, gone := (s.portFor 0).isSome, port := s.sentOn 0 }) s.remotes }
        (s.emitPacket id ⟨packetHdr 10 0 s.sys.mpkg.toNat i.part i.owner id 0 0 (group + me * 2 ^ 16) 0, []⟩).modReq i.serial h r.id
          fun x => { x with wait := some id }
      else
        let piece := l.take (s.writeSize i r.dstAt l.length)
        match s.engWrite i r.ver r.dstAt piece with
        | (.bytes _, s) => (s.progress i.serial).modReq i.serial h r.id fun x =>
            { x with pos := r.pos + piece.length, buf := some (l.drop piece.length) }
        | (.bad c b, s) =>
          ({ s with remotes := s.remotes.filter fun x => x.id != id } : State).respond i.serial h r c b r.pos r.dstAt 0
        | (.hold, s) => s
        | (.away peer pa, s) => s.sendReq i h r peer 1 pa r.dstAt piece.length piece

/-- The oldest message of a channel of the receive buffer. -/
def State.nextMessage (s : State) (chan : Nat) : Option Message := s.messages.find? fun m => m.chan == chan

/-- The wait of a zrecv for its message: registered for the thread while that has no wait of its own (R205, R221). -/
def State.recvWait (s : State) (i : Inst) (chan : Nat) : State :=
  match i.hw, i.stall with
  | some n, none =>
    if s.waits.any fun w => w.waiter == .thread i.serial && !w.sw then s
    else s.autoRegister (.thread i.serial) (htQuire n) 5 chan none i.serial
  | _, _ => s

/-- The wait ends. -/
def State.recvDone (s : State) (i : Inst) (chan : Nat) : State :=
  { s with waits := s.waits.filter fun w => !(w.waiter == .thread i.serial && !w.sw && w.kind == 5 && w.obj == chan) }

/-- A zrecv takes the next message of its channel and writes it at DST, unit by unit; the message leaves the buffer when
it is taken (R205, R431). DEDUCED: one that is cut off ends BOUND TRUNC with DONE = the message's length, as R205 and R206 give a
zrecv's DONE, where R115 counts bytes written (log entry 112). -/
def State.recvUnit (s : State) (i : Inst) (h : Nat) (r : Request) : State :=
  match r.buf with
  | none =>
    match s.nextMessage r.aux with
    | none =>
      if r.wait.isSome then s.recvWait i r.aux
      else
        let id := s.nextId
        let a : Remote := ⟨id, engineSerial i.serial, s.rootFn 16 i, none, 4, r.aux, 0, 0, [], 0, 0, false, s.nsec, true, none, none⟩
        (({ s with remotes := s.remotes ++ [a], nextId := id + 1 } : State).modReq i.serial h r.id fun x => { x with wait := some id }).recvWait i r.aux
    | some m =>
      let s := { s with messages := s.messages.erase m, remotes := s.remotes.filter fun a => some a.id != r.wait }
      let s := s.meter i.owner 16 m.data.length
      (s.recvDone i r.aux).modReq i.serial h r.id fun x =>
        { x with buf := some (m.data.take r.len), idx := some (m.src + m.data.length * 2 ^ 16), wait := none }
  | some l =>
    let len := (r.idx.getD 0) / 2 ^ 16
    let sender := r.idx.getD 0 % 2 ^ 16
    if l.isEmpty then
      s.respond i.serial h r (if r.len < len then 0x06 else 0) (if r.len < len then 0x10 else 0) len 0 sender
    else
      let piece := l.take (s.writeSize i r.dstAt l.length)
      match s.engWrite i r.ver r.dstAt piece with
      | (.bytes _, s) => (s.progress i.serial).modReq i.serial h r.id fun x =>
          { x with pos := r.pos + piece.length, buf := some (l.drop piece.length) }
      | (.bad c b, s) => s.respond i.serial h r c b r.pos r.dstAt sender
      | (.hold, s) => s
      | (.away peer pa, s) => s.sendReq i h r peer 1 pa r.dstAt piece.length piece

/-- What came back for a zrecv: a piece written, or the end of its wait of 1 s. -/
def State.recvBack (s : State) (i : Inst) (h : Nat) (r : Request) (a : Remote) (st : Nat) : State :=
  if a.kind = 4 then (s.recvDone i r.aux).respond i.serial h r 0x13 st 0 0 0
  else if st ≠ 0 then s.respond i.serial h r 0x13 st r.pos a.va (r.idx.getD 0 % 2 ^ 16)
  else (s.progress i.serial).modReq i.serial h r.id fun x =>
    { x with pos := r.pos + a.size, buf := some ((r.buf.getD []).drop a.size), wait := none }

/-! ### ENGINE_UNIT -/

/-- The request may start: with ORD, once every earlier request of its stream has responded (R107). -/
def Handle.mayStart (a : Handle) (r : Request) : Bool := !r.ord || (a.reqs.takeWhile fun x => x.id != r.id).all fun x => x.resp.isSome

/-- The first step of a request: its checks; a zero length ends it (R204). -/
def State.startReq (s : State) (i : Inst) (h : Nat) (r : Request) : State :=
  if !s.requestOk i r then s.respond i.serial h r 0x01 0x01 0 0 0
  else if r.member != 5 && r.total == 0 then s.respond i.serial h r 0 0 0 0 0
  else s.modReq i.serial h r.id fun a => { a with started := true }

/-- DESIGN CHOICE: a response channel that no push stream feeds sends no EOS of its own; R44 gives no moment for one (log entry
113). The oldest response that has not been told goes to its in port: the done token of NV, or the only response of a
fabric request, which then leaves its stream (R46, R114, R206). -/
def State.tellDone (s : State) (i : Inst) (h : Nat) (a : Handle) : Option State :=
  match a.reqs.find? fun r => !r.told with
  | none => none
  | some r =>
    match r.resp with
    | none => none
    | some v =>
      let fin (s : State) : State :=
        if r.fabric then s.modHandle i.serial h fun a => { a with reqs := a.reqs.filter fun x => x.id != r.id }
        else s.modReq i.serial h r.id fun x => { x with told := true }
      if !r.nv || !s.portThere i r then some (fin s)
      else if i.region.isEmpty then none
      else (s.sendToken i i.threadQuire (s.folioQuire i.serial r.nfolio) (.port r.nfolio r.nport) (.data v)).map fin

/-- One step of an engine on a request: a done token that is due, the checks, an answer from outside, or one unit. The
token units serve the members above 6. While the instance stands on no quire its requests wait, but those of a kill, which waits
for their responses (R394). -/
def State.engineUnit (s : State) (serial h idx : Nat) : State :=
  match s.inst? serial with
  | none => s
  | some i =>
    let a := (i.handles[h]?).getD Handle.free
    match s.tellDone i h a with
    | some t => t
    | none =>
      match a.reqs[idx]? with
      | none => s
      | some r =>
        if i.region.isEmpty && i.kill.isNone || r.resp.isSome || decide (6 < r.member) || !a.mayStart r then s
        else if !r.started then s.startReq i h r
        else
          match r.wait.bind fun id => s.remotes.find? fun x => x.id == id with
          | some x =>
            match x.ans with
            | none => if r.member = 6 ∧ x.kind = 4 ∧ s.overdue x = false then s.recvUnit i h r else s
            | some (st, l) =>
              let s := { s with remotes := s.remotes.filter fun y => y.id != x.id }
              if r.member ≤ 3 then s.moveBack i h r x st l
              else if r.member = 6 then s.recvBack i h r x st
              else s.sentBack i h r x st l
          | none =>
            if r.member ≤ 3 then s.moveUnit i h r
            else if r.member = 6 then s.recvUnit i h r
            else match r.idx with
              | some id => s.collUnit i h r id
              | none => s.gatherOut i h r

/-- R204. -/
def execEngineUnit (serial h idx : Nat) (s : State) : Host.Outcome State Fault Refusal := .next (s.engineUnit serial h idx)

/-! ### ENGINE_REQUEST_TOKEN (R206) -/

/-- A token at the end of the route to an out port that no pop stream, chain or pipeline takes: a data token becomes a
request on engine handle h; EOS and bubbles end there (log entry 28). -/
def State.requestToken (s : State) (id h : Nat) : State :=
  match s.routes.find? fun r => r.id == id with
  | none => s
  | some r =>
    match r.dst, s.inst? r.serial, s.hopToken r r.hops.length with
    | .port folio port, some i, some t =>
      let taken := (i.popHandle folio port).isSome || (i.chains.any fun c => c.1 == folio && c.2.1 == port) ||
        s.attns.any fun a => a.serial == r.serial && a.folio == folio && a.qport == port
      if taken then s
      else match t, ((i.handles[h]?).getD Handle.free).bind with
        | .data v, .engine e =>
          if 32 ≤ ((i.handles[h]?).getD Handle.free).reqs.length then s
          else
            let q := Request.new s.nextId e (v.extractLsb' 0 512) (v.extractLsb' 512 64) false true i.active
            (({ s with nextId := s.nextId + 1 } : State).modHandle r.serial h fun a => { a with reqs := a.reqs ++ [q] }).hopLeave r r.hops.length
        | .eos, _ => s.hopLeave r r.hops.length
        | .bubble, _ => s.hopLeave r r.hops.length
        | _, _ => s
    | _, _, _ => s

/-- R206. -/
def execEngineRequestToken (r h : Nat) (s : State) : Host.Outcome State Fault Refusal := .next (s.requestToken r h)

/-! ### The commands (R203) -/

/-- An engine command on a handle bound to its engine: it reads its descriptor, waits for a response place, and issues. -/
def engineBody (member : Nat) (h : BitVec 4) (a : W64) (tag : W64) (ord : Bool) (s : State) : Ans Flow :=
  withHandle h (fun b => b == .engine member) (fun i _ s =>
    (s.loadDesc a).bind fun d s =>
      if 32 ≤ (((s.inst? i.serial).bind fun i => i.handles[h.toNat]?).getD Handle.free).reqs.length then
        .wait (some (queueWait i.serial h.toNat 2)) s
      else
        let r := Request.new s.nextId member d tag ord false i.active
        .ok .next (({ s with nextId := s.nextId + 1 } : State).modHandle i.serial h.toNat fun a => { a with reqs := a.reqs ++ [r] })) s

/-- R204. -/
def execCopy (h : BitVec 4) (a b : BitVec 5) (ord : BitVec 1) (g : BitVec 3) (s : State) : Host.Outcome State Fault Refusal :=
  runWord s false 0 [a, b] g fun s => engineBody 0 h (s.rd a) (s.rd b) (ord == 1#1) s

/-- R204. -/
def execGather (h : BitVec 4) (a b : BitVec 5) (ord : BitVec 1) (g : BitVec 3) (s : State) : Host.Outcome State Fault Refusal :=
  runWord s false 0 [a, b] g fun s => engineBody 1 h (s.rd a) (s.rd b) (ord == 1#1) s

/-- R204. -/
def execScatter (h : BitVec 4) (a b : BitVec 5) (ord : BitVec 1) (g : BitVec 3) (s : State) : Host.Outcome State Fault Refusal :=
  runWord s false 0 [a, b] g fun s => engineBody 2 h (s.rd a) (s.rd b) (ord == 1#1) s

/-- R204. -/
def execFill (h : BitVec 4) (a b : BitVec 5) (ord : BitVec 1) (g : BitVec 3) (s : State) : Host.Outcome State Fault Refusal :=
  runWord s false 0 [a, b] g fun s => engineBody 3 h (s.rd a) (s.rd b) (ord == 1#1) s

/-- R205. -/
def execColl (h : BitVec 4) (a b : BitVec 5) (ord : BitVec 1) (g : BitVec 3) (s : State) : Host.Outcome State Fault Refusal :=
  runWord s false 0 [a, b] g fun s => engineBody 4 h (s.rd a) (s.rd b) (ord == 1#1) s

/-- R205. -/
def execZsend (h : BitVec 4) (a b : BitVec 5) (ord : BitVec 1) (g : BitVec 3) (s : State) : Host.Outcome State Fault Refusal :=
  runWord s false 0 [a, b] g fun s => engineBody 5 h (s.rd a) (s.rd b) (ord == 1#1) s

/-- R205. -/
def execZrecv (h : BitVec 4) (a b : BitVec 5) (ord : BitVec 1) (g : BitVec 3) (s : State) : Host.Outcome State Fault Refusal :=
  runWord s false 0 [a, b] g fun s => engineBody 6 h (s.rd a) (s.rd b) (ord == 1#1) s

end Sys2Proof.Machine
end

