-- ==== Sys2Proof/Machine/Stage.lean ====
section
/-!
DEFINITION. Stage programs (R306 to R322): the records of an image (R159), the checks that `abind` makes of each program
(R291, R308 to R314, R321), runs, and the cull clause (R319, R320).
-/

namespace Sys2Proof.Machine

/-! ### Stage records (R159) -/

/-- A record's fields; `res`: a reserved bit of its header is set. -/
structure StageRec where
  kind : Nat
  block : Bool
  nops : Nat
  wstart : Nat
  mstart : Nat
  fstart : Nat
  inputs : List Byte
  cull : BitVec 128
  res : Bool
  words : List W64
  deriving DecidableEq, Repr

def stageRec (l ops : List Byte) : StageRec :=
  let v : BitVec 256 := BitVec.ofNat 256 (bytesNat l)
  ⟨fieldN v 0 2, bitAt v 2, fieldN v 3 6, fieldN v 9 6, fieldN v 15 6, fieldN v 21 6,
    (upTo 8).map fun n => v.extractLsb' (32 + 8 * n) 8, v.extractLsb' 96 128, fieldN v 27 5 != 0 || fieldN v 224 32 != 0,
    (upTo (fieldN v 3 6)).map fun k => w64 (bytesNat ((ops.drop (8 * k)).take 8))⟩

/-- The offset in the image of stage record n. -/
def State.stageOff (s : State) (i : Inst) : Nat → Except DevErr Nat
  | 0 => .ok (partOff i.header 1)
  | n + 1 =>
    match s.stageOff i n with
    | .error e => .error e
    | .ok a => (s.imageBytes i.device i.image a 32).map fun l => a + 32 + 8 * (stageRec l []).nops

/-- Stage record n of an instance's image. -/
def State.stage (s : State) (i : Inst) (n : Nat) : Except DevErr StageRec :=
  match s.stageOff i n with
  | .error e => .error e
  | .ok a => match s.imageBytes i.device i.image a 32 with
    | .error e => .error e
    | .ok l => (s.imageBytes i.device i.image (a + 32) (8 * (stageRec l []).nops)).map (stageRec l)

/-- What the reading of stage record n, and of the heads of those before it, does beside (R386, R408, R420). -/
def State.stageTouch (s : State) (i : Inst) (n : Nat) : State :=
  let heads := (upTo (n + 1)).foldl (fun (t : State) k => match s.stageOff i k with
    | .ok a => t.devTouch i.device (i.image + w64 a) 32
    | .error _ => t) s
  match s.stageOff i n with
  | .error _ => heads
  | .ok a => match s.imageBytes i.device i.image a 32 with
    | .error _ => heads
    | .ok l => heads.devTouch i.device (i.image + w64 (a + 32)) (8 * (stageRec l []).nops)

/-- The program that a record holds. -/
def StageRec.prog (r : StageRec) : StageProg := ⟨r.kind, r.block, r.words, r.wstart, r.mstart, r.fstart, r.inputs, r.cull⟩

/-! ### Checks 5 to 10 of R291 -/

/-- The blend part an operation stands in: 0 identity, 1 weight, 2 merge, 3 finalize. -/
def StageRec.partOf (r : StageRec) (k : Nat) : Nat :=
  if k < r.wstart then 0 else if k < r.mstart then 1 else if k < r.fstart then 2 else 3

/-- Check 5. -/
def StageRec.kindOk (r : StageRec) (want : Nat) : Bool :=
  r.kind == want && !(r.kind == 1 && r.block) && !(r.kind == 2 && !r.block)

/-- Operations across lanes. -/
def crossLane (op : Nat) : Bool := [0x60, 0x61, 0x62, 0x67, 0x68, 0x69].contains op

/-- R308's limits on fields in block mode. -/
def blockLimit (w : OpWord) : Bool :=
  match w.op with
  | 0x60 | 0x62 => decide (bitsN w.aux 0 7 < 64)
  | 0x67 | 0x68 => decide (bitsN w.aux 8 10 + 1 ≤ 64)
  | _ => true

/-- Check 6 of one operation: R142, R144, R145, R234, R308, R311, and status 6 of R313. -/
def StageRec.encOk (r : StageRec) (word : W64) : Bool :=
  let w := opWord word
  (wordFault .stage word).isNone && (!r.block || blockLimit w) &&
    (r.kind == 2 || !crossLane w.op) && (r.kind == 1 || !(w.op == 0xA6 || w.op == 0xA7))

/-- Check 7: NOPS, part starts and reserved header bits. -/
def StageRec.fieldsOk (r : StageRec) : Bool :=
  !r.res && decide (1 ≤ r.nops ∧ r.nops ≤ 48) &&
    if r.kind = 2 then decide (r.wstart < r.mstart ∧ r.mstart < r.fstart ∧ r.fstart < r.nops)
    else r.wstart == 0 && r.mstart == 0 && r.fstart == 0

/-- Status 7 of R314: an operation in a blend part that does not take it. -/
def partBad (part op aux : Nat) : Bool :=
  match op with
  | 0xA1 | 0xA3 | 0xA4 | 0xA5 => part != 1
  | 0xA8 =>
    match aux with
    | 0 => true
    | 1 => part != 1
    | 2 | 3 => part != 2
    | _ => part != 3
  | 0xA9 => part == 3
  | 0xAA => if bitsN aux 3 1 = 0 then decide (part < 2) else part != 2
  | _ => false

/-- The required output that an operation gives, if it gives one: part and output. -/
def StageRec.output (r : StageRec) (k : Nat) (w : OpWord) : Option (Nat × Nat) :=
  match r.kind with
  | 0 => if w.op = 0xA8 ∧ w.aux = 0 then some (0, 0) else none
  | 1 => if w.op = 0xA6 ∨ w.op = 0xA7 then some (0, 0) else none
  | _ => if w.op = 0xA8 then some (r.partOf k, w.aux) else none

/-- The required outputs of a program (R314). -/
def StageRec.required (r : StageRec) : List (Nat × Nat) :=
  if r.kind = 2 then [(1, 1), (2, 2), (2, 3), (3, 4), (3, 5)] else [(0, 0)]

/-- Operation k of the record breaks a rule of check 7. -/
def StageRec.longAt (r : StageRec) (k : Nat) : Bool :=
  let w := opWord ((r.words[k]?).getD 0#64)
  (r.kind == 2 && partBad (r.partOf k) w.op w.aux) ||
    match r.output k w with
    | some o => r.required.contains o &&
        (upTo k).any fun j => r.output j (opWord ((r.words[j]?).getD 0#64)) == some o
    | none => false

/-- Every required output is given. -/
def StageRec.outputsOk (r : StageRec) : Bool :=
  r.required.all fun o => (upTo r.nops).any fun k => r.output k (opWord ((r.words[k]?).getD 0#64)) == some o

/-- A source that a kind of program takes (R309). -/
def sourceOk (kind : Nat) (c : Byte) : Bool :=
  match c.toNat with
  | 0 => true
  | 1 => kind == 0
  | 2 => kind != 0
  | 3 | 4 | 5 | 6 => true
  | _ => false

/-- A source that a blend part may read (R309). -/
def sourceIn (part src : Nat) : Bool := if src = 3 ∨ src = 5 then part != 0 else part == 1

/-- Sources that an operation reads: input codes of its operands, and those of qpos to kseg. -/
def StageRec.reads (r : StageRec) (w : OpWord) : List Nat :=
  ([w.a, w.b, w.c].filter fun v => decide (16 ≤ v ∧ v < 24)).map (fun v => ((r.inputs[v - 16]?).getD 0#8).toNat) ++
    (if 0xA0 ≤ w.op ∧ w.op ≤ 0xA3 then [w.op - 0xA0 + 3] else [])

/-- Check 8 of one operation (R310). -/
def StageRec.declared (r : StageRec) (k : Nat) : Bool :=
  let w := opWord ((r.words[k]?).getD 0#64)
  (r.reads w).all fun c => r.inputs.any (fun b => b.toNat == c && c != 0) && (r.kind != 2 || sourceIn (r.partOf k) c)

/-- Check 9 of one operation: status 9 of R313. -/
def StageRec.impure (r : StageRec) (k : Nat) : Bool :=
  let w := opWord ((r.words[k]?).getD 0#64)
  r.kind != 2 && (w.op == 0xA4 || w.op == 0xA9 || w.op == 0xAA || (w.op == 0xA8 && (r.kind == 1 || w.aux != 0)))

/-- Term j of a cull clause. -/
def cullTerm (c : BitVec 128) (j : Nat) : W32 := c.extractLsb' (32 * j) 32

/-- Check 10 of one term (R321). -/
def termOk (t : W32) : Bool :=
  match fieldN t 0 3 with
  | 0 => t == 0#32
  | 1 => fieldN t 3 2 != 2 && fieldN t 5 2 != 2 && fieldN t 3 4 != 0
  | 2 => fieldN t 3 29 == 0
  | _ => false

def StageRec.cullOk (r : StageRec) : Bool :=
  if r.kind = 1 then (upTo 4).all fun j => termOk (cullTerm r.cull j) else r.cull == 0#128

/-- Checks 5 to 10 of a program: the status that it fails with, and OP. -/
def StageRec.check (r : StageRec) (want : Nat) : Option (Nat × Nat) :=
  let first (p : Nat → Bool) : Option Nat := (upTo r.nops).find? p
  if !r.kindOk want then some (5, 63)
  else match first fun k => !r.encOk ((r.words[k]?).getD 0#64) with
    | some k => some (6, k)
    | none =>
      if !r.fieldsOk then some (7, 63)
      else match first r.longAt with
        | some k => some (7, k)
        | none =>
          if !r.outputsOk then some (7, 63)
          else if !r.inputs.all (sourceOk r.kind) then some (8, 63)
          else match first fun k => !r.declared k with
            | some k => some (8, k)
            | none => match first r.impure with
              | some k => some (9, k)
              | none => if r.cullOk then none else some (10, 63)

/-! ### Runs (R306, R307, R312) -/

/-- What a run reads: the six sources of R309 as strips whose lane k is key k of the block, n, b and B_k, and σ of the
operands A and B. -/
structure StageEnv where
  raw : Strip
  score : Strip
  qpos : Strip
  kpos : Strip
  qseg : Strip
  kseg : Strip
  n : Nat
  b : Nat
  bk : Nat
  sigA : List W32
  sigB : List W32

/-- What a run gives, beside the registers. -/
structure StageOut where
  regs : List Strip
  kept : Strip
  score : Strip
  weight : Strip
  alphaA : W32
  alphaB : W32
  phi : W32
  delta : W32
  sigma : List W32

/-- Every lane of v0 to v15 holds zero bits, and every σ is +0. -/
def StageOut.start : StageOut := ⟨List.replicate 16 0, 0, 0, 0, 0, 0, 0, 0, List.replicate 8 0#32⟩

/-- A source of R309. -/
def StageEnv.source (e : StageEnv) (c : Nat) : Strip :=
  match c with
  | 1 => e.raw
  | 2 => e.score
  | 3 => e.qpos
  | 4 => e.kpos
  | 5 => e.qseg
  | _ => e.kseg

/-- The strip that an operand code reads. -/
def stageSrc (p : StageProg) (e : StageEnv) (o : StageOut) (w : OpWord) (code : Nat) : Strip :=
  if code < 16 then (o.regs[code]?).getD 0
  else if code < 24 then e.source ((p.inputs[code - 16]?).getD 0#8).toNat
  else if code = 27 then splat (immLane w.ty w.aux)
  else 0

/-- The first 64 lanes, twice: a rotation goes round 64 lanes in block mode. -/
def twice64 (v : Strip) : Strip := ofLanes ((lanes v).take 64 ++ (lanes v).take 64)

/-- The index of perm in block mode is bits [5:0] (R308). -/
def mask6 (v : Strip) : Strip := ofLanes ((lanes v).map fun x => x &&& 63#32)

/-- The strip that an operation writes. -/
def stageResult (p : StageProg) (e : StageEnv) (o : StageOut) (w : OpWord) : Strip :=
  let src := stageSrc p e o w
  match w.op with
  | 0xA0 => e.qpos
  | 0xA1 => e.kpos
  | 0xA2 => e.qseg
  | 0xA3 => e.kseg
  | 0xA4 => splat (w32 (if w.aux = 0 then e.n else if w.aux = 1 then e.b else e.b * e.bk))
  | 0xA5 => ofLanes ((upTo 64).map fun k => if p.block && decide (e.n ≤ k) then 0#32 else 1#32)
  | 0xAA => splat (((if bitsN w.aux 3 1 = 0 then e.sigA else e.sigB)[bitsN w.aux 0 3]?).getD 0#32)
  | _ =>
    let a := if w.op = 0x62 then twice64 (src w.a) else src w.a
    let b := if w.op = 0x61 then mask6 (src w.b) else src w.b
    (⟨w.op, w.ty, w.rnd, w.aux, a, b, src w.c, fun _ => ⟨0, .nan, none⟩, fun _ => 0⟩ : ElemIn).result

/-- One operation of a run. -/
def stageStep (p : StageProg) (e : StageEnv) (o : StageOut) (word : W64) : StageOut :=
  let w := opWord word
  let a := stageSrc p e o w w.a
  let a0 := lane a 0
  match w.op with
  | 0xA6 => { o with kept := a }
  | 0xA7 => { o with kept := ~~~a }
  | 0xA8 =>
    match w.aux with
    | 0 => { o with score := a }
    | 1 => { o with weight := a }
    | 2 => { o with alphaA := a0 }
    | 3 => { o with alphaB := a0 }
    | 4 => { o with phi := a0 }
    | _ => { o with delta := a0 }
  | 0xA9 => { o with sigma := o.sigma.set w.aux a0 }
  | _ => { o with regs := o.regs.set w.dst (stageResult p e o w) }

/-- A run of a program, or of one part of a blend program. -/
def StageProg.run (p : StageProg) (part : Nat) (e : StageEnv) : StageOut :=
  let ws := if p.kind = 2 then
      match part with
      | 0 => p.words.take p.wstart
      | 1 => (p.words.take p.mstart).drop p.wstart
      | 2 => (p.words.take p.fstart).drop p.mstart
      | _ => p.words.drop p.fstart
    else p.words
  ws.foldl (stageStep p e) StageOut.start

/-! ### Cull (R297, R319, R320) -/

/-- The bounding box of a query block and a key block. -/
structure Box where
  q : Nat × Nat
  k : Nat × Nat
  s : Nat × Nat
  t : Nat × Nat
  deriving DecidableEq, Repr

/-- Coefficient of a term: -1, 0 or +1. -/
def termCoef (t : W32) (lo : Nat) : Int := signedN 2 (fieldN t lo 2)

/-- hi and lo of an affine term. -/
def termHi (t : W32) (x : Box) : Int :=
  termCoef t 3 * (if 0 ≤ termCoef t 3 then x.q.2 else x.q.1) + termCoef t 5 * (if 0 ≤ termCoef t 5 then x.k.2 else x.k.1) +
    signedN 25 (fieldN t 7 25)

def termLo (t : W32) (x : Box) : Int :=
  termCoef t 3 * (if 0 ≤ termCoef t 3 then x.q.1 else x.q.2) + termCoef t 5 * (if 0 ≤ termCoef t 5 then x.k.1 else x.k.2) +
    signedN 25 (fieldN t 7 25)

/-- A term is false everywhere on the box; true everywhere. -/
def termNever (t : W32) (x : Box) : Bool :=
  match fieldN t 0 3 with
  | 1 => decide (termHi t x < 0)
  | 2 => decide (x.s.2 < x.t.1) || decide (x.t.2 < x.s.1)
  | _ => false

def termAlways (t : W32) (x : Box) : Bool :=
  match fieldN t 0 3 with
  | 1 => decide (0 ≤ termLo t x)
  | 2 => x.s.1 == x.s.2 && x.s.1 == x.t.1 && x.s.1 == x.t.2
  | _ => true

/-- No point of the box satisfies the clause, as cull tests it. -/
def cullNever (c : BitVec 128) (x : Box) : Bool := (upTo 4).any fun j => termNever (cullTerm c j) x

/-- Every point of the box satisfies the clause; an empty clause proves nothing (R297). -/
def cullAlways (c : BitVec 128) (x : Box) : Bool := c != 0#128 && (upTo 4).all fun j => termAlways (cullTerm c j) x

end Sys2Proof.Machine
end

