-- ==== Sys2Proof/Machine/Attention.lean ====
section
/-!
DEFINITION. The attention pipeline: abind and aunbind (R290 to R294), query assembly (R295), the key-block walk and cull
(R296, R297), score, mask and blend (R298 to R300, R315 to R317), the order of merges (R302) and resolve (R303).
-/

namespace Sys2Proof.Machine

/-! ### Reads and writes that do not wait (log entry 27) -/

/-- An access of the pipeline or of a token unit to the host or a peer ends at once, with a status that nothing fixes; with no
Zillas port up one to a peer does not go out, and ends with TIMEOUT (R438). What is sent counts for its owner, and what a read brings
(R432). -/
def State.outside (s : State) (i : Inst) (peer : Option Nat) (kind pa : Nat) (va : W64) (n : Nat) (l : List Byte) : Nat × State :=
  let st := Config.outsideStatus s.free
  let r : Remote := ⟨s.nextId, engineSerial i.serial, s.rootFn 16 i, peer, kind, pa, va, n, l, 0, 0, false, s.nsec, true, none, none⟩
  let s := { s with free := s.free + 1, nextId := s.nextId + 1 }
  match peer with
  | none => (if 1 ≤ st ∧ st ≤ 3 then st else 0, s)
  | some k =>
    if (s.portFor k).isNone then (1, s)
    else (if 1 ≤ st ∧ st ≤ 3 then st else 0, (s.zilSent i.owner k (if kind = 1 ∨ ¬(1 ≤ st ∧ st ≤ 3) then n else 0)).emitPacket r.id (r.packet s.sys.mpkg.toNat i.part i.owner))

/-- The error of an access that meets a source which sends nothing until its key switch completes (R417); no cause of a fault has this
number. DESIGN CHOICE: the walk step or row that meets it leaves the state as it was, and makes its accesses again (log entry 110). -/
def keyHeldErr : Nat × Nat := (0x100, 0)

/-- Reads n bytes of one page for the pipeline or a token unit, under a version. DESIGN CHOICE: an address of a token unit may lie
in a window, which R79 does not say of token units (log entry 103). -/
def State.nowRead (s : State) (i : Inst) (ver : Nat) (va : W64) (n : Nat) : Except (Nat × Nat) (List Byte) × State :=
  match s.engRead i ver va n with
  | (.bytes l, s) => (.ok l, s)
  | (.bad c b, s) => (.error (c, b), s)
  | (.hold, s) => (.error keyHeldErr, s)
  | (.away peer pa, s) =>
    let k := s.free
    match s.outside i peer 0 pa va n [] with
    | (0, s) => (.ok (if peer.isSome then (upTo n).map (Config.outsideByte k) else s.bytes (hostKey pa) n), s)
    | (st, s) => (.error (0x13, st), s)

/-- Writes bytes of one page for a token unit, under a version (log entry 103). -/
def State.nowWrite (s : State) (i : Inst) (ver : Nat) (va : W64) (l : List Byte) : Option (Nat × Nat) × State :=
  match s.engWrite i ver va l with
  | (.bytes _, s) => (none, s)
  | (.bad c b, s) => (some (c, b), s)
  | (.hold, s) => (some keyHeldErr, s)
  | (.away peer pa, s) =>
    match s.outside i peer 1 pa va l.length l with
    | (0, s) => (none, if peer.isSome then s else s.put (hostKey pa) l)
    | (st, s) => (some (0x13, st), s)

/-- Reads [va, va + n), unit by unit of 64 bytes (R94, R304). -/
def State.spanRead (s : State) (i : Inst) (ver : Nat) : Nat → W64 → Nat → Except (Nat × Nat) (List Byte) × State
  | 0, _, _ => (.ok [], s)
  | fuel + 1, va, n =>
    if n = 0 then (.ok [], s)
    else
      let k := min n (64 - va.toNat % 64)
      match s.nowRead i ver va k with
      | (.error e, s) => (.error e, s)
      | (.ok l, s) =>
        match s.spanRead i ver fuel (va + w64 k) (n - k) with
        | (.error e, s) => (.error e, s)
        | (.ok r, s) => (.ok (l ++ r), s)

/-- Writes bytes from va on, unit by unit of 64 bytes. -/
def State.spanWrite (s : State) (i : Inst) (ver : Nat) : Nat → W64 → List Byte → Option (Nat × Nat) × State
  | 0, _, _ => (none, s)
  | fuel + 1, va, l =>
    if l.isEmpty then (none, s)
    else
      let k := min l.length (64 - va.toNat % 64)
      match s.nowWrite i ver va (l.take k) with
      | (some e, s) => (some e, s)
      | (none, s) => s.spanWrite i ver fuel (va + w64 k) (l.drop k)

/-! ### The bind descriptor (R290) -/

/-- Fields of a bind descriptor. -/
def bdFolio (d : BitVec 512) : Nat := fieldN d 48 8
def bdQport (d : BitVec 512) : Nat := fieldN d 56 5
def bdOport (d : BitVec 512) : Nat := fieldN d 64 5
def bdRslot (d : BitVec 512) : Nat := fieldN d 72 7
def bdBq (d : BitVec 512) : Nat := 2 ^ (fieldN d 80 3 + 2)
def bdBk (d : BitVec 512) : Nat := 2 ^ (fieldN d 83 3 + 2)
def bdOrdered (d : BitVec 512) : Bool := bitAt d 86
def bdExact (d : BitVec 512) : Bool := bitAt d 87
def bdQfmt (d : BitVec 512) : Fmt := if bitAt d 88 then fp16 else bf16
def bdKv (d : BitVec 512) : Nat := fieldN d 89 2
def bdD (d : BitVec 512) : Nat := 4 * (fieldN d 91 6 + 1)
def bdDir (d : BitVec 512) : W64 := d.extractLsb' 128 64
def bdNseq (d : BitVec 512) : Nat := fieldN d 192 32

/-- Stage index of the score, mask or blend program; none for 0xFFFF. -/
def bdStage (d : BitVec 512) (k : Nat) : Option Nat :=
  let v := fieldN d (16 * k) 16
  if v = 0xFFFF then none else some v

/-- Check 2. -/
def bdOk (i : Inst) (d : BitVec 512) : Bool :=
  fieldN d 61 3 == 0 && fieldN d 69 3 == 0 && !bitAt d 79 && fieldN d 97 31 == 0 && fieldN d 224 288 == 0 &&
    decide (fieldN d 80 3 ≤ 4 ∧ fieldN d 83 3 ≤ 4) && (bdDir d).toNat % 64 == 0 && decide (1 ≤ bdNseq d ∧ bdNseq d ≤ 65536) &&
    (bdStage d 2).isSome && (upTo 3).all fun k => ((bdStage d k).map fun n => decide (n < fieldN i.header 176 16)).getD true

/-- A port of a folio on its north edge. -/
def Folio.north (f : Folio) (out : Bool) (j : Nat) : Bool := f.hasPort out j && (f.port j).edge == 0

/-- Check 3. -/
def bdPort (i : Inst) (d : BitVec 512) (f : Folio) : Bool :=
  f.north true (bdQport d) && f.north false (bdOport d) && i.chains.contains (bdFolio d, bdQport d, bdFolio d, bdOport d) &&
    legalSlot i.region f.shape (bdRslot d) &&
    match i.region[bdRslot d]? with
    | some (q, b) => decide (b ≤ 1) && i.region.contains (q, 0) && i.region.contains (q, 1)
    | none => false

/-- A placed folio configures a borrowed tile of quire q (R12). -/
def Resident.borrows (r : Resident) (q : Nat) : Bool :=
  r.q == q && r.tiles.any fun p => (tileX r.base p.1, tileY r.base p.2) == (2, 0) || (tileX r.base p.1, tileY r.base p.2) == (4, 0)

/-- The result word of abind and aunbind. -/
def bindResult (status prog op : Nat) : W64 := w64 (status + prog * 2 ^ 8 + op * 2 ^ 16)

/-- Bind state of the instance's new binding: it takes the tiles, evicts, and stands on the chain (R292). -/
def State.bindTo (s : State) (i : Inst) (q : Nat) (b : Binding) : State :=
  let s := (s.residents.filter fun r => r.borrows q && !r.pinned).foldl State.evicted s
  let a : Attn := ⟨q, i.serial, b, bdFolio b.desc, bdQport b.desc, bdOport b.desc, [], none, [], [], false, false, false⟩
  ({ s with attns := s.attns ++ [a] } : State).modInst i.serial fun i => { i with bindings := i.bindings ++ [b] }

/-- The first program that fails checks 5 to 10: status, program, OP. -/
def bindCheck (rs : List (Nat × StageRec)) : Option (Nat × Nat × Nat) :=
  rs.findSome? fun r => (r.2.check r.1).map fun c => (c.1, r.1, c.2)

/-- The stage records that a descriptor names. -/
def State.bindStages (s : State) (i : Inst) (d : BitVec 512) : Except DevErr (List (Nat × StageRec)) :=
  (upTo 3).foldl (fun acc k => match acc, bdStage d k with
    | .ok l, some n => (s.stage i n).map fun r => l ++ [(k, r)]
    | acc, _ => acc) (.ok [])

/-- What the device's reads of the image for `abind` do beside, up to the first that fails (R386, R408, R420): the folio, and then the
stage records if check 5 is reached. -/
def State.bindTouch (s : State) (i : Inst) (d : BitVec 512) (stages : Bool) : State :=
  let t := s.folioTouch i.device i.image i.header (bdFolio d)
  if stages then
    ((upTo 3).foldl (fun (acc : Bool × State) k => match acc.1, bdStage d k with
      | true, some n => ((s.stage i n).toBool, acc.2.stageTouch i n)
      | _, _ => acc) (true, t)).2
  else t

/-- `abind`. What the image's reads do beside is done whatever the answer. What the image's reads fail with is a precise trap at the address that failed (log entry 30). -/
def abindBody (d : BitVec 5) (a : W64) (s : State) : Ans Flow :=
  (s.loadDesc a).bind fun desc s =>
    match s.me with
    | none => .ok .next (s.wr d (bindResult 4 3 63))
    | some i =>
      let answer (st prog op : Nat) : Ans Flow := .ok .next (s.wr d (bindResult st prog op))
      let read (stages : Bool) : State := s.bindTouch i desc stages
      if i.active then answer 2 3 63
      else if !bdOk i desc then answer 3 3 63
      else if i.nfolio ≤ bdFolio desc then answer 4 3 63
      else match s.folio i (bdFolio desc) with
        | .error e => .trap (trapAt e.cause e.sub e.va) (read false)
        | .ok f =>
          if !bdPort i desc f then .ok .next ((read false).wr d (bindResult 4 3 63))
          else
            let q := ((i.region[bdRslot desc]?).map Prod.fst).getD 0
            if (s.attns.any fun x => x.q == q) || s.residents.any fun r => r.borrows q && r.pinned then
              .ok .next ((read false).wr d (bindResult 1 3 63))
            else match s.bindStages i desc with
              | .error e => .trap (trapAt e.cause e.sub e.va) (read true)
              | .ok rs =>
                match bindCheck rs with
                | some (st, prog, op) => .ok .next ((read true).wr d (bindResult st prog op))
                | none =>
                  let prog (k : Nat) : Option StageProg := (rs.find? fun r => r.1 == k).map fun r => r.2.prog
                  match prog 2 with
                  | none => answer 3 3 63
                  | some blend =>
                    .ok .next (((read true).bindTo i q ⟨bdRslot desc, desc, prog 0, prog 1, blend⟩).wr d (bindResult 0 3 63))

/-- R290. -/
def execAbind (d a : BitVec 5) (g : BitVec 3) (s : State) : Host.Outcome State Fault Refusal :=
  runWord s false 0 [d, a] g fun s => abindBody d (s.rd a) s

/-- A binding ends (R293): the pin of its folio, its pipeline and what that holds go; the borrowed tiles hold nothing. -/
def State.unbind (s : State) (serial rslot : Nat) : State :=
  let folios := (((s.inst? serial).map Inst.bindings).getD []).filter fun b => b.rslot == rslot
  let bound (r : Resident) : Bool := r.serial == serial && folios.any fun b => bdFolio b.desc == r.folio
  ({ s with attns := s.attns.filter fun a => !(a.serial == serial && a.bind.rslot == rslot),
            residents := updWhere bound (fun r => { r with pinned := false }) s.residents } : State).modInst serial fun i =>
    { i with bindings := i.bindings.filter fun b => b.rslot != rslot }

/-- `aunbind`. -/
def aunbindBody (d : BitVec 5) (a : W64) (s : State) : Ans Flow :=
  match s.me with
  | none => .ok .next (s.wr d (bindResult 11 3 63))
  | some i =>
    if i.active then .ok .next (s.wr d (bindResult 2 3 63))
    else if fieldN a 7 57 ≠ 0 then .ok .next (s.wr d (bindResult 3 3 63))
    else if !i.bindings.any fun b => b.rslot == fieldN a 0 7 then .ok .next (s.wr d (bindResult 11 3 63))
    else .ok .next ((s.unbind i.serial (fieldN a 0 7)).wr d (bindResult 0 3 63))

/-- R293. -/
def execAunbind (d a : BitVec 5) (g : BitVec 3) (s : State) : Host.Outcome State Fault Refusal :=
  runWord s false 0 [d, a] g fun s => aunbindBody d (s.rd a) s

/-! ### Queries (R295) -/

def Query.qpos (q : Query) : Nat := fieldN q.head 0 32
def Query.seq (q : Query) : Nat := fieldN q.head 32 32
def Query.qseg (q : Query) : Nat := fieldN q.head 64 16
def Query.flush (q : Query) : Bool := bitAt q.head 96

/-- The value of a query at a head index, in QFMT. -/
def Query.value (q : Query) (d : BitVec 512) (j : Nat) : Fp := (bdQfmt d).decode (stripVal (q.strip.getD 0) 16 j)

/-- The pipeline of a quire goes through `f`. -/
def State.modAttn (s : State) (q : Nat) (f : Attn → Attn) : State := { s with attns := updWhere (fun a => a.q == q) f s.attns }

def State.attn? (s : State) (q : Nat) : Option Attn := s.attns.find? fun a => a.q == q

/-- The pipeline of a quire while it works: once a cut marker has entered it, it has abandoned its queries and takes no more
(R305). -/
def State.working (s : State) (q : Nat) : Option Attn := (s.attn? q).filter fun a => !a.cut

/-- The smallest and the largest of a list. -/
def span (l : List Nat) : Nat × Nat := (l.foldl Nat.min (l.headD 0), l.foldl Nat.max 0)

/-- Queries taken and not yet resolved. -/
def Attn.held (a : Attn) : Nat := a.head.toList.length + a.opened.length + (a.blocks.map fun b => b.queries.length).sum

/-- The open block closes. -/
def Attn.close (a : Attn) : Attn :=
  if a.opened.isEmpty then a
  else
    let b : QBlock := ⟨a.opened, none, 0, none, [], a.opened.map fun _ => ⟨[], [], false⟩, span (a.opened.map Query.qpos), span (a.opened.map Query.qseg)⟩
    { a with opened := [], blocks := a.blocks ++ [b] }

/-- A query joins the open block. -/
def Attn.add (a : Attn) (q : Query) : Attn :=
  let a := if a.opened.any fun o => o.seq != q.seq then a.close else a
  let a := { a with opened := a.opened ++ [q] }
  if q.flush || decide (bdBq a.bind.desc ≤ a.opened.length) then a.close else a

/-- Query assembly takes a token. `none`: it is full. -/
def Attn.take (a : Attn) (t : Token) : Option Attn :=
  match t, a.head with
  | .data v, none => if 256 ≤ a.held then none else some { a with head := some v }
  | .data v, some h => some ({ a with head := none }.add ⟨h, some v⟩)
  | .eos, none => some { a.close with eosIn := true }
  | .eos, some h => some { ({ a with head := none }.add ⟨h, none⟩).close with eosIn := true }
  | _, _ => some a

/-- One token of QPORT enters query assembly. -/
def State.queryAssembly (s : State) (q : Nat) : State :=
  match s.working q with
  | none => s
  | some a =>
    match a.inq with
    | [] => s
    | t :: l => match a.take t with
      | none => s
      | some b => s.modAttn q fun _ => { b with inq := l }

/-- R295. -/
def execQueryAssembly (q : Nat) (s : State) : Host.Outcome State Fault Refusal := .next (s.queryAssembly q)

/-! ### The key-block walk and cull (R296, R297) -/

/-- Bytes of a value and scale bytes of a row, and the row size. -/
def kvBytes (kv : Nat) : Nat := if kv ≤ 1 then 2 else 1
def kvScales (d : BitVec 512) : Nat := if bdKv d = 3 then (bdD d + 31) / 32 else 0
def rowBytes (d : BitVec 512) : Nat := 64 * ((kvBytes (bdKv d) * bdD d + kvScales d + 63) / 64)

/-- Value j of a row. -/
def rowValue (d : BitVec 512) (row : List Byte) (j : Nat) : Fp :=
  let e := kvBytes (bdKv d)
  let v := bytesNat ((row.drop (e * j)).take e)
  match bdKv d with
  | 0 => fp16.decode v
  | 1 => bf16.decode v
  | 2 => e4m3.decode v
  | _ => (e4m3.decode v).mul (scaleVal ((row[bdD d + j / 32]?).getD 0#8).toNat)

/-- Key blocks of a sequence. -/
def QBlock.count (b : QBlock) (d : BitVec 512) : Nat := ((b.entry.map SeqEntry.len).getD 0 + bdBk d - 1) / bdBk d

/-- The whole sequence has been walked, or an error has ended the walk. -/
def QBlock.walked (b : QBlock) (d : BitVec 512) : Bool := b.err.isSome || (b.entry.isSome && decide (b.count d ≤ b.next))

/-- Rows [t, t + n) of a page from an offset on. -/
def State.rows (s : State) (i : Inst) (ver size : Nat) (page : W64) : Nat → Nat → Except (Nat × Nat) (List (List Byte)) × State
  | _, 0 => (.ok [], s)
  | t, n + 1 =>
    match s.spanRead i ver 16 (page + w64 (size * t)) size with
    | (.error e, s) => (.error e, s)
    | (.ok l, s) =>
      match s.rows i ver size page (t + 1) n with
      | (.error e, s) => (.error e, s)
      | (.ok r, s) => (.ok (l :: r), s)

/-- The directory entry of a query block is read once. -/
def State.readEntry (s : State) (i : Inst) (d : BitVec 512) (b : QBlock) : QBlock × State :=
  let seq := ((b.queries.head?).map Query.seq).getD 0
  if bdNseq d ≤ seq then ({ b with err := some (0x06, 0x11) }, s)
  else
    match s.spanRead i 0 2 (bdDir d + w64 (32 * seq)) 32 with
    | (.error e, s) => ({ b with err := some e }, s)
    | (.ok l, s) =>
      let v := bytesNat l
      let e : SeqEntry := ⟨w64 v, bitsN v 64 32, bitsN v 96 32, w64 (v / 2 ^ 128)⟩
      (if e.pages.toNat % 8 ≠ 0 then { b with err := some (0x03, 0) } else { b with entry := some e }, s)

/-- Segment ids of n keys from key k on. -/
def State.segments (s : State) (i : Inst) (kseg : W64) (k n : Nat) : Except (Nat × Nat) (List Nat) × State :=
  if kseg = 0#64 then (.ok (List.replicate n 0), s)
  else match s.spanRead i 0 4 (kseg + w64 (2 * k)) (2 * n) with
    | (.error e, s) => (.error e, s)
    | (.ok l, s) => (.ok ((upTo n).map fun j => bytesNat ((l.drop (2 * j)).take 2)), s)

/-- Key block `b.next`: its verdict, and its rows if it is not removed. -/
def State.walkBlock (s : State) (i : Inst) (a : Attn) (b : QBlock) (e : SeqEntry) (remove prove : Bool) : QBlock × State :=
  let d := a.bind.desc
  let bk := bdBk d
  let k0 := b.next * bk
  let n := min bk (e.len - k0)
  match s.segments i e.kseg k0 n with
  | (.error x, s) => ({ b with err := some x }, s)
  | (.ok ss, s) =>
    let box : Box := ⟨b.qpos, (k0, k0 + n - 1), b.qseg, span ss⟩
    let c := (a.bind.mask.map StageProg.cull).getD 0
    if remove && cullNever c box then
      ({ b with next := b.next + 1, blocks := b.blocks ++ [⟨b.next, n, [], [], ss, true, false, none, none⟩] }, s)
    else
      match s.spanRead i 0 2 (e.pages + w64 (8 * (k0 / 64))) 8 with
      | (.error x, s) => ({ b with err := some x }, s)
      | (.ok l, s) =>
        let page := w64 (bytesNat l)
        if page.toNat % 4096 ≠ 0 then ({ b with err := some (0x03, 0) }, s)
        else
          match s.rows i e.ver (rowBytes d) page (k0 % 64) n with
          | (.error x, s) => ({ b with err := some x }, s)
          | (.ok ks, s) =>
            match s.rows i e.ver (rowBytes d) page (64 + k0 % 64) n with
            | (.error x, s) => ({ b with err := some x }, s)
            | (.ok vs, s) =>
              ({ b with next := b.next + 1,
                        blocks := b.blocks ++ [⟨b.next, n, ks, vs, ss, false, prove && bdExact d && cullAlways c box, none, none⟩] }, s)

/-- One step of the walk: the entry of the oldest query block that is not walked, or its next key block. -/
def State.keyBlockWalk (s : State) (q : Nat) (remove prove : Bool) : State :=
  match s.working q with
  | none => s
  | some a =>
    match s.inst? a.serial, a.blocks.findIdx? fun b => !b.walked a.bind.desc with
    | some i, some k =>
      match a.blocks[k]? with
      | none => s
      | some b =>
        let r := match b.entry with
          | none => s.readEntry i a.bind.desc b
          | some e => s.walkBlock i a b e remove prove
        if r.1.err = some keyHeldErr then s else r.2.modAttn q fun a => { a with blocks := a.blocks.set k r.1 }
    | _, _ => s

/-- R296. `remove`, `prove`: whether the pipeline removes or proves a block where R297 allows it (R301). -/
def execKeyBlockWalk (q : Nat) (remove prove : Bool) (s : State) : Host.Outcome State Fault Refusal :=
  .next (s.keyBlockWalk q remove prove)

/-! ### Score and mask (R298, R315, R316) -/

/-- -∞ in FP32. -/
def negInf : W32 := 0xFF800000#32

/-- A 64-lane register from n lanes, the rest at one value. -/
def pad64 (l : List W32) (rest : W32) : Strip := ofLanes (l.take 64 ++ List.replicate (64 - l.length) rest)

/-- A dot product in groups of 4, each rounded, then added in order (R298). -/
def dot4 : Nat → List Fp → List Fp → W32 → W32
  | 0, _, _, acc => acc
  | n + 1, x, y, acc =>
    let g := roundF32 0 (exactSum ((x.take 4).zipWith Fp.mul (y.take 4)))
    dot4 n (x.drop 4) (y.drop 4) (roundF32 0 ((f32Val acc).add 0 (f32Val g)))

/-- The raw score of a pair: head indices padded with +0 to 256. -/
def rawScore (d : BitVec 512) (q : Query) (key : List Byte) : W32 :=
  let z := List.replicate (256 - bdD d) (Fp.fin false Mag.zero)
  dot4 64 ((upTo (bdD d)).map (q.value d) ++ z) ((upTo (bdD d)).map (rowValue d key) ++ z) 0#32

/-- What programs read for a query and a key block. -/
def blockEnv (d : BitVec 512) (q : Query) (k : KeyBlock) (raw score : List W32) : StageEnv :=
  ⟨pad64 raw negInf, pad64 score negInf, splat (w32 q.qpos), pad64 ((upTo k.n).map fun j => w32 (k.b * bdBk d + j)) 0#32,
    splat (w32 q.qseg), pad64 (k.ksegs.map w32) 0#32, k.n, k.b, bdBk d, [], []⟩

/-- What programs read where no key block is. -/
def queryEnv (q : Query) (sa sb : List W32) : StageEnv := ⟨0, 0, splat (w32 q.qpos), 0, splat (w32 q.qseg), 0, 0, 0, 0, sa, sb⟩

/-- The first n lanes. -/
def lanesOf (v : Strip) (n : Nat) : List W32 := (upTo n).map (lane v)

/-- Scores of one query and a key block. -/
def Attn.scoreRow (a : Attn) (q : Query) (k : KeyBlock) : List W32 :=
  if q.strip.isNone then []
  else
    let raw := k.keys.map (rawScore a.bind.desc q)
    match a.bind.score with
    | none => raw
    | some p => lanesOf (p.run 0 (blockEnv a.bind.desc q k raw [])).score k.n

/-- The score engine on a key block: without a mask to run, every pair is kept. -/
def Attn.scoreBlock (a : Attn) (b : QBlock) (k : KeyBlock) : KeyBlock :=
  { k with scores := some (b.queries.map fun q => a.scoreRow q k),
           kept := if k.proven || a.bind.mask.isNone then some (b.queries.map fun _ => List.replicate k.n true) else none }

/-- Keep bits of one query and a key block. -/
def Attn.maskRow (a : Attn) (p : StageProg) (q : Query) (k : KeyBlock) (score : List W32) : List Bool :=
  (lanesOf (p.run 0 (blockEnv a.bind.desc q k [] score)).kept k.n).map fun v => bitAt v 0

def Attn.maskBlock (a : Attn) (b : QBlock) (k : KeyBlock) : KeyBlock :=
  match a.bind.mask, k.scores with
  | some p, some rows => { k with kept := some ((b.queries.zip rows).map fun r => a.maskRow p r.1 k r.2) }
  | _, _ => k

/-- Key block b of the oldest query block that has one for which `p` holds goes through `f`. -/
def Attn.onBlock (a : Attn) (b : Nat) (p : KeyBlock → Bool) (f : QBlock → KeyBlock → KeyBlock) : Option Attn :=
  match a.blocks.findIdx? fun x => x.err.isNone && x.blocks.any fun k => k.b == b && p k with
  | none => none
  | some n => some { a with blocks := updAt a.blocks n fun x =>
      { x with blocks := updWhere (fun k => k.b == b && p k) (f x) x.blocks } }

/-- FIRE meter of a KVFMT (R420). -/
def kvMeter (kv : Nat) : Nat :=
  match kv with
  | 0 => 2
  | 1 => 1
  | 2 => 3
  | _ => 5

/-- R298. -/
def execScoreStage (q b : Nat) (s : State) : Host.Outcome State Fault Refusal :=
  match s.working q with
  | none => .next s
  | some a => match a.onBlock b (fun k => !k.removed && k.scores.isNone) a.scoreBlock with
    | none => .next s
    | some a' =>
      let s := s.modAttn q fun _ => a'
      .next (match s.inst? a.serial with
        | some i => s.meter i.owner (kvMeter (bdKv a.bind.desc)) 1
        | none => s)

/-- R316. -/
def execMaskStage (q b : Nat) (s : State) : Host.Outcome State Fault Refusal :=
  match s.working q with
  | none => .next s
  | some a => match a.onBlock b (fun k => !k.removed && k.scores.isSome && k.kept.isNone) a.maskBlock with
    | none => .next s
    | some a' => .next (s.modAttn q fun _ => a')

/-! ### Blend (R299, R300, R302, R317) -/

/-- The query block and the place in it of the n-th query that is not resolved. -/
def findQuery : List QBlock → Nat → Option (Nat × Nat)
  | [], _ => none
  | b :: l, n => if n < b.queries.length then some (0, n) else (findQuery l (n - b.queries.length)).map fun p => (p.1 + 1, p.2)

/-- A component of a leaf: kept pairs in ascending key index, one rounding per step. -/
def valueSum (d : BitVec 512) (j : Nat) (l : List (W32 × List Byte)) : W32 :=
  l.foldl (fun acc p => roundF32 0 ((f32Val acc).add 0 ((f32Val p.1).mul (rowValue d p.2 j)))) 0#32

/-- Scores and keep bits of query n of a block at a key block. -/
def KeyBlock.row (k : KeyBlock) (n : Nat) : List W32 × List Bool :=
  ((k.scores.bind fun l => l[n]?).getD [], (k.kept.bind fun l => l[n]?).getD [])

/-- The block survives for query n: it keeps a pair of it. -/
def KeyBlock.survives (k : KeyBlock) (n : Nat) : Bool := !k.removed && (k.row n).2.any id

/-- The leaf of a query and a key block. -/
def Attn.leaf (a : Attn) (q : Query) (k : KeyBlock) (n : Nat) : Partial :=
  let (scores, kept) := k.row n
  let d := a.bind.desc
  let sc := (scores.zip kept).map fun p => if p.2 then p.1 else negInf
  let r := a.bind.blend.run 1 (blockEnv d q k [] sc)
  let ws := ((lanesOf r.weight k.n).zip k.vals).zip kept |>.filterMap fun p => if p.2 then some p.1 else none
  ⟨r.sigma, (upTo (bdD d)).map fun j => valueSum d j ws⟩

/-- The identity state. -/
def Attn.identity (a : Attn) (q : Query) : Partial :=
  ⟨(a.bind.blend.run 0 (queryEnv q [] [])).sigma, List.replicate (bdD a.bind.desc) 0#32⟩

/-- Merge(A, B). -/
def Attn.merge (a : Attn) (q : Query) (x y : Partial) : Partial :=
  let r := a.bind.blend.run 2 (queryEnv q x.sigma y.sigma)
  ⟨r.sigma, (x.o.zip y.o).map fun p =>
    roundF32 0 (((f32Val r.alphaA).mul (f32Val p.1)).add 0 ((f32Val r.alphaB).mul (f32Val p.2)))⟩

/-- The work on query n of block k goes through `f`. -/
def Attn.modWork (a : Attn) (k n : Nat) (f : QueryWork → QueryWork) : Attn :=
  { a with blocks := updAt a.blocks k fun b => { b with work := updAt b.work n f } }

/-- The weight part and the leaf of an unresolved query at key block b, once. -/
def Attn.weigh (a : Attn) (query b : Nat) : Option Attn := do
  let (k, n) ← findQuery a.blocks query
  let qb ← a.blocks[k]?
  let q ← qb.queries[n]?
  let w ← qb.work[n]?
  let kb ← qb.blocks.find? fun x => x.b == b
  if q.strip.isNone || qb.err.isSome || w.weighed.contains b || kb.kept.isNone || !kb.survives n then none
  else some (a.modWork k n fun w => { w with parts := w.parts ++ [(b + 1, a.leaf q kb n)], weighed := w.weighed ++ [b] })

/-- R299. -/
def execBlendWeight (q query b : Nat) (s : State) : Host.Outcome State Fault Refusal :=
  match (s.working q).bind fun a => a.weigh query b with
  | some a => .next (s.modAttn q fun _ => a)
  | none => .next s

/-- Key blocks below b have nothing left to merge for query n: removed, not surviving, or their leaf formed. -/
def QBlock.below (qb : QBlock) (w : QueryWork) (n b : Nat) : Bool :=
  (upTo b).all fun j => match qb.blocks.find? fun k => k.b == j with
    | some k => k.removed || (k.kept.isSome && !k.survives n) || w.weighed.contains j
    | none => false

/-- Ordered mode: the next leaf for S, the lowest, once nothing below it is still to come (R302). -/
def QBlock.nextLeaf (qb : QBlock) (w : QueryWork) (n : Nat) : Option (Nat × Partial) :=
  match sortBy (fun x y : Nat × Partial => decide (x.1 ≤ y.1)) (w.parts.filter fun p => p.1 != 0) with
  | p :: _ => if qb.below w n (p.1 - 1) then some p else none
  | [] => none

/-- One merge of an unresolved query. Ordered mode: S with the next leaf. Free mode: the states at the places `ia` and
`ib`; a place past the end is an identity state (R302). -/
def Attn.mergeStep (a : Attn) (query ia ib : Nat) : Option Attn := do
  let (k, n) ← findQuery a.blocks query
  let qb ← a.blocks[k]?
  let q ← qb.queries[n]?
  let w ← qb.work[n]?
  if q.strip.isNone || qb.err.isSome then none
  else if bdOrdered a.bind.desc then
    let p ← qb.nextLeaf w n
    let x := ((w.parts.find? fun r => r.1 == 0).map Prod.snd).getD (a.identity q)
    some (a.modWork k n fun w => { w with parts := (0, a.merge q x p.2) :: w.parts.filter fun r => r.1 != 0 && r.1 != p.1 })
  else if ia = ib ∧ ia < w.parts.length then none
  else
    let at0 (i : Nat) : Partial := ((w.parts[i]?).map Prod.snd).getD (a.identity q)
    let rest := w.parts.zipIdx.filterMap fun r => if r.2 = ia ∨ r.2 = ib then none else some r.1
    some (a.modWork k n fun w => { w with parts := rest ++ [(0, a.merge q (at0 ia) (at0 ib))] })

/-- R300. -/
def execBlendMerge (q query ia ib : Nat) (s : State) : Host.Outcome State Fault Refusal :=
  match (s.working q).bind fun a => a.mergeStep query ia ib with
  | some a => .next (s.modAttn q fun _ => a)
  | none => .next s

/-! ### Resolve (R295, R300, R303) -/

/-- The exact quotient under R65. -/
def Fp.quot (a b : Fp) : Fp :=
  match a, b with
  | .nan, _ => .nan
  | _, .nan => .nan
  | .inf _, .inf _ => .nan
  | .inf s, .fin t _ => .inf (s != t)
  | .fin s _, .inf t => .fin (s != t) Mag.zero
  | .fin s x, .fin t y =>
    if y.n = 0 then (if x.n = 0 then .nan else .inf (s != t)) else .fin (s != t) (x.div y)

/-- Finalize: the output values. -/
def Attn.outputs (a : Attn) (q : Query) (p : Partial) : List W32 :=
  let r := a.bind.blend.run 3 (queryEnv q p.sigma [])
  p.o.map fun o => roundF32 0 (((f32Val r.phi).mul (f32Val o)).quot (f32Val r.delta))

/-- The output tokens of a query: head, then value strips. -/
def Attn.tokens (a : Attn) (q : Query) (status sub merged culled proven : Nat) (vs : List W32) : List Token :=
  let head := ofLanes [w32 q.qpos, w32 q.seq, w32 q.qseg, w32 (status + sub * 2 ^ 8), w32 merged, w32 culled, w32 proven]
  .data head :: (upTo ((bdD a.bind.desc + 127) / 128)).map fun k => .data (ofLanes ((vs.drop (128 * k)).take 128))

/-- The final state of query n of a walked block, once every surviving leaf is in it; without one, the identity (R302). -/
def QBlock.final (qb : QBlock) (a : Attn) (w : QueryWork) (n : Nat) (q : Query) : Option Partial :=
  if (qb.blocks.all fun k => k.removed || (k.kept.isSome && (!k.survives n || w.weighed.contains k.b))) then
    if w.weighed.isEmpty then some (a.identity q)
    else match w.parts with
    | [p] => if bdOrdered a.bind.desc ∧ p.1 ≠ 0 then none else some p.2
    | _ => none
  else none

/-- What the oldest unresolved query delivers, if it is ready: its result, or for an error, of its own or of its block, a head
with +0 values (R303, R322); that head holds the counts reached (log entry 29). -/
def Attn.ready (a : Attn) : Option (List Token) := do
  let qb ← a.blocks.head?
  let q ← qb.queries.head?
  let w ← qb.work.head?
  let head (status sub : Nat) (vs : List W32) : List Token :=
    a.tokens q status sub w.weighed.length (qb.blocks.filter KeyBlock.removed).length (qb.blocks.filter KeyBlock.proven).length vs
  if q.strip.isNone then some (head 0x06 0x12 [])
  else if w.ecc then some (head 0x12 0x03 [])
  else match qb.err with
    | some (c, b) => some (head c b [])
    | none => if qb.walked a.bind.desc then (qb.final a w 0 q).map fun p => head 0 0 (a.outputs q p) else none

/-- The first row of the scores or keep bits goes with its query. -/
def KeyBlock.dropRow (k : KeyBlock) : KeyBlock :=
  { k with scores := k.scores.map (List.drop 1), kept := k.kept.map (List.drop 1) }

/-- The oldest query is resolved. -/
def Attn.dropQuery (a : Attn) : Attn :=
  match a.blocks with
  | [] => a
  | b :: l =>
    if b.queries.length ≤ 1 then { a with blocks := l }
    else { a with blocks := { b with queries := b.queries.drop 1, work := b.work.drop 1, blocks := b.blocks.map KeyBlock.dropRow } :: l }

/-- Room for n tokens in an entry port. -/
def State.portRoomFor (s : State) (serial folio port n : Nat) : Bool :=
  ((s.port? serial folio port).map fun p => decide (p.q.length + n ≤ s.portCap serial)).getD false

/-- The oldest query's output goes to OPORT, its tokens together; after EOS and the last query, EOS. -/
def State.resolveStep (s : State) (q : Nat) : State :=
  match s.working q with
  | none => s
  | some a =>
    if a.eosIn && !a.eosSent && a.held == 0 then
      if s.portRoom a.serial a.folio a.oport then
        (s.portPut a.serial a.folio a.oport .eos).modAttn q fun a => { a with eosSent := true }
      else s
    else match a.ready with
      | none => s
      | some ts =>
        if s.portRoomFor a.serial a.folio a.oport ts.length then
          (ts.foldl (fun s t => s.portPut a.serial a.folio a.oport t) s).modAttn q Attn.dropQuery
        else s

/-- R303. -/
def execResolve (q : Nat) (s : State) : Host.Outcome State Fault Refusal := .next (s.resolveStep q)

end Sys2Proof.Machine
end

