-- ==== Sys2Proof/Machine/Control.lean ====
section
/-!
DEFINITION. The control-thread words that compute, compare, branch, load and store (R162 to R178, R140).
-/

namespace Sys2Proof.Machine

/-! ### Register arithmetic (R165 to R169) -/

/-- R165: xd receives xa + xb. -/
def execAdd (d a b : BitVec 5) (g : BitVec 3) (s : State) : Host.Outcome State Fault Refusal :=
  runPlain s [d, a, b] g fun s => s.modCtx fun c => c.wr d (c.rd a + c.rd b)

/-- R165: xd receives xa - xb. -/
def execSub (d a b : BitVec 5) (g : BitVec 3) (s : State) : Host.Outcome State Fault Refusal :=
  runPlain s [d, a, b] g fun s => s.modCtx fun c => c.wr d (c.rd a - c.rd b)

/-- R165: xd receives the low 64 bits of xa · xb. -/
def execMul (d a b : BitVec 5) (g : BitVec 3) (s : State) : Host.Outcome State Fault Refusal :=
  runPlain s [d, a, b] g fun s => s.modCtx fun c => c.wr d (c.rd a * c.rd b)

/-- R165: xd receives the high 64 bits of the signed product. -/
def execMulh (d a b : BitVec 5) (g : BitVec 3) (s : State) : Host.Outcome State Fault Refusal :=
  runPlain s [d, a, b] g fun s => s.modCtx fun c => c.wr d (mulHigh (c.rd a) (c.rd b))

/-- R165: xd receives the high 64 bits of the unsigned product. -/
def execMulhu (d a b : BitVec 5) (g : BitVec 3) (s : State) : Host.Outcome State Fault Refusal :=
  runPlain s [d, a, b] g fun s => s.modCtx fun c => c.wr d (mulHighU (c.rd a) (c.rd b))

/-- R165: xd receives the signed quotient. -/
def execDiv (d a b : BitVec 5) (g : BitVec 3) (s : State) : Host.Outcome State Fault Refusal :=
  runPlain s [d, a, b] g fun s => s.modCtx fun c => c.wr d (divS (c.rd a) (c.rd b))

/-- R165: xd receives the unsigned quotient. -/
def execDivu (d a b : BitVec 5) (g : BitVec 3) (s : State) : Host.Outcome State Fault Refusal :=
  runPlain s [d, a, b] g fun s => s.modCtx fun c => c.wr d (divU (c.rd a) (c.rd b))

/-- R165: xd receives the signed remainder. -/
def execRem (d a b : BitVec 5) (g : BitVec 3) (s : State) : Host.Outcome State Fault Refusal :=
  runPlain s [d, a, b] g fun s => s.modCtx fun c => c.wr d (remS (c.rd a) (c.rd b))

/-- R165: xd receives the unsigned remainder. -/
def execRemu (d a b : BitVec 5) (g : BitVec 3) (s : State) : Host.Outcome State Fault Refusal :=
  runPlain s [d, a, b] g fun s => s.modCtx fun c => c.wr d (remU (c.rd a) (c.rd b))

/-- R165: xd receives xa and xb. -/
def execAnd (d a b : BitVec 5) (g : BitVec 3) (s : State) : Host.Outcome State Fault Refusal :=
  runPlain s [d, a, b] g fun s => s.modCtx fun c => c.wr d (c.rd a &&& c.rd b)

/-- R165: xd receives xa or xb. -/
def execOr (d a b : BitVec 5) (g : BitVec 3) (s : State) : Host.Outcome State Fault Refusal :=
  runPlain s [d, a, b] g fun s => s.modCtx fun c => c.wr d (c.rd a ||| c.rd b)

/-- R165: xd receives xa xor xb. -/
def execXor (d a b : BitVec 5) (g : BitVec 3) (s : State) : Host.Outcome State Fault Refusal :=
  runPlain s [d, a, b] g fun s => s.modCtx fun c => c.wr d (c.rd a ^^^ c.rd b)

/-- R165: xd receives xa shifted left by xb[5:0]. -/
def execShl (d a b : BitVec 5) (g : BitVec 3) (s : State) : Host.Outcome State Fault Refusal :=
  runPlain s [d, a, b] g fun s => s.modCtx fun c => c.wr d (c.rd a <<< shiftOf (c.rd b))

/-- R165: xd receives xa shifted right by xb[5:0], filling with 0. -/
def execShr (d a b : BitVec 5) (g : BitVec 3) (s : State) : Host.Outcome State Fault Refusal :=
  runPlain s [d, a, b] g fun s => s.modCtx fun c => c.wr d (c.rd a >>> shiftOf (c.rd b))

/-- R165: xd receives xa shifted right by xb[5:0], copying bit 63. -/
def execSra (d a b : BitVec 5) (g : BitVec 3) (s : State) : Host.Outcome State Fault Refusal :=
  runPlain s [d, a, b] g fun s => s.modCtx fun c => c.wr d ((c.rd a).sshiftRight (shiftOf (c.rd b)))

/-- R165: xd receives the smaller, signed. -/
def execMin (d a b : BitVec 5) (g : BitVec 3) (s : State) : Host.Outcome State Fault Refusal :=
  runPlain s [d, a, b] g fun s => s.modCtx fun c => c.wr d (if (c.rd a).sle (c.rd b) then c.rd a else c.rd b)

/-- R165: xd receives the larger, signed. -/
def execMax (d a b : BitVec 5) (g : BitVec 3) (s : State) : Host.Outcome State Fault Refusal :=
  runPlain s [d, a, b] g fun s => s.modCtx fun c => c.wr d (if (c.rd a).sle (c.rd b) then c.rd b else c.rd a)

/-- R165: xd receives the smaller, unsigned. -/
def execMinu (d a b : BitVec 5) (g : BitVec 3) (s : State) : Host.Outcome State Fault Refusal :=
  runPlain s [d, a, b] g fun s => s.modCtx fun c => c.wr d (if (c.rd a).ule (c.rd b) then c.rd a else c.rd b)

/-- R165: xd receives the larger, unsigned. -/
def execMaxu (d a b : BitVec 5) (g : BitVec 3) (s : State) : Host.Outcome State Fault Refusal :=
  runPlain s [d, a, b] g fun s => s.modCtx fun c => c.wr d (if (c.rd a).ule (c.rd b) then c.rd b else c.rd a)

/-- R166: xd receives xa plus the extended immediate. -/
def execAddi (d a : BitVec 5) (imm : BitVec 13) (g : BitVec 3) (s : State) : Host.Outcome State Fault Refusal :=
  runPlain s [d, a] g fun s => s.modCtx fun c => c.wr d (c.rd a + imm.signExtend 64)

/-- R166: xd receives xa and the extended immediate. -/
def execAndi (d a : BitVec 5) (imm : BitVec 13) (g : BitVec 3) (s : State) : Host.Outcome State Fault Refusal :=
  runPlain s [d, a] g fun s => s.modCtx fun c => c.wr d (c.rd a &&& imm.signExtend 64)

/-- R166: xd receives xa or the extended immediate. -/
def execOri (d a : BitVec 5) (imm : BitVec 13) (g : BitVec 3) (s : State) : Host.Outcome State Fault Refusal :=
  runPlain s [d, a] g fun s => s.modCtx fun c => c.wr d (c.rd a ||| imm.signExtend 64)

/-- R166: xd receives xa xor the extended immediate. -/
def execXori (d a : BitVec 5) (imm : BitVec 13) (g : BitVec 3) (s : State) : Host.Outcome State Fault Refusal :=
  runPlain s [d, a] g fun s => s.modCtx fun c => c.wr d (c.rd a ^^^ imm.signExtend 64)

/-- R167: xa shifted left by the immediate amount. -/
def execShli (d a : BitVec 5) (amt : BitVec 6) (g : BitVec 3) (s : State) : Host.Outcome State Fault Refusal :=
  runPlain s [d, a] g fun s => s.modCtx fun c => c.wr d (c.rd a <<< amt.toNat)

/-- R167: xa shifted right, filling with 0 by the immediate amount. -/
def execShri (d a : BitVec 5) (amt : BitVec 6) (g : BitVec 3) (s : State) : Host.Outcome State Fault Refusal :=
  runPlain s [d, a] g fun s => s.modCtx fun c => c.wr d (c.rd a >>> amt.toNat)

/-- R167: xa shifted right, copying bit 63 by the immediate amount. -/
def execSrai (d a : BitVec 5) (amt : BitVec 6) (g : BitVec 3) (s : State) : Host.Outcome State Fault Refusal :=
  runPlain s [d, a] g fun s => s.modCtx fun c => c.wr d ((c.rd a).sshiftRight amt.toNat)

/-- R168: xd := sext(imm18, 18). -/
def execMovi (d : BitVec 5) (imm : BitVec 18) (g : BitVec 3) (s : State) : Host.Outcome State Fault Refusal :=
  runPlain s [d] g fun s => s.modCtx fun c => c.wr d (imm.signExtend 64)

/-- R169: a 16-bit chunk into position q of xd. -/
def execMovhi (d : BitVec 5) (q : BitVec 2) (v : BitVec 16) (g : BitVec 3) (s : State) : Host.Outcome State Fault Refusal :=
  runPlain s [d] g fun s => s.modCtx fun c =>
    c.wr d ((c.rd d &&& ~~~(0xFFFF#64 <<< (16 * q.toNat))) ||| (v.setWidth 64 <<< (16 * q.toNat)))

/-! ### Compares, predicates and selection (R170 to R172) -/

/-- R170: pd receives whether the condition holds of xa and the immediate, sign-extended. -/
def execCmpi (p : BitVec 3) (a : BitVec 5) (c : BitVec 3) (imm : BitVec 10) (g : BitVec 3) (s : State) : Host.Outcome State Fault Refusal :=
  runPlain s [a] g fun s => s.modCtx fun x => x.pw p (condHolds c (x.rd a) (imm.signExtend 64))

/-- R170: pd receives whether the condition holds of xa and xb. -/
def execCmp (p : BitVec 3) (a b : BitVec 5) (c : BitVec 3) (g : BitVec 3) (s : State) : Host.Outcome State Fault Refusal :=
  runPlain s [a, b] g fun s => s.modCtx fun x => x.pw p (condHolds c (x.rd a) (x.rd b))

/-- R171: pd receives pa and pb. -/
def execPand (d a b : BitVec 3) (g : BitVec 3) (s : State) : Host.Outcome State Fault Refusal :=
  runPlain s [] g fun s => s.modCtx fun c => c.pw d (c.pr a && c.pr b)

/-- R171: pd receives pa or pb. -/
def execPor (d a b : BitVec 3) (g : BitVec 3) (s : State) : Host.Outcome State Fault Refusal :=
  runPlain s [] g fun s => s.modCtx fun c => c.pw d (c.pr a || c.pr b)

/-- R171: pd receives pa xor pb. -/
def execPxor (d a b : BitVec 3) (g : BitVec 3) (s : State) : Host.Outcome State Fault Refusal :=
  runPlain s [] g fun s => s.modCtx fun c => c.pw d ((c.pr a).xor (c.pr b))

/-- R171: pd receives not pa. -/
def execPnot (d a : BitVec 3) (g : BitVec 3) (s : State) : Host.Outcome State Fault Refusal :=
  runPlain s [] g fun s => s.modCtx fun c => c.pw d (!c.pr a)

/-- R172: xd receives xa if p[ps] = 1, xb otherwise. -/
def execSel (d a b : BitVec 5) (ps : BitVec 3) (g : BitVec 3) (s : State) : Host.Outcome State Fault Refusal :=
  runPlain s [d, a, b] g fun s => s.modCtx fun c => c.wr d (if c.pr ps then c.rd a else c.rd b)

/-! ### Branches, calls and returns (R173 to R175) -/

/-- A BR word: where it goes when taken (R138, R173). -/
def branchBody (p neg : Bool) (d : BitVec 22) (s : State) : Ans Flow :=
  .ok (if taken p neg then .to (branchTarget s.pc d) else .next) s

/-- A call writes ln only when taken (R174). -/
def callBody (p neg : Bool) (d : BitVec 22) (s : State) : Ans Flow :=
  if taken p neg then .ok (.to (branchTarget s.pc d)) (s.wr 31#5 (s.pc + 4#64)) else .ok .next s

/-- A jump to a target that must be a multiple of 4 (R175). -/
def jumpBody (a : W64) (s : State) : Ans Flow :=
  if a &&& 3#64 = 0#64 then .ok (.to a) s else .trap (trapAt 0x03 0 a) s

/-- R173: an unconditional branch. -/
def execBr (d : BitVec 22) (s : State) : Host.Outcome State Fault Refusal :=
  runWord s false 0 [] 0#3 fun s => branchBody true false d s

/-- R173: a branch taken when ps is 1. -/
def execBrT (p : BitVec 3) (d : BitVec 22) (s : State) : Host.Outcome State Fault Refusal :=
  runWord s false 0 [] 0#3 fun s => branchBody (s.pr p) false d s

/-- R173: a branch taken when ps is 0; `br.f p0` is never taken. -/
def execBrF (p : BitVec 3) (d : BitVec 22) (s : State) : Host.Outcome State Fault Refusal :=
  runWord s false 0 [] 0#3 fun s => branchBody (s.pr p) true d s

/-- R174: an unconditional call. ln must be allocated. -/
def execCall (d : BitVec 22) (s : State) : Host.Outcome State Fault Refusal :=
  runWord s false 0 [31#5] 0#3 fun s => callBody true false d s

/-- R174: a call taken when ps is 1. -/
def execCallT (p : BitVec 3) (d : BitVec 22) (s : State) : Host.Outcome State Fault Refusal :=
  runWord s false 0 [31#5] 0#3 fun s => callBody (s.pr p) false d s

/-- R174: a call taken when ps is 0. -/
def execCallF (p : BitVec 3) (d : BitVec 22) (s : State) : Host.Outcome State Fault Refusal :=
  runWord s false 0 [31#5] 0#3 fun s => callBody (s.pr p) true d s

/-- R175: a jump to xa. -/
def execJr (a : BitVec 5) (g : BitVec 3) (s : State) : Host.Outcome State Fault Refusal :=
  runWord s false 0 [a] g fun s => jumpBody (s.rd a) s

/-- R175: a jump to ln. -/
def execRet (g : BitVec 3) (s : State) : Host.Outcome State Fault Refusal :=
  runWord s false 0 [31#5] g fun s => jumpBody (s.rd 31#5) s

/-! ### Loads, stores and address formation (R176 to R178) -/

/-- R176: a load of 2^sz bytes, widened. -/
def execLd (d a : BitVec 5) (off : BitVec 10) (sx : BitVec 1) (z : BitVec 2) (g : BitVec 3) (s : State) : Host.Outcome State Fault Refusal :=
  runWord s false 0 [d, a] g fun s =>
    (s.load (loadEA (s.rd a) off z) (accessBytes z)).bind fun v s => .ok .next (s.wr d (widen sx (accessBytes z) v))

/-- R177: a store of the low 2^sz bytes of xs. -/
def execSt (src a : BitVec 5) (off : BitVec 11) (z : BitVec 2) (g : BitVec 3) (s : State) : Host.Outcome State Fault Refusal :=
  runWord s false 0 [src, a] g fun s =>
    (s.store (storeEA (s.rd a) off z) (accessBytes z) (s.rd src).toNat).bind fun _ s => .ok .next s

/-- R178: the effective address, unchecked. -/
def execLea (d a : BitVec 5) (off : BitVec 11) (z : BitVec 2) (g : BitVec 3) (s : State) : Host.Outcome State Fault Refusal :=
  runPlain s [d, a] g fun s => s.modCtx fun c => c.wr d (storeEA (c.rd a) off z)

/-! ### What is no instruction (R139, R140) -/

/-- R140 step 1: a word that is no instruction traps ILL, whatever its bits hold. -/
def execIllegalWord (_w : BitVec 32) (s : State) : Host.Outcome State Fault Refusal :=
  runWord s true 0 [] 0#3 fun s => .ok .next s

end Sys2Proof.Machine
end

