-- ==== Sys2Proof/Machine/Weights.lean ====
section
/-!
DEFINITION. What a token unit computes (R330 to R337, R343): the logit processor, exact weights, the kept set, draws, the
generator, laps and the stop-string matcher.
-/

namespace Sys2Proof.Machine

/-! ### Processing (R330) -/

/-- Largest finite binary32. -/
def f32Max : W32 := 0x7F7FFFFF#32

/-- Bit t of a bitmap. -/
def bitOf (l : List Byte) (t : Nat) : Bool := bitAt ((l[t / 8]?).getD 0#8) (t % 8)

/-- The values of a logit row, widened (R324: LFMT 0 BF16, 1 FP16, 2 FP32). -/
def logitBits (lfmt : Nat) : Nat := if lfmt = 2 then 32 else 16
def logitFmt (lfmt : Nat) : Fmt := if lfmt = 0 then bf16 else if lfmt = 1 then fp16 else fp32

/-- Strips of a logit row. -/
def rowStrips (v lfmt : Nat) : Nat := (v * logitBits lfmt + 4095) / 4096

/-- Cuts bytes into numbers of n bytes. -/
def chunks (n : Nat) : Nat → List Byte → List Nat
  | 0, _ => []
  | k + 1, l => bytesNat (l.take n) :: chunks n k (l.drop n)

def widenRow (v lfmt : Nat) (l : List Byte) : List W32 :=
  (chunks (logitBits lfmt / 8) v l).map fun x =>
    if lfmt = 2 then w32 x else roundF32 0 ((logitFmt lfmt).decode x)

/-- What the processor takes of a record beside the row: bias entries, history and banned bitmaps, PEN, TEMP. -/
structure Proc where
  bias : List (Nat × W32)
  hist : List Byte
  ban : Option (List Byte)
  pen : Fp
  temp : Fp

/-- TEMP is ±0. -/
def Fp.isZero (x : Fp) : Bool :=
  match x with
  | .fin _ m => m.n == 0
  | _ => false

/-- The steps of R330 after the bias, for one token. -/
def procOne (p : Proc) (allowed : Bool) (t : Nat) (x : W32) : W32 :=
  let v := f32Val x
  let x := if bitOf p.hist t then
      (if (Fp.fin false Mag.zero).lt v then roundF32 0 (v.quot p.pen) else roundF32 0 (v.mul p.pen))
    else x
  let x := if (p.ban.map fun b => bitOf b t).getD false then negInf else x
  let x := if p.temp.isZero then x else roundF32 0 ((f32Val x).quot p.temp)
  let x := if allowed then x else negInf
  let x := if (f32Val x).isNan then negInf else x
  if x = 0x7F800000#32 then f32Max else x

/-- The logit processor. -/
def process (p : Proc) (allowed : Nat → Bool) (row : List W32) : List W32 :=
  let biased := p.bias.foldl (fun l e => updAt l e.1 fun x => roundF32 0 ((f32Val x).add 0 (f32Val e.2))) row
  biased.mapIdx fun t x => procOne p (allowed t) t x

/-! ### Weights (R331) -/

/-- floor(ln 2 · 2^256). -/
def ln2 : Nat := 80260960185991308862233904206310070533990667611589946606122867505419956976171

/-- The series of the exponential in units of 2^-256: the sum of x^k / k! from k on, `term` being x^k / k!. -/
def expSum (x : Nat) : Nat → Nat → Nat → Nat
  | 0, _, term => term
  | n + 1, k, term => term + expSum x n (k + 1) (term * x / ((k + 1) * 2 ^ 256))

/-- E(f) in units of 2^-23, for f = num / 2^bits: 2^f rounded to nearest. No 2^f of a dyadic f between 0 and 1 is a tie
(log entry 31). -/
def expFrac (num bits : Nat) : Nat :=
  if num = 0 then 2 ^ 23
  else (expSum (num * ln2 / 2 ^ bits) 70 0 (2 ^ 256) + 2 ^ 232) / 2 ^ 233

/-- floor(y) and the fraction above it, as a number over a power of two, of a finite y. -/
def floorFrac (y : W32) : Int × Nat × Nat :=
  match f32Val y with
  | .fin neg m =>
    let b := (-m.e).toNat
    let v := m.n * pow2 m.e
    let q := v / 2 ^ b
    let r := v % 2 ^ b
    if neg then (if r = 0 then (-(q : Int), 0, b) else (-(q : Int) - 1, 2 ^ b - r, b)) else (q, r, b)
  | _ => (0, 0, 0)

/-- y of a token. -/
def yOf (log2 : Bool) (x : W32) : W32 :=
  let y := if log2 then x else roundF32 0 ((f32Val x).mul (f32Val 0x3FB8AA3B#32))
  if y = 0x7F800000#32 then f32Max else y

/-- Weights in units of 2^-215. -/
def weights (ys : List W32) : List Nat :=
  let fin := ys.filter fun y => y != negInf
  match fin with
  | [] => ys.map fun _ => 0
  | y0 :: l =>
    let ref := l.foldl (fun m y => max m (floorFrac y).1) (floorFrac y0).1
    ys.map fun y =>
      if y = negInf then 0
      else
        let (f, num, b) := floorFrac y
        if f < ref - 192 then 0 else expFrac num b * pow2 (f - ref + 192)

/-! ### The kept set (R332) and laps (R334, R351) -/

/-- A row worked out: y and weight of every token, the tokens of nonzero weight by y and token, the kept set, and the laps
that it takes. -/
structure Dist where
  ys : List W32
  w : List Nat
  order : List Nat
  kept : List Nat
  laps : Nat

/-- The weight of a token in the kept set, 0 outside it. -/
def Dist.at (d : Dist) (t : Nat) : Nat := if d.kept.contains t then (d.w[t]?).getD 0 else 0

/-- The sum over the kept set. -/
def Dist.total (d : Dist) : Nat := (d.kept.map fun t => (d.w[t]?).getD 0).sum

/-- A magnitude of at most 1 as a fraction of integers: min(TOPP, 1). -/
def massLimit (topp : W32) : Nat × Nat :=
  match f32Val topp with
  | .fin false m => if (Mag.dyadic 1 0).le m then (1, 1) else (m.n * pow2 m.e, 2 ^ (-m.e).toNat)
  | _ => (1, 1)

/-- The shortest prefix whose weight reaches the limit. -/
def prefixTo (w : Nat → Nat) (num den goal : Nat) : List Nat → Nat → List Nat
  | [], _ => []
  | t :: l, acc =>
    let acc := acc + w t
    if num * goal ≤ acc * den then [t] else t :: prefixTo w num den goal l acc

/-- The monotone key. -/
def monoKey (y : W32) : W32 := if bitAt y 31 then ~~~y else y ^^^ 0x80000000#32

/-- Laps of a row that is neither greedy nor empty: a refinement for each bin of more than 4,096 members. -/
def lapsOf (ys : List W32) (order : List Nat) (last : Nat) : Nat :=
  let key (t : Nat) : Nat := (monoKey ((ys[t]?).getD negInf)).toNat
  let share (b : Nat) : Nat := (order.filter fun t => key t / 2 ^ b == key last / 2 ^ b).length
  if share 20 ≤ 4096 then 2 else if share 8 ≤ 4096 then 3 else 4

/-- A processed row. A greedy row keeps t_1 alone (R333; log entry 33). -/
def distOf (log2 : Bool) (topk : Nat) (topp : W32) (greedy : Bool) (xs : List W32) : Dist :=
  let ys := xs.map (yOf log2)
  let w := weights ys
  let wt (t : Nat) : Nat := (w[t]?).getD 0
  let y (t : Nat) : Fp := f32Val ((ys[t]?).getD negInf)
  let order := sortBy (fun a b => (y b).lt (y a) || (!(y a).lt (y b) && decide (a ≤ b)))
    ((upTo xs.length).filter fun t => wt t != 0)
  let top := if topk = 0 then order else order.take topk
  let (num, den) := massLimit topp
  let kept := if greedy then order.take 1 else prefixTo wt num den ((top.map wt).sum) top 0
  let laps := if greedy || order.isEmpty then 1 else lapsOf ys order (kept.getLast?.getD 0)
  ⟨ys, w, order, kept, laps⟩

/-! ### Draws (R333, R335, R336) -/

/-- Rotation of a word left. -/
def rotl (v : W32) (n : Nat) : W32 := v.rotateLeft n

/-- One round of Gen. -/
def genRound (k : W32) (r : Nat) (s : W32 × W32 × W32 × W32) : W32 × W32 × W32 × W32 :=
  let (a, b, c, d) := s
  let a := a + b + k + w32 r
  let d := rotl (d ^^^ a) 12
  let c := c + d
  let b := rotl (b ^^^ c) 20
  (a, b, c, d)

/-- Gen of R335, whose outputs are not those that R337 lists (log entry 32). -/
def gen (key : W64) (stream : W32) (pos draw lane : Nat) : W32 :=
  let k0 := key.extractLsb' 0 32
  let k1 := key.extractLsb' 32 32
  let s := (upTo 8).foldl (fun s r => genRound (if r % 2 = 0 then k0 else k1) r s)
    (stream, w32 pos, w32 (draw * 2 ^ 16) ||| w32 lane, 0x52413920#32)
  s.2.1 ^^^ s.2.2.2

/-- u in units of 2^-24. -/
def uOf (key : W64) (stream : W32) (pos draw lane : Nat) : Nat := (gen key stream pos draw lane).toNat / 2 ^ 8

/-- The least token whose running weight exceeds u · Z; the list rises in token number. -/
def drawFrom (u z : Nat) : List (Nat × Nat) → Nat → Option Nat
  | [], _ => none
  | (t, w) :: l, acc => if u * z < (acc + w) * 2 ^ 24 then some t else drawFrom u z l (acc + w)

/-- The kept tokens with their weights, in vocabulary order. -/
def Dist.inOrder (d : Dist) : List (Nat × Nat) :=
  (sortBy (fun a b => decide (a ≤ b)) d.kept).map fun t => (t, (d.w[t]?).getD 0)

/-! ### Stop strings (R343) -/

/-- The new matched length of one string. -/
def matchLen (s : List Byte) (m : Nat) (v : Byte) : Nat :=
  let cand := s.take m ++ [v]
  ((upTo (min (m + 1) s.length + 1)).filter fun n => cand.drop (cand.length - n) == s.take n).foldl max 0

/-- The bytes of a token from offset k on: the match lengths after it, and the string and offset of a completion. -/
def matchBytes (ss : List (List Byte)) : List Nat → Nat → List Byte → List Nat × Option (Nat × Nat)
  | ms, _, [] => (ms, none)
  | ms, k, v :: l =>
    let ms := (ss.zip ms).map fun p => if p.1.isEmpty then p.2 else matchLen p.1 p.2 v
    match (ss.zip ms).findIdx? fun p => !p.1.isEmpty && p.2 == p.1.length with
    | some s => (ms.map fun _ => 0, some (s, k))
    | none => matchBytes ss ms (k + 1) l

end Sys2Proof.Machine
end

