-- ==== Sys2Proof/Machine/TokenUnits.lean ====
section
/-!
DEFINITION. Token units: requests (R323 to R325, R350), rows (R326 to R329), laps (R334, R351), the grammar engine (R338
to R340), accept (R341), commit (R342), and the words samp, gram, accept and commit.
-/

namespace Sys2Proof.Machine

/-! ### Reads and writes of a row -/

/-- A step of a row: it reads, writes and runs laps, or stops with a cause and a subcause (R326). Beside the state stands the
number of the laps that the row has run. -/
abbrev RowM := ExceptT (Nat × Nat) (StateM (State × Nat))

/-- Stops the row. -/
def stopRow {α : Type} (cause sub : Nat) : RowM α := throw (cause, sub)

/-- Reads bytes. -/
def rowBytes8 (i : Inst) (va : W64) (n : Nat) : RowM (List Byte) :=
  ExceptT.mk fun s =>
    let r := s.1.spanRead i 0 (n / 64 + 2) va n
    (r.1, r.2, s.2)

/-- Reads a number. -/
def rowNum (i : Inst) (va : W64) (n : Nat) : RowM Nat := do return bytesNat (← rowBytes8 i va n)

/-- Writes bytes. -/
def rowPut (i : Inst) (va : W64) (l : List Byte) : RowM Unit :=
  ExceptT.mk fun s => match s.1.spanWrite i 0 (l.length / 64 + 2) va l with
    | (none, t) => (.ok (), t, s.2)
    | (some e, t) => (.error e, t, s.2)

/-- Runs laps: each counts, whatever the row comes to (R351). -/
def ranLaps (n : Nat) : RowM Unit := modify fun s => (s.1, s.2 + n)

/-- Writes a number. -/
def rowPutNum (i : Inst) (va : W64) (n v : Nat) : RowM Unit := rowPut i va (natBytes n v)

/-! ### The token descriptor (R324, R325) -/

def Request.field (r : Request) (lo len : Nat) : Nat := fieldN r.desc lo len
def Request.seqtab (r : Request) : W64 := r.desc.extractLsb' 0 64
def Request.tsrc (r : Request) : W64 := r.desc.extractLsb' 64 64
def Request.dsrc (r : Request) : W64 := r.desc.extractLsb' 128 64
def Request.drafts (r : Request) : W64 := r.desc.extractLsb' 192 64
def Request.out (r : Request) : W64 := r.desc.extractLsb' 256 64
def Request.crows (r : Request) : W64 := r.desc.extractLsb' 320 64
def Request.nb (r : Request) : Nat := r.field 384 8 + 1
def Request.vocab (r : Request) : Nat := r.field 392 18 + 1
def Request.lfmt (r : Request) : Nat := r.field 410 2
def Request.log2 (r : Request) : Bool := bitAt r.desc 412
def Request.tunit (r : Request) : Nat := r.field 413 3
def Request.stride (r : Request) : Nat := r.field 448 32

/-- The descriptor breaks no rule of R324 and R325; STRIDE binds samp and accept only (R350). -/
def Request.tokenOk (r : Request) : Bool :=
  r.field 430 18 == 0 && r.field 480 32 == 0 && r.lfmt != 3 && r.seqtab.toNat % 8 == 0 && r.out.toNat % 16 == 0 &&
    r.crows.toNat % 64 == 0 &&
    (if r.member = 7 ∨ r.member = 9 then
      r.tsrc.toNat % 512 == 0 && r.stride % 512 == 0 && decide (rowStrips r.vocab r.lfmt * 512 ≤ r.stride) &&
        (if r.member = 7 then r.dsrc == 0#64 && r.drafts == 0#64 else r.dsrc.toNat % 512 == 0 && r.drafts.toNat % 64 == 0)
    else
      r.tsrc.toNat % 64 == 0 && r.stride == 0 && r.lfmt == 0 && !r.log2 && r.dsrc == 0#64 && r.drafts == 0#64 && r.crows == 0#64)

/-! ### Sequence records (R328) -/

/-- A sequence record as its row has read it. -/
abbrev SeqRec := BitVec 2048

namespace SeqRec

def key (r : SeqRec) : W64 := r.extractLsb' 0 64
def stream (r : SeqRec) : W32 := r.extractLsb' 64 32
def rngpos (r : SeqRec) : Nat := fieldN r 96 32
def temp (r : SeqRec) : W32 := r.extractLsb' 128 32
def topp (r : SeqRec) : W32 := r.extractLsb' 160 32
def pen (r : SeqRec) : W32 := r.extractLsb' 192 32
def topk (r : SeqRec) : Nat := fieldN r 224 18
def eosid (r : SeqRec) : Nat := fieldN r 256 18
def eosv (r : SeqRec) : Bool := bitAt r 274
def stop (r : SeqRec) : Nat := fieldN r 280 8
def nbias (r : SeqRec) : Nat := fieldN r 288 13
def lens (r : SeqRec) : List Nat := (upTo 4).map fun s => fieldN r (320 + 8 * s) 8
def bias (r : SeqRec) : W64 := r.extractLsb' 384 64
def hist (r : SeqRec) : W64 := r.extractLsb' 448 64
def ban (r : SeqRec) : W64 := r.extractLsb' 512 64
def vtab (r : SeqRec) : W64 := r.extractLsb' 576 64
def vpool (r : SeqRec) : W64 := r.extractLsb' 640 64
def gram (r : SeqRec) : W64 := r.extractLsb' 704 64
def gstate (r : SeqRec) : Nat := fieldN r 768 16
def gdepth (r : SeqRec) : Nat := fieldN r 784 9
def gstk (r : SeqRec) : W64 := r.extractLsb' 800 64
def stops (r : SeqRec) : W64 := r.extractLsb' 864 64
def dirent (r : SeqRec) : W64 := r.extractLsb' 928 64
def kvcap (r : SeqRec) : Nat := fieldN r 992 32
def nout (r : SeqRec) : Nat := fieldN r 1024 32
def outcap (r : SeqRec) : Nat := fieldN r 1056 32
def outbuf (r : SeqRec) : W64 := r.extractLsb' 1088 64
def greedy (r : SeqRec) : Bool := (f32Val r.temp).isZero

/-- Above 0, and finite or infinite. -/
def above0 (v : W32) : Bool := (Fp.fin false Mag.zero).lt (f32Val v)

/-- The checks of R328 on a record that is not stopped. NBIAS above 4,096 is no number of bias entries. -/
def paramsOk (r : SeqRec) : Bool :=
  (r.greedy || (above0 r.temp && r.temp != 0x7F800000#32)) && above0 r.pen && r.pen != 0x7F800000#32 && above0 r.topp &&
    fieldN r 242 14 == 0 && fieldN r 275 5 == 0 && fieldN r 301 19 == 0 && fieldN r 793 7 == 0 && fieldN r 1152 896 == 0

end SeqRec

/-- Reads a record. -/
def readRec (i : Inst) (va : W64) : RowM SeqRec := do
  if va.toNat % 256 ≠ 0 then stopRow 0x03 0
  else return BitVec.ofNat 2048 (← rowNum i va 256)

/-- A token row (R324): its tokens. -/
def readTokens (i : Inst) (va : W64) : RowM (List Nat) := do
  let l ← rowBytes8 i va 64
  let n := ((l[0]?).getD 0#8).toNat
  if 15 < n ∨ bytesNat ((l.drop 1).take 3) ≠ 0 then stopRow 0x16 0x01
  else return chunks 4 n (l.drop 4)

/-- The bytes of a token row with these tokens. -/
def tokenRow (ts : List Nat) : List Byte :=
  natBytes 4 ts.length ++ ts.flatMap (natBytes 4) ++ List.replicate (60 - 4 * ts.length) 0#8

/-! ### The grammar engine (R338, R339) -/

/-- A grammar context's header. -/
structure Gram where
  nst : Nat
  start : Nat
  mrow : Nat
  masks : W64
  deps : W64
  delta : W64
  deriving DecidableEq, Repr

/-- A grammar state and its stack, the bottom first. -/
structure GState where
  q : Nat
  stack : List Byte
  deriving DecidableEq, Repr

/-- Reads the context of a record; none with GRAM = 0. -/
def readGram (i : Inst) (r : SeqRec) (v : Nat) : RowM (Option Gram) := do
  if r.gram = 0#64 then return none
  else
    let h : BitVec 512 := BitVec.ofNat 512 (← rowNum i r.gram 64)
    let g : Gram := ⟨fieldN h 0 16, fieldN h 16 16, fieldN h 32 32, h.extractLsb' 64 64, h.extractLsb' 128 64, h.extractLsb' 192 64⟩
    if g.nst = 0 ∨ g.nst ≤ g.start ∨ g.mrow % 64 ≠ 0 ∨ g.mrow * 8 < v ∨ fieldN h 256 256 ≠ 0 ∨ g.nst ≤ r.gstate then stopRow 0x16 0x02
    else return some g

/-- The stored state and stack. -/
def readStack (i : Inst) (r : SeqRec) : RowM GState := do
  let n := min r.gdepth 256
  return ⟨r.gstate, ← if n = 0 then pure [] else rowBytes8 i r.gstk n⟩

/-- Walk: none when it fails. -/
def walkBytes (i : Inst) (g : Gram) : List Byte → GState → RowM (Option GState)
  | [], s => return some s
  | v :: l, s => do
    let e ← rowNum i (g.delta + w64 (4 * (256 * s.q + v.toNat))) 4
    let sym : Byte := BitVec.ofNat 8 (bitsN e 16 8)
    let next := bitsN e 0 16
    let go (st : List Byte) : RowM (Option GState) :=
      if g.nst ≤ next then stopRow 0x16 0x02 else walkBytes i g l ⟨next, st⟩
    match bitsN e 24 2 with
    | 0 => return none
    | 1 => go s.stack
    | 2 => if 256 ≤ s.stack.length then return none else go (s.stack ++ [sym])
    | _ => if s.stack.getLast? = some sym then go s.stack.dropLast else return none

/-- The bytes of a token (R328: VOCAB, VPOOL). -/
def tokenBytes (i : Inst) (r : SeqRec) (t : Nat) : RowM (List Byte) := do
  let e ← rowNum i (r.vtab + w64 (8 * t)) 8
  let n := bitsN e 40 8
  if n = 0 then return [] else rowBytes8 i (r.vpool + w64 (bitsN e 0 40)) n

/-- Walks a token. -/
def walkToken (i : Inst) (r : SeqRec) (g : Gram) (t : Nat) (s : GState) : RowM (Option GState) := do
  let l ← tokenBytes i r t
  if l.isEmpty ∧ s.stack ≠ [] then return none else walkBytes i g l s

/-- Rows of MASKS and DEPS for a state. -/
def readMasks (i : Inst) (g : Option Gram) (q v : Nat) : RowM (List Byte × List Byte) := do
  match g with
  | none => return ([], [])
  | some g =>
    let n := (v + 7) / 8
    return (← rowBytes8 i (g.masks + w64 (g.mrow * q)) n, ← rowBytes8 i (g.deps + w64 (g.mrow * q)) n)

/-! ### Rows of logits (R330 to R333) -/

/-- What a row of logits is made of: its values, the processor's inputs, and the masks of its grammar state. -/
structure LogitRow where
  xs : List W32
  proc : Proc
  gram : Bool
  masks : List Byte
  deps : List Byte

/-- The bias list of a record (R328): every member checks it. -/
def readBias (i : Inst) (r : SeqRec) : RowM (List (Nat × W32)) := do
  if 4096 < r.nbias then stopRow 0x16 0x01
  else
    let es := chunks 8 r.nbias (← if r.nbias = 0 then pure [] else rowBytes8 i r.bias (8 * r.nbias))
    if es.any fun e => bitsN e 18 14 != 0 then stopRow 0x16 0x01
    else return es.map fun e => (bitsN e 0 18, w32 (bitsN e 32 32))

/-- The processor's inputs of a record. -/
def readProc (i : Inst) (r : SeqRec) (bias : List (Nat × W32)) (v : Nat) : RowM Proc := do
  let hist ← rowBytes8 i r.hist ((v + 7) / 8)
  let ban ← if r.ban = 0#64 then pure none else some <$> rowBytes8 i r.ban ((v + 7) / 8)
  return ⟨bias, hist, ban, f32Val r.pen, f32Val r.temp⟩

/-- Reads a row at an address for a grammar state. -/
def readLogits (i : Inst) (q : Request) (p : Proc) (g : Option Gram) (va : W64) (state : Nat) : RowM LogitRow := do
  let l ← rowBytes8 i va (rowStrips q.vocab q.lfmt * 512)
  let (m, d) ← readMasks i g state q.vocab
  return ⟨widenRow q.vocab q.lfmt l, p, g.isSome, m, d⟩

/-- The row worked out, with tokens that the grammar has refused at -∞. -/
def LogitRow.dist (l : LogitRow) (q : Request) (r : SeqRec) (refused : List Nat) : Dist :=
  distOf q.log2 r.topk r.topp r.greedy
    ((process l.proc (fun t => !l.gram || bitOf l.masks t || bitOf l.deps t) l.xs).mapIdx fun t x =>
      if refused.contains t then negInf else x)

/-- The token's walk decides whether it stands (R339). -/
def LogitRow.unsure (l : LogitRow) (t : Nat) : Bool := l.gram && bitOf l.deps t && !bitOf l.masks t

/-- How the draw of a token ends: the token or a STOP code; draws. -/
structure Drawn where
  token : Option Nat
  stop : Nat
  draws : Nat
  deriving DecidableEq, Repr

/-- The weights that a draw is made from, in vocabulary order, for a target row worked out. -/
abbrev Mix := Dist → List (Nat × Nat)

/-- Draws from a row, again after each refusal of the grammar; the first argument bounds the refusals by the vocabulary. -/
def drawToken (i : Inst) (q : Request) (r : SeqRec) (g : Option Gram) (gs : GState) (l : LogitRow) (mix : Option Mix) (slot lane : Nat) :
    Nat → Nat → List Nat → Drawn → RowM Drawn
  | 0, _, _, a => return { a with stop := 7 }
  | fuel + 1, n, refused, a => do
    let d := l.dist q r refused
    ranLaps d.laps
    let ws := match mix with
      | some f => f d
      | none => d.inOrder
    if d.order.isEmpty then return { a with stop := 7 }
    else
      let pick : RowM (Option Nat × Drawn) :=
        if r.greedy then return ((ws.head?).map Prod.fst, a)
        else if 0xFFFFFFFF ≤ r.rngpos + slot then return (none, { a with stop := 5 })
        else if 65536 ≤ n then return (none, { a with stop := 6 })
        else return (drawFrom (uOf r.key r.stream (r.rngpos + slot) n lane) (ws.map Prod.snd).sum ws 0, { a with draws := a.draws + 1 })
      let (t, a) ← pick
      match t, g with
      | some t, some gr =>
        if l.unsure t then
          match ← walkToken i r gr t gs with
          | some _ => return { a with token := some t }
          | none => drawToken i q r g gs l mix slot lane fuel (n + 1) (t :: refused) a
        else return { a with token := some t }
      | t, _ => return { a with token := t }

/-! ### Rows -/

/-- A row's outcome with nothing to report. -/
def RowLap.empty : RowLap := ⟨0, 0, none, 0, 0, 0, 0, 0, [], none, false⟩

/-- A row that stops. -/
def RowLap.stopped (cause sub : Nat) : RowLap := { RowLap.empty with rstat := cause, sub := sub }

/-- The record's address (R324: SEQTAB). -/
def recordAt (i : Inst) (q : Request) (row : Nat) : RowM W64 := do return w64 (← rowNum i (q.seqtab + w64 (8 * row)) 8)

/-- A row's outcome from a draw. -/
def outcome (va : W64) (nacc : Nat) (kept : List Nat) (d : Drawn) : RowLap :=
  ⟨0, 0, d.token, nacc, d.stop, 0, 0, d.draws, kept ++ d.token.toList, if d.stop = 0 then none else some va, false⟩

/-- `samp` (R330 to R333). -/
def sampRow (i : Inst) (q : Request) (va : W64) (r : SeqRec) (bias : List (Nat × W32)) (row : Nat) : RowM RowLap := do
  let g ← readGram i r q.vocab
  let p ← readProc i r bias q.vocab
  let gs ← if g.isSome then readStack i r else pure ⟨0, []⟩
  let l ← readLogits i q p g (q.tsrc + w64 (q.stride * row)) r.gstate
  let d ← drawToken i q r g gs l none 0 0 (q.vocab + 1) 0 [] ⟨none, 0, 0⟩
  return outcome va 0 [] d

/-- The residual weights of a rejected draft: p / P - q / Q where it is above 0, or p / P (R341). -/
def residual (qd : Dist) : Mix := fun pd =>
  let ps := pd.inOrder
  let rs := (ps.map fun e => (e.1, e.2 * qd.total - qd.at e.1 * pd.total)).filter fun e => e.2 != 0
  if rs.isEmpty then ps else rs

/-- Drafts from slot j on; `kept` are those accepted (R341). The grammar refuses a draft that fails its walk, as R339 does a
drawn token, so that p_j is 0 there; a greedy row makes no draw (log entry 33). -/
def acceptFrom (i : Inst) (q : Request) (va : W64) (r : SeqRec) (g : Option Gram) (p : Proc) (row : Nat) :
    List Nat → Nat → GState → List Nat → Drawn → RowM RowLap
  | [], j, gs, kept, a => do
    let l ← readLogits i q p g (q.tsrc + w64 (q.stride * (9 * row + j))) gs.q
    let d ← drawToken i q r g gs l none j 0 (q.vocab + 1) 0 [] a
    return outcome va j kept d
  | t :: ts, j, gs, kept, a => do
    if q.vocab ≤ t then stopRow 0x16 0x04
    else
      let l ← readLogits i q p g (q.tsrc + w64 (q.stride * (9 * row + j))) gs.q
      let dl ← readLogits i q p g (q.dsrc + w64 (q.stride * (8 * row + j))) gs.q
      let next ← match g with
        | none => pure (some gs)
        | some gr => walkToken i r gr t gs
      let refused := if next.isSome then [] else [t]
      let pd := l.dist q r refused
      let qd := dl.dist q r []
      ranLaps qd.laps
      if pd.order.isEmpty ∨ qd.order.isEmpty then
        ranLaps pd.laps
        return outcome va j kept { a with stop := 7 }
      else if !r.greedy ∧ 0xFFFFFFFF ≤ r.rngpos + j then
        ranLaps pd.laps
        return outcome va j kept { a with stop := 5 }
      else
        let u := uOf r.key r.stream (r.rngpos + j) 0 (0x10 + j)
        let a := { a with draws := a.draws + if r.greedy then 0 else 1 }
        match next, decide (u * qd.at t * pd.total < pd.at t * qd.total * 2 ^ 24) with
        | some gs', true =>
          ranLaps pd.laps
          acceptFrom i q va r g p row ts (j + 1) gs' (kept ++ [t]) a
        | _, _ =>
          let d ← drawToken i q r g gs l (some (residual qd)) j (0x20 + j) (q.vocab + 1) 0 refused a
          return outcome va j kept d

/-- `accept` (R341). -/
def acceptRow (i : Inst) (q : Request) (va : W64) (r : SeqRec) (bias : List (Nat × W32)) (row : Nat) : RowM RowLap := do
  let ts ← readTokens i (q.drafts + w64 (64 * row))
  if 8 < ts.length then stopRow 0x16 0x05
  else
    let g ← readGram i r q.vocab
    let p ← readProc i r bias q.vocab
    let gs ← if g.isSome then readStack i r else pure ⟨0, []⟩
    acceptFrom i q va r g p row ts 0 gs [] ⟨none, 0, 0⟩

/-- The new state and stack are stored: GSTATE, GDEPTH, and the stack entries that differ (R340, R342). -/
def storeState (i : Inst) (va : W64) (r : SeqRec) (old new : GState) : RowM Unit := do
  let same := ((old.stack.zip new.stack).takeWhile fun p => p.1 == p.2).length
  if same < new.stack.length then rowPut i (r.gstk + w64 same) (new.stack.drop same)
  rowPutNum i (va + 96#64) 4 (new.q + new.stack.length * 2 ^ 16)

/-- A row of `gram` that ends at a token. -/
def gramStop (k sub : Nat) : RowLap := { RowLap.stopped 0x16 sub with token := some k }

/-- `gram` from token k on. -/
def gramFrom (i : Inst) (q : Request) (va : W64) (r : SeqRec) (g : Gram) : List Nat → Nat → GState → RowM RowLap
  | [], _, _ => return RowLap.empty
  | t :: ts, k, s => do
    if q.vocab ≤ t then return gramStop k 0x04
    else match ← walkToken i r g t s with
      | none => return gramStop k 0x03
      | some s' =>
        storeState i va r s s'
        gramFrom i q va r g ts (k + 1) s'

/-- `gram` (R340). A record without a grammar allows every token below V: nothing changes (log entry 33). -/
def gramRow (i : Inst) (q : Request) (va : W64) (r : SeqRec) (row : Nat) : RowM RowLap := do
  let ts ← readTokens i (q.tsrc + w64 (64 * row))
  match ← readGram i r q.vocab with
  | none => match ts.findIdx? fun t => decide (q.vocab ≤ t) with
    | some k => return gramStop k 0x04
    | none => return RowLap.empty
  | some g =>
    if ts.isEmpty then
      rowPutNum i (va + 96#64) 4 g.start
      return RowLap.empty
    else gramFrom i q va r g ts 0 (← readStack i r)

/-- The stop strings of a record (R343): four, unused ones empty. -/
def readStops (i : Inst) (r : SeqRec) : RowM (List (List Byte)) := do
  if r.stops = 0#64 then return [[], [], [], []]
  else
    let l ← rowBytes8 i r.stops 256
    let ss := (upTo 4).map fun s => (((l[64 * s]?).getD 0#8).toNat, (l.drop (64 * s + 1)).take 32)
    if ss.any fun s => decide (32 < s.1) then stopRow 0x16 0x06 else return ss.map fun s => s.2.take s.1

/-- What `commit` carries from token to token: STOP aside, NOUT, LEN, RNGPOS, MATCH and the grammar's state. -/
structure CommitSt where
  nout : Nat
  len : Nat
  rng : Nat
  lens : List Nat
  gs : GState

/-- The record is stopped, and the row discards the rest. -/
def commitStop (i : Inst) (va : W64) (code : Nat) : RowM RowLap := do
  rowPutNum i (va + 35#64) 1 code
  return { RowLap.empty with stop := code }

/-- `commit` of the tokens that are left (R342). -/
def commitFrom (i : Inst) (q : Request) (va : W64) (r : SeqRec) (g : Option Gram) (ss : List (List Byte)) :
    List Nat → CommitSt → RowM RowLap
  | [], _ => return RowLap.empty
  | t :: ts, c => do
    if q.vocab ≤ t then return RowLap.stopped 0x16 0x04
    else if c.nout = r.outcap then commitStop i va 3
    else if c.len = r.kvcap then commitStop i va 4
    else
      let walked ← match g with
        | none => pure (some c.gs)
        | some gr => walkToken i r gr t c.gs
      match walked with
      | none => commitStop i va 8
      | some gs =>
        let bytes ← if ss.all List.isEmpty then pure [] else tokenBytes i r t
        rowPutNum i (r.outbuf + w64 (4 * c.nout)) 4 t
        rowPutNum i (va + 128#64) 4 (c.nout + 1)
        let h ← rowNum i (r.hist + w64 (t / 8)) 1
        rowPutNum i (r.hist + w64 (t / 8)) 1 (h.lor (2 ^ (t % 8)))
        rowPutNum i (r.dirent + 8#64) 4 (c.len + 1)
        if g.isSome then storeState i va r c.gs gs
        let rng := if c.rng = 0xFFFFFFFF then c.rng else c.rng + 1
        rowPutNum i (va + 12#64) 4 rng
        let (ms, fin) := matchBytes ss c.lens 0 bytes
        rowPut i (va + 40#64) (ms.map (BitVec.ofNat 8))
        match fin with
        | some (s, k) =>
          rowPutNum i (va + 44#64) 4 (s + k % 256 * 2 ^ 8)
          commitStop i va 2
        | none =>
          if r.eosv ∧ t = r.eosid then commitStop i va 1
          else commitFrom i q va r g ss ts ⟨c.nout + 1, c.len + 1, rng, ms, gs⟩

/-- `commit` (R342). -/
def commitRow (i : Inst) (q : Request) (va : W64) (r : SeqRec) (row : Nat) : RowM RowLap := do
  let ts ← readTokens i (q.tsrc + w64 (64 * row))
  let ss ← readStops i r
  let g ← readGram i r q.vocab
  let len ← rowNum i (r.dirent + 8#64) 4
  let gs ← if g.isSome then readStack i r else pure ⟨0, []⟩
  commitFrom i q va r g ss ts ⟨r.nout, len, r.rngpos, r.lens, gs⟩

/-- An arena with a reset mark that holds a record: its function (R411, R412). -/
def State.resetArena (s : State) (i : Inst) (va : W64) : Option Fn :=
  s.fns.find? fun f => f.rstMark && f.part == i.part && decide (f.abase.toNat ≤ va.toNat) &&
    decide (va.toNat + 256 ≤ f.abase.toNat + f.asize.toNat)

/-- A row of a request: its record, then its member. A record in a reset arena takes STOP 9; once the arena is zeroed it is
not touched. Such a row writes no token row. A stopped record gives its STOP and nothing else (R328, R329, R411, R412). -/
def rowBody (i : Inst) (q : Request) (row : Nat) : RowM RowLap := do
  let va ← recordAt i q row
  match (← get).1.resetArena i va with
  | some f => return { RowLap.empty with stop := 9, record := if f.busy then some va else none, bare := true }
  | none =>
    let r ← readRec i va
    if r.stop ≠ 0 then return { RowLap.empty with stop := r.stop }
    else if !r.paramsOk then stopRow 0x16 0x01
    else
      let bias ← readBias i r
      match q.member with
      | 7 => sampRow i q va r bias row
      | 8 => gramRow i q va r row
      | 9 => acceptRow i q va r bias row
      | _ => commitRow i q va r row

/-- Runs a row: a stop becomes its status; the laps it has run are those it takes. -/
def State.beginRow (s : State) (i : Inst) (q : Request) (row : Nat) : RowLap × State :=
  match (rowBody i q row).run (s, 0) with
  | (.ok l, s, n) => ({ l with need := n }, s)
  | (.error (c, b), s, n) => ({ RowLap.stopped c b with need := n }, s)

/-! ### Results (R325, R326) -/

/-- The result entry. -/
def RowLap.entry (l : RowLap) : Nat :=
  l.token.getD 0xFFFFFFFF + l.nacc * 2 ^ 32 + l.stop % 256 * 2 ^ 40 + l.rstat * 2 ^ 48 + l.sub * 2 ^ 56 +
    min l.need 255 * 2 ^ 64 + min l.draws 0xFFFF * 2 ^ 72

/-- The row writes its record's STOP. What fails there becomes the row's status. -/
def State.writeStop (s : State) (i : Inst) (l : RowLap) : RowLap × State :=
  match l.record with
  | none => (l, s)
  | some va => match (rowPutNum i (va + 35#64) 1 l.stop).run (s, 0) with
    | (.ok _, s, _) => (l, s)
    | (.error (c, b), s, _) => ({ l with rstat := c, sub := b, stop := 0 }, s)

/-- The row's entry and token row, where asked for: the address that failed, its cause and subcause. -/
def State.report (s : State) (i : Inst) (q : Request) (row : Nat) (l : RowLap) : Option (W64 × Nat × Nat) × State :=
  let out := q.out + w64 (16 * row)
  let crow := q.crows + w64 (64 * row)
  match (if q.out = 0#64 then pure () else rowPutNum i out 16 l.entry : RowM Unit).run (s, 0) with
  | (.error (c, b), s, _) => (some (out, c, b), s)
  | (.ok _, s, _) =>
    match (if q.crows = 0#64 ∨ l.bare ∨ !(q.member == 7 || q.member == 9) then pure () else rowPut i crow (tokenRow l.drawn) : RowM Unit).run (s, 0) with
    | (.error (c, b), s, _) => (some (crow, c, b), s)
    | (.ok _, s, _) => (none, s)

/-! ### TOKEN_UNIT_ROW and LAP (R326, R327, R334) -/

def State.modTok (s : State) (k : Nat) (f : TokUnit → TokUnit) : State := { s with tokUnits := updAt s.tokUnits k f }

/-- The instance, handle and request of an entry of a unit's queue. -/
def State.tokEntry (s : State) (e : Nat × Nat × Nat) : Option (Inst × Nat × Handle × Request) := do
  let i ← s.inst? e.1
  let a ← i.handles[e.2.1]?
  let r ← a.reqs.find? fun r => r.id == e.2.2
  return (i, e.2.1, a, r)

/-- The entry that a unit serves: the one it has begun, or else the first, in the order they arrived, that no earlier request of
its stream holds back (R107, R327). -/
def State.tokServes (s : State) (u : TokUnit) : Option (Nat × Nat × Nat) :=
  (u.queue.find? fun e => ((s.tokEntry e).map fun x => x.2.2.2.started).getD false).orElse fun _ =>
    u.queue.find? fun e => ((s.tokEntry e).map fun x => x.2.2.1.mayStart x.2.2.2).getD true

/-- The entry that unit k serves. -/
def State.tokServed (s : State) (k : Nat) : Option (Nat × Nat × Nat) := (s.tokUnits[k]?).bind s.tokServes

/-- The request that unit k serves. -/
def State.tokRequest (s : State) (k : Nat) : Option (Inst × Nat × Handle × Request) := (s.tokServed k).bind s.tokEntry

/-- The unit has done with a request. -/
def State.tokNext (s : State) (k : Nat) (e : Nat × Nat × Nat) : State := s.modTok k fun u => ⟨u.queue.erase e, none⟩

/-- A request arrives at its unit: at what place of the queue, among requests that wait, no rule says (log entry 104). -/
def State.tokArrive (s : State) (k : Nat) (e : Nat × Nat × Nat) : State :=
  ({ s with free := s.free + 1 } : State).modTok k fun u =>
    let n := Config.tokArrival s.free % (u.queue.length + 1)
    { u with queue := u.queue.take n ++ e :: u.queue.drop n }

/-- The request responds: laps in lane pair 4. -/
def State.tokRespond (s : State) (k : Nat) (i : Inst) (h : Nat) (r : Request) (cause sub done : Nat) (faddr : W64) (laps : Nat) :
    State :=
  (s.respond i.serial h r cause sub done faddr (laps % 2 ^ 32)).tokNext k (i.serial, h, r.id)

/-- The row in progress is written, and the next one is due; what meets a held source leaves `held` (R417). -/
def State.endRow (held s : State) (k : Nat) (i : Inst) (h : Nat) (r : Request) (l : RowLap) : State :=
  let (l, s) := s.writeStop i l
  if l.record.isSome ∧ (l.rstat, l.sub) = keyHeldErr then held
  else match s.report i r r.pos l with
  | (some (va, c, b), s) => if (c, b) = keyHeldErr then held else s.tokRespond k i h r c b r.pos va (r.done + l.need)
  | (none, s) =>
    ((s.progress i.serial).modTok k fun u => { u with lap := none }).modReq i.serial h r.id fun x => { x with pos := r.pos + 1, done := r.done + l.need }

/-- A cut, yield or kill stops the instance's requests at the next row boundary (R327). -/
def Inst.leaving (i : Inst) : Bool := i.cut.isSome || i.kill.isSome || i.region.isEmpty

/-- The work of a token unit on the request it serves: its checks, the work of a row, or the writes of a row whose laps have run. -/
def State.tokWork (s : State) (k : Nat) (i : Inst) (h : Nat) (r : Request) : State :=
  if !r.started then
    if !r.tokenOk then s.tokRespond k i h r 0x01 0x01 0 0 0
    else if s.partOfQuire (4 * r.tunit) ≠ some i.part then s.tokRespond k i h r 0x05 0x08 0 0 0
    else s.modReq i.serial h r.id fun x => { x with started := true }
  else
    match (s.tokUnits[k]?).bind TokUnit.lap with
    | some l => if l.run < l.need then s else s.endRow s k i h r l
    | none =>
      if r.nb ≤ r.pos then s.tokRespond k i h r 0 0 r.pos 0 r.done
      else
        let (l, u) := s.beginRow i r r.pos
        if (l.rstat, l.sub) = keyHeldErr then s
        else if l.need = 0 then s.endRow u k i h r l else u.modTok k fun u => { u with lap := some l }

/-- One step of a token unit: a request that leaves is dropped at a row boundary; else its work (R327). -/
def State.tokStep (s : State) (k : Nat) : State :=
  match s.tokServed k with
  | none => s
  | some e => match s.tokEntry e with
  | none => s.tokNext k e
  | some (i, h, _, r) =>
    if i.leaving && ((s.tokUnits[k]?).bind TokUnit.lap).isNone then s.tokNext k e else s.tokWork k i h r

/-- R326. -/
def execTokenUnitRow (tu : Nat) (s : State) : Host.Outcome State Fault Refusal := .next (s.tokStep tu)

/-- A lap of the row in progress, counted for the owner (R334, R420). -/
def State.lapStep (s : State) (k : Nat) : State :=
  match s.tokRequest k, (s.tokUnits[k]?).bind TokUnit.lap with
  | some (i, _, _, _), some l =>
    if l.run < l.need then (s.modTok k fun u => { u with lap := some { l with run := l.run + 1 } }).meter i.owner 17 1 else s
  | _, _ => s

/-- R334. -/
def execLap (tu : Nat) (s : State) : Host.Outcome State Fault Refusal := .next (s.lapStep tu)

/-! ### The words (R323) -/

/-- A token-unit command on a handle bound to any engine: it reads its descriptor, waits for a response place, and issues. -/
def tokenBody (member : Nat) (h : BitVec 4) (a tag : W64) (ord : Bool) (s : State) : Ans Flow :=
  withHandle h (fun b => match b with
    | .engine _ => true
    | _ => false) (fun i _ s =>
    (s.loadDesc a).bind fun d s =>
      if 32 ≤ (((s.inst? i.serial).bind fun i => i.handles[h.toNat]?).getD Handle.free).reqs.length then
        .wait (some (queueWait i.serial h.toNat 2)) s
      else
        let r := Request.new s.nextId member d tag ord false i.active
        let s := ({ s with nextId := s.nextId + 1 } : State).modHandle i.serial h.toNat fun a => { a with reqs := a.reqs ++ [r] }
        .ok .next (s.tokArrive r.tunit (i.serial, h.toNat, r.id))) s

/-- R323, R333. -/
def execSamp (h : BitVec 4) (a b : BitVec 5) (ord : BitVec 1) (g : BitVec 3) (s : State) : Host.Outcome State Fault Refusal :=
  runWord s false 0 [a, b] g fun s => tokenBody 7 h (s.rd a) (s.rd b) (ord == 1#1) s

/-- R323, R340. -/
def execGram (h : BitVec 4) (a b : BitVec 5) (ord : BitVec 1) (g : BitVec 3) (s : State) : Host.Outcome State Fault Refusal :=
  runWord s false 0 [a, b] g fun s => tokenBody 8 h (s.rd a) (s.rd b) (ord == 1#1) s

/-- R323, R341. -/
def execAccept (h : BitVec 4) (a b : BitVec 5) (ord : BitVec 1) (g : BitVec 3) (s : State) : Host.Outcome State Fault Refusal :=
  runWord s false 0 [a, b] g fun s => tokenBody 9 h (s.rd a) (s.rd b) (ord == 1#1) s

/-- R323, R342. -/
def execCommit (h : BitVec 4) (a b : BitVec 5) (ord : BitVec 1) (g : BitVec 3) (s : State) : Host.Outcome State Fault Refusal :=
  runWord s false 0 [a, b] g fun s => tokenBody 10 h (s.rd a) (s.rd b) (ord == 1#1) s

end Sys2Proof.Machine
end

