-- ==== Sys2Proof/Machine/System.lean ====
section
/-!
DEFINITION. The words that raise a trap and return from one, idle and tlbinv (R356 to R363), the write of USTATUS (R392),
the posted store that fails (R177), FENCE (R408), the events of R354, and the completion of an instance (R361, R366).
-/

namespace Sys2Proof.Machine

/-- The thread that executes is a control thread. -/
def State.onCtl (s : State) : Bool :=
  match s.cur with
  | .ctl _ => true
  | .trearo _ => false

/-- The quire of the thread that executes. -/
def State.meQuire (s : State) : Nat :=
  match s.cur with
  | .ctl n => htQuire n
  | .trearo _ => 0

/-! ### trap and sys (R357, R358) -/

/-- R357. -/
def execTrap (n : BitVec 11) (g : BitVec 3) (s : State) : Host.Outcome State Fault Refusal :=
  runWord s false 0 [] g fun s => .trap { trapOf 0x0A 0 with code := n.toNat } s

/-- `sys` traps SYS, but ILL at supervisor level of a control thread. -/
def sysBody (n : Nat) (s : State) : Ans Flow :=
  if s.onCtl && s.level != 0 then .trap (trapOf 0x01 0) s
  else .trap { trapOf 0x15 0 with code := n, next := true } s

/-- R357. -/
def execSys (d a : BitVec 5) (n : BitVec 11) (g : BitVec 3) (s : State) : Host.Outcome State Fault Refusal :=
  runWord s false 0 [d, a] g fun s => sysBody n.toNat s

/-! ### eret (R360) -/

/-- R360. -/
def execEret (g : BitVec 3) (s : State) : Host.Outcome State Fault Refusal :=
  runWord s false 1 [] g fun s => .ok .stay (trapReturn s)

/-! ### Events and idle (R354, R362, R439) -/

/-- NSEC has reached STIMECMP at a control core of the quire. -/
def State.timerDue (s : State) (q : Nat) : Bool :=
  (upTo 4).any fun k => decide ((s.sup (4 * q + k)).regs.timecmp.toNat ≤ s.nsec.toNat)

/-- SEVENT as it reads: MBOX is 1 while the mailbox holds a record (R390), and TIMER is set again at once while a compare value is
reached; the bit itself stays until 1 is written to it. -/
def State.seventNow (s : State) (q : Nat) : W64 :=
  let r := s.quire q
  setBitTo (setBitTo r.sevent 0 (bitAt r.sevent 0 || r.mbox.v)) 5 (bitAt r.sevent 5 || s.timerDue q)

/-- An event that is not masked is pending for the thread that executes. -/
def State.woken (s : State) : Bool :=
  if s.onCtl then s.seventNow s.meQuire &&& (s.quire s.meQuire).sevmask != 0 else s.sys.mevent &&& s.sys.mevmask != 0

/-- R362. -/
def execIdle (g : BitVec 3) (s : State) : Host.Outcome State Fault Refusal :=
  runWord s false 1 [] g fun s => if s.woken then .ok .next s else .wait none s

/-- SEVENT.TIMER is set when NSEC has reached the compare value of a control core, and so before that value is written anew. -/
def State.timerEvent (s : State) (core : Nat) : State :=
  if core < Config.cores ∧ (s.sup core).regs.timecmp.toNat ≤ s.nsec.toNat then s.event (core / 4) 5 else s

/-- R354. -/
def execTimerEvent (core : Nat) (s : State) : Host.Outcome State Fault Refusal := .next (s.timerEvent core)

/-! ### tlbinv (R363) -/

/-- Drops the cached translations that `p` picks. -/
def State.dropTlb (s : State) (p : Trans → Bool) : State := { s with tlb := s.tlb.filter fun t => !p t }

/-- The thread that executes may not drop translations of a partition: it stands on a quire of another. -/
def State.foreign (s : State) (p : Nat) : Bool := s.onCtl && s.who.part != p

/-- R363. -/
def execTlbinvAll (g : BitVec 3) (s : State) : Host.Outcome State Fault Refusal :=
  runWord s false 1 [] g fun s => if s.onCtl then .trap (trapOf 0x02 0) s else .ok .next (s.dropTlb fun _ => true)

def tlbinvPart (p : Nat) (s : State) : Ans Flow :=
  if s.foreign p then .trap (trapOf 0x02 0) s else .ok .next (s.dropTlb fun t => t.part == p)

def tlbinvPage (p va : Nat) (s : State) : Ans Flow :=
  if s.foreign p then .trap (trapOf 0x02 0) s else .ok .next (s.dropTlb fun t => t.covers p (va % 2 ^ 57))

/-- R363. -/
def execTlbinvPart (a : BitVec 5) (g : BitVec 3) (s : State) : Host.Outcome State Fault Refusal :=
  runWord s false 1 [a] g fun s => tlbinvPart (fieldN (s.rd a) 0 5) s

/-- R363. -/
def execTlbinvPage (d a : BitVec 5) (g : BitVec 3) (s : State) : Host.Outcome State Fault Refusal :=
  runWord s false 1 [d, a] g fun s => tlbinvPage (fieldN (s.rd d) 0 5) (s.rd a).toNat s

/-! ### USTATUS (R392) -/

/-- A write of USTATUS: PSAVE inside the handler, or the return from it; ILL outside. -/
def ustatusBody (v : W64) (s : State) : Ans Flow :=
  match s.me with
  | none => .trap (trapOf 0x01 0) s
  | some i =>
    if !i.uinh then .trap (trapOf 0x01 0) s
    else if bitAt v 0 then .ok .next (s.modInst i.serial fun i => { i with usave := v.extractLsb' 1 7 })
    else if s.level = 0 then
      .ok .stay (s.modInst i.serial fun i => { i with uinh := false, ctx := { i.ctx.prestore i.usave with pc := i.uepc } })
    else .ok .next (s.modInst i.serial fun i => { i with uinh := false, ctx := { i.ctx.prestore i.usave with pc := i.uepc } })

/-- R392: the effect of `swr 0x0A3` with the value it writes. -/
def execUstatusWrite (v : BitVec 64) (s : State) : Host.Outcome State Fault Refusal :=
  runWord s false 0 [] 0#3 fun s => ustatusBody v s

/-! ### Posted stores (R177) and FENCE (R408) -/

/-- A posted store that has failed waits to be taken at its thread's next instruction boundary; one whose instance is gone
is dropped. -/
def State.postedFails (s : State) (id : Nat) : State :=
  match s.remotes.find? fun r => r.id == id && r.posted with
  | none => s
  | some r =>
    match r.ans with
    | some (st, _) =>
      let s := { s with remotes := s.remotes.filter fun x => x.id != id }
      if st = 0 then s else { s with posted := s.posted ++ [(r.serial, r.va)] }
    | none => s

/-- R177. -/
def execPostedStoreFailure (id : Nat) (s : State) : Host.Outcome State Fault Refusal := .next (s.postedFails id)

/-- FENCE is raised on Trearo core 0 at its next instruction boundary (R408). -/
def State.fenceTrap (s : State) : State :=
  if s.fenceRaise && !(s.tcore 0).hung then takeTrap { s with fenceRaise := false, cur := .trearo 0 } (trapOf 0x0C 0) else s

/-- R408. -/
def execFenceTrap (s : State) : Host.Outcome State Fault Refusal := .next s.fenceTrap

/-! ### Completions and DROP (R365, R366, R426) -/

/-- A vector of a function is signalled. -/
def State.signal (s : State) (fn vec : Nat) : State := s.modFn fn fun f => { f with owed := updAt f.owed vec (· + 1) }

/-- DROP counts, saturating, and each increment is signalled. -/
def State.countDrop (s : State) (fn : Nat) : State :=
  if (s.fn fn).drop = 0xFFFFFFFF#32 then s else (s.modFn fn fun f => { f with drop := satInc32 f.drop }).signal fn 4

/-- A completion record (R366). -/
def complBytes (serial state cause sub : Nat) (tag : W64) : List Byte :=
  natBytes 4 serial ++ natBytes 4 (state % 256 + cause % 256 * 2 ^ 8 + sub % 256 * 2 ^ 16) ++ natBytes 8 tag.toNat

/-- Writes a completion at COMPL and signals the queue's vector; a write that fails counts in DROP (R366, R426). -/
def State.complete (s : State) (w : Who) (fn queue : Nat) (compl tag : W64) (serial state cause sub : Nat) : State :=
  let s := if compl = 0#64 then s
    else match s.devWrite w compl (complBytes serial state cause sub tag) with
      | (none, s) => s
      | (some _, s) => s.countDrop fn
  s.signal fn queue

/-- The completion of an instance that the host launched. -/
def State.completeInst (s : State) (i : Inst) (state cause sub : Nat) : State :=
  if i.src.parent.isSome then s
  else s.complete { i.device with region := [] } i.src.fn i.src.queue i.src.compl i.src.tag i.serial state cause sub

/-- The function sends the messages of its vectors: MSI-X is enabled and no function mask holds them (R426; log entry 5). -/
def Fn.sends (f : Fn) : Bool := f.msixOn && !f.msixHold

/-- R426: a signal becomes a message, or a pending bit while the vector or the function is masked or MSI-X is not enabled. -/
def State.msix (s : State) (fn vec : Nat) : State :=
  let f := s.fn fn
  if 257 ≤ fn ∨ 8 ≤ vec ∨ f.owed.getD vec 0 = 0 then s
  else
    let s := s.modFn fn fun f => { f with owed := updAt f.owed vec (· - 1) }
    if bitAt f.msixMask vec || !f.sends then s.modFn fn fun f => { f with msixPend := setBitTo f.msixPend vec true }
    else { s with msixSent := s.msixSent ++ [(fn, vec)] }

/-- R426. -/
def execMsixMessage (fn vec : Nat) (s : State) : Host.Outcome State Fault Refusal := .next (s.msix fn vec)

/-- A pending bit of a vector that nothing masks any more becomes a message. -/
def State.sendPending (s : State) (fn vec : Nat) : State :=
  let f := s.fn fn
  if bitAt f.msixPend vec && !bitAt f.msixMask vec && f.sends then
    let s := s.modFn fn fun f => { f with msixPend := setBitTo f.msixPend vec false }
    { s with msixSent := s.msixSent ++ [(fn, vec)] }
  else s

/-- The host unmasks a vector. -/
def State.unmask (s : State) (fn vec : Nat) : State :=
  if 257 ≤ fn ∨ 8 ≤ vec then s
  else (s.modFn fn fun f => { f with msixMask := setBitTo f.msixMask vec false }).sendPending fn vec

/-- The host writes MSI-X Enable and Function Mask of a function. -/
def State.msixControl (s : State) (fn : Nat) (enable hold : Bool) : State :=
  if 257 ≤ fn then s
  else (upTo 8).foldl (fun s v => s.sendPending fn v) (s.modFn fn fun f => { f with msixOn := enable, msixHold := hold })

/-- A write of word w of a vector's table entry: the message's address and data, or the mask bit (R425; log entry 5). -/
def State.msixStore (s : State) (fn vec w : Nat) (v : W32) : State :=
  if w < 3 then s.modFn fn fun f => { f with msixTab := updAt f.msixTab (3 * vec + w) fun _ => v }
  else if bitAt v 0 then s.modFn fn fun f => { f with msixMask := setBitTo f.msixMask vec true }
  else s.unmask fn vec

/-- R426. -/
def execMsixUnmask (fn : Nat) (ask : MsixAsk) (s : State) : Host.Outcome State Fault Refusal :=
  .next (match ask with
    | .vector vec => s.unmask fn vec
    | .control enable hold => s.msixControl fn enable hold)

/-! ### The end of an instance (R361, R394) -/

/-- Every engine and token-unit request has responded, and no access of the instance is outstanding (R361, R366). -/
def State.settled (s : State) (i : Inst) : Bool :=
  (i.handles.all fun h => h.reqs.all fun r => r.resp.isSome) &&
    !s.remotes.any fun r => (r.serial == i.serial && r.posted) || r.serial == engineSerial i.serial

/-- Memory tiles of a region are cleared (R84). -/
def State.clearRegion (s : State) (region : List (Nat × Nat)) : State :=
  (upTo (4 * region.length)).foldl (fun s t => match regionTile region t with
    | some k => s.zero (tileMem k 0) (2 ^ 22)
    | none => s) s

/-- What stands on the quires for an instance goes: folios, units, routes, ports, held stores, bank tokens, bindings. -/
def State.removeAll (s : State) (serial : Nat) : State :=
  { s with
    residents := s.residents.filter fun r => r.serial != serial,
    units := s.units.filter fun f => f.serial != serial,
    routes := s.routes.filter fun r => r.serial != serial,
    ports := s.ports.filter fun p => p.serial != serial,
    mtiles := s.mtiles.filter fun m => m.serial != serial,
    helds := s.helds.filter fun h => h.serial != serial,
    bankToks := s.bankToks.filter fun b => b.serial != serial,
    confs := s.confs.filter fun c => c.serial != serial,
    attns := s.attns.filter fun a => a.serial != serial }

/-- A serial leaves the launch queues and kitties. -/
def State.unqueue (s : State) (serial : Nat) : State :=
  let out (l : List Nat) : List Nat := l.filter fun n => n != serial
  { s with parts := s.parts.map fun (p : Part) => { p with queue := out p.queue },
           fns := s.fns.map fun (f : Fn) => { f with queues := f.queues.map out },
           insts := s.insts.map fun (j : Inst) => { j with kitty := out j.kitty } }

/-- An instance that has ended holds nothing. -/
def Inst.ended (i : Inst) (state : IState) : Inst :=
  { i with state := state, region := [], hw := none, active := false, bindings := [], saved := none, cut := none,
           kill := none, stall := none, yieldReq := false, foldSaves := [], boundWaits := [], named := [], dead := [],
           dog := none, handles := i.handles.map fun (h : Handle) => { h with q := [], reqs := [] } }

/-- Tiles are cleared, tokens released, barrier objects, wait entries and bindings removed, region and thread freed
(R82, R84, R215, R217, R229, R294, R361). -/
def State.endInst (s : State) (serial : Nat) (state : IState) : State :=
  match s.inst? serial with
  | none => s
  | some i =>
    let s := ((((s.clearRegion i.region).removeAll serial).modInst serial Inst.resume).releaseAll serial).unqueue serial
    let s := { s with bars := s.bars.filter fun b => b.serial != serial, posted := s.posted.filter fun p => p.1 != serial,
                      remotes := s.remotes.filter fun r => r.serial != serial }
    (s.modInst serial fun i => i.ended state).dropWaits serial

/-- The instance that `halt` may end: on a control thread, one that runs on this quire controller. -/
def State.reachable (s : State) (serial : Nat) : Option Inst :=
  (s.inst? serial).filter fun i => i.live && (!s.onCtl || match i.hw with
    | some n => htQuire n == s.meQuire
    | none => false)

/-- `halt`. A cut or a kill in progress counts as its state. -/
def haltBody (d : BitVec 5) (serial : Nat) (s : State) : Ans Flow :=
  match s.reachable serial with
  | none => .ok .next (s.wr d 1#64)
  | some i =>
    if i.state = .queued ∨ i.state = .cut ∨ i.cut.isSome ∨ i.kill.isSome then .ok .next (s.wr d 2#64)
    else if i.active then .ok .next (s.wr d 3#64)
    else if !s.settled i then .wait none s
    else .ok .next (((s.endInst serial .done).completeInst i 7 0 0).wr d 0#64)

/-- R361. -/
def execHalt (d a : BitVec 5) (g : BitVec 3) (s : State) : Host.Outcome State Fault Refusal :=
  runWord s false 1 [d, a] g fun s => haltBody d (fieldN (s.rd a) 0 32) s

end Sys2Proof.Machine
end

