-- ==== Sys2Proof/Machine/Preempt.lean ====
section
/-!
DEFINITION. Leaving the quires early: kills (R45, R394), cuts and their markers (R273, R305, R396 to R398, R448), yield
(R199), the watchdog (R401), and the registers SKILL, SCUT, SRESUME, SHUNG and the mailbox's V (R390, R400, R455).
-/

namespace Sys2Proof.Machine

/-! ### Asking -/

/-- The control thread stops at a word boundary: a stalled word is abandoned, with what it had asked for (R229, R396). -/
def State.abandon (s : State) (serial : Nat) : State :=
  let s := (s.dropAuto serial).modInst serial Inst.resume
  { s with remotes := s.remotes.filter fun r => r.posted || r.serial != serial }

/-- A cut of a PLACED or RUN instance is asked for, by a recall, SCUT or a debug stop: the control thread stops at a word boundary
(R396). -/
def State.askCut (s : State) (serial : Nat) (debug : Bool) : State :=
  (s.abandon serial).modInst serial fun i =>
    { i with cut := i.cut.orElse fun _ => some ⟨(i.epoch + 1) % 2 ^ 32, debug, 0⟩, yieldReq := false }

/-- A kill of a live instance is asked for (R394). -/
def State.askKill (s : State) (serial cause sub : Nat) : State :=
  match s.inst? serial with
  | some i =>
    if i.live && i.kill.isNone then
      (s.abandon serial).modInst serial fun i => { i with kill := some ⟨cause, sub, false, 0, 0, 0, 0⟩ }
    else s
  | none => s

/-- A cut of an instance, which is a kill of one that is FAULTED (R376, R399). -/
def State.cutOrKill (s : State) (i : Inst) (debug : Bool) : State :=
  if i.state = .faulted then s.askKill i.serial 0x11 2
  else if i.state = .run ∨ i.state = .placed then s.askCut i.serial debug
  else s

/-! ### Kill (R45, R394, R395) -/

/-- A token of R30, which a kill counts. DEDUCED: a leaf head's marker is the model's own and is none (log entry 64). -/
def Token.counts (t : Token) : Bool :=
  match t with
  | .leafEnd _ _ => false
  | _ => true

/-- The tokens of a list that a kill counts. -/
def countToks (l : List Token) : Nat := (l.filter Token.counts).length

/-- A token that a save record has an entry for: data and EOS (R396, R398). -/
def Token.kept (t : Token) : Bool :=
  match t with
  | .data _ => true
  | .eos => true
  | _ => false

/-- Control tokens that a unit has received and not served: bounds, go-ahead permits, and end tokens that wait for their position. -/
def FabUnit.ctlToks (f : FabUnit) : Nat :=
  match f.st with
  | .ctr use _ _ bounds _ _ _ _ runs _ _ _ _ => bounds.length + if use = 2 then runs else 0
  | .ctl permits _ _ _ _ _ _ _ => permits
  | .mswap _ _ ends => ends.length
  | .mmac _ _ _ _ _ ends _ => ends.length
  | _ => 0

/-- A route of `rs` leads into input k of a unit. -/
def routesFeed (rs : List Route) (u : UKey) (k : Nat) : Bool := rs.any fun r => r.dst == .unit u k

/-- Data tokens that wait in a unit for another operand (R45): those in its latches while another input that one of the routes
`rs` feeds holds none. -/
def halves (rs : List Route) (f : FabUnit) : Nat :=
  if (upTo 3).any fun k => routesFeed rs f.key k && (f.latch k).isNone then ((upTo 3).filter fun k => (f.strip? k).isSome).length
  else 0

/-- Other tokens in a unit: in latches, slots and delay stages, those a carry has retired, and control tokens not yet served. -/
def unitTokens (rs : List Route) (f : FabUnit) : Nat :=
  let stages := match f.st with
    | .delay l => countToks l
    | .carry _ retired _ _ _ _ => retired.length
    | _ => 0
  f.ctlToks + countToks (f.ins.filterMap id) + countToks (f.outs.filterMap Slot.tok) + stages + countToks (f.loopIn.map Prod.snd) - halves rs f

/-- The saved tokens of a pipeline's queries that are not resolved, in arrival order; they enter again before what waits
(R305). -/
def Attn.rewound (a : Attn) : Attn :=
  let qs := a.blocks.flatMap QBlock.queries ++ a.opened
  let toks := qs.flatMap fun q => .data q.head :: (q.strip.map Token.data).toList
  { a with inq := toks ++ (a.head.map Token.data).toList ++ (if a.eosIn && !a.eosSent then [.eos] else []) ++ a.inq, head := none,
           opened := [], blocks := [], eosIn := a.eosIn && a.eosSent, cut := false }

/-- Other tokens that wait for an instance outside its units: in link buffers, at entry ports, in stream and attention queues, under
way between parts, bounds for folios that are not resident, and bank ownership not yet received. -/
def State.waitingTokens (s : State) (i : Inst) (rs : List Route) (attns : List Attn) : Nat :=
  (rs.map fun r => (r.hops.map countToks).sum).sum +
    ((s.ports.filter fun p => p.serial == i.serial).map fun p => countToks (p.slot.tok.toList ++ p.q)).sum +
    (i.handles.map fun h => countToks h.q).sum + (attns.map fun a => countToks a.rewound.inq).sum +
    countToks ((s.transits.filter fun t => t.serial == i.serial).map Transit.tok) + i.boundWaits.length +
    (((s.bankToks ++ (i.saved.map Saved.bankToks).getD []).filter fun b => b.serial == i.serial && !b.given)).length

/-- Of a saved region, what names the quires it stood on, by which R455 tells whose it is. -/
def Saved.emptied (v : Saved) : Saved :=
  { region := v.region, residents := [], units := [], routes := [], mtiles := [], helds := [], banks := [], attns := [], bankToks := [],
    confs := [], locks := [], bars := [], waits := [], decls := [] }

/-- The kill starts: every token, half-matched operand, held store and open pass is discarded and counted (R394). -/
def State.killStart (s : State) (serial cause sub : Nat) : State :=
  match s.inst? serial with
  | none => s
  | some i =>
    match i.kill with
    | some k =>
      if k.started || k.cause != cause || k.sub != sub then s
      else
        let us := (s.units.filter fun f => f.serial == serial) ++ (i.saved.map Saved.units).getD []
        let rs := (s.routes.filter fun r => r.serial == serial) ++ (i.saved.map Saved.routes).getD []
        let hs := (s.helds.filter fun h => h.serial == serial) ++ (i.saved.map Saved.helds).getD []
        let qs := (s.attns.filter fun a => a.serial == serial) ++ (i.saved.map Saved.attns).getD []
        let toks := (us.map (unitTokens rs)).sum + s.waitingTokens i rs qs
        (s.removeAll serial).modInst serial fun i =>
          { i with kill := some ⟨cause, sub, true, (us.map (halves rs)).sum, toks, hs.length, s.nsec⟩, cut := none, active := false,
                   saved := i.saved.map Saved.emptied, handles := i.handles.map fun (h : Handle) => { h with q := [] } }
    | none => s

/-- R394. -/
def execKillStart (serial cause sub : Nat) (s : State) : Host.Outcome State Fault Refusal := .next (s.killStart serial cause sub)

/-- The words of a fault record in the order of 0x080 to 0x08A (R389). -/
def FaultRec.words (r : FaultRec) : List W64 :=
  [w64 (r.cause.toNat + r.sub.toNat * 2 ^ 8 + r.imp.toNat * 2 ^ 16 + r.origin.toNat * 2 ^ 17 + r.v.toNat * 2 ^ 19 + r.more.toNat * 2 ^ 20),
   r.pc, r.addr, r.unitId, r.iter0, r.iter1, r.iter2, r.iter3, r.detail, w64 (r.upd.toNat + r.peers.toNat * 2 ^ 32), r.time]

/-- The 64 bytes of the copy of the fault record (R395). -/
def FaultRec.copyBytes (r : FaultRec) : List Byte := (r.words.take 8).flatMap fun w => natBytes 8 w.toNat

/-- The kill record (R394). -/
def KillSt.bytes (k : KillSt) : List Byte :=
  natBytes 4 (k.cause % 256 + k.sub % 256 * 2 ^ 8) ++ natBytes 4 (min k.half (2 ^ 32 - 1)) ++ natBytes 8 k.tokens ++
    natBytes 8 k.helds ++ natBytes 8 k.time.toNat ++ List.replicate 32 0#8

/-- No token unit has a row of the instance in progress (R327). -/
def State.rowsStopped (s : State) (serial : Nat) : Bool :=
  (upTo s.tokUnits.length).all fun k => ((s.tokUnits[k]?).bind TokUnit.lap).isNone || ((s.tokServed k).map fun e => e.1 != serial).getD true

/-- No token of the instance is under way between parts (R416). -/
def State.arrivedAll (s : State) (serial : Nat) : Bool := !s.transits.any fun t => t.serial == serial

/-- Nothing of the instance is under way outside: engine requests have responded, token rows have stopped, accesses have
ended. -/
def State.quietOutside (s : State) (i : Inst) : Bool :=
  (i.handles.all fun h => h.reqs.all fun r => decide (6 < r.member) || r.resp.isSome) && s.rowsStopped i.serial &&
    !s.remotes.any fun r => (r.serial == i.serial && r.posted) || r.serial == engineSerial i.serial

/-- The kill completes: the records, what `halt` clears, KILLED, and the completion. An instance that was QUEUED writes
only its completion (R394, R411). -/
def State.killComplete (s : State) (serial : Nat) : State :=
  match s.inst? serial with
  | none => s
  | some i =>
    match i.kill with
    | some k =>
      if !k.started || !s.quietOutside i then s
      else
        let w := { i.device with region := [] }
        let s := if i.state = .queued then s else s.devRecord w i.recVA (i.fault.copyBytes ++ k.bytes)
        let s := (s.endInst serial .killed).modInst serial fun i => { i with killCause := k.cause, killSub := k.sub }
        s.completeInst i 6 k.cause k.sub
    | none => s

/-- R394. -/
def execKillComplete (serial : Nat) (s : State) : Host.Outcome State Fault Refusal := .next (s.killComplete serial)

/-! ### Cut markers (R396, R397, R448) -/

/-- A loop input: fed by a delay line, or the back or pred of a carry (R448). DEDUCED: so are the inputs that the unit's own outputs
come back to, a REF load node's control input and an lkpool's release input (R397; log entry 122). -/
def State.loopInput (s : State) (f : FabUnit) (k : Nat) : Bool :=
  s.fedByDelay f.key k || (f.op == 0x82 && k != 0) || (f.op == 0xC1 && k == 1 && f.ref) || (f.op == 0xC5 && k == 1)

/-- Inputs that must be cut before the unit saves itself. -/
def State.mustCut (s : State) (f : FabUnit) : List Nat := (upTo 3).filter fun k => s.fed f.key k && !s.loopInput f k

/-- The marker enters the routes that `p` picks. -/
def State.markRoutes (s : State) (p : Route → Bool) : State :=
  { s with routes := updWhere (fun r => p r && r.mark.isNone) (fun r => { r with mark := some 0 }) s.routes }

/-- A token that is kept: a bubble is not. -/
def keepTok (t : Option Token) : Option Token := t.filter fun t => t != .bubble

def Slot.kept (o : Slot) : Slot := if o.tok = some .bubble then ⟨none, []⟩ else o

/-- The unit saves what it holds and sends the marker on every output. -/
def State.leaveUnit (s : State) (u : UKey) : State :=
  (s.modUnit u fun f => { f with left := true, ins := f.ins.map keepTok, outs := f.outs.map Slot.kept }).markRoutes fun r =>
    match r.src with
    | .unit a _ => a == u
    | .port _ _ => false

/-- The unit saves itself once every input that must be cut is. -/
def State.tryLeave (s : State) (u : UKey) : State :=
  match s.unit? u with
  | some f => if !f.left && (s.mustCut f).all fun k => (f.cut[k]?).getD false then s.leaveUnit u else s
  | none => s

/-- The marker passes an entry port: what waits there stays there. -/
def State.cutPort (s : State) (serial folio port : Nat) : State :=
  (s.modPort serial folio port fun p => { p with cut := true, slot := p.slot.kept }).markRoutes fun r =>
    r.serial == serial && r.folio == folio && r.src == .port folio port

/-- The folio is placed and runs in the phase. -/
def State.running (s : State) (serial folio : Nat) : Bool := s.inPhase serial folio && (s.resident? serial folio).isSome

/-- A route leads into an out port of a running folio. -/
def State.outFed (s : State) (serial folio port : Nat) : Bool :=
  s.running serial folio && s.routes.any fun r => r.serial == serial && r.dst == .port folio port

/-- The marker of a port comes from elsewhere: over a chain, or through the attention pipeline. -/
def State.portFed (s : State) (i : Inst) (folio port : Nat) : Bool :=
  (i.chains.any fun c => c.2.2.1 == folio && c.2.2.2 == port && s.outFed i.serial c.1 c.2.1) ||
    s.attns.any fun a => a.serial == i.serial && a.folio == folio && a.oport == port && s.outFed i.serial a.folio a.qport

/-- The port is that of an engine response channel: of no push stream, chain or pipeline. -/
def State.engineChannel (s : State) (i : Inst) (folio port : Nat) : Bool :=
  s.streamPort i.serial folio port && !i.handles.any fun h => h.bind == .push folio port

/-- The ports of the running folios that `p` picks, and that are not fed from elsewhere, pass the marker. -/
def State.cutPorts (s : State) (i : Inst) (p : Nat → Nat → Bool) : State :=
  (s.ports.filter fun a => a.serial == i.serial && s.running i.serial a.folio && !a.cut && p a.folio a.port &&
    !s.portFed i a.folio a.port).foldl (fun s a => s.cutPort i.serial a.folio a.port) s

/-- Every engine request has responded (R396). -/
def Inst.enginesDone (i : Inst) : Bool := i.handles.all fun h => h.reqs.all fun r => decide (6 < r.member) || r.resp.isSome

/-- CUT_START: markers enter every source; then, once every engine request has responded, the engine response channels. -/
def State.cutStart (s : State) (serial : Nat) : State :=
  match s.inst? serial with
  | none => s
  | some i =>
    match i.cut with
    | none => s
    | some c =>
      let stage (n : Nat) (s : State) : State := s.modInst serial fun i => { i with cut := some { c with stage := n } }
      if i.kill.isSome then s
      else if i.state = .faulted then s.askKill serial 0x11 2
      else if c.stage = 0 then
        let s := (s.abandon serial).cutPorts i fun f p => !s.engineChannel i f p
        let us := s.units.filter fun f => f.serial == serial && s.running serial f.folio
        stage 1 (us.foldl (fun s f => s.tryLeave f.key) s)
      else if c.stage = 1 ∧ i.enginesDone then stage 2 (s.cutPorts i fun f p => s.engineChannel i f p)
      else s

/-- R396. -/
def execCutStart (serial : Nat) (s : State) : Host.Outcome State Fault Refusal := .next (s.cutStart serial)

/-- The marker comes to the end of a route: an input is cut; an out port is a sink, or leads to the pipeline or along a
chain. -/
def State.markerIn (s : State) (r : Route) : State :=
  match r.dst with
  | .unit u k => (s.modUnit u fun f => { f with cut := updAt f.cut k fun _ => true }).tryLeave u
  | .port folio port =>
    match s.attns.find? fun a => a.serial == r.serial && a.folio == folio && a.qport == port with
    | some a => (s.modAttn a.q fun a => { a with cut := true }).cutPort r.serial a.folio a.oport
    | none =>
      match ((s.inst? r.serial).map Inst.chains).getD [] |>.find? fun c => c.1 == folio && c.2.1 == port with
      | some c => if s.running r.serial c.2.2.1 then s.cutPort r.serial c.2.2.1 c.2.2.2 else s
      | none => s

/-- CUT_MARKER_ARRIVAL: the marker takes the tokens of a link buffer into the record and passes on, or arrives. -/
def State.markerHop (s : State) (id hop : Nat) : State :=
  match s.routes.find? fun r => r.id == id with
  | none => s
  | some r =>
    if r.mark ≠ some hop ∨ r.hops.length < hop then s
    else
      let keep := ((r.hops[hop]?).getD []).filter fun t => t != .bubble
      let s := s.modRoute id fun r =>
        { r with mark := some (hop + 1), saved := updAt r.saved hop fun _ => keep, hops := updAt r.hops hop fun _ => [] }
      if hop = r.hops.length then s.markerIn r else s

/-- R397. -/
def execCutMarkerArrival (r hop : Nat) (s : State) : Host.Outcome State Fault Refusal := .next (s.markerHop r hop)

/-- Every sink has seen the marker and every loop input has absorbed its own; the thread is at user level, and nothing is
under way outside or between parts. -/
def State.cutDone (s : State) (i : Inst) (c : CutSt) : Bool :=
  c.stage == 2 && s.quietOutside i && s.arrivedAll i.serial &&
    (match i.hw with
      | some n => (s.sup (htCore n)).active != some n
      | none => true) &&
    (s.units.all fun f => !(f.serial == i.serial && s.running i.serial f.folio) || f.left) &&
    s.routes.all fun r => !(r.serial == i.serial && s.running i.serial r.folio) || r.mark == some (r.hops.length + 1)

/-! ### What leaves with the instance (R199, R273, R305, R397) -/

/-- The units of a matrix tile's refetch path: the load nodes that feed mload's in1 and the mmac's in2. -/
def State.refetchNodes (s : State) (f : FabUnit) : List UKey :=
  (s.feeder f.key 2).toList.map FabUnit.key ++ (((s.sibling f 0xB0).bind fun l => s.feeder l.key 1).toList.map FabUnit.key)

/-- A token of an abandoned refetch: a REWIND on the way to a load node, or a strip sent again. -/
def Token.rewind (t : Token) : Bool :=
  match t with
  | .doneTok w => fieldN w 30 2 == 1
  | _ => false

def Slot.drop (o : Slot) (p : Token → Bool) : Slot := if (o.tok.map p).getD false then ⟨none, []⟩ else o

/-- A replay that a cut abandons leaves no strip or REWIND of its refetch behind; `u`: the mmac (R273). -/
def State.dropRefetch (s : State) (u : FabUnit) : State :=
  let loads := s.refetchNodes u
  let heads := u.key :: ((s.sibling u 0xB0).toList.map FabUnit.key)
  let data (t : Token) : Bool := t.strip?.isSome
  let unit (f : FabUnit) : FabUnit :=
    if loads.contains f.key then
      { f with outs := updAt f.outs 1 fun o => o.drop data, ins := updAt f.ins 1 fun t => t.filter fun t => !t.rewind,
               loopIn := f.loopIn.filter fun e => !(e.1 == 1 && e.2.rewind),
               st := match f.st with
                 | .prog w us r _ q fin re es => .prog w us r [] q fin re es
                 | n => n }
    else if f.key = u.key then
      { f with outs := updAt f.outs 3 fun o => o.drop Token.rewind, ins := updAt f.ins 2 fun t => t.filter fun t => !data t }
    else if heads.contains f.key then { f with ins := updAt f.ins 1 fun t => t.filter fun t => !data t }
    else f
  let route (r : Route) : Route :=
    match r.src, r.dst with
    | .unit a _, .unit _ _ =>
      if loads.contains a ∧ r.pout = 1 then { r with hops := r.hops.map fun _ => [], saved := r.saved.map fun _ => [] }
      else if a = u.key ∧ r.pout = 3 then
        { r with hops := r.hops.map fun l => l.filter fun t => !t.rewind, saved := r.saved.map fun l => l.filter fun t => !t.rewind }
      else r
    | _, _ => r
  { s with units := s.units.map unit, routes := s.routes.map route }

/-- The open pass of a tile is abandoned and counted; its restart is at the trial rung, with REWIND(0, 0, 0). With one rung no refetch
comes, and the slab that the active register was saved with is the one that runs again (R260, R273, R274). -/
def State.abandonPass (s : State) (m : MTile) : State :=
  match s.units.find? fun f => f.op == 0xB2 && f.key.tile == m.key with
  | none => s
  | some u =>
    let g := s.geom u
    let count (s : State) : State := s.modInst u.serial fun i => i.mxUpd u fun c => { c with abandon := satInc32 c.abandon }
    match m.pass with
    | .opened =>
      if m.aStrips.isEmpty then s
      else (((count s).countAttempt u 0).countRows u g 0 (g.rowsIn m.aStrips.length)).modMtile m.key fun m =>
        { m with active := { m.active with full := false }, refetch := if g.rungs = 1 then m.active.strips else [], aRefetch := [] }
    | .replay rank _ _ _ _ _ d _ _ =>
      let z := zeroRows d.length g.ns
      ((count s).dropRefetch u).modMtile m.key fun m =>
        { m with pass := .replay rank 0 0 0 false 0 z z Counts.zero, refetch := if g.rungs = 1 then m.active.strips else [], aRefetch := [] }

/-- Cells of the banks of a tile that are kept. -/
def State.keptBanks (s : State) (r : Resident) (t : TKey) : TKey × Nat × List Host.Cell :=
  let mask := if r.pinned then 0xFFFF else r.mask (t.x - tileX r.base 0) (t.y - tileY r.base 0)
  (t, mask, s.tileCells t fun b => mask.testBit b)

/-- Cells of the elastic rings of a folio. -/
def State.ringCells (s : State) (serial folio : Nat) : List (TKey × Nat × List Host.Cell) :=
  (s.units.filter fun f => f.serial == serial && f.folio == folio).filterMap fun f => match f.st with
    | .ring first count _ =>
      let offs := (upTo count).map fun k => progOffset f.frame 22 (progNth f.frame ((first + k) % progTotal f.frame))
      some (f.key.tile, 0, offs.flatMap fun o => (memSlice s.mem (tileMem f.key.tile o) 512).map fun c => (c.1 - tileMem f.key.tile 0, c.2))
    | _ => none

/-- A unit in the record: not cut, and no wait of an lkpool (R229). -/
def FabUnit.stored (f : FabUnit) : FabUnit :=
  { f with cut := [false, false, false], left := false,
           st := match f.st with
             | .lk held _ => .lk held none
             | n => n }

/-- A route in the record: its hops hold what the marker took and what is behind it. -/
def Route.stored (r : Route) : Route :=
  { r with hops := (r.saved.zip r.hops).map fun p => (p.1 ++ p.2).filter fun t => t != .bubble, saved := r.saved.map fun _ => [], mark := none }

/-- A matrix tile of a folio outside the phase, as an eviction keeps it (R82). -/
def State.idleTile (s : State) (m : MTile) : MTile :=
  let mask := match s.resident? m.serial m.folio with
    | some r => r.mask (m.key.x - tileX r.base 0) (m.key.y - tileY r.base 0)
    | none => 0
  { m with active := .empty, loading := .empty, refetch := [], aStrips := [], aRefetch := [], pass := .opened, lost := false, path := [],
           slots := m.slots.filter fun e => mask.testBit (e.1 / 4096) }

/-- The tile's bank that holds a barrier object is kept. -/
def barKept (banks : List (TKey × Nat × List Host.Cell)) (o : BarObj) : Bool :=
  match o.pool with
  | .tile t => banks.any fun b => b.1 == t && b.2.1.testBit (bankOf (o.addr - tileMem t 0))
  | _ => false

/-- A pool that is a tile. -/
def Pool.isTile (p : Pool) : Bool :=
  match p with
  | .tile _ => true
  | _ => false

/-- What a cut or a yield saves (R199, R397). -/
def State.capture (s : State) (i : Inst) : Saved :=
  let rs := s.residents.filter fun r => r.serial == i.serial
  let banks := (rs.flatMap fun r => (memTiles r.q r.shape r.base).map (s.keptBanks r))
  { region := i.region, residents := rs,
    units := (s.units.filter fun f => f.serial == i.serial).map FabUnit.stored,
    routes := (s.routes.filter fun r => r.serial == i.serial).map Route.stored,
    mtiles := (s.mtiles.filter fun m => m.serial == i.serial).map fun m => if s.inPhase m.serial m.folio then m else s.idleTile m,
    helds := s.helds.filter fun h => h.serial == i.serial,
    banks := banks ++ (rs.filter fun r => s.inPhase i.serial r.folio).flatMap fun r => s.ringCells i.serial r.folio,
    attns := (s.attns.filter fun a => a.serial == i.serial).map Attn.rewound,
    bankToks := s.bankToks.filter fun b => b.serial == i.serial,
    confs := s.confs.filter fun c => c.serial == i.serial,
    locks := s.locks.filter fun l => l.pool.isTile && l.holder.serial? == some i.serial,
    bars := s.bars.filter fun o => o.serial == i.serial && barKept banks o,
    waits := s.waits.filter fun w => w.waiter.serial? == some i.serial && w.sw,
    decls := s.decls.filter fun d => d.serial == i.serial }

/-- The instance leaves its quires with what it saves; its tiles are cleared, its region and its thread are free. -/
def State.depart (s : State) (i : Inst) (state : IState) : State :=
  let sv := s.capture i
  let ports := s.ports.filter fun p => p.serial == i.serial
  let s := (s.clearRegion i.region).removeAll i.serial
  let s := { s with
    ports := s.ports ++ ports.map fun (p : InPort) => { p with cut := false },
    locks := s.locks.filter fun l => !(l.pool.isTile && l.holder.serial? == some i.serial),
    bars := s.bars.filter fun o => !(o.serial == i.serial && o.pool.isTile),
    waits := s.waits.filter fun w => w.waiter.serial? != some i.serial,
    decls := s.decls.filter fun d => d.serial != i.serial }
  (s.modInst i.serial fun i =>
    { i with state := state, saved := some sv, region := [], hw := none, stall := none, cut := none, yieldReq := false,
             arrival := s.nsec }).relink

/-! ### The save record (R398) -/

/-- An entry: its header fields, its payload in parts, each with its size and its bytes where the manual lays them out (log entry
12), and the place among routes or held stores that tells apart entries with one header. -/
structure SaveEntry where
  kind : Nat
  folio : Nat
  x : Nat
  y : Nat
  slot : Nat
  sub : Nat
  index : Nat
  tie : Nat
  parts : List (Nat × Option (List Byte))
  deriving DecidableEq, Repr

/-- LEN: payload bytes. -/
def SaveEntry.size (e : SaveEntry) : Nat := (e.parts.map Prod.fst).sum

/-- The payload padded to 16 bytes. -/
def SaveEntry.room (e : SaveEntry) : Nat := (e.size + 15) / 16 * 16

/-- The canonical order as a number: folio, tile y, tile x, unit slot, kind, index; what belongs to no folio comes last. -/
def saveKey (kind folio x y slot sub index tie : Nat) : Nat :=
  (if kind = 12 ∨ 14 ≤ kind then 2 ^ 72 * kind else 0) + folio * 2 ^ 64 + y * 2 ^ 60 + x * 2 ^ 56 + slot * 2 ^ 50 + kind * 2 ^ 46 +
    sub * 2 ^ 44 + index * 2 ^ 24 + tie

def SaveEntry.key (e : SaveEntry) : Nat := saveKey e.kind e.folio e.x e.y e.slot e.sub e.index e.tie

/-- A saved token: 512 bytes, then its kind. Only data and EOS have one (log entry 12). -/
def savedToken (t : Token) : Nat × Option (List Byte) :=
  match t with
  | .data v => (528, some (stripBytes v ++ List.replicate 16 0#8))
  | .eos => (528, some (List.replicate 512 0#8 ++ 1#8 :: List.replicate 15 0#8))
  | _ => (528, none)

/-- The token that stands in a saved token's place when its bytes are read again. -/
def Token.reread (t : Token) (l : Option (List Byte)) : Token :=
  match t.kept, l with
  | true, some b =>
    if b[512]? = some 1#8 then .eos else if b[512]? = some 0#8 then .data (BitVec.ofNat 4096 (bytesNat (b.take 512))) else t
  | _, _ => t

/-- The tokens of a buffer that have entries, read again: the n-th of them from what `rd` gives for n. -/
def rereadAll (rd : Nat → Option (List Byte)) : Nat → List Token → List Token
  | _, [] => []
  | n, t :: l => if t.kept then t.reread (rd n) :: rereadAll rd (n + 1) l else t :: rereadAll rd n l

/-- Entries of a buffer's tokens, numbered in order. -/
def tokenEntries (kind folio x y slot sub tie : Nat) (l : List Token) : List SaveEntry :=
  (l.filter Token.kept).zipIdx.map fun (t, n) => ⟨kind, folio, x, y, slot, sub, n, tie, [savedToken t]⟩

/-- What the record says for an entry: its payload, by the entry's key. -/
abbrev SaveRead := Nat → Option (List Byte)

/-- The tokens of an input in order: its latch, then what a loop input has taken (R448). -/
def FabUnit.inputToks (f : FabUnit) (k : Nat) : List Token := (f.latch k).toList ++ (f.loopIn.filter fun p => p.1 == k).map Prod.snd

/-- Entries of a unit. SUB is the output of an output slot, and 2 for the retire slots of a carry (log entry 12). -/
def FabUnit.entries (f : FabUnit) : List SaveEntry :=
  let e (kind slot size : Nat) : SaveEntry := ⟨kind, f.folio, f.fx, f.fy, slot, 0, 0, 0, [(size, none)]⟩
  let toks (kind sub : Nat) (l : List Token) : List SaveEntry := tokenEntries kind f.folio f.fx f.fy f.key.slot sub 0 l
  let own := match f.st with
    | .carry _ retired _ _ _ _ => toks 2 2 (retired.map Prod.snd) ++ [e 5 f.key.slot 128]
    | .const _ _ => if f.auxBits 0 1 = 1 then [e 5 f.key.slot 128] else []
    | .delay l => toks 4 0 l
    | .ctr _ _ _ _ _ _ _ _ _ _ _ _ _ => [e 5 f.key.slot 128]
    | .ctl _ _ _ _ _ _ _ _ => [e 5 f.key.slot 128]
    | .prog _ us _ _ _ _ _ _ => if f.op = 0xC0 ∨ f.agv then [e 7 (8 + f.auxBits 0 2) (64 + if f.ref then 16 * us.length else 0)] else []
    | .ring _ count _ => [e 7 (8 + f.auxBits 0 2) (64 + 528 * count)]
    | _ => []
  ((upTo 3).flatMap fun k => toks 1 k (f.inputToks k)) ++ ((f.outs.zipIdx).flatMap fun (o, p) => toks 2 p o.tok.toList) ++ own ++
    if f.op < 0x80 ∧ f.mode = 4 then [e 6 f.key.slot 16] else []

/-- A unit with the tokens that the record holds for it. -/
def FabUnit.reread (rd : SaveRead) (f : FabUnit) : FabUnit :=
  let at' (kind sub : Nat) (n : Nat) : Option (List Byte) := rd (saveKey kind f.folio f.fx f.fy f.key.slot sub n 0)
  let before (k j : Nat) : Nat :=
    (((f.latch k).toList ++ ((f.loopIn.take j).filter fun p => p.1 == k).map Prod.snd).filter Token.kept).length
  { f with
    ins := f.ins.zipIdx.map fun (t, k) => t.map fun t => t.reread (at' 1 k 0),
    outs := f.outs.zipIdx.map fun (o, p) => { o with tok := o.tok.map fun t => t.reread (at' 2 p 0) },
    loopIn := f.loopIn.zipIdx.map fun (e, j) => (e.1, e.2.reread (at' 1 e.1 (before e.1 j))),
    st := match f.st with
      | .carry l retired a b c d => .carry l ((retired.map Prod.fst).zip (rereadAll (at' 2 2) 0 (retired.map Prod.snd))) a b c d
      | .delay l => .delay (rereadAll (at' 4 0) 0 l)
      | n => n }

/-- The folio position of an end of a route. -/
def State.endPos (s : State) (i : Inst) (sv : Saved) (r : Route) (e : End) : Int × Int :=
  match e with
  | .unit u _ =>
    match sv.residents.find? fun p => p.folio == r.folio with
    | some p => ((u.x : Int) - tileX p.base 0, (u.y : Int) - tileY p.base 0)
    | none => (0, 0)
  | .port f p =>
    match s.folio i f with
    | .ok g => (g.port p).pos g.shape
    | .error _ => (0, 0)

/-- The header fields of a route's hop k: tile x and y, the producer's slot, the direction; x hops come first, then y hops (R130). -/
def State.hopPlace (s : State) (i : Inst) (sv : Saved) (r : Route) (k : Nat) : Nat × Nat × Nat × Nat :=
  let a := s.endPos i sv r r.src
  let b := s.endPos i sv r r.dst
  let dx := (b.1 - a.1).natAbs
  let slot := match r.src with
    | .unit u _ => u.slot
    | .port _ p => 32 + p
  let x : Int := if k < dx then (if a.1 ≤ b.1 then a.1 + k else a.1 - k) else b.1
  let y : Int := if k < dx then a.2 else if a.2 ≤ b.2 then a.2 + (k - dx : Nat) else a.2 - (k - dx : Nat)
  (x.toNat % 8, y.toNat % 8, slot, if k < dx then (if a.1 ≤ b.1 then 1 else 3) else if a.2 ≤ b.2 then 2 else 0)

/-- Entries of a route's link buffers; `n`: its place among the routes. -/
def State.routeEntries (s : State) (i : Inst) (sv : Saved) (r : Route) (n : Nat) : List SaveEntry :=
  r.hops.zipIdx.flatMap fun (l, k) =>
    let (x, y, slot, dir) := s.hopPlace i sv r k
    tokenEntries 3 r.folio x y slot dir (16 * n + k) l

/-- A route with the tokens that the record holds for it. -/
def State.rereadRoute (s : State) (rd : SaveRead) (i : Inst) (sv : Saved) (r : Route) (n : Nat) : Route :=
  { r with hops := r.hops.zipIdx.map fun (l, k) =>
      let (x, y, slot, dir) := s.hopPlace i sv r k
      rereadAll (fun j => rd (saveKey 3 r.folio x y slot dir j (16 * n + k))) 0 l }

/-- The issue index of the n-th held store within its invocation. -/
def issueIndex (hs : List Held) (n : Nat) (h : Held) : Nat :=
  ((hs.take n).filter fun g => g.leaf == h.leaf && g.run == h.run).length

/-- The entry of the n-th held store. -/
def heldEntry (us : List FabUnit) (hs : List Held) (h : Held) (n : Nat) : SaveEntry :=
  let f := us.find? fun f => f.key == h.unitKey
  let k := issueIndex hs n h
  ⟨8, (f.map FabUnit.folio).getD 0, (f.map FabUnit.fx).getD 0, (f.map FabUnit.fy).getD 0, h.unitKey.slot, 0, k, n,
    [(528, some (stripBytes h.data ++ natBytes 3 h.off ++ natBytes 1 k ++ List.replicate 12 0#8))]⟩

/-- A held store with the strip and the offset that the record holds for it. -/
def Held.reread (rd : SaveRead) (us : List FabUnit) (hs : List Held) (h : Held) (n : Nat) : Held :=
  match rd (heldEntry us hs h n).key with
  | some b => { h with data := BitVec.ofNat 4096 (bytesNat (b.take 512)), off := bytesNat ((b.drop 512).take 3) }
  | none => h

/-- The tokens of an attention pipeline that make up saved queries; a lone EOS behind them is none. -/
def queryToks (l : List Token) : List Token := if l.length % 2 = 1 ∧ l.getLast? = some .eos then l.dropLast else l

/-- The attention queries of a pipeline: head and strip tokens (R305). A head whose strip has not come leaves its place open. -/
def Attn.entry (a : Attn) : List SaveEntry :=
  let l := queryToks a.inq
  if l.isEmpty then []
  else [⟨10, a.folio, 0, 0, 0, 0, 0, 0, l.map savedToken ++ if l.length % 2 = 1 then [(528, none)] else []⟩]

/-- A pipeline with the tokens that the record holds for it. -/
def Attn.reread (rd : SaveRead) (a : Attn) : Attn :=
  let b := rd (saveKey 10 a.folio 0 0 0 0 0 0)
  let n := (queryToks a.inq).length
  { a with inq := a.inq.zipIdx.map fun (t, j) => if j < n then t.reread (b.map fun b => (b.drop (528 * j)).take 528) else t }

/-- The tokens of an entry port in order. -/
def InPort.toks (p : InPort) : List Token := p.slot.tok.toList ++ p.q

/-- A port with the tokens that the record holds for it. -/
def InPort.reread (rd : SaveRead) (p : InPort) : InPort :=
  let l := rereadAll (fun n => rd (saveKey 11 p.folio 0 0 (32 + p.port) 0 n 0)) 0 p.toks
  if p.slot.tok.isSome then { p with slot := { p.slot with tok := l.head? }, q := l.drop 1 } else { p with q := l }

/-- A saved bank's place: the folio that holds its tile, and the tile's position there. -/
def Saved.bankPlace (sv : Saved) (t : TKey) : Nat × Nat × Nat :=
  match sv.residents.find? fun r => (memTiles r.q r.shape r.base).contains t with
  | some r => (r.folio, t.x - tileX r.base 0, t.y - tileY r.base 0)
  | none => (0, 0, 0)

/-- The saved banks of a tile, by a mask. -/
def banksOf (mask : Nat) : List Nat := (upTo 16).filter fun k => mask.testBit k

/-- Entries of the saved banks of a tile. -/
def State.bankEntries (s : State) (sv : Saved) (b : TKey × Nat × List Host.Cell) : List SaveEntry :=
  let p := sv.bankPlace b.1
  (banksOf b.2.1).map fun k =>
    ⟨13, p.1, p.2.1, p.2.2, 0, 0, k, 0, [(262144, some ((upTo 512).flatMap fun j => s.bytes (tileMem b.1 ((16 * j + k) * 512)) 512))]⟩

/-- The cells of a bank from its bytes. -/
def bankCells (k : Nat) (l : List Byte) : List Host.Cell := l.zipIdx.map fun (v, n) => ((16 * (n / 512) + k) * 512 + n % 512, v)

/-- Saved banks with the bytes that the record holds for them. -/
def Saved.rereadBank (rd : SaveRead) (sv : Saved) (b : TKey × Nat × List Host.Cell) : TKey × Nat × List Host.Cell :=
  let p := sv.bankPlace b.1
  (b.1, b.2.1, b.2.2 ++ (banksOf b.2.1).flatMap fun k => bankCells k ((rd (saveKey 13 p.1 p.2.1 p.2.2 0 0 k 0)).getD []))

/-- The entries of a save, in canonical order. -/
def State.saveEntries (s : State) (i : Inst) (sv : Saved) : List SaveEntry :=
  let tiles := sv.mtiles.map fun m =>
    let base := ((sv.residents.find? fun r => r.folio == m.folio).map Resident.base).getD 0
    (⟨9, m.folio, m.key.x - tileX base 0, m.key.y - tileY base 0, 0, 0, 0, 0, [(589888, none)]⟩ : SaveEntry)
  let ports := (s.ports.filter fun p => p.serial == i.serial).flatMap fun p => tokenEntries 11 p.folio 0 0 (32 + p.port) 0 0 p.toks
  let queues := i.handles.zipIdx.flatMap fun (h, k) => tokenEntries 12 0 0 0 k 0 0 h.q
  sortBy (fun a b : SaveEntry => decide (a.key ≤ b.key))
    (sv.units.flatMap FabUnit.entries ++ (sv.routes.zipIdx.flatMap fun (r, n) => s.routeEntries i sv r n) ++
      (sv.helds.zipIdx.map fun (h, n) => heldEntry sv.units sv.helds h n) ++ tiles ++ sv.attns.flatMap Attn.entry ++ ports ++ queues ++
      sv.banks.flatMap (s.bankEntries sv) ++ [⟨14, 0, 0, 0, 0, 0, 0, 0, [(512, none)]⟩, ⟨15, 0, 0, 0, 0, 0, 0, 0, []⟩])

/-- What was saved, with the tokens and bank bytes that the record holds (R399, R403). -/
def State.rereadSaved (s : State) (rd : SaveRead) (i : Inst) (sv : Saved) : Saved :=
  { sv with units := sv.units.map (FabUnit.reread rd), routes := sv.routes.zipIdx.map fun (r, n) => s.rereadRoute rd i sv r n,
            helds := sv.helds.zipIdx.map fun (h, n) => h.reread rd sv.units sv.helds n, attns := sv.attns.map (Attn.reread rd),
            banks := sv.banks.map (sv.rereadBank rd) }

/-- Entry ports and stream queues of an instance, with the tokens that the record holds. -/
def State.rereadQueues (s : State) (rd : SaveRead) (serial : Nat) : State :=
  ({ s with ports := updWhere (fun p => p.serial == serial) (InPort.reread rd) s.ports } : State).modInst serial fun i =>
    { i with handles := i.handles.zipIdx.map fun (h, k) => { h with q := rereadAll (fun n => rd (saveKey 12 0 0 0 k 0 n 0)) 0 h.q } }

/-- SAVEUSED. -/
def saveUsed (l : List SaveEntry) : Nat := (l.map fun e => 16 + e.room).sum

/-- The header of an entry. -/
def SaveEntry.header (e : SaveEntry) : List Byte :=
  natBytes 4 (e.kind % 16 + e.folio % 256 * 2 ^ 4 + e.x % 8 * 2 ^ 12 + e.y % 8 * 2 ^ 15 + e.slot % 64 * 2 ^ 18 + e.sub % 4 * 2 ^ 24 +
    e.index % 64 * 2 ^ 26) ++ natBytes 4 e.size ++ List.replicate 8 0#8

/-- A payload's bytes; what the manual does not lay out is free. `k`: the first free value. -/
def payloadBytes : Nat → List (Nat × Option (List Byte)) → List Byte
  | _, [] => []
  | k, p :: l => p.2.getD ((upTo p.1).map fun n => Config.savePayload (k + n)) ++ payloadBytes (k + p.1) l

/-- The record's bytes. -/
def recordBytes : Nat → List SaveEntry → List Byte
  | _, [] => []
  | k, e :: l => e.header ++ payloadBytes k e.parts ++ List.replicate (e.room - e.size) 0#8 ++ recordBytes (k + e.size) l

/-- The payloads of a record's entries, each by its key. -/
def payloads : List SaveEntry → List Byte → List (Nat × List Byte)
  | [], _ => []
  | e :: l, b => (e.key, (b.drop 16).take e.size) :: payloads l (b.drop (16 + e.room))

/-- A record as it is read again: what it says for each entry of the save. -/
def readRecord (l : List SaveEntry) (b : List Byte) : SaveRead := fun k => ((payloads l b).find? fun p => p.1 == k).map Prod.snd

/-- The bytes that a cut writes at SAVEBASE: a confidential instance's record fills whole data tiles (R415). -/
def State.recordOf (s : State) (i : Inst) (l : List SaveEntry) : List Byte :=
  let b := recordBytes s.free l
  if (s.part i.part).conf then b ++ List.replicate ((4096 - b.length % 4096) % 4096) 0#8 else b

/-- An uncorrectable error of the record itself is ECC, subcause SAVE (R398); one that the walk to it meets stays WALK (R385). -/
def DevErr.ofRecord (e : DevErr) : DevErr := if e.cause = 0x12 ∧ e.sub ≠ 1 then { e with sub := 4 } else e

/-- The record, the directory and the fault copy are written, up to the first error (R385, R395, R398). -/
def State.writeSave (s : State) (i : Inst) (epoch : Nat) (l : List SaveEntry) : Option DevErr × State :=
  let w := { i.device with region := [] }
  match s.devWriteVer w epoch i.saveBase (s.recordOf i l) with
  | (some e, s) => (some e.ofRecord, s)
  | (none, s) =>
    match s.devWrite w i.recVA i.fault.copyBytes with
    | (some e, s) => (some e, s)
    | (none, s) => s.devWrite w (i.recVA + 0x2D0#64) (natBytes 8 (saveUsed l) ++ natBytes 4 epoch)

/-- CUT_COMPLETE: banks are saved, the record is written, EPOCH advances, and the instance enters CUT; or it faults and is killed
(R385, R397, R398). -/
def State.cutComplete (s : State) (serial : Nat) : State :=
  match s.inst? serial with
  | none => s
  | some i =>
    match i.cut with
    | none => s
    | some c =>
      if i.kill.isSome then s
      else if i.state = .faulted then s.askKill serial 0x11 2
      else if !s.cutDone i c then s
      else
        let ms := s.mtiles.filter fun m => m.serial == serial && s.inPhase serial m.folio
        let s := ms.foldl State.abandonPass s
        match s.inst? serial with
        | none => s
        | some i =>
          let l := s.saveEntries i (s.capture i)
          if i.saveSize.toNat < saveUsed l then s.askKill serial 0x11 3
          else match s.writeSave i c.epoch l with
            | (some e, t) => (t.bindFault serial ((i.region.head?.map Prod.fst).getD 0) 0 e).askKill serial e.cause e.sub
            | (none, t) =>
              let t := { t with free := t.free + saveUsed l }
              (t.depart i .cut).modInst serial fun i => { i with epoch := c.epoch, debugHeld := c.debug }

/-- R397. -/
def execCutComplete (serial : Nat) (s : State) : Host.Outcome State Fault Refusal := .next (s.cutComplete serial)

/-! ### yieldpt (R199, R327) -/

/-- The save areas of a list of folios are written, then that of the thread (R199), up to the first that faults: its folio and the
fault. -/
def State.writeAreas (s : State) (i : Inst) : List Nat → Option (Nat × DevErr) × State
  | [] => match s.writeArea i 256 with
    | (some e, s) => (some (0, e), s)
    | (none, s) => (none, s)
  | n :: l => match s.writeArea i n with
    | (some e, s) => (some (n, e), s)
    | (none, s) => s.writeAreas i l

/-- Resident folios of an instance. -/
def State.foliosOf (s : State) (serial : Nat) : List Nat := (s.residents.filter fun r => r.serial == serial).map Resident.folio

/-- `yieldpt`. A row in progress on a token unit is waited for (R327), and a token under way between parts; a fault of a save area
faults the instance (R385). -/
def yieldBody (d : BitVec 5) (s : State) : Ans Flow :=
  match s.me with
  | none => .ok .next (s.wr d 0#64)
  | some i =>
    if !i.yieldReq || i.active || s.level != 0 then .ok .next (s.wr d 0#64)
    else if !s.rowsStopped i.serial || !s.arrivedAll i.serial then .wait none s
    else match s.writeAreas i (s.foliosOf i.serial) with
      | (some e, t) => .ok .stay (t.bindFault i.serial s.meQuire e.1 e.2)
      | (none, t) =>
        let t := t.modInst i.serial fun i => { i with ctx := { i.ctx.wr d 1#64 with pc := i.ctx.pc + 4#64 } }
        match t.inst? i.serial with
        | some i => .ok .stay ((t.progress i.serial).depart i .yielded)
        | none => .ok .next t

/-- R199. -/
def execYieldpt (d : BitVec 5) (g : BitVec 3) (s : State) : Host.Outcome State Fault Refusal :=
  runWord s false 0 [d] g fun s => yieldBody d s

/-! ### SKILL, SCUT, SRESUME, SHUNG, mailbox (R390, R400, R455) -/

/-- The instance is one of this quire; `none`: every quire's (log entry 34). -/
def Inst.ofQuire (i : Inst) (q : Option Nat) : Bool :=
  match q with
  | none => true
  | some q =>
    match i.saved with
    | some sv => (sv.region.head?.map Prod.fst) == some q
    | none => i.region.any fun r => r.1 == q

/-- An instance of the quire that R455 lets be named, in one of its states. -/
def Inst.named455 (i : Inst) (q : Option Nat) : Bool :=
  (i.state == .placed || i.state == .run || i.state == .faulted || i.state == .yielded || i.state == .cut) && i.ofQuire q

/-- The instance is of the quire's partition. -/
def State.sameQuirePart (s : State) (i : Inst) (q : Option Nat) : Bool :=
  match q with
  | none => true
  | some q => s.partOfQuire q == some i.part

/-- Result of SKILL: 0 OK, 1 NOINST, 2 STATE, by the states that R455 lists and the quires of the region or of what was saved. -/
def State.skillResult (s : State) (q : Option Nat) (serial : Nat) : Nat :=
  match s.inst? serial with
  | none => 1
  | some i =>
    if i.named455 q then 0
    else if s.sameQuirePart i q && (i.state == .queued || i.state == .done || i.state == .killed) then 2 else 1

/-- A SKILL write. -/
def State.skillWrite (s : State) (q : Option Nat) (v : W64) : Nat × State :=
  let n := fieldN v 0 32
  let r := s.skillResult q n
  (r, if r = 0 then s.askKill n (fieldN v 32 8) (fieldN v 40 8) else s)

/-- A SCUT write (R455): 3 INPROG while a cut is under way; a FAULTED instance is killed with CUTKILL, subcause FAULTED, and the result
is 0. Every result but 0 changes nothing else. -/
def State.scutWrite (s : State) (q : Option Nat) (v : W64) : Nat × State :=
  let n := fieldN v 0 32
  match s.skillResult q n, s.inst? n with
  | 0, some i =>
    if i.state = .yielded ∨ i.state = .cut then (2, s)
    else if i.cut.isSome then (3, s)
    else (0, s.cutOrKill i (bitAt v 32))
  | r, _ => (r, s)

/-- SKILL of a quire. -/
def State.skillReg (s : State) (q : Nat) (v : W64) : State :=
  let (r, s) := s.skillWrite (some q) v
  s.modQuire q fun a => { a with skill := BitVec.ofNat 3 r }

/-- SCUT of a quire. -/
def State.scutReg (s : State) (q : Nat) (v : W64) : State :=
  let (r, s) := s.scutWrite (some q) v
  s.modQuire q fun a => { a with scut := BitVec.ofNat 3 r }

/-- A SRESUME write: an instance that a debug cut holds becomes a candidate, whatever quire the register is of (R400). -/
def State.sresumeWrite (s : State) (v : W64) : State :=
  let n := fieldN v 0 32
  match s.inst? n with
  | some i =>
    if i.state = .cut ∧ i.debugHeld = true then
      s.modInst n fun i => { i with debugHeld := false, arrival := s.nsec }
    else s
  | none => s

/-- A SHUNG write: each thread whose bit is 1 restarts at STVEC at supervisor level; one waits while the core's other
thread is at supervisor level (R353). -/
def State.shungWrite (s : State) (q : Nat) (v : W64) : State :=
  (upTo 8).foldl (fun s t =>
    let n := 8 * q + t
    let b := s.sup (htCore n)
    if bitAt v t && bitAt (s.quire q).shung t && (b.active.isNone || b.active == some n) then
      (s.modSup (htCore n) fun b =>
        { b with active := some n, regs := { b.regs with inh := false }, ctx := { b.ctx with pc := b.regs.tvec }, wait := false }).modQuire q
          fun r => { r with shung := setBitTo r.shung t false }
    else s) s

/-- A write of the mailbox's FRCAUSE: 1 to V frees it. -/
def State.mailboxWrite (s : State) (q : Nat) (v : W64) : State :=
  if bitAt v 19 then s.modQuire q fun r => { r with mbox := { r.mbox with v := false, more := 0 } } else s

/-- R455. -/
def execSkill (q : Nat) (v : BitVec 64) (s : State) : Host.Outcome State Fault Refusal := .next (s.skillReg q v)

/-- R455. -/
def execScut (q : Nat) (v : BitVec 64) (s : State) : Host.Outcome State Fault Refusal := .next (s.scutReg q v)

/-- R400. -/
def execSresume (_ : Nat) (v : BitVec 64) (s : State) : Host.Outcome State Fault Refusal := .next (s.sresumeWrite v)

/-- R400. -/
def execShungRestart (q : Nat) (v : BitVec 64) (s : State) : Host.Outcome State Fault Refusal := .next (s.shungWrite q v)

/-- R390. -/
def execMailboxFree (q : Nat) (v : BitVec 64) (s : State) : Host.Outcome State Fault Refusal := .next (s.mailboxWrite q v)

/-! ### The debug server (R403) -/

/-- Address of [off, off + n) of an instance's context header or save record; none past its end. -/
def Inst.savedAt (i : Inst) (header : Bool) (off n : Nat) : Option W64 :=
  if off + n ≤ (if header then 4096 else i.saveSize.toNat) then some ((if header then i.recVA else i.saveBase) + w64 off) else none

/-- The bytes of one page as the debug server reads them, which opens no seal: a sealed tile reads as its ciphertext (R403). -/
def State.debugPage (s : State) (i : Inst) (va : W64) (n : Nat) : Except DevErr (List Byte) × State :=
  let w := { i.device with region := [] }
  match s.resolve w .load va with
  | .ok (.hbm pa _) t =>
    if !t.fencePass w.part pa then s.devReadPage w 0 va n
    else if t.poisoned (hbmKey pa) n then (.error ⟨0x12, 0x02, va⟩, t.noteEcc 0x12)
    else (.ok (t.rawBytes pa n), t)
  | _ => s.devReadPage w 0 va n

/-- Reads [va, va + n) for the debug server, page by page. -/
def State.debugRead (s : State) (i : Inst) : Nat → W64 → Nat → Except DevErr (List Byte) × State
  | 0, _, _ => (.ok [], s)
  | fuel + 1, va, n =>
    if n = 0 then (.ok [], s)
    else match s.debugPage i va (pageRun va n) with
      | (.error e, s) => (.error e, s)
      | (.ok l, s) =>
        let r := s.debugRead i fuel (va + w64 (pageRun va n)) (n - pageRun va n)
        (r.1.map fun m => l ++ m, r.2)

/-- The debug server writes bytes of one page, sealing nothing: a sealed tile's stored bytes change and its tag fails. -/
def State.debugWritePage (s : State) (i : Inst) (va : W64) (l : List Byte) : State :=
  let w := { i.device with region := [] }
  match s.resolve w .store va with
  | .ok (.hbm pa _) t => if t.fencePass w.part pa then (t.breakSeal (pa / 4096)).put (hbmKey pa) l else (s.devWritePage w 0 va l).2
  | _ => (s.devWritePage w 0 va l).2

/-- Writes bytes for the debug server, page by page. -/
def State.debugWrite (s : State) (i : Inst) : Nat → W64 → List Byte → State
  | 0, _, _ => s
  | fuel + 1, va, l =>
    if l.isEmpty then s
    else (s.debugWritePage i va (l.take (pageRun va l.length))).debugWrite i fuel (va + w64 (pageRun va l.length))
      (l.drop (pageRun va l.length))

/-- Boot has failed: the management port refuses everything but versions and measurements (R437). -/
def State.bootFailed (s : State) : Bool := fieldN s.sys.mboot 4 4 != 0

def State.replyOut (s : State) (r : Reply) : State := { s with replies := s.replies ++ [r] }

/-- What an authenticated client asks for an instance (R403): a debug cut, its fault record, a mailbox, its save record and context
header and the registers of its saved thread while it is CUT, or its resumption by SRESUME (log entry 94). -/
def State.debugAsk (s : State) (i : Inst) (ask : DebugAsk) : State :=
  match ask with
  | .stop => if i.cut.isNone ∧ i.kill.isNone then s.cutOrKill i true else s
  | .readRecord => s.replyOut (.record i.fault.words)
  | .readMailbox q => s.replyOut (.record (s.quire q).mbox.words)
  | .readSaved header off n =>
    match i.savedAt header off n with
    | some va =>
      if i.state = .cut then
        let r := s.debugRead i (n / 4096 + 2) va n
        match r.1 with
        | .ok l => r.2.replyOut (.saved l)
        | .error _ => r.2.replyOut .refused
      else s.replyOut .refused
    | none => s.replyOut .refused
  | .writeSaved header off l =>
    match i.savedAt header off l.length with
    | some va => if i.state = .cut then s.debugWrite i (l.length / 4096 + 2) va l else s
    | none => s
  | .writeThreadReg r v =>
    if i.state = .cut ∧ (s.part i.part).conf = false ∧ r < i.regs then s.modInst i.serial fun i => { i with ctx := i.ctx.wr (BitVec.ofNat 5 r) v }
    else s
  | .resume => s.sresumeWrite (w64 i.serial)

/-- A request of the debug server's client: refused after a boot failure (R437). -/
def State.debug (s : State) (serial : Nat) (ask : DebugAsk) : State :=
  if s.bootFailed then s.replyOut .refused
  else match s.inst? serial with
    | none => s
    | some i => s.debugAsk i ask

/-- R403. -/
def execDebugRequest (serial : Nat) (ask : DebugAsk) (s : State) : Host.Outcome State Fault Refusal := .next (s.debug serial ask)

/-! ### The watchdog (R401) -/

/-- Registered waits of an instance's thread and update subgraphs, those in force: one that an automatic wait suspends is neither
followed nor counted (R223). -/
def State.regionWaits (s : State) (serial : Nat) : List Wait := s.waits.filter fun w => w.waiter.serial? == some serial && s.forced w

/-- What is left of the timeout of the request that a REMOTE wait is on: that for its address, or the wait of a zrecv for its channel;
where neither is outstanding, the word waits behind the instance's posted stores. -/
def State.remaining (s : State) (serial : Nat) (w : Wait) : Nat :=
  let left := s.remotes.filter fun r => r.ans.isNone
  let own := left.filter fun r => (r.serial == serial && !r.posted && r.va.toNat % 2 ^ 57 == w.obj) ||
    (r.serial == engineSerial serial && r.kind == 4 && r.addr == w.obj)
  let rs := if own.isEmpty then left.filter fun r => r.serial == serial && r.posted else own
  (rs.map fun r => r.sent.toNat + r.limit - s.nsec.toNat).foldl max 0

/-- Kinds of wait that a holder of another instance explains: BARRIER, CHILD, LOCK, QUEUE, FLAG, USER. -/
def explains (kind : Nat) : Bool := kind == 1 || kind == 2 || kind == 3 || kind == 4 || kind == 6 || kind == 7

/-- The no-progress timer fires. -/
def State.watchdog (s : State) (serial : Nat) : State :=
  match s.inst? serial with
  | none => s
  | some i =>
    let q := (i.region.head?.map Prod.fst).getD 0
    let period := (s.quire q).swdog.toNat * 1000
    if i.region.isEmpty || i.cut.isSome || i.kill.isSome || period == 0 || decide (s.nsec.toNat < i.lastProgress.toNat + period) then s
    else
      let s := s.event q 3
      let ws := s.regionWaits serial
      let again (extra : Nat) : State :=
        (s.modQuire q fun r => { r with swdcnt := satInc32 r.swdcnt }).modInst serial fun i =>
          { i with lastProgress := s.nsec + w64 extra }
      let mine (p : Party) : Bool := p.serial? == some serial
      let real := (ws.flatMap Wait.holders).filter fun h => h != .external
      let far := ws.filter fun w => w.kind == 5
      if !far.isEmpty then again ((far.map (s.remaining serial)).foldl max 0)
      else if ws.any fun w => explains w.kind && w.holders.any fun h => h != .external && !mine h then again 0
      else
        let sub := if !real.isEmpty && real.all mine then 2 else 1
        s.modInst serial fun i => { i with dog := some (sub, ws.length), lastProgress := s.nsec }

/-- R401. -/
def execWatchdogExpiry (serial : Nat) (s : State) : Host.Outcome State Fault Refusal := .next (s.watchdog serial)

end Sys2Proof.Machine
end

