-- ==== Sys2Proof/Machine/Schedule.lean ====
section
/-!
DEFINITION. The package scheduler: candidates (R367, R368), regions (R371), restore (R199, R399), visits (R369, R370), the
wait of a child (R372), time slices (R373), host launches (R364, R365), roles (R377, R378), lending and recall (R375, R376,
R405), and function resets (R411, R412, R427).
-/

namespace Sys2Proof.Machine

/-! ### Candidates (R367, R368) -/

/-- QUEUED, YIELDED or CUT; not held by a debug cut (R400) and not being killed. -/
def Inst.candidate (i : Inst) : Bool :=
  (i.state == .queued || i.state == .yielded || (i.state == .cut && !i.debugHeld)) && i.kill.isNone

/-- The parent that has the instance unjoined. -/
def State.parentInst (s : State) (i : Inst) : Option Inst :=
  (i.src.parent.bind s.inst?).filter fun p => p.live && p.children.contains i.serial

/-- The parent's thread waits in `join` for a child, or in `launch` with the child in its kitty; a parent that is itself a candidate
has no thread that waits (R372 makes it the waiter of its own placement). -/
def Inst.awaits (p : Inst) (n : Nat) : Bool :=
  match p.hw, p.stall with
  | some _, some st => (st.kind == 2 && st.obj == n) || (st.kind == 4 && st.obj / 2 ^ 36 == 3 && p.kitty.contains n)
  | _, _ => false

def State.classOf (s : State) (i : Inst) : Nat :=
  match s.parentInst i with
  | some p => if p.awaits i.serial then 0 else 1
  | none => if i.state = .queued ∧ i.src.parent.isSome then 1 else 2

/-- E of R368. -/
def State.schedE (s : State) (i : Inst) : Nat :=
  if i.state ≠ .queued then i.eff
  else match s.parentInst i with
    | some p => if p.awaits i.serial then max i.base p.eff else i.base
    | none => i.base

def State.schedPrio (s : State) (i : Inst) : Nat :=
  let step := fieldN s.sys.schctl 1 8
  min 7 (s.schedE i + if step = 0 then 0 else i.age / step)

/-- The order of candidates as one number: class, priority, arrival, SERIAL. -/
def State.candKey (s : State) (i : Inst) : Nat :=
  ((s.classOf i * 8 + (7 - s.schedPrio i)) * 2 ^ 64 + i.arrival.toNat) * 2 ^ 32 + i.serial

/-- Candidates of an owner in order. -/
def State.ownerCands (s : State) (o : Nat) : List Inst :=
  sortBy (fun a b : Inst => decide (s.candKey a ≤ s.candKey b)) (s.insts.filter fun i => i.candidate && i.owner == o)

/-! ### Regions (R371) -/

def State.lendOf (s : State) (q : Nat) : LendSt := s.lends[q]?.getD LendSt.reset

def State.modLend (s : State) (q : Nat) (f : LendSt → LendSt) : State := { s with lends := updAt s.lends q f }

/-- The partition is role-controlled (R377). -/
def State.roleOn (s : State) (p : Nat) : Bool := bitAt s.sys.role 15 && fieldN s.sys.role 0 5 == p

/-- A quire of the instance's partition and role that takes new placements: not leaving and not under recall. -/
def State.openQuire (s : State) (i : Inst) (q : Nat) : Bool :=
  bitAt (s.part i.part).quires q && !(s.lendOf q).leaving && !(s.lendOf q).busy &&
    (!s.roleOn i.part || bitAt s.sys.rolemask q == i.role)

def State.freeSlot (s : State) (q k : Nat) : Bool := !s.insts.any fun i => i.region.contains (q, k)

/-- The lowest free hardware thread of a quire; one that executes at supervisor level is not free. -/
def State.freeThread (s : State) (q : Nat) : Option Nat :=
  ((upTo 8).map (8 * q + ·)).find? fun n => (s.instOn n).isNone && (s.sup (htCore n)).active != some n

/-- SLOTS of an instance: its cost (R369). -/
def Inst.slots (i : Inst) : Nat := fieldN i.header 64 16

/-- The region of an instance that has never run: the run of its largest shape, then the lowest free slots. -/
def State.freshRegion (s : State) (i : Inst) : Option (List (Nat × Nat)) :=
  let qs := (upTo Config.quires).filter (s.openQuire i)
  let shape := s.largestShape i.device i.image i.header
  let runs : List (Nat × Nat) := qs.flatMap fun q => (shapeBases shape).map fun b => (q, b)
  match runs.find? fun r => (shapeRun shape r.2).all fun k => s.freeSlot r.1 k with
  | none => none
  | some (q, b) =>
    let run := (shapeRun shape b).map fun k => (q, k)
    let free := qs.flatMap fun q => ((upTo 4).filter fun k => s.freeSlot q k && !run.contains (q, k)).map fun k => (q, k)
    let rest := free.take (i.slots - run.length)
    if run.length + rest.length < i.slots then none
    else some (sortBy (fun a b => decide (a.1 < b.1) || (a.1 == b.1 && decide (a.2 ≤ b.2))) (run ++ rest))

/-- The slots of a region by quire, in order. -/
def slotPattern (r : List (Nat × Nat)) : List (List Nat) :=
  (distinct (r.map Prod.fst)).map fun q => (r.filter fun e => e.1 == q).map Prod.snd

/-- Quires, each above the one before, at which the patterns fit from the k-th on. -/
def fitPattern (ok : Nat → Nat → List Nat → Bool) : List Nat → Nat → List (List Nat) → Option (List Nat)
  | _, _, [] => some []
  | [], _, _ => none
  | q :: qs, k, p :: ps =>
    if ok k q p then (fitPattern ok qs (k + 1) ps).map fun l => q :: l else fitPattern ok qs k (p :: ps)

/-- The k-th quire of a saved region is that of one of the instance's bindings. -/
def Inst.bindsAt (i : Inst) (r : List (Nat × Nat)) (k : Nat) : Bool :=
  i.bindings.any fun b => (r[b.rslot]?.map Prod.fst) == (distinct (r.map Prod.fst))[k]?

/-- A region congruent to a saved one; `whole`: with its thread, and with no other binding at a quire of a binding. -/
def State.congruent (s : State) (i : Inst) (r : List (Nat × Nat)) (whole : Bool) : Option (List (Nat × Nat)) :=
  let ps := slotPattern r
  let ok (k q : Nat) (p : List Nat) : Bool := p.all (s.freeSlot q) &&
    (!whole || ((k != 0 || (s.freeThread q).isSome) && (!i.bindsAt r k || (s.attn? q).isNone)))
  (fitPattern ok ((upTo Config.quires).filter (s.openQuire i)) 0 ps).map fun qs =>
    (qs.zip ps).flatMap fun e => e.2.map fun k => (e.1, k)

/-- The slots that placement would give, whatever threads are free. -/
def State.slotsFor (s : State) (i : Inst) : Option (List (Nat × Nat)) :=
  match i.saved with
  | some sv => s.congruent i sv.region false
  | none => s.freshRegion i

/-- The region and hardware thread with which placement can serve a candidate now. -/
def State.fitOf (s : State) (i : Inst) : Option (List (Nat × Nat) × Nat) :=
  let r := match i.saved with
    | some sv => s.congruent i sv.region true
    | none => s.freshRegion i
  match r with
  | some r => ((r.head?.map Prod.fst).bind s.freeThread).map fun n => (r, n)
  | none => none

/-! ### Moving a saved region (R399) -/

/-- Which quire each quire of a saved region has become. -/
abbrev QMap := List (Nat × Nat)

def QMap.quire (m : QMap) (q : Nat) : Nat := ((m.find? fun e => e.1 == q).map Prod.snd).getD q

def QMap.unit (m : QMap) (u : UKey) : UKey := { u with q := m.quire u.q }

def QMap.tile (m : QMap) (t : TKey) : TKey := { t with q := m.quire t.q }

def QMap.tok (m : QMap) (t : Token) : Token :=
  match t with
  | .leafEnd h r => .leafEnd (m.unit h) r
  | t => t

def QMap.pool (m : QMap) (p : Pool) : Pool :=
  match p with
  | .tile t => .tile (m.tile t)
  | p => p

def QMap.party (m : QMap) (p : Party) : Party :=
  match p with
  | .sub n u => .sub n (m.unit u)
  | p => p

def QMap.slot (m : QMap) (o : Slot) : Slot := { o with tok := o.tok.map m.tok }

def QMap.node (m : QMap) (n : NodeSt) : NodeSt :=
  match n with
  | .carry l retired a b c d => .carry l (retired.map fun e => (e.1, m.tok e.2)) a b c d
  | .delay l => .delay (l.map m.tok)
  | n => n

def QMap.fab (m : QMap) (f : FabUnit) : FabUnit :=
  { f with key := m.unit f.key, ins := f.ins.map fun t => t.map m.tok, outs := f.outs.map m.slot,
           loopIn := f.loopIn.map fun e => (e.1, m.tok e.2), st := m.node f.st }

def QMap.ending (m : QMap) (e : End) : End :=
  match e with
  | .unit u k => .unit (m.unit u) k
  | e => e

def QMap.route (m : QMap) (r : Route) : Route :=
  { r with src := m.ending r.src, dst := m.ending r.dst, hops := r.hops.map fun l => l.map m.tok }

def QMap.path (m : QMap) (p : PathItem) : PathItem :=
  match p with
  | .leafEnd h r => .leafEnd (m.unit h) r
  | p => p

def QMap.bar (m : QMap) (o : BarObj) : BarObj :=
  match o.pool with
  | .tile t => { o with pool := .tile (m.tile t), addr := tileMem (m.tile t) (o.addr - tileMem t 0) }
  | _ => o

/-- A software wait entry is put back in the bank of the thread's quire; one that finds no entry counts as refused (R228,
R229). -/
def State.putWait (s : State) (bank : Nat) (w : Wait) : State :=
  match s.freeEntry bank, w.waiter.serial? with
  | some k, _ => { s with waits := s.waits ++ [{ w with bank := bank, idx := k }] }
  | none, some n => s.modInst n fun i => { i with swovf := satInc32 i.swovf }
  | none, none => s

/-- Requests of an instance that a token unit has not answered go back to its queue in the order of their issue (R327). -/
def State.requeue (s : State) (i : Inst) : State :=
  let s := { s with tokUnits := s.tokUnits.map fun (u : TokUnit) => { u with queue := u.queue.filter fun e => e.1 != i.serial } }
  let rs := i.handles.zipIdx.flatMap fun (h, k) => (h.reqs.filter fun r => decide (6 < r.member) && r.resp.isNone).map fun r => (k, r)
  (sortBy (fun a b : Nat × Request => decide (a.2.id ≤ b.2.id)) rs).foldl (fun s e =>
    s.modTok e.2.tunit fun u => { u with queue := u.queue ++ [(i.serial, e.1, e.2.id)] }) s

/-- Everything that was saved stands at the same place of the new region; an attempt that a cut abandoned starts again
(R199, R273, R399). -/
def State.restore (s : State) (i : Inst) (sv : Saved) (region : List (Nat × Nat)) (n : Nat) : State :=
  let m : QMap := (distinct (sv.region.map Prod.fst)).zip (distinct (region.map Prod.fst))
  let s := { s with
    residents := s.residents ++ sv.residents.map fun (r : Resident) => { r with q := m.quire r.q },
    units := s.units ++ sv.units.map m.fab,
    routes := s.routes ++ sv.routes.map m.route,
    mtiles := s.mtiles ++ sv.mtiles.map fun (t : MTile) => { t with key := m.tile t.key, path := t.path.map m.path },
    helds := s.helds ++ sv.helds.map fun (h : Held) => { h with tile := m.tile h.tile, leaf := m.unit h.leaf, unitKey := m.unit h.unitKey },
    bankToks := s.bankToks ++ sv.bankToks.map fun (b : BankTok) => { b with pool := m.pool b.pool },
    confs := s.confs ++ sv.confs.map fun (c : TileConfs) => { c with pool := m.pool c.pool },
    attns := s.attns ++ sv.attns.map fun (a : Attn) => { a with q := m.quire a.q, inq := a.inq.map m.tok },
    locks := s.locks ++ sv.locks.map fun (l : LockTok) => { l with pool := m.pool l.pool, holder := m.party l.holder },
    bars := s.bars ++ sv.bars.map m.bar,
    decls := s.decls ++ sv.decls }
  let s := sv.banks.foldl (fun (s : State) (b : TKey × Nat × List Host.Cell) =>
    { s with mem := memCells s.mem (b.2.2.map fun (c : Host.Cell) => (tileMem (m.tile b.1) c.1, c.2)) }) s
  let s := sv.waits.foldl (fun s w => s.putWait (htQuire n) w) s
  let again (t : MTile) : Bool := match t.pass with
    | .replay _ _ _ _ _ _ _ _ _ => true
    | .opened => false
  let s := (sv.mtiles.filter again).foldl (fun (s : State) (t : MTile) =>
    match s.units.find? fun f => f.op == 0xB2 && f.key.tile == m.tile t.key with
    | some u => s.countAttempt u 0
    | none => s) s
  s.requeue i

/-- The record that a cut wrote is read under EPOCH (R385, R398, R415). -/
def State.readSave (s : State) (i : Inst) : Except DevErr (List Byte) × State :=
  let w := { i.device with region := [] }
  let t := s.devTouch w (i.recVA + 0x2D0#64) 8
  match s.devRead w (i.recVA + 0x2D0#64) 8 with
  | .error e => (.error e, t)
  | .ok l =>
    let r := t.devReadVer w i.epoch i.saveBase (min (bytesNat l) i.saveSize.toNat)
    (r.1.mapError DevErr.ofRecord, r.2)

/-- The save areas that a yield wrote are read (R199), up to the first that faults: its folio and the fault. -/
def State.readAreas (s : State) (i : Inst) : List Nat → Option (Nat × DevErr) × State
  | [] => match s.readArea i 256 i.epoch with
    | (some e, s) => (some (0, e), s)
    | (none, s) => (none, s)
  | n :: l => match s.readArea i n i.epoch with
    | (some e, s) => (some (n, e), s)
    | (none, s) => s.readAreas i l

/-- The folios of a saved region are read and measured again (R25, R399, R418), up to the first that may not be placed. -/
def State.checkFolios (s : State) (i : Inst) : List Nat → Option (Nat × DevErr) × State
  | [] => (none, s)
  | n :: l =>
    let t := s.folioTouch i.device i.image i.header n
    match s.folio i n with
    | .error e => (some (n, e), t)
    | .ok f => match s.folioBad i n f with
      | some e => (some (n, frameErr e), t)
      | none => t.checkFolios i l

/-- What a CUT instance saved is the record, so what stands there is what comes back (R399, R403); a YIELDED one's is in its save
areas (R199). -/
def State.readBack (s : State) (i : Inst) (sv : Saved) : Option (Nat × DevErr) × Saved × State :=
  if i.state = .cut then
    match s.readSave i with
    | (.error e, s) => (some (0, e), sv, s)
    | (.ok l, s) =>
      let rd := readRecord (s.saveEntries i sv) l
      (none, s.rereadSaved rd i sv, s.rereadQueues rd i.serial)
  else
    let r := s.readAreas i (sv.residents.map Resident.folio)
    (r.1, sv, r.2)

/-! ### Placement -/

/-- CMR takes in a measurement (R418). -/
def Part.extend (p : Part) (m : BitVec 384) : Part :=
  { p with cmr := Config.sha384 (natBytes 48 p.cmr.toNat ++ natBytes 48 m.toNat) }

/-- What the device could not read of a list of reads: the first error, and the place of it. -/
def firstError {α : Type} (l : List (Except DevErr α)) : Option (Nat × DevErr) :=
  l.zipIdx.findSome? fun (r, n) => match r with
    | .error e => some (n, e)
    | .ok _ => none

/-- What the first placement does: the entry ports of the image's folios, and in a confidential partition the measurements
of the image and of each folio (R26, R418). A fault of a read faults the instance, and nothing is measured (R385). -/
def State.firstPlace (s : State) (i : Inst) (q : Nat) : State :=
  let fs := (upTo i.nfolio).map fun n => (n, s.folio i n)
  let ports := fs.flatMap fun (n, f) => match f with
    | .ok f => ((upTo 32).filter (f.hasPort false)).map fun j => (⟨i.serial, n, j, [], [], ⟨none, []⟩, 0, false, false, []⟩ : InPort)
    | .error _ => []
  let t := s.headsTouch i.device i.image (partOff i.header 2) i.nfolio { s with ports := s.ports ++ ports }
  if !(s.part i.part).conf then
    match s.folioHeads i.device i.image (partOff i.header 2) i.nfolio with
    | .error e => t.bindFault i.serial q 0 e
    | .ok _ => t
  else
    let t := (upTo i.nfolio).foldl (fun (t : State) n => t.folioTouch i.device i.image i.header n)
      (t.devTouch i.device (i.image + w64 (partOff i.header 5)) (min 160 (partSize i.header 5)))
    let rs := (upTo i.nfolio).map (s.folioBytes i.device i.image i.header)
    match s.colophon i.device i.image i.header, firstError rs with
    | .error e, _ => t.bindFault i.serial q 0 e
    | .ok _, some (n, e) => t.bindFault i.serial q n e
    | .ok c, none =>
      let ms := rs.map fun r => Config.sha384 (r.toOption.getD [])
      (t.modPart i.part fun p => (colophonMeas c :: ms).foldl Part.extend p).modInst i.serial fun i => { i with measures := ms }

/-- What stops a restore faults the instance (R385), whose record it goes to (R389); an uncorrectable error of the save record then
kills it (R398). -/
def State.restoreFault (s : State) (serial q : Nat) (e : Nat × DevErr) : State :=
  let t := s.bindFault serial q e.1 e.2
  if e.2.cause = 0x12 ∧ e.2.sub = 4 then t.askKill serial 0x12 4 else t

/-- What an instance saved is read back and stands on its region, its folios checked (R199, R399). -/
def State.resumeInst (s : State) (i : Inst) (sv : Saved) (region : List (Nat × Nat)) (n : Nat) : State :=
  match s.readBack i sv with
  | (bad, sv, s) =>
    let s := s.restore i sv region n
    match bad with
    | some e => s.restoreFault i.serial (htQuire n) e
    | none => match s.checkFolios i (sv.residents.map Resident.folio) with
      | (some e, s) => s.restoreFault i.serial (htQuire n) e
      | (none, s) => s

/-- Placement: the instance enters PLACED on its region and thread (R371). -/
def State.placeInst (s : State) (i : Inst) (region : List (Nat × Nat)) (n : Nat) : State :=
  let s := ((s.unqueue i.serial).dropAuto i.serial).modInst i.serial fun i =>
    { i with state := .placed, region := region, hw := some n, stall := none, age := 0, saved := none,
             sliceEnd := s.nsec + w64 (fieldN s.sys.schctl 32 32 * 1000), lastProgress := s.nsec }
  let s := s.event (htQuire n) 1
  let s := match i.saved with
    | some sv => s.resumeInst i sv region n
    | none => s.firstPlace i (htQuire n)
  s.relink

/-! ### Visits (R369, R370) -/

/-- The first candidate of a list that placement can serve: those before it, itself, and its region and thread. -/
def State.firstFit (s : State) : List Inst → Option (List Inst × Inst × List (Nat × Nat) × Nat)
  | [] => none
  | c :: l => match s.fitOf c with
    | some (r, n) => some ([], c, r, n)
    | none => (s.firstFit l).map fun e => (c :: e.1, e.2)

/-- The next candidate of an owner. -/
def State.nextCand (s : State) (o : Nat) : Option (List Inst × Inst × List (Nat × Nat) × Nat) := s.firstFit (s.ownerCands o)

/-- The candidates that are passed over grow older (R368). -/
def State.growOld (s : State) (o : Nat) : State :=
  match s.nextCand o with
  | none => s
  | some (before, _) => before.foldl (fun s c => s.modInst c.serial fun i => { i with age := min 255 (i.age + 1) }) s

/-- Places next candidates while the deficit pays for them. -/
def State.serve (o : Nat) : Nat → State → State
  | 0, s => s
  | k + 1, s =>
    match s.nextCand o with
    | some (_, c, r, n) =>
      if c.slots ≤ (s.owner o).deficit then
        State.serve o k ((s.placeInst c r n).modOwner o fun w => { w with deficit := w.deficit - c.slots })
      else s
    | none => s

/-- An owner with no candidate has no deficit. -/
def State.settleOwner (s : State) (o : Nat) : State :=
  if (s.ownerCands o).isEmpty then s.modOwner o fun w => { w with deficit := 0 } else s

/-- A visit to an owner of weight 1 or more. -/
def State.visit (s : State) (o : Nat) : State :=
  let s := (s.growOld o).modOwner o fun w => { w with deficit := min (w.deficit + w.weight) (w.weight + 128) }
  { (State.serve o s.insts.length s).settleOwner o with lastOwner := o }

/-- An owner of weight 0 is served in background: one candidate, no deficit. -/
def State.background (s : State) (o : Nat) : State :=
  match s.nextCand o with
  | some (_, c, r, n) => (s.growOld o).placeInst c r n
  | none => s

/-- A class-0 child that is its owner's first candidate and fits nowhere waits in the table (R372). -/
def State.childWait (s : State) (o : Nat) : State :=
  match s.ownerCands o with
  | [] => s
  | c :: _ =>
    if s.classOf c ≠ 0 ∨ c.stall.isSome ∨ (s.fitOf c).isSome then s
    else match s.parentInst c with
      | none => s
      | some p =>
        match p.hw with
        | none => s
        | some n =>
          let obj := (queueWait c.serial 0 3).obj
          (s.modInst c.serial fun i => { i with stall := some ⟨4, obj, none, s.nsec⟩ }).autoRegister (.thread c.serial) (htQuire n) 4 obj
            none p.serial

/-- Owners with candidates, in the order of the next visits. -/
def State.visitOrder (s : State) : List Nat :=
  ((upTo 64).map fun k => (s.lastOwner + 1 + k) % 64).filter fun o => !(s.ownerCands o).isEmpty

/-- One decision: the next visit in the weighted round; or, when no owner of nonzero weight has a next candidate, a cycle
of visits that places nothing and then the background. Decisions wait in a commit window (R440) and while EN = 0. -/
def State.schedule (s : State) : State :=
  if !bitAt s.sys.schctl 0 || s.sys.mactState == 2#2 then s
  else
    let s := (upTo 64).foldl State.settleOwner s
    let order := s.visitOrder
    let ws := order.filter fun o => decide (1 ≤ (s.owner o).weight)
    let s :=
      if ws.any fun o => (s.nextCand o).isSome then ws.head?.elim s s.visit
      else (order.filter fun o => (s.owner o).weight == 0).foldl State.background (ws.foldl State.visit s)
    (upTo 64).foldl State.childWait s

/-- R369. -/
def execSchedulerVisit (s : State) : Host.Outcome State Fault Refusal := .next s.schedule

/-! ### Slices (R373) -/

/-- The slice timer of an instance expires. -/
def State.slice (s : State) (serial : Nat) : State :=
  match s.inst? serial with
  | none => s
  | some i =>
    let len := fieldN s.sys.schctl 32 32
    if len = 0 ∨ i.region.isEmpty ∨ i.yieldReq ∨ i.cut.isSome ∨ s.nsec.toNat < i.sliceEnd.toNat ∨ (i.state ≠ .run ∧ i.state ≠ .placed) then s
    else if s.insts.any fun c => c.candidate && c.part == i.part && (s.slotsFor c).isNone then
      s.modInst serial fun i => { i with yieldReq := true }
    else s.modInst serial fun i => { i with sliceEnd := s.nsec + w64 (len * 1000) }

/-- R373. -/
def execSliceExpiry (serial : Nat) (s : State) : Host.Outcome State Fault Refusal := .next (s.slice serial)

/-! ### Host launches (R364, R365, R425) -/

/-- The boot chain has completed (R436, R437). -/
def State.booted (s : State) : Bool := fieldN s.sys.mboot 0 4 == 5 && fieldN s.sys.mboot 4 4 == 0

/-- Checks 3 to 6: the header and the parameter bytes, or the subcause of the first that fails; and what the reading does beside. -/
def State.launchCheck (s : State) (w : Who) (e : BitVec 512) : Except Nat (BitVec 4096 × List Byte) × State :=
  let image := e.extractLsb' 0 64
  if !descOk e [(165, 27), (320, 192)] || fieldN e 192 64 % 16 != 0 then (.error 1, s)
  else
    let t := s.devTouch w image 512
    match s.devRead w image 512 with
    | .error _ => (.error 2, t)
    | .ok l =>
      let h : BitVec 4096 := BitVec.ofNat 4096 (bytesNat l)
      let t := t.checkTouch w image h
      if !s.headerOk w image h then (.error 2, t)
      else if fieldN h 128 32 < fieldN e 128 32 then (.error 1, t)
      else
        let n := fieldN e 128 32
        let u := t.devTouch w (e.extractLsb' 64 64) n
        match t.devRead w (e.extractLsb' 64 64) n with
        | .error _ => (.error 1, u)
        | .ok ps =>
          if 4 * ((upTo Config.quires).filter fun q => bitAt (s.part w.part).quires q).length < fieldN h 64 16 then (.error 7, u)
          else (.ok (h, ps), u)

/-- Who the device's accesses for a host launch of a function are for. -/
def Fn.who (f : Fn) : Who := ⟨f.part, false, [], 0, some f.owner⟩

/-- An entry written to queue k of a function. -/
def State.hostLaunch (s : State) (fn k : Nat) (e : BitVec 512) : State :=
  let f := s.fn fn
  if !bitAt f.qen k || !s.booted then s.countDrop fn
  else if !f.pv || !(s.part f.part).en then s.countDrop fn
  else
    let compl := e.extractLsb' 192 64
    let tag := e.extractLsb' 256 64
    let reject (s : State) (sub : Nat) : State := s.complete f.who fn k compl tag 0 0 0x14 sub
    if 64 ≤ (f.queues.getD k []).length then reject s 5
    else match s.launchCheck f.who e with
      | (.error sub, s) => reject s sub
      | (.ok (h, ps), s) =>
        let (n, s) := s.create ⟨f.owner, f.part, s.roleOn f.part && bitAt e 164, ⟨fn, k, compl, tag, none⟩, e.extractLsb' 0 64, h,
          launchBase e h f.maxprio, ps⟩
        let s := s.modFn fn fun f =>
          { f with queues := updAt f.queues k fun q => q ++ [n], acc := updAt f.acc k fun a => a + 1 }
        { s with sys := { s.sys with mevent := setBitTo s.sys.mevent 0 true } }

/-- An aligned write of 4 or 8 bytes into the MSI-X table. -/
def State.msixWrite (s : State) (fn off size : Nat) (e : BitVec 512) : State :=
  if (size = 4 ∨ size = 8) ∧ off % size = 0 then
    (upTo (size / 4)).foldl (fun s k => s.msixStore fn (off / 16) (off / 4 % 4 + k) (e.extractLsb' (32 * k) 32)) s
  else s

/-- A host write of `size` bytes at an offset of a function's BAR0: a launch entry, a write into the MSI-X table, or a write
that is dropped (R425). -/
def State.barWrite (s : State) (fn off size : Nat) (e : BitVec 512) : State :=
  if 257 ≤ fn then s
  else if 0x4000 ≤ off then (if 0x5000 ≤ off ∧ off + size ≤ 0x5080 then s.msixWrite fn (off - 0x5000) size e else s)
  else if size = 64 ∧ off % 64 = 0 then s.hostLaunch fn (off / 4096) e
  else s.countDrop fn

/-- R365. -/
def execHostLaunchEntry (fn off size : Nat) (entry : BitVec 512) (s : State) : Host.Outcome State Fault Refusal :=
  .next (s.barWrite fn off size entry)

/-- QSTATk of a function. -/
def Fn.qstat (f : Fn) (k : Nat) : W64 :=
  w64 ((f.queues.getD k []).length % 2 ^ 7 + (bitAt f.qen k).toNat * 2 ^ 7 + (f.acc.getD k 0).toNat * 2 ^ 32)

/-- What a host read of 8 aligned bytes of BAR0 gives; it changes nothing (R425). -/
def State.barRead (s : State) (fn off : Nat) : W64 :=
  let f := s.fn fn
  let word (n : Nat) : Nat := if n % 4 = 3 then (bitAt f.msixMask (n / 4)).toNat else (f.msixTab.getD (3 * (n / 4) + n % 4) 0).toNat
  if 0x4000 ≤ off ∧ off < 0x4020 then f.qstat ((off - 0x4000) / 8)
  else if 0x5000 ≤ off ∧ off < 0x5080 then w64 (word ((off - 0x5000) / 4) + word ((off - 0x5000) / 4 + 1) * 2 ^ 32)
  else if off = 0x6000 then w64 f.msixPend.toNat
  else 0#64

/-! ### Roles (R377, R378) -/

/-- Quires of the serving partition with a role. -/
def State.roleQuires (s : State) (decode : Bool) : List Nat :=
  (upTo Config.quires).filter fun q => bitAt (s.part (fieldN s.sys.role 0 5)).quires q && bitAt s.sys.rolemask q == decode

/-- Candidates of the serving partition with a role. -/
def State.roleCands (s : State) (decode : Bool) : Nat :=
  (s.insts.filter fun i => i.candidate && i.part == fieldN s.sys.role 0 5 && i.role == decode).length

def State.moving (s : State) : Bool := s.lends.any LendSt.leaving

/-- The role that gives up a quire: `some true` decode, `some false` prefill. -/
def State.roleMove (s : State) : Option Bool :=
  let np := (s.roleQuires false).length
  let nd := (s.roleQuires true).length
  let p := s.roleCands false
  let d := s.roleCands true
  if 2 * d * np < p * nd ∧ fieldN s.sys.role 10 5 < nd then some true
  else if 2 * p * nd < d * np ∧ fieldN s.sys.role 5 5 < np then some false
  else none

/-- A yield request is posted to every instance on a quire. -/
def State.postYields (s : State) (q : Nat) : State :=
  let hit (i : Inst) : Bool := (i.state == .run || i.state == .placed || i.state == .faulted) && i.cut.isNone && i.region.any fun r => r.1 == q
  { s with insts := updWhere hit (fun i => { i with yieldReq := true }) s.insts }

/-- The role controller decides; it chooses quire `choice`, if that has the role that gives one up. -/
def State.roleTick (s : State) (choice : Nat) : State :=
  if !bitAt s.sys.role 15 || s.moving then s
  else match s.roleMove with
    | none => s
    | some r => if (s.roleQuires r).contains choice then (s.modLend choice fun l => { l with leaving := true }).postYields choice else s

/-- R377. -/
def execRoleControlTick (choice : Nat) (s : State) : Host.Outcome State Fault Refusal := .next (s.roleTick choice)

/-- No region stands on a quire. -/
def State.emptyQuire (s : State) (q : Nat) : Bool := !s.insts.any fun i => i.region.any fun r => r.1 == q

/-- A leaving quire without a region takes the other role. -/
def State.roleEnd (s : State) (q : Nat) : State :=
  if (s.lendOf q).leaving && s.emptyQuire q && !(s.lendOf q).busy then
    { s.modLend q (fun l => { l with leaving := false }) with
        sys := { s.sys with rolemask := setBitTo s.sys.rolemask q (!bitAt s.sys.rolemask q) } }
  else s

/-- R378. -/
def execRoleFlip (q : Nat) (s : State) : Host.Outcome State Fault Refusal := .next (s.roleEnd q)

/-! ### Lending and recall (R375, R376, R405) -/

/-- Adjacent quires (R9). -/
def adjacent (a b : Nat) : Bool :=
  (a / 4 == b / 4 && (a % 4 + 1 == b % 4 || b % 4 + 1 == a % 4)) || (a % 4 == b % 4 && (a / 4 + 1 == b / 4 || b / 4 + 1 == a / 4))

/-- Quires reached from a list inside a set, in n steps. -/
def spread (set : List Nat) : Nat → List Nat → List Nat
  | 0, l => l
  | n + 1, l => spread set n (l ++ set.filter fun q => !l.contains q && l.any (adjacent q))

/-- A set of quires is connected (R405). DESIGN CHOICE: so is the empty set, so a partition can lend its last quire or be enabled
with none (log entry 105). -/
def connected (set : List Nat) : Bool := (spread set 32 (set.take 1)).length == set.length

/-- Quires of a bitmap. -/
def quireList (w : W32) : List Nat := (upTo Config.quires).filter fun q => bitAt w q

/-- The LEND write's move of quire q from partition a to partition b would leave a set of R405 that is not connected. -/
def State.splits (s : State) (q a b : Nat) : Bool :=
  !connected (quireList (setBitTo (s.part a).quires q false)) || !connected (quireList (setBitTo (s.part b).quires q true))

/-- Quire q goes from partition a to partition b. -/
def State.moveQuire (s : State) (q a b : Nat) : State :=
  let put (p : Nat) (on : Bool) (s : State) : State := s.modPart p fun a => { a with quires := setBitTo a.quires q on }
  put b true (put a false s)

/-- A partition's ERR (R405). -/
def State.partErr (s : State) (p : Nat) : State := s.modPart p fun a => { a with err := true }

def State.lendResult (s : State) (q r : Nat) : State := s.modLend q fun l => { l with result := BitVec.ofNat 3 r }

/-- OP 1. -/
def State.lendGo (s : State) (q dst : Nat) : State :=
  if !s.emptyQuire q || (s.attn? q).isSome then s.lendResult q 2
  else match s.partOfQuire q with
    | none => s.lendResult q 3
    | some home =>
      if dst = home ∨ (s.lendOf q).lent.isSome = true ∨ (s.part home).conf = true ∨ (s.part dst).conf = true ∨
          !(quireList (s.part dst).quires).any (adjacent q) then s.lendResult q 3
      else if s.splits q home dst then (s.partErr home).lendResult q 3
      else (s.moveQuire q home dst).modLend q fun l => { l with lent := some home, result := 0 }

/-- OP 2: every instance whose region includes the quire is cut, or killed if it is FAULTED. -/
def State.recallGo (s : State) (q : Nat) : State :=
  match (s.lendOf q).lent, s.partOfQuire q with
  | some home, some b =>
    if s.splits q b home then (s.partErr b).lendResult q 3
    else
      let is := s.insts.filter fun i => i.region.any fun r => r.1 == q
      let s := s.modLend q fun l =>
        { l with busy := true, t0 := s.nsec, result := 0, killed := is.any fun i => i.state == .faulted,
                 affected := is.map fun i => (i.serial, (i.region.head?.map Prod.fst).getD q) }
      is.foldl (fun s i => s.cutOrKill i false) s
  | _, _ => s.lendResult q 4

/-- A write of LEND: OP 3 is ignored; the others select QUIRE; OP 0 only selects; an operation in progress gives INPROG. -/
def State.lendWrite (s : State) (v : W64) : State :=
  let q := fieldN v 0 5
  let op := fieldN v 10 2
  if op = 3 then s
  else
    let s := { s with sys := { s.sys with lendQuire := q, lendTo := fieldN v 5 5 } }
    if op = 0 then s
    else if (s.lendOf q).busy then s.lendResult q 5
    else if op = 1 then s.lendGo q (fieldN v 5 5)
    else s.recallGo q

/-- R375. -/
def execLend (v : BitVec 64) (s : State) : Host.Outcome State Fault Refusal :=
  .next (if fieldN v 10 2 = 1 then s.lendWrite v else s)

/-- R376. -/
def execRecall (v : BitVec 64) (s : State) : Host.Outcome State Fault Refusal :=
  .next (if fieldN v 10 2 = 2 then s.lendWrite v else s)

/-- R375. -/
def execLendSelect (v : BitVec 64) (s : State) : Host.Outcome State Fault Refusal :=
  .next (if fieldN v 10 2 = 0 then s.lendWrite v else s)

/-- At T0 + 250 µs the affected instances whose cut is not complete are killed. -/
def State.drainOver (s : State) (q : Nat) : State :=
  let l := s.lendOf q
  if !l.busy || decide (s.nsec.toNat < l.t0.toNat + 250000) then s
  else l.affected.foldl (fun s e =>
    match s.inst? e.1 with
    | none => s
    | some i =>
      match i.cut with
      | none => s
      | some c => if s.cutDone i c || i.kill.isSome then s else (s.askKill i.serial 0x11 1).modLend q fun l => { l with killed := true }) s

/-- R376. -/
def execCutDeadline (q : Nat) (s : State) : Host.Outcome State Fault Refusal := .next (s.drainOver q)

/-- A cut of the recall ended as a kill. -/
def State.cutKilled (s : State) (l : LendSt) : Bool :=
  l.killed || l.affected.any fun e => ((s.inst? e.1).map fun i => i.state == .killed && i.killCause == 0x11).getD false

/-- The recall ends: the arrays are clear, the quire is back, the events are raised. Where another move has meanwhile left a set of R405
that this one would disconnect, the quire stays lent, with NOTADJ and the partition's ERR (log entry 74). -/
def State.recallEnd (s : State) (q : Nat) : State :=
  let l := s.lendOf q
  match l.lent, s.partOfQuire q with
  | some home, some b =>
    if !l.busy || decide (s.nsec.toNat < l.t0.toNat + 1000000) || !s.emptyQuire q then s
    else
      let stays := s.splits q b home
      let t := s.zero (tileKey q 0 0) (16 * 2 ^ 22)
      let t := if stays then t.partErr b else t.moveQuire q b home
      let t := t.modLend q fun l =>
        { l with lent := if stays then some home else none, busy := false, result := if stays then 3 else if s.cutKilled l then 1 else 0,
                 affected := [], killed := false, leaving := false }
      (distinct (q :: l.affected.map Prod.snd)).foldl (fun s q => s.event q 2) t
  | _, _ => s

/-- R376. -/
def execRecallComplete (q : Nat) (s : State) : Host.Outcome State Fault Refusal := .next (s.recallEnd q)

/-! ### Function reset (R411, R412, R427) -/

/-- A reset of a function starts, unless one is BUSY. -/
def State.resetFn (s : State) (fn : Nat) : State :=
  if 257 ≤ fn ∨ (s.fn fn).busy = true then s
  else
    let is := s.insts.filter fun i => i.live && i.src.fn == fn
    let s := s.modFn fn fun f => { f with qen := 0, rstMark := true, busy := true, rstAt := s.nextId }
    is.foldl (fun s i => s.askKill i.serial 0x19 0) s

/-- R411. -/
def execFunctionReset (fn : Nat) (s : State) : Host.Outcome State Fault Refusal := .next (s.resetFn fn)

/-- A request made before `id` has not responded. -/
def State.owes (s : State) (id : Nat) : Bool :=
  s.insts.any fun i => i.handles.any fun h => h.reqs.any fun r => decide (r.id < id) && r.resp.isNone

/-- Clears n bytes from a page on, page by page; a page that cannot be written is passed over. -/
def State.clearPages (s : State) (w : Who) : Nat → W64 → State
  | 0, _ => s
  | n + 1, va =>
    ((s.devWritePage w 0 va (List.replicate 4096 0#8)).2).clearPages w n (va + 4096#64)

/-- The arena is zeroed and BUSY clears, once what started before has responded. -/
def State.scrubArena (s : State) (fn : Nat) : State :=
  let f := s.fn fn
  if !f.busy || s.owes f.rstAt || s.attns.any fun a => decide (0 < a.held) && ((s.inst? a.serial).map Inst.part) == some f.part then s
  else (s.clearPages { f.who with owner := none } (f.asize.toNat / 4096) f.abase).modFn fn fun f => { f with busy := false }

/-- R412. -/
def execArenaScrub (fn : Nat) (s : State) : Host.Outcome State Fault Refusal := .next (s.scrubArena fn)

/-- A write of VFABASE: the selected function's arena moves and its mark clears. -/
def State.arenaWrite (s : State) (v : W64) : State :=
  s.modFn s.sys.vfsel.toNat fun f => { f with abase := setField v 0 12 0, rstMark := false }

/-- R412. -/
def execArenaRebind (v : BitVec 64) (s : State) : Host.Outcome State Fault Refusal := .next (s.arenaWrite v)

/-- R427: a reset of the physical function and of every virtual one. -/
def execLinkDown (s : State) : Host.Outcome State Fault Refusal := .next ((upTo 257).foldl State.resetFn s)

end Sys2Proof.Machine
end

