-- ==== Sys2Proof/Machine/Partition.lean ====
section
/-!
DEFINITION. Partitions and confidential contexts: slice roles (R410), quires, slices and ranges (R404 to R406, R423),
tunnels (R409), MCCFG (R413), transit keys and sealed channels (R416, R417).
-/

namespace Sys2Proof.Machine

/-! ### Slice roles (R410) -/

/-- The instance has state that a change of slices would touch: PLACED, RUN, YIELDED, CUT or FAULTED. -/
def Inst.placedOnce (i : Inst) : Bool := i.live && i.state != .queued

def State.partIdle (s : State) (p : Nat) : Bool := !s.insts.any fun i => i.part == p && i.placedOnce

/-- A write of SROLE sets the roles of the selected partition's slices, while it is idle and if a cache slice is left. -/
def State.sroleSet (s : State) (v : W64) : State :=
  let p := fieldN s.sys.psel 0 5
  let own := (s.part p).slices
  if !s.partIdle p || own &&& v == 0#64 then s
  else { s with sys := { s.sys with srole := (s.sys.srole &&& ~~~own) ||| (v &&& own) } }

/-- R410. -/
def execSroleWrite (v : BitVec 64) (s : State) : Host.Outcome State Fault Refusal := .next (s.sroleSet v)

/-! ### MPQUIRE, MPSLICE, MPRANGE (R404 to R406) -/

/-- Quires of the one or two rectangles that MCCFG gives. -/
def rectangles (cfg : W64) : List Nat :=
  (upTo Config.quires).filter fun q => (rectangle cfg 1).contains q || (bitAt cfg 11 && (rectangle cfg 12).contains q)

/-- Two parts of a partition, joined by a PATH tunnel (R409). -/
def State.joined (s : State) (p : Nat) (cfg : W64) : Bool :=
  bitAt cfg 11 && s.tunnels.any fun t => t.joins 1 p

/-- A set of quires that a partition may have: connected, or two rectangles that a PATH tunnel joins (R405). -/
def State.shapeOk (s : State) (p : Nat) (l : List Nat) : Bool :=
  connected l || (s.joined p (s.part p).mccfg && l == rectangles (s.part p).mccfg)

/-- A quire that a write takes away holds a region or a binding. -/
def State.quireHeld (s : State) (q : Nat) : Bool := !s.emptyQuire q || (s.attn? q).isSome

/-- The MPQUIRE write keeps the conditions of R405. -/
def State.quiresOk (s : State) (p : Nat) (v : W32) : Bool :=
  s.shapeOk p (quireList v) &&
    (upTo Config.quires).all fun q =>
      let was := bitAt (s.part p).quires q
      let now := bitAt v q
      !(was && !now && s.quireHeld q) && !(now && !was && (s.partOfQuire q).isSome)

/-- The MPSLICE write keeps the conditions of R405: a slice of a partition with a live instance's data stays. -/
def State.slicesOk (s : State) (p : Nat) (v : W64) : Bool :=
  (!(s.part p).en || v &&& s.sys.srole != 0#64) &&
    (upTo 64).all fun n =>
      let was := bitAt (s.part p).slices n
      let now := bitAt v n
      !(was && !now && !s.partIdle p) && !(now && !was && s.parts.any fun q => bitAt q.slices n)

/-- Two HBM ranges overlap. -/
def rangesMeet (a b : W64) : Bool :=
  bitAt a 0 && bitAt b 0 && decide (fieldN a 1 31 ≤ fieldN a 32 31 ∧ fieldN b 1 31 ≤ fieldN b 32 31) &&
    decide (fieldN a 1 31 ≤ fieldN b 32 31) && decide (fieldN b 1 31 ≤ fieldN a 32 31)

/-- The MPRANGE write overlaps no range of another partition. -/
def State.rangeOk (s : State) (p : Nat) (v : W64) : Bool :=
  (upTo 32).all fun q => q == p || !(s.part q).ranges.any (rangesMeet v)

/-- A write of MPQUIRE (0x411), MPSLICE (0x412) or MPRANGE (0x413), or ERR. DESIGN CHOICE: a slice that another partition is given, or
that was a cache slice, keeps the bytes it holds; R79 says how long its contents live and not what it holds later (log entry 76). -/
def State.resourceWrite (s : State) (n : Nat) (v : W64) : State :=
  let p := fieldN s.sys.mpselP 0 5
  let check (ok : Bool) (f : Part → Part) : State := if ok then s.modPart p f else s.partErr p
  match n with
  | 0x411 => check (s.quiresOk p (v.extractLsb' 0 32)) fun a => { a with quires := v.extractLsb' 0 32 }
  | 0x412 => check (s.slicesOk p v) fun a => { a with slices := v }
  | 0x413 => check (s.rangeOk p v) fun a => { a with ranges := updAt a.ranges s.sys.mpselR.toNat fun _ => setBitTo v 63 false }
  | _ => s

/-- R405. -/
def execPartitionResourceWrite (n : Nat) (v : BitVec 64) (s : State) : Host.Outcome State Fault Refusal :=
  .next (s.resourceWrite n v)

/-! ### Tunnels (R409) -/

/-- A write of MTCFG (0x419) or MTRANGE (0x41A) of the selected tunnel. -/
def State.tunnelSet (s : State) (n : Nat) (v : W64) : State :=
  let k := s.sys.mtsel.toNat
  match n with
  | 0x419 => { s with tunnels := updAt s.tunnels k fun t => { t with cfg := w64 (fieldN v 0 12) } }
  | 0x41A => { s with tunnels := updAt s.tunnels k fun t => { t with range := setBitTo v 63 false } }
  | _ => s

/-- R409. -/
def execTunnelWrite (n : Nat) (v : BitVec 64) (s : State) : Host.Outcome State Fault Refusal := .next (s.tunnelSet n v)

/-! ### Key generations (R417) -/

/-- R417. -/
def execKeySwitch (p : Nat) (s : State) : Host.Outcome State Fault Refusal := .next (s.switchKey p)

/-- Every marker has come, behind the last packet of the old generation on its channel, and no request of that generation is
outstanding: its key is destroyed. A source that has reached 2^31 meanwhile starts the next switch (R417). -/
def State.retireKey (s : State) (p : Nat) : State :=
  match (s.part p).retiring with
  | none => s
  | some g =>
    if s.transits.any fun t => t.part == p && t.gen == g.toNat then s
    else
      let s := s.modPart p fun a => { a with retiring := none, chans := a.chans.filter fun c => c.gen != g.toNat }
      if (s.part p).chans.any fun c => c.gen == (s.part p).gen.toNat && decide (2 ^ 31 ≤ c.sent) then s.switchKey p else s

/-- R417. -/
def execGenerationRetire (p : Nat) (s : State) : Host.Outcome State Fault Refusal := .next (s.retireKey p)

/-! ### MCCFG (R413, R423) -/

/-- No live instance. -/
def State.partEmpty (s : State) (p : Nat) : Bool := !s.insts.any fun i => i.part == p && i.live

/-- Packets that are still under way to instances of a partition that have ended. -/
def State.dropTransits (s : State) (p : Nat) : State := { s with transits := s.transits.filter fun t => t.part != p }

/-- A partition becomes confidential: its quires' arrays are scrubbed, keys are drawn, CMR is zero. -/
def State.seal (s : State) (p : Nat) (v : W64) : State :=
  let s := ((quireList (s.part p).quires).foldl (fun s q => s.zero (tileKey q 0 0) (16 * 2 ^ 22)) s).dropTransits p
  { s.modPart p fun a => { a with mccfg := w64 (fieldN v 0 22), key := some s.nextKey, tkey := s.nextKey + 1, gen := 0,
                                  retiring := none, chans := [], cmr := 0 } with
      nextKey := s.nextKey + 2 }

/-- A write with V = 1: enabled, no live instance, and rectangles that cover exactly its quires. -/
def State.sealWrite (s : State) (p : Nat) (v : W64) : State :=
  let a := s.part p
  if !a.en || !s.partEmpty p || rectangles v != quireList a.quires || (bitAt v 11 && !s.joined p v) then s.partErr p
  else if a.conf then s.modPart p fun a => { a with mccfg := w64 (fieldN v 0 22) }
  else s.seal p v

/-- A write with V = 0: both keys are destroyed. -/
def State.unsealWrite (s : State) (p : Nat) (v : W64) : State :=
  if !s.partEmpty p then s.partErr p
  else (s.dropTransits p).modPart p fun a => { a with mccfg := w64 (fieldN v 0 22), key := none, retiring := none, chans := [] }

/-- A write of MCCFG of the selected partition. SWITCH alone: the other writable fields are zero or as they stand. -/
def State.mccfgWrite (s : State) (v : W64) : State :=
  let p := fieldN s.sys.mpselP 0 5
  if bitAt v 38 && (fieldN v 0 22 == 0 || fieldN v 0 22 == fieldN (s.part p).mccfg 0 22) then s.switchKey p
  else if bitAt v 0 then s.sealWrite p v
  else s.unsealWrite p v

/-- R413. -/
def execConfidentialEnable (v : BitVec 64) (s : State) : Host.Outcome State Fault Refusal :=
  .next (if bitAt v 0 then s.mccfgWrite v else s)

/-- R413. -/
def execConfidentialDisable (v : BitVec 64) (s : State) : Host.Outcome State Fault Refusal :=
  .next (if bitAt v 0 then s else s.mccfgWrite v)

/-! ### Sealed channels (R416) -/

/-- A sealed packet has come to its destination, `ok`: as its source sealed it. A completion whose key is gone is dropped and
counted; a tag failure, a repeated or a missing number discards the packet and kills the instance that owns the channel. A token of
an instance that has left is discarded (R394). Requests and completions are opened in the step that makes them. -/
def State.openPacket (s : State) (serial router kind gen seq : Nat) (ok : Bool) : State :=
  match s.inst? serial with
  | none => s
  | some i =>
    let a := s.part i.part
    let it (t : Transit) : Bool := kind == 0 && t.serial == serial && t.router == router && t.gen == gen && t.seq == seq
    let gone : State := { s with transits := s.transits.filter fun t => !it t }
    if !a.conf then s
    else match a.transitKey gen with
      | none => if kind = 2 then s.fenceDrop i.part 0#64 else gone.askKill serial 0x0B 0
      | some key =>
        if ok && seq == (a.chan router kind gen).seq then
          match s.transits.find? it with
          | some t =>
            if t.tag = transitTag key (transitIv i.part router kind gen seq) t.tok then
              let u := gone.opened i.part router kind gen seq
              if i.live && ((i.kill.map KillSt.started) != some true) then u.deliver serial t.dst t.tok else u
            else gone.askKill serial 0x0B 0
          | none => s
        else gone.askKill serial 0x0B 0

/-- R416. -/
def execTransitOpen (serial router kind gen seq : Nat) (tagOk : Bool) (s : State) : Host.Outcome State Fault Refusal :=
  .next (s.openPacket serial router kind gen seq tagOk)

end Sys2Proof.Machine
end

