-- ==== Sys2Proof/Machine/Links.lean ====
section
/-!
DEFINITION. The host link and the Zillas links: completions and timeouts (R93, R95, R427, R429), requests of peers (R429,
R430), messages (R431), collectives (R433, R435), and ports (R428).
-/

namespace Sys2Proof.Machine

/-! ### Answers -/

/-- The instance that a request is for, its thread's or its engines'. -/
def Remote.inst? (r : Remote) (s : State) : Option Inst :=
  s.inst? (if 2 ^ 42 ≤ r.serial then r.serial - 2 ^ 42 else r.serial)

/-- A request that has no answer yet. -/
def State.open? (s : State) (id : Nat) : Option Remote := s.remotes.find? fun r => r.id == id && r.ans.isNone

/-- The request is answered; a posted store that succeeds is gone. -/
def State.answer (s : State) (r : Remote) (st : Nat) (l : List Byte) : State :=
  if r.posted && st == 0 then { s with remotes := s.remotes.filter fun x => x.id != r.id }
  else { s with remotes := updWhere (fun x => x.id == r.id) (fun x => { x with ans := some (st, l) }) s.remotes }

/-- A request with no completion in its time completes with TIMEOUT; one whose packet is held has not been sent. The time of a
collective runs from its contribution, also while its written is held (R435). -/
def State.timeOut (s : State) (id : Nat) : State :=
  match s.open? id with
  | some r => if s.overdue r && (r.kind == 6 || !s.heldPackets.any fun p => p.1 == id) then s.answer r 1 [] else s
  | none => s

/-- R93. -/
def execRemoteTimeout (id : Nat) (s : State) : Host.Outcome State Fault Refusal := .next (s.timeOut id)

/-- The REMOTE subcause of an answer (R388). -/
def answerSub (a : Answer) : Nat :=
  match a with
  | .ok => 0
  | .ur => 2
  | .ca => 3

/-- An earlier request of the same control thread to the host has no answer yet: accesses of a thread perform in program
order (R109). -/
def State.behind (s : State) (r : Remote) : Bool :=
  decide (r.serial < 2 ^ 42) && s.remotes.any fun x => x.serial == r.serial && x.peer.isNone && decide (x.id < r.id) && x.ans.isNone

/-- PCIe completes a request to host memory. `host`: what the host has written there since, in the first 8 bytes. -/
def State.hostDone (s : State) (id : Nat) (a : Answer) (host : Option W64) : State :=
  match s.open? id with
  | none => s
  | some r =>
    if r.peer.isSome || decide (1 < r.kind) || s.overdue r || s.behind r then s
    else
      let s := match host with
        | some v => s.put (hostKey r.addr) ((natBytes 8 v.toNat).take r.size)
        | none => s
      if a ≠ .ok then s.answer r (answerSub a) []
      else if r.kind = 1 then (s.put (hostKey r.addr) r.data).answer r 0 []
      else s.answer r 0 (s.bytes (hostKey r.addr) r.size)

/-- R95. -/
def execHostCompletion (id : Nat) (a : Answer) (host : Option (BitVec 64)) (s : State) : Host.Outcome State Fault Refusal :=
  .next (s.hostDone id a host)

/-! ### Requests of peers (R429, R430) -/

/-- A Zillas port is up, and has not gone down: packets arrive. -/
def State.linkUp (s : State) : Bool := s.upPorts.any fun p => !s.draining.contains p

/-- A packet for this package arrives. -/
def State.arrives (s : State) (hdr : BitVec 512) (kind : Nat) : Bool :=
  s.linkUp && fieldN hdr 0 4 == kind && fieldN hdr 4 12 == s.sys.mpkg.toNat

/-- The packet of a request has left the package (R428). -/
def State.hasLeft (s : State) (r : Remote) : Bool := r.gone && !s.heldPackets.any fun p => p.1 == r.id

/-- The owner that a function binds to a partition: the receiving owner of a peer's access there (R404, R432; log entry 81). -/
def State.ownerOfPart (s : State) (p : Nat) : Option Nat := (s.fns.find? fun f => f.pv && f.part == p).map Fn.owner

/-- n payload bytes of a peer's access to HBM of a partition count for its owner (R420, R432). -/
def State.peerMoved (s : State) (p n : Nat) : State :=
  match s.ownerOfPart p with
  | some o => (s.meter o 16 n).hbmMoved (some o) n
  | none => s

/-- The partition that owns [pa, pa + n). -/
def State.ownerOf (s : State) (pa n : Nat) : Option Nat := (upTo 32).find? fun p => s.owns p pa && s.owns p (pa + (n - 1))

/-- The number that packets have which are for no request of this package. -/
def noRequest : Nat := 2 ^ 64

/-- The completion of a peer's request goes back. `rest`: bits from 128 on. -/
def State.reply (s : State) (hdr : BitVec 512) (status n rest : Nat) (payload : List Byte) : State :=
  s.emitPacket noRequest ⟨packetHdr (fieldN hdr 0 4 + 1) (fieldN hdr 16 12) s.sys.mpkg.toNat (fieldN hdr 28 5) (fieldN hdr 33 6) (fieldN hdr 39 16)
    (flitsOf n) status 0 rest, payload⟩

/-- A read of n bytes. A byte with an uncorrectable error completes with CA (log entry 37). -/
def State.peerRead (s : State) (hdr : BitVec 512) (n : Nat) : State :=
  let pa := fieldN hdr 72 52
  if !s.arrives hdr 0 then s
  else match s.ownerOf pa n with
    | none => s.reply hdr 1 0 0 []
    | some p =>
      if s.poisoned (hbmKey pa) n then (s.noteEcc 0x12).reply hdr 2 0 0 []
      else
        let l := s.rawBytes pa n
        (s.peerMoved p n).reply hdr 0 n (bytesNat (l.take 48)) (l.drop 48)

/-- R429. -/
def execZillasRead (hdr : BitVec 512) (n : Nat) (s : State) : Host.Outcome State Fault Refusal := .next (s.peerRead hdr n)

/-- A write of bytes that stand anywhere in HBM. -/
def State.rawPut (s : State) (pa : Nat) (l : List Byte) : State :=
  ((upTo ((pa % 4096 + l.length + 4095) / 4096)).foldl (fun s k => s.breakSeal (pa / 4096 + k)) s).put (hbmKey pa) l

/-- A write performs and is acknowledged; `payload` holds all its bytes. -/
def State.peerWrite (s : State) (hdr : BitVec 512) (payload : List Byte) : State :=
  let pa := fieldN hdr 72 52
  if !s.arrives hdr 2 then s
  else match s.ownerOf pa payload.length with
    | none => s.reply hdr 1 0 0 []
    | some p => ((s.rawPut pa payload).peerMoved p payload.length).reply hdr 0 0 0 []

/-- R429. -/
def execZillasWrite (hdr : BitVec 512) (payload : List Byte) (s : State) : Host.Outcome State Fault Refusal :=
  .next (s.peerWrite hdr payload)

/-- An atomic performs its member; the completion brings OLD and ST. -/
def State.peerAtomic (s : State) (hdr : BitVec 512) : State :=
  let pa := fieldN hdr 72 52
  let member := fieldN hdr 124 4
  let n := if bitAt hdr 256 then 8 else 4
  let b := fieldN hdr 128 64 % 2 ^ (8 * n)
  let e := fieldN hdr 192 64 % 2 ^ (8 * n)
  if !s.arrives hdr 4 then s
  else if 13 ≤ member ∨ pa % n ≠ 0 then s.reply hdr 1 0 0 []
  else match s.ownerOf pa n with
    | none => s.reply hdr 1 0 0 []
    | some p =>
      if s.poisoned (hbmKey pa) n then (s.noteEcc 0x12).reply hdr 2 0 0 []
      else
        let st := (atomicMember (8 * n) member (bytesNat (s.rawBytes pa n)) b e).1.isSome
        let r := s.atomicHbm p false pa n member b e
        (r.2.hbmMoved (s.ownerOfPart p) n).reply hdr 0 0 (r.1.1 + st.toNat * 2 ^ 64) []

/-- R430. -/
def execZillasAtomic (hdr : BitVec 512) (s : State) : Host.Outcome State Fault Refusal := .next (s.peerAtomic hdr)

/-! ### Messages (R431) -/

/-- Bytes of the receive buffer. -/
def receiveBytes : Nat := 16 * 2 ^ 20

/-- A message of a peer: into the buffer and acknowledged; acknowledged and discarded for a partition that is not enabled;
nothing while the buffer is full. -/
def State.peerMessage (s : State) (hdr : BitVec 512) (payload : List Byte) : State :=
  let chan := fieldN hdr 72 16
  if !s.arrives hdr 6 then s
  else if !(s.part (chan / 2 ^ 11)).en then s.reply hdr 0 0 0 []
  else if receiveBytes < (s.messages.map fun m => m.data.length).sum + payload.length then s
  else ({ s with messages := s.messages ++ [⟨fieldN hdr 16 12, chan, payload⟩] } : State).reply hdr 0 0 0 []

/-- R431. -/
def execZillasMessage (hdr : BitVec 512) (payload : List Byte) (s : State) : Host.Outcome State Fault Refusal :=
  .next (s.peerMessage hdr payload)

/-! ### Completions of peers (R429, R430) -/

/-- KIND of the completion of a request. -/
def Remote.completion (r : Remote) : Nat := 2 * r.kind + 1

/-- What a completion brings a request: bytes read, or OLD and the predicate of R209. -/
def Remote.brings (r : Remote) (hdr : BitVec 512) (payload : List Byte) : List Byte :=
  match r.kind with
  | 0 => payload.take r.size ++ List.replicate (r.size - payload.length) 0#8
  | 2 => natBytes r.size (fieldN hdr 128 64) ++ List.replicate (8 - r.size) 0#8 ++ [if bitAt hdr 192 != (r.member == 10) then 1#8 else 0#8]
  | _ => []

/-- A completion or a message ack arrives; one that comes too late, or for no request, is discarded. -/
def State.peerDone (s : State) (hdr : BitVec 512) (payload : List Byte) : State :=
  match s.remotes.find? fun r => r.ans.isNone && r.peer == some (fieldN hdr 16 12) && r.id % 2 ^ 16 == fieldN hdr 39 16 &&
      decide (r.kind ≤ 3) && s.hasLeft r && s.arrives hdr r.completion with
  | none => s
  | some r =>
    if s.overdue r then s
    else
      let st := match fieldN hdr 66 6 with
        | 0 => 0
        | 1 => 2
        | _ => 3
      let s := match r.inst? s with
        | some i => if r.kind = 0 ∧ st = 0 then s.meter i.owner 16 r.size else s
        | none => s
      s.answer r st (if st = 0 then r.brings hdr payload else [])

/-- R429. -/
def execZillasCompletion (hdr : BitVec 512) (payload : List Byte) (s : State) : Host.Outcome State Fault Refusal :=
  .next (s.peerDone hdr payload)

/-! ### Ports (R428) -/

/-- A packet that was sent on a port has no completion yet. -/
def State.carries (s : State) (port : Nat) : Bool := s.remotes.any fun r => r.ans.isNone && r.port == some port

/-- A held packet leaves on the port of its destination: the time of its request runs from now, but for a collective's, which runs
from its contribution (R428, R435). With no port up it does not leave, and its request times out (R438). -/
def Remote.released (s : State) (r : Remote) : Remote :=
  match r.peer.bind s.portFor with
  | some k => { r with port := some k, sent := if r.kind = 6 then r.sent else s.nsec }
  | none => { r with gone := false }

/-- Packets whose destination is mapped to a port that works leave, in order. -/
def State.releaseHeld (s : State) : State :=
  let go (p : Nat × Packet) : Bool := !(s.portFor p.2.dst).any s.draining.contains
  let out := s.heldPackets.filter go
  { s with heldPackets := s.heldPackets.filter fun p => !go p, sentPackets := s.sentPackets ++ (if s.upPorts.isEmpty then [] else out.map Prod.snd),
           remotes := updWhere (fun r => out.any fun p => p.1 == r.id) (Remote.released s) s.remotes }

/-- A port has gone down: new packets to the destinations mapped to it are held; once every packet that was sent on it has completed
or timed out, the destinations are mapped again (R428). -/
def State.portDown (s : State) (port : Nat) : State :=
  if !s.portsUp.getD port false then s
  else if s.carries port then { s with draining := if s.draining.contains port then s.draining else s.draining ++ [port] }
  else ({ s with portsUp := updAt s.portsUp port fun _ => false, draining := s.draining.filter fun p => p != port } : State).releaseHeld

/-- R428. -/
def execZillasPortDown (port : Nat) (s : State) : Host.Outcome State Fault Refusal := .next (s.portDown port)

/-- A port comes up, once the package number is written. Another one than those that drain takes no destinations until they have
drained (log entry 35). -/
def State.portUp (s : State) (port : Nat) : State :=
  if s.sys.mpkgSet && (s.draining.isEmpty || s.draining.contains port) then
    ({ s with portsUp := updAt s.portsUp port fun _ => true, draining := s.draining.filter fun p => p != port } : State).releaseHeld
  else s

/-- R428. -/
def execZillasPortUp (port : Nat) (s : State) : Host.Outcome State Fault Refusal := .next (s.portUp port)

/-! ### Collectives (R433, R435) -/

/-- One step of the reduction of two values of an LTYPE: 0 f32, 1 bf16 widened to f32, 6 i32; ROP 0 sum, 1 max, 2 min. -/
def collStep (ltype rop : Nat) (x y : W32) : W32 :=
  if ltype = 6 then
    match rop with
    | 0 => x + y
    | 1 => if x.toInt < y.toInt then y else x
    | _ => if x.toInt < y.toInt then x else y
  else
    match rop with
    | 0 => roundF32 0 ((f32Val x).add 0 (f32Val y))
    | 1 => roundF32 0 ((f32Val x).maxNum (f32Val y))
    | _ => roundF32 0 ((f32Val x).minNum (f32Val y))

/-- Values of a contribution, bf16 widened. -/
def collValues (ltype : Nat) (l : List Byte) : List W32 :=
  if ltype = 1 then (upTo (l.length / 2)).map fun k => w32 (bytesNat ((l.drop (2 * k)).take 2) * 2 ^ 16)
  else (upTo (l.length / 4)).map fun k => w32 (bytesNat ((l.drop (4 * k)).take 4))

/-- The bytes of a value of the result; a bf16 sum is rounded once. -/
def collBytes (ltype : Nat) (v : W32) : List Byte :=
  if ltype = 1 then natBytes 2 (bf16.narrow 0 false 0 (f32Val v)) else natBytes 4 v.toNat

/-- The result of the members' contributions, left-deep in ascending member index. -/
def collReduce (ltype rop : Nat) : List (List Byte) → List Byte
  | [] => []
  | x :: xs =>
    let r := xs.foldl (fun acc y => List.zipWith (collStep ltype rop) acc (collValues ltype y)) (collValues ltype x)
    r.flatMap (collBytes ltype)

/-- The request that waits for an access. -/
def State.waitingReq (s : State) (id : Nat) : Option (Inst × Nat × Request) :=
  s.insts.findSome? fun i => i.handles.zipIdx.findSome? fun (h, k) =>
    (h.reqs.find? fun r => r.wait == some id && r.resp.isNone).map fun r => (i, k, r)

/-- The result arrives at a member whose contribution has left and whose link is up: its engine writes it at DST. -/
def State.collArrive (s : State) (id : Nat) (others : List (List Byte)) : State :=
  match s.open? id, s.waitingReq id with
  | some a, some (i, h, r) =>
    match Config.collGroup (fieldN r.desc 256 16) with
    | none => s
    | some (n, me) =>
      if a.kind ≠ 5 ∨ s.overdue a ∨ s.hasLeft a = false ∨ s.linkUp = false ∨ others.length + 1 ≠ n ∨ (others.any fun l => l.length != r.len) then s
      else
        let l := collReduce (r.aux / 16 % 16) (r.aux % 16) (others.take me ++ a.data :: others.drop me)
        let s := s.meter i.owner 16 r.len
        ({ s with remotes := updWhere (fun x => x.id == id) (fun x => { x with kind := 7, port := none }) s.remotes } : State).modReq i.serial h r.id
          fun x => { x with pos := 0, buf := some l, idx := some id, wait := none }
  | _, _ => s

/-- R435. -/
def execCollResult (id : Nat) (others : List (List Byte)) (s : State) : Host.Outcome State Fault Refusal :=
  .next (s.collArrive id others)

/-- A commit arrives at a member that has returned written. -/
def State.collGo (s : State) (id : Nat) : State :=
  match s.open? id with
  | some a => if a.kind = 6 ∧ !s.overdue a ∧ s.hasLeft a ∧ s.linkUp then s.answer a 0 [] else s
  | none => s

/-- R435. -/
def execCollCommit (id : Nat) (s : State) : Host.Outcome State Fault Refusal := .next (s.collGo id)

/-- An INCOMPLETE arrives with its MEMBERS. -/
def State.collFail (s : State) (id : Nat) (members : BitVec 256) : State :=
  match s.open? id with
  | some a => if 5 ≤ a.kind ∧ a.kind ≤ 7 ∧ !s.overdue a ∧ s.linkUp then s.answer a 256 (natBytes 32 members.toNat) else s
  | none => s

/-- R435. -/
def execCollIncomplete (id : Nat) (members : BitVec 256) (s : State) : Host.Outcome State Fault Refusal := .next (s.collFail id members)

end Sys2Proof.Machine
end

