-- ==== Sys2Proof/Machine/Hub.lean ====
section
/-!
DEFINITION. The hub: droop, temperature and freeze (R442 to R444), hub reset and the boot chain (R436 to R438), firmware
activation (R440), measurements (R418, R419, R421, R441) and management requests (R437).
-/

namespace Sys2Proof.Machine

/-! ### Droop, temperature, freeze -/

/-- A die's clock is stretched. -/
def State.droop (s : State) (die : Nat) : State :=
  if die < 4 then { s with sys := { s.sys with mdroop := satInc32 s.sys.mdroop } } else s

/-- R442. -/
def execDroopStretch (die : Nat) (s : State) : Host.Outcome State Fault Refusal := .next (s.droop die)

/-- The throttle level after 100 µs at a temperature. -/
def nextLevel (l temp : Nat) : Nat := if 95 ≤ temp then min 15 (l + 1) else if temp < 90 then l - 1 else l

/-- Every clock stops. -/
def State.stopClocks (s : State) : State := { s with frozen := true }

/-- At 110 °C the hub asserts THERMTRIP_N and every clock stops. -/
def State.tripIfHot (s : State) : State :=
  if 110 ≤ fieldN s.sys.mtherm 0 8 then ({ s with sys := { s.sys with thermTrip := true } } : State).stopClocks else s

/-- The temperature is taken, and the level moves if 100 µs have passed since it last did; a rise sets MEVENT.THERM. -/
def State.thermal (s : State) (temp : Nat) : State :=
  let l := fieldN s.sys.mtherm 8 4
  let due := decide (s.sys.thermAt.toNat + 100000 ≤ s.nsec.toNat)
  let n := if due then nextLevel l temp else l
  ({ s with sys := { s.sys with
      mtherm := w64 (min temp 255 + n * 2 ^ 8),
      thermAt := if due then s.nsec else s.sys.thermAt,
      mevent := if l < n then setBitTo s.sys.mevent 3 true else s.sys.mevent } } : State).tripIfHot

/-- R443. -/
def execThermalTick (temp : Nat) (s : State) : Host.Outcome State Fault Refusal := .next (s.thermal temp)

/-- R443. -/
def execThermtrip (s : State) : Host.Outcome State Fault Refusal := .next s.tripIfHot

/-- R444. -/
def execFreeze (s : State) : Host.Outcome State Fault Refusal := .next s.stopClocks

/-! ### Reset and boot -/

/-- RESET_N: the registers, the meters, the partitions and the keys are as after reset; the arrays and HBM keep what they
hold, the keys that were drawn are never drawn again, and what has left the package has left it. -/
def State.hubReset (s : State) : State :=
  { State.reset with
    turns := s.turns, free := s.free, mem := s.mem, poison := s.poison, seals := s.seals, nextKey := s.nextKey,
    sentPackets := s.sentPackets, replies := s.replies, msixSent := s.msixSent }

/-- R437. -/
def execHubReset (s : State) : Host.Outcome State Fault Refusal := .next s.hubReset

/-- MBOOT.ERR of stage k's image: its colophon record's ALG is 0x01, MEAS is the digest of its LEN bytes, SIG signs record bytes 0
to 53 under the verifier's key, and SVN is not below the fuse (R157, R436). 0: it verifies. The order of the checks and the reason
for an ALG that never runs are the model's (log entry 106). -/
def bootVerdict (k : Nat) (record : BitVec 1200) (bytes : List Byte) : Nat :=
  let len := fieldN record 16 32
  if fieldN record 0 8 ≠ 1 then 1
  else if bytes.length < len ∨ Config.sha384 (bytes.take len) ≠ colophonMeas record.toNat then 2
  else if Config.p384Verify (if k = 1 then 0 else 1) ((natBytes 150 record.toNat).take 54) (record.extractLsb' 432 768) = false then 1
  else if fieldN record 8 8 < Config.svnFuse k then 3
  else 0

/-- MEAS of stage k's image, if what was fetched verifies. -/
def stageImage (k : Nat) (e : BootFetch) : Option (BitVec 384) :=
  match e with
  | .image record bytes => if bootVerdict k record bytes = 0 then some (colophonMeas record.toNat) else none
  | .failed => none

/-- MBOOT names a stage and a reason. -/
def State.bootAt (s : State) (stage err : Nat) : State := { s with sys := { s.sys with mboot := w64 (stage + err * 2 ^ 4), fetchFails := 0 } }

/-- The next stage's image is fetched: it verifies and runs, or boot stops with the stage's number and the reason; a fetch that
fails three times stops boot. The hub ROM is verified by nothing. The measurement of an image that runs is kept. -/
def State.boot (s : State) (e : BootFetch) : State :=
  let k := fieldN s.sys.mboot 0 4
  if fieldN s.sys.mboot 4 4 != 0 || decide (5 ≤ k) then s
  else if k = 0 then s.bootAt 1 0
  else match e with
    | .image record bytes =>
      let t := s.bootAt (k + 1) (bootVerdict k record bytes)
      { t with stageMeas := updAt t.stageMeas (k - 1) fun m => (stageImage k e).getD m }
    | .failed => if 2 ≤ s.sys.fetchFails then s.bootAt (k + 1) 4 else { s with sys := { s.sys with fetchFails := s.sys.fetchFails + 1 } }

/-- R436. -/
def execBootStage (e : BootFetch) (s : State) : Host.Outcome State Fault Refusal := .next (s.boot e)

/-- MPKG is written once. -/
def State.mpkgSet (s : State) (pkg : BitVec 12) : State :=
  if s.sys.mpkgSet then s else { s with sys := { s.sys with mpkg := pkg, mpkgSet := true } }

/-- R438. -/
def execMpkgWrite (v : BitVec 64) (s : State) : Host.Outcome State Fault Refusal := .next (s.mpkgSet (v.extractLsb' 0 12))

/-- A byte that bring-up leaves as it is: of the carve-out or of the host. -/
def keptKey (k : Nat) : Bool :=
  (decide (Config.hbmBytes - Config.carveOut ≤ k) && decide (k < Config.hbmBytes)) || (decide (hostKey 0 ≤ k) && decide (k < tileKey 0 0 0))

/-- The device OS scrubs every array and the HBM outside the carve-out, writes MPKG, brings the ports up and sets UP. -/
def State.bringUp (s : State) (pkg : BitVec 12) : State :=
  if !s.booted || bitAt s.sys.mboot 8 then s
  else
    let s := { s with mem := s.mem.filter fun c => keptKey c.1, poison := s.poison.filter keptKey,
                      seals := s.seals.filter fun e => keptKey (e.tile * 4096) }
    let s := s.mpkgSet pkg
    { s with portsUp := s.portsUp.map fun _ => true, sys := { s.sys with mboot := setBitTo s.sys.mboot 8 true } }

/-- R438. -/
def execQuireBringup (pkg : BitVec 12) (s : State) : Host.Outcome State Fault Refusal := .next (s.bringUp pkg)

/-! ### Firmware activation (R440) -/

/-- MACT.STATE; while it is not 0 an activation step is due, the commit or the commit point, and MEVENT.ACT is raised (R439, R440;
log entry 86). -/
def State.setMact (s : State) (v : BitVec 2) : State :=
  { s with sys := { s.sys with mactState := v, mevent := if v = 0#2 then s.sys.mevent else setBitTo s.sys.mevent 4 true } }

/-- A stage write: the new images of the security monitor and the device OS verify as R436 has it, and STATE is 1; ignored while it
is 2. -/
def State.stage1 (s : State) (monitor os : BootFetch) : State :=
  if s.sys.mactState = 2#2 then s
  else match stageImage 3 monitor, stageImage 4 os with
    | some a, some b => { s.setMact 1#2 with staged := some (a, b) }
    | _, _ => s

/-- R440. -/
def execMactStage (images : StagedImages) (s : State) : Host.Outcome State Fault Refusal := .next (s.stage1 images.monitor images.os)

/-- A commit write opens the window; ignored unless an image is staged. -/
def State.commit1 (s : State) : State :=
  if s.sys.mactState = 1#2 then
    let s := s.setMact 2#2
    { s with sys := { s.sys with commitAt := s.nsec } }
  else s

/-- R440. -/
def execMactCommit (s : State) : Host.Outcome State Fault Refusal := .next s.commit1

/-- The new images run: their measurements are in force. -/
def State.commitPoint (s : State) : State :=
  if s.sys.mactState = 2#2 then
    { s.setMact 0#2 with stageMeas := (s.staged.map fun m => s.stageMeas.take 2 ++ [m.1, m.2]).getD s.stageMeas, staged := none }
  else s

/-- R440. -/
def execCommitPoint (s : State) : Host.Outcome State Fault Refusal := .next s.commitPoint

/-- A window that has been open for 2 ms is over: its commit point has come (R440). -/
def State.windowOver (s : State) : State :=
  if s.sys.commitAt.toNat + 2000000 ≤ s.nsec.toNat then s.commitPoint else s

/-! ### Measurements and management requests -/

/-- The 48 bytes of a digest as six words. -/
def digestWords (d : BitVec 384) : List W64 := (upTo 6).map fun k => d.extractLsb' (64 * k) 64

/-- The meter record of an owner (R421). -/
def State.meterRecord (s : State) (o : Nat) (pending : Bool) : List W64 :=
  w64 (o % 64 + pending.toNat * 2 ^ 8) :: s.nsec :: (s.owner o).meters

/-- The value of a measurement index (R419, R436); none for an index that is not assigned. -/
def State.measurement (s : State) (index : Nat) (pending : Bool) : Option (List W64) :=
  if index = 1 then some (digestWords Config.romMeasurement)
  else if 2 ≤ index ∧ index ≤ 5 then some (digestWords (s.stageMeas.getD (index - 2) 0))
  else if 6 ≤ index ∧ index ≤ 15 then some (digestWords 0)
  else if 0x20 ≤ index ∧ index < 0x40 then
    let p := s.part (index - 0x20)
    some (digestWords (if p.conf then p.cmr else 0))
  else if 0x40 ≤ index ∧ index < 0x80 then some (s.meterRecord (index - 0x40) pending)
  else none

/-- The answer to GET_MEASUREMENTS by the class of its arrival (R441): in the window ResponseNotReady with RDTExponent 11, 2,048 µs. -/
def State.measureReply (s : State) (index : Nat) : Reply :=
  if s.sys.mactState = 2#2 then .notReady 11
  else
    let pending := s.sys.mactState == 1#2
    match s.measurement index pending with
    | some v => .measurement index v pending (Config.spdmSignature s.free)
    | none => .refused

/-- R441. -/
def execGetMeasurements (index : Nat) (s : State) : Host.Outcome State Fault Refusal :=
  .next { s with replies := s.replies ++ [s.measureReply index], free := s.free + 1 }

/-- A quire's arrays, or a slice's, are read out only by an authenticated client: its partition is confidential. -/
def State.secret (s : State) (p : Option Nat) : Bool := (p.map fun p => (s.part p).conf).getD false

/-- The quire that an array belongs to, its partition: for a slice, that which owns it. -/
def State.arrayPart (s : State) (a : ArrayAsk) : Option Nat :=
  match a with
  | .tile q _ _ _ _ => s.partOfQuire q
  | .slice k _ _ => findAt (fun p : Part => bitAt p.slices k) s.parts
  | .unit q _ _ _ => s.partOfQuire q
  | .matrix q _ _ => s.partOfQuire q
  | .thread n => s.partOfQuire (htQuire n)

/-- What an array holds. DESIGN CHOICE: R444 gives no layout; a token is read as its strip, the accumulators in the order of slot, row and
column, and the registers x0 to x31, as little-endian words (log entry 84). -/
def State.arrayBytes (s : State) (a : ArrayAsk) : List Byte :=
  let strips (l : List Token) : List Byte := l.flatMap fun t => match t with
    | .data v => stripBytes v
    | _ => []
  match a with
  | .tile q x y off n => s.bytes (tileMem ⟨q, x, y⟩ off) n
  | .slice k off n => s.bytes (sliceKey k off) n
  | .unit q x y slot => ((s.unit? ⟨q, x, y, slot⟩).map fun f => strips (f.ins.filterMap id ++ f.outs.filterMap Slot.tok)).getD []
  | .matrix q x y => ((s.mtile? ⟨q, x, y⟩).map fun m => (upTo 65536).flatMap fun k => natBytes 4 (slotGet m.slots k).toNat).getD []
  | .thread n => ((s.instOn n).map fun i => (upTo 32).flatMap fun r => natBytes 8 (i.ctx.rd (BitVec.ofNat 5 r)).toNat).getD []

/-- The read-out of an array, which changes nothing, of a frozen package alone: of a confidential quire only after SPDM
authentication, and over the management port not after a boot failure (R437, R444). -/
def State.readArray (s : State) (scan auth : Bool) (a : ArrayAsk) : Reply :=
  if !s.frozen || (!scan && fieldN s.sys.mboot 4 4 != 0) || (s.secret (s.arrayPart a) && !auth) then .refused
  else .array (s.arrayBytes a)

/-- What still takes place with every clock stopped: RESET_N, and a read-out (R444). -/
def runsFrozen (i : Instr) : Bool :=
  match i with
  | .hubReset => true
  | .managementRequest (.readOut _ _ _) => true
  | _ => false

/-- Another management request: after a boot failure only GET_VERSION is answered; the device OS learns of the others by
MEVENT.MGMT. -/
def State.manage (s : State) (ask : MgmtAsk) : State :=
  match ask with
  | .getVersion => { s with replies := s.replies ++ [.version] }
  | .readOut scan auth a => { s with replies := s.replies ++ [s.readArray scan auth a] }
  | .other code =>
    if fieldN s.sys.mboot 4 4 ≠ 0 then { s with replies := s.replies ++ [.refused] }
    else { s with replies := s.replies ++ [.other code (Config.managementReply s.free)], free := s.free + 1,
                  sys := { s.sys with mevent := setBitTo s.sys.mevent 1 true } }

/-- R437. -/
def execManagementRequest (ask : MgmtAsk) (s : State) : Host.Outcome State Fault Refusal := .next (s.manage ask)

end Sys2Proof.Machine
end

