-- ==== Sys2Proof/Machine/Registers.lean ====
section
/-!
DEFINITION. The special registers: which numbers are assigned, what each reads and what a write of it does (R9, R23,
R181 to R186, R230, R274, R354, R355, R379, R386, R389, R390, R392, R400, R422, R423, R439), and the words srd and swr.
-/

namespace Sys2Proof.Machine

/-! ### The maps -/

/-- n lies in [lo, hi]. -/
def within (n lo hi : Nat) : Bool := decide (lo ≤ n) && decide (n ≤ hi)

/-- User registers (R182, R230, R274, R389, R392). -/
def userReg (n : Nat) : Bool :=
  within n 0x000 0x005 || within n 0x008 0x00D || within n 0x040 0x045 || within n 0x080 0x08A || within n 0x0A0 0x0A4 || n == 0x0FF

/-- Supervisor registers of faults, contexts and partitions (R400, R422): no rule unassigns them on any thread (R354). -/
def bothReg (n : Nat) : Bool := within n 0x200 0x205 || within n 0x210 0x21B || within n 0x300 0x306 || within n 0x308 0x309

/-- Supervisor registers of a control thread (R354). -/
def quireReg (n : Nat) : Bool := within n 0x100 0x10A || within n 0x140 0x160 || bothReg n

/-- Supervisor registers of a Trearo core (R354, R379, R386). -/
def trearoReg (n : Nat) : Bool := within n 0x100 0x107 || within n 0x180 0x182 || within n 0x1C0 0x1C8 || bothReg n

/-- Machine registers (R355, R423, R439). -/
def machineReg (n : Nat) : Bool :=
  within n 0x400 0x406 || n == 0x408 || within n 0x410 0x414 || within n 0x418 0x41A || within n 0x420 0x422 || within n 0x424 0x429 ||
    within n 0x42C 0x42D || within n 0x440 0x447

/-- The number is assigned for the thread that executes. -/
def State.assigned (s : State) (n : Nat) : Bool :=
  userReg n || machineReg n || (if s.onCtl then quireReg n else trearoReg n)

/-- Every field is read-only. -/
def readOnly (n : Nat) : Bool :=
  within n 0x000 0x005 || n == 0x008 || within n 0x00A 0x00D || within n 0x041 0x045 || within n 0x081 0x08A || n == 0x0FF || n == 0x10A ||
    n == 0x182 || within n 0x1C7 0x1C8 || n == 0x204 || within n 0x211 0x21B || within n 0x301 0x302 || n == 0x309 || within n 0x424 0x429 ||
    n == 0x42D || n == 0x440 || within n 0x444 0x446

/-- The lowest level that may name the number (R181). -/
def regLevel (n : Nat) : Nat := if n < 0x100 then 0 else if n < 0x400 then 1 else 2

/-! ### User registers -/

/-- ARCHID (R1). -/
def archid : W64 := 0x5241392002010000#64 + (Config.step.setWidth 64 <<< 8)

/-- State codes (R23). -/
def IState.code (i : IState) : Nat :=
  match i with
  | .queued => 0
  | .placed => 1
  | .run => 2
  | .yielded => 3
  | .cut => 4
  | .faulted => 5
  | .killed => 6
  | .done => 7

/-- WTSELF (R230): the entry in force of the instance's thread. -/
def State.wtself (s : State) (i : Inst) : Nat :=
  let holds := (s.decls.filter fun d => d.serial == i.serial).length * 2 ^ 17
  match s.inForce (.thread i.serial) with
  | some w => (w.bank * Config.waitBank + w.idx) % 2 ^ 12 + w.kind % 8 * 2 ^ 12 + w.sw.toNat * 2 ^ 15 + 2 ^ 16 + holds
  | none => holds

/-- The counters that MXSEL selects. -/
def Inst.selected (i : Inst) : MxCount :=
  (i.mx.find? fun c => c.folio == fieldN i.mxsel 0 8 && c.tx == fieldN i.mxsel 8 2 && c.ty == fieldN i.mxsel 10 2).getD
    ⟨0, 0, 0, [0, 0, 0], [0, 0, 0], 0, 0⟩

/-- Reads a user register of an instance (R183, R23, R230, R274, R389, R392). -/
def State.readInst (s : State) (i : Inst) (n : Nat) : W64 :=
  match n with
  | 0x000 => w64 (i.serial % 2 ^ 32 + i.part % 32 * 2 ^ 43 + i.owner % 64 * 2 ^ 48)
  | 0x003 => w64 (i.state.code + i.active.toNat * 2 ^ 3 + i.phaseNo % 16 * 2 ^ 4)
  | 0x008 => w64 (i.base % 8 + i.eff % 8 * 2 ^ 4 + i.ceil % 8 * 2 ^ 8)
  | 0x009 => w64 (i.strict.toNat + i.inc.toNat * 2)
  | 0x00A => w64 (i.swovf.toNat + i.autoovf.toNat * 2 ^ 32)
  | 0x00B => w64 (s.wtself i)
  | 0x00C => i.dladdr
  | 0x00D => w64 i.dlcount.toNat
  | 0x040 => w64 i.mxsel.toNat
  | 0x044 => w64 (i.selected.abandon.toNat + i.selected.last.toNat * 2 ^ 32)
  | 0x045 => w64 (i.mxsq.toNat + i.mxcommit.toNat * 2 ^ 32)
  | 0x0A0 => i.utvec
  | 0x0A1 => w64 i.utmask.toNat
  | 0x0A2 => i.uepc
  | 0x0A3 => w64 (i.uinh.toNat + i.usave.toNat * 2)
  | 0x0A4 => i.uscratch
  | n =>
    if within n 0x041 0x043 then
      w64 ((i.selected.att.getD (n - 0x041) 0).toNat + (i.selected.sq.getD (n - 0x041) 0).toNat * 2 ^ 32)
    else if within n 0x080 0x08A then i.fault.words.getD (n - 0x080) 0
    else 0#64

/-- Reads a user register. THREAD and QUIREID name the control thread's place (R9, R184); a Trearo core has no instance and no
place among the quires. -/
def State.readUser (s : State) (n : Nat) : W64 :=
  match n, s.cur with
  | 0x001, .ctl h => w64 (h % 8)
  | 0x002, .ctl h => w64 (htQuire h)
  | 0x004, _ => s.cycle
  | 0x005, _ => s.nsec
  | 0x0FF, _ => archid
  | n, _ => match s.me with
    | some i => s.readInst i n
    | none => 0#64

/-! ### Supervisor and machine registers -/

/-- The trap registers of the supervisor level that the thread that executes uses. -/
def State.supRegs (s : State) : TrapRegs :=
  match s.cur with
  | .ctl h => (s.sup (htCore h)).regs
  | .trearo k => (s.tcore k).s

def State.modSupRegs (s : State) (f : TrapRegs → TrapRegs) : State :=
  match s.cur with
  | .ctl h => s.modSup (htCore h) fun b => { b with regs := f b.regs }
  | .trearo k => s.modTcore k fun c => { c with s := f c.s }

/-- The machine-level trap registers of a Trearo core. -/
def State.machRegs (s : State) : TrapRegs :=
  match s.cur with
  | .ctl _ => TrapRegs.reset
  | .trearo k => (s.tcore k).m

def State.modMachRegs (s : State) (f : TrapRegs → TrapRegs) : State :=
  match s.cur with
  | .ctl _ => s
  | .trearo k => s.modTcore k fun c => { c with m := f c.m }

/-- XTVEC to XSCRATCH and STIMECMP by their places 1 to 7 (R354, R355). -/
def TrapRegs.word (r : TrapRegs) (k : Nat) : W64 :=
  match k with
  | 1 => r.tvec
  | 2 => r.epc
  | 3 => r.cause
  | 4 => r.addr
  | 5 => r.info
  | 6 => r.scratch
  | _ => r.timecmp

/-- A write of one of them; XCAUSE keeps 17 bits. -/
def TrapRegs.put (r : TrapRegs) (k : Nat) (v : W64) : TrapRegs :=
  match k with
  | 1 => { r with tvec := setField v 0 6 0 }
  | 2 => { r with epc := setField v 0 2 0 }
  | 3 => { r with cause := w64 (fieldN v 0 17) }
  | 4 => { r with addr := v }
  | 5 => { r with info := v }
  | 6 => { r with scratch := v }
  | _ => { r with timecmp := v }

/-- The instance whose user context is trapped on the hardware thread that executes, in a nested handler too (R354). -/
def State.trapped (s : State) : Option Inst :=
  match s.cur with
  | .ctl h =>
    if (s.sup (htCore h)).active = some h then s.instOn h else none
  | .trearo _ => none

/-- SUREG. -/
def State.readSureg (s : State) (r : Nat) : W64 :=
  match s.trapped with
  | some i => if r < i.regs then i.ctx.rd (BitVec.ofNat 5 r) else 0#64
  | none => 0#64

/-- SUPRED. -/
def State.readSupred (s : State) : W64 :=
  match s.trapped with
  | some i => w64 (2 * i.ctx.psave.toNat + 1)
  | none => 0#64

/-- VFCFG of a function (R379). -/
def Fn.config (f : Fn) : Nat :=
  f.owner % 64 + f.part % 32 * 2 ^ 6 + f.pv.toNat * 2 ^ 11 + f.qen.toNat * 2 ^ 12 + f.maxprio % 8 * 2 ^ 16

/-- Scheduling and translation registers of the Trearo cores (R379, R386). -/
def State.readSched (s : State) (n : Nat) : W64 :=
  let o := s.sys.ownsel.toNat
  let f := s.fn s.sys.vfsel.toNat
  let p := s.part s.sys.xsel.toNat
  let l := s.lendOf s.sys.lendQuire
  match n with
  | 0x180 => w64 s.sys.xsel.toNat
  | 0x181 => p.root
  | 0x182 => w64 (p.walks.toNat + p.faults.toNat * 2 ^ 32)
  | 0x1C0 => s.sys.schctl
  | 0x1C1 => w64 o
  | 0x1C2 =>
    let c := (s.ownerCands o).length
    w64 ((s.owner o).weight % 256 + (if c = 0 then 0 else (s.owner o).deficit % 2 ^ 16) * 2 ^ 8 + c % 2 ^ 16 * 2 ^ 32)
  | 0x1C3 => w64 s.sys.vfsel.toNat
  | 0x1C4 => w64 f.config
  | 0x1C5 => w64 (s.sys.lendQuire % 32 + s.sys.lendTo % 32 * 2 ^ 5 + l.busy.toNat * 2 ^ 12 + l.result.toNat * 2 ^ 13)
  | 0x1C6 =>
    w64 (s.sys.role.toNat + (s.roleQuires false).length % 32 * 2 ^ 16 + (s.roleQuires true).length % 32 * 2 ^ 21 + s.moving.toNat * 2 ^ 26)
  | 0x1C7 => w64 s.sys.rolemask.toNat
  | 0x1C8 => w64 f.drop.toNat
  | _ => 0#64

/-- The fault and context registers of the thread that executes: its quire's, or a Trearo core's own (R400; log entry 34). -/
def State.ctxRegs (s : State) : QuireRegs :=
  match s.cur with
  | .ctl h => s.quire (htQuire h)
  | .trearo k => (s.tcore k).ctx

def State.modCtxRegs (s : State) (f : QuireRegs → QuireRegs) : State :=
  match s.cur with
  | .ctl h => s.modQuire (htQuire h) f
  | .trearo k => s.modTcore k fun c => { c with ctx := f c.ctx }

/-- Reads one of them (R390, R400). -/
def State.readFault (s : State) (n : Nat) : W64 :=
  let r := s.ctxRegs
  match n with
  | 0x200 => w64 r.skill.toNat
  | 0x201 => w64 r.scut.toNat
  | 0x202 => w64 r.swdog.toNat
  | 0x203 => 0#64
  | 0x204 => w64 r.swdcnt.toNat
  | 0x205 => w64 r.shung.toNat
  | 0x21B => w64 r.mboxser.toNat
  | n => r.mbox.words.getD (n - 0x210) 0#64

/-- Supervisor registers of partitions (R422). -/
def State.readPart (s : State) (n : Nat) : W64 :=
  let k := fieldN s.sys.psel 0 5
  let p := s.part k
  let f := s.fn s.sys.vfsel.toNat
  match n with
  | 0x300 => w64 k
  | 0x301 => w64 (p.quires.toNat + (s.scratch k).length % 256 * 2 ^ 32 + (s.caches k).length % 256 * 2 ^ 40 + p.en.toNat * 2 ^ 48 +
      p.conf.toNat * 2 ^ 49)
  | 0x302 => p.slices
  | 0x303 => s.sys.srole &&& p.slices
  | 0x304 => w64 (f.busy.toNat * 2)
  | 0x305 => f.abase
  | 0x306 => f.asize
  | 0x308 => w64 s.sys.msel.toNat
  | 0x309 => (s.owner (fieldN s.sys.msel 0 6)).meters.getD (fieldN s.sys.msel 8 5) 0#64
  | _ => 0#64

/-- Eight bytes of CMR, the most significant first (R418). -/
def cmrWord (d : BitVec 384) (k : Nat) : W64 := w64 (bytesNat (natBytes 8 (fieldN d (64 * k) 64)).reverse)

/-- Machine registers of partitions (R423). -/
def State.readMach (s : State) (n : Nat) : W64 :=
  let p := s.part s.sys.mpselP.toNat
  let t := s.tunnels.getD s.sys.mtsel.toNat ⟨0#64, 0#64⟩
  match n with
  | 0x410 => w64 (s.sys.mpselP.toNat + s.sys.mpselR.toNat * 2 ^ 8)
  | 0x411 => w64 p.quires.toNat
  | 0x412 => p.slices
  | 0x413 => p.ranges.getD s.sys.mpselR.toNat 0#64
  | 0x414 => w64 (p.en.toNat + p.err.toNat * 2)
  | 0x418 => w64 s.sys.mtsel.toNat
  | 0x419 => t.cfg
  | 0x41A => t.range
  | 0x420 => w64 (fieldN p.mccfg 0 22 + p.gen.toNat * 2 ^ 22 + p.retiring.isSome.toNat * 2 ^ 39)
  | 0x421 => p.mctag
  | 0x422 => p.mcspan
  | 0x42C => s.sys.mflog
  | 0x42D => s.sys.mfaddr
  | n => if within n 0x424 0x429 then cmrWord p.cmr (n - 0x424) else 0#64

/-- Hub registers (R439). -/
def State.readHub (s : State) (n : Nat) : W64 :=
  match n with
  | 0x440 => s.sys.mboot
  | 0x441 => s.sys.mevent
  | 0x442 => s.sys.mevmask
  | 0x443 => w64 (s.sys.mpkg.toNat + s.sys.mpkgSet.toNat * 2 ^ 12)
  | 0x444 => s.sys.mecc
  | 0x445 => s.sys.mtherm
  | 0x446 => w64 s.sys.mdroop.toNat
  | 0x447 => w64 (s.sys.mactState.toNat * 2 ^ 2)
  | _ => 0#64

/-- Reads a special register. -/
def State.readReg (s : State) (n : Nat) : W64 :=
  if n < 0x100 then s.readUser n
  else if n = 0x100 then w64 (fieldN s.supRegs.pl 0 1 + s.supRegs.inh.toNat * 2)
  else if n ≤ 0x107 then s.supRegs.word (n - 0x100)
  else if n = 0x108 then s.seventNow s.meQuire
  else if n = 0x109 then (s.quire s.meQuire).sevmask
  else if n = 0x10A then w64 ((s.partOfQuire s.meQuire).getD 0)
  else if n < 0x160 then s.readSureg (n - 0x140)
  else if n = 0x160 then s.readSupred
  else if n < 0x200 then s.readSched n
  else if n < 0x300 then s.readFault n
  else if n < 0x400 then s.readPart n
  else if n = 0x400 then w64 (s.machRegs.pl.toNat + s.machRegs.inh.toNat * 4)
  else if n ≤ 0x406 then s.machRegs.word (n - 0x400)
  else if n = 0x408 then
    match s.cur with
    | .ctl _ => 0#64
    | .trearo k => (s.tcore k).deleg
  else if n < 0x440 then s.readMach n
  else s.readHub n

/-- Before MECC is read, the errors that the package has corrected since are counted (R439; log entry 61). -/
def State.countCorrected (s : State) (n : Nat) : State :=
  if n = 0x444 then
    { s with sys := { s.sys with mecc := setField s.sys.mecc 0 32 (satAdd 32 (fieldN s.sys.mecc 0 32) (Config.corrected s.free)) }, free := s.free + 1 }
  else s

/-- R181. -/
def execSrd (d : BitVec 5) (n : BitVec 12) (g : BitVec 3) (s : State) : Host.Outcome State Fault Refusal :=
  runWord s (!s.assigned n.toNat) (regLevel n.toNat) [d] g fun s =>
    let s := s.countCorrected n.toNat
    .ok .next (s.wr d (s.readReg n.toNat))

/-! ### Writes -/

/-- Bits that a delegation mask keeps (R392). -/
def userMask : W32 := delegable.foldl (fun m c => setBitTo m c true) 0#32

/-- Writes a user register of an instance, USTATUS apart. -/
def Inst.write (i : Inst) (n : Nat) (v : W64) : Inst :=
  match n with
  | 0x009 => { i with strict := bitAt v 0, inc := i.inc && !bitAt v 1 }
  | 0x040 => { i with mxsel := v.extractLsb' 0 12 }
  | 0x080 => if bitAt v 19 then { i with fault := { i.fault with v := false, more := 0 } } else i
  | 0x0A0 => { i with utvec := setField v 0 2 0 }
  | 0x0A1 => { i with utmask := v.extractLsb' 0 32 &&& userMask }
  | 0x0A2 => { i with uepc := setField v 0 2 0 }
  | 0x0A4 => { i with uscratch := v }
  | _ => i

/-- SUREG: x0 and a register that is not allocated ignore the write. -/
def State.writeSureg (s : State) (r : Nat) (v : W64) : State :=
  match s.trapped with
  | some i => if r < i.regs then s.modInst i.serial fun i => { i with ctx := i.ctx.wr (BitVec.ofNat 5 r) v } else s
  | none => s

/-- SUPRED. -/
def State.writeSupred (s : State) (v : W64) : State :=
  match s.trapped with
  | some i => s.modInst i.serial fun i => { i with ctx := i.ctx.prestore (v.extractLsb' 1 7) }
  | none => s

def State.modSys (s : State) (f : Sysregs → Sysregs) : State := { s with sys := f s.sys }

/-- A write of VFCFG. -/
def Fn.configure (f : Fn) (v : W64) : Fn :=
  { f with owner := fieldN v 0 6, part := fieldN v 6 5, pv := bitAt v 11, qen := v.extractLsb' 12 4, maxprio := fieldN v 16 3 }

/-- Writes scheduling and translation registers of the Trearo cores (R379, R386). -/
def State.writeSched (s : State) (n : Nat) (v : W64) : State :=
  match n with
  | 0x180 => s.modSys fun r => { r with xsel := v.extractLsb' 0 5 }
  | 0x181 => s.modPart s.sys.xsel.toNat fun p => { p with root := v &&& 0x000FFFFFFFFFF001#64 }
  | 0x1C0 => s.modSys fun r => { r with schctl := v &&& 0xFFFFFFFF000001FF#64 }
  | 0x1C1 => s.modSys fun r => { r with ownsel := v.extractLsb' 0 6 }
  | 0x1C2 => s.modOwner s.sys.ownsel.toNat fun o => { o with weight := fieldN v 0 8 }
  | 0x1C3 => s.modSys fun r => { r with vfsel := v.extractLsb' 0 9 }
  | 0x1C4 => s.modFn s.sys.vfsel.toNat fun f => f.configure v
  | 0x1C5 => s.lendWrite v
  | 0x1C6 => s.modSys fun r => { r with role := v.extractLsb' 0 16 }
  | _ => s

/-- Writes fault and context registers (R390, R400, R455); from a Trearo core those that name an instance reach every quire. -/
def State.writeFault (s : State) (n : Nat) (v : W64) : State :=
  match n, s.cur with
  | 0x200, .ctl h => s.skillReg (htQuire h) v
  | 0x200, .trearo _ =>
    let r := s.skillWrite none v
    r.2.modCtxRegs fun a => { a with skill := BitVec.ofNat 3 r.1 }
  | 0x201, .ctl h => s.scutReg (htQuire h) v
  | 0x201, .trearo _ =>
    let r := s.scutWrite none v
    r.2.modCtxRegs fun a => { a with scut := BitVec.ofNat 3 r.1 }
  | 0x202, _ => s.modCtxRegs fun r => { r with swdog := v.extractLsb' 0 32 }
  | 0x203, _ => s.sresumeWrite v
  | 0x205, .ctl h => s.shungWrite (htQuire h) v
  | 0x210, .ctl h => s.mailboxWrite (htQuire h) v
  | _, _ => s

/-- Writes supervisor registers of partitions (R422). -/
def State.writePart (s : State) (n : Nat) (v : W64) : State :=
  match n with
  | 0x300 => s.modSys fun r => { r with psel := v.extractLsb' 0 5 }
  | 0x303 => s.sroleSet v
  | 0x304 => if bitAt v 0 then s.resetFn s.sys.vfsel.toNat else s
  | 0x305 => s.arenaWrite v
  | 0x306 => s.modFn s.sys.vfsel.toNat fun f => { f with asize := setField v 0 12 0 }
  | 0x308 => s.modSys fun r => { r with msel := v.extractLsb' 0 13 &&& 0x1F3F#13 }
  | _ => s

/-- MPCFG: EN and ERR. A partition with no cache slice is not enabled (R405). -/
def State.mpcfgWrite (s : State) (v : W64) : State :=
  let p := s.sys.mpselP.toNat
  let s := s.modPart p fun a => { a with err := a.err && !bitAt v 1 }
  if bitAt v 0 && (s.caches p).isEmpty then s.partErr p else s.modPart p fun a => { a with en := bitAt v 0 }

/-- MCTAG and MCSPAN are written only while the partition has no live instance (R423). -/
def State.spanWrite423 (s : State) (f : Part → Part) : State :=
  let p := s.sys.mpselP.toNat
  if s.partEmpty p then s.modPart p f else s.partErr p

/-- Writes machine registers of partitions (R423). -/
def State.writeMach (s : State) (n : Nat) (v : W64) : State :=
  match n with
  | 0x410 => s.modSys fun r => { r with mpselP := v.extractLsb' 0 5, mpselR := v.extractLsb' 8 3 }
  | 0x414 => s.mpcfgWrite v
  | 0x418 => s.modSys fun r => { r with mtsel := v.extractLsb' 0 4 }
  | 0x419 => s.tunnelSet n v
  | 0x41A => s.tunnelSet n v
  | 0x420 => s.mccfgWrite v
  | 0x421 => s.spanWrite423 fun p => { p with mctag := v &&& 0x000FFFFFFFFFF000#64 }
  | 0x422 => s.spanWrite423 fun p => { p with mcspan := v &&& 0x7FFFFFFFFFFFFFFE#64 }
  | 0x42C => if bitAt v 46 then s.modSys fun r => { r with mflog := setBitTo r.mflog 46 false } else s
  | n => s.resourceWrite n v

/-- MACT.OP; the images that a stage write names are free (log entry 11). -/
def State.mactWrite (s : State) (v : W64) : State :=
  match fieldN v 0 2 with
  | 1 =>
    let image (k : Nat) : BootFetch := .image (Config.stagedImage s.free k).1 (Config.stagedImage s.free k).2
    { s.stage1 (image 3) (image 4) with free := s.free + 1 }
  | 2 => s.commit1
  | _ => s

/-- Writes hub registers (R439). -/
def State.writeHub (s : State) (n : Nat) (v : W64) : State :=
  match n with
  | 0x441 => s.modSys fun r => { r with mevent := r.mevent &&& ~~~v }
  | 0x442 => s.modSys fun r => { r with mevmask := w64 (fieldN v 0 5) }
  | 0x443 => s.mpkgSet (v.extractLsb' 0 12)
  | 0x447 => s.mactWrite v
  | _ => s

/-- MSTATUS: a PL of 3 leaves the field (R355). -/
def TrapRegs.mstatus (r : TrapRegs) (v : W64) : TrapRegs :=
  { r with pl := if fieldN v 0 2 = 3 then r.pl else v.extractLsb' 0 2, inh := bitAt v 2 }

/-- TIMER that the compare value of the thread's core has set stays set when that value is written anew (R354). -/
def State.keepTimer (s : State) : State :=
  match s.cur with
  | .ctl h => s.timerEvent (htCore h)
  | .trearo _ => s

/-- Writes a supervisor or machine register. -/
def State.writeHigh (s : State) (n : Nat) (v : W64) : State :=
  if n = 0x100 then s.modSupRegs fun r => { r with pl := BitVec.ofNat 2 (fieldN v 0 1), inh := bitAt v 1 }
  else if n ≤ 0x107 then (if n = 0x107 then s.keepTimer else s).modSupRegs fun r => r.put (n - 0x100) v
  else if n = 0x108 then s.modQuire s.meQuire fun r => { r with sevent := r.sevent &&& ~~~v }
  else if n = 0x109 then s.modQuire s.meQuire fun r => { r with sevmask := w64 (fieldN v 0 6) }
  else if n < 0x140 then s
  else if n < 0x160 then s.writeSureg (n - 0x140) v
  else if n = 0x160 then s.writeSupred v
  else if n < 0x200 then s.writeSched n v
  else if n < 0x300 then s.writeFault n v
  else if n < 0x400 then s.writePart n v
  else if n = 0x400 then s.modMachRegs fun r => r.mstatus v
  else if n ≤ 0x406 then s.modMachRegs fun r => r.put (n - 0x400) v
  else if n = 0x408 then
    match s.cur with
    | .ctl _ => s
    | .trearo k => s.modTcore k fun c => { c with deleg := v }
  else if n < 0x440 then s.writeMach n v
  else s.writeHub n v

/-- `swr`: USTATUS has its own rules (R392); a Trearo core has no instance's registers. -/
def swrBody (n : Nat) (v : W64) (s : State) : Ans Flow :=
  if n = 0x0A3 then ustatusBody v s
  else if n < 0x100 then .ok .next (s.modMe fun i => i.write n v)
  else .ok .next (s.writeHigh n v)

/-- R181. -/
def execSwr (a : BitVec 5) (n : BitVec 12) (g : BitVec 3) (s : State) : Host.Outcome State Fault Refusal :=
  runWord s (!s.assigned n.toNat || readOnly n.toNat) (regLevel n.toNat) [a] g fun s => swrBody n.toNat (s.rd a) s

end Sys2Proof.Machine
end

