-- ==== Sys2Proof/Machine/Dispatch.lean ====
section
/-!
DEFINITION. Which meaning each instruction has: one arm per constructor of Instr.
-/

namespace Sys2Proof.Machine

/-- The effect of an instruction. -/
def exec (i : Instr) (s : State) : Host.Outcome State Fault Refusal :=
  match i with
  | .add d a b g => Sys2Proof.Machine.execAdd d a b g s
  | .sub d a b g => Sys2Proof.Machine.execSub d a b g s
  | .mul d a b g => Sys2Proof.Machine.execMul d a b g s
  | .mulh d a b g => Sys2Proof.Machine.execMulh d a b g s
  | .mulhu d a b g => Sys2Proof.Machine.execMulhu d a b g s
  | .div d a b g => Sys2Proof.Machine.execDiv d a b g s
  | .divu d a b g => Sys2Proof.Machine.execDivu d a b g s
  | .rem d a b g => Sys2Proof.Machine.execRem d a b g s
  | .remu d a b g => Sys2Proof.Machine.execRemu d a b g s
  | .and d a b g => Sys2Proof.Machine.execAnd d a b g s
  | .or d a b g => Sys2Proof.Machine.execOr d a b g s
  | .xor d a b g => Sys2Proof.Machine.execXor d a b g s
  | .shl d a b g => Sys2Proof.Machine.execShl d a b g s
  | .shr d a b g => Sys2Proof.Machine.execShr d a b g s
  | .sra d a b g => Sys2Proof.Machine.execSra d a b g s
  | .min d a b g => Sys2Proof.Machine.execMin d a b g s
  | .max d a b g => Sys2Proof.Machine.execMax d a b g s
  | .minu d a b g => Sys2Proof.Machine.execMinu d a b g s
  | .maxu d a b g => Sys2Proof.Machine.execMaxu d a b g s
  | .addi d a imm g => Sys2Proof.Machine.execAddi d a imm g s
  | .andi d a imm g => Sys2Proof.Machine.execAndi d a imm g s
  | .ori d a imm g => Sys2Proof.Machine.execOri d a imm g s
  | .xori d a imm g => Sys2Proof.Machine.execXori d a imm g s
  | .shli d a amt g => Sys2Proof.Machine.execShli d a amt g s
  | .shri d a amt g => Sys2Proof.Machine.execShri d a amt g s
  | .srai d a amt g => Sys2Proof.Machine.execSrai d a amt g s
  | .cmpi p a c imm g => Sys2Proof.Machine.execCmpi p a c imm g s
  | .movi d imm g => Sys2Proof.Machine.execMovi d imm g s
  | .movhi d q v g => Sys2Proof.Machine.execMovhi d q v g s
  | .cmp p a b c g => Sys2Proof.Machine.execCmp p a b c g s
  | .pand d a b g => Sys2Proof.Machine.execPand d a b g s
  | .por d a b g => Sys2Proof.Machine.execPor d a b g s
  | .pxor d a b g => Sys2Proof.Machine.execPxor d a b g s
  | .pnot d a g => Sys2Proof.Machine.execPnot d a g s
  | .br d => Sys2Proof.Machine.execBr d s
  | .brT p d => Sys2Proof.Machine.execBrT p d s
  | .brF p d => Sys2Proof.Machine.execBrF p d s
  | .call d => Sys2Proof.Machine.execCall d s
  | .callT p d => Sys2Proof.Machine.execCallT p d s
  | .callF p d => Sys2Proof.Machine.execCallF p d s
  | .jr a g => Sys2Proof.Machine.execJr a g s
  | .ret g => Sys2Proof.Machine.execRet g s
  | .sel d a b ps g => Sys2Proof.Machine.execSel d a b ps g s
  | .ld d a off sx z g => Sys2Proof.Machine.execLd d a off sx z g s
  | .st src a off z g => Sys2Proof.Machine.execSt src a off z g s
  | .lea d a off z g => Sys2Proof.Machine.execLea d a off z g s
  | .illegalWord w => Sys2Proof.Machine.execIllegalWord w s
  | .spushP h a b g => Sys2Proof.Machine.execSpushP h a b g s
  | .spushB h a g => Sys2Proof.Machine.execSpushB h a g s
  | .spop h d q p g => Sys2Proof.Machine.execSpop h d q p g s
  | .spopK h d q p g => Sys2Proof.Machine.execSpopK h d q p g s
  | .sbound a b p g => Sys2Proof.Machine.execSbound a b p g s
  | .seos h g => Sys2Proof.Machine.execSeos h g s
  | .cfg f g => Sys2Proof.Machine.execCfg f g s
  | .cfgPin a f g => Sys2Proof.Machine.execCfgPin a f g s
  | .go d g => Sys2Proof.Machine.execGo d g s
  | .drain g => Sys2Proof.Machine.execDrain g s
  | .yieldpt d g => Sys2Proof.Machine.execYieldpt d g s
  | .launch d a g => Sys2Proof.Machine.execLaunch d a g s
  | .join d a g => Sys2Proof.Machine.execJoin d a g s
  | .copy h a b ord g => Sys2Proof.Machine.execCopy h a b ord g s
  | .gather h a b ord g => Sys2Proof.Machine.execGather h a b ord g s
  | .scatter h a b ord g => Sys2Proof.Machine.execScatter h a b ord g s
  | .fill h a b ord g => Sys2Proof.Machine.execFill h a b ord g s
  | .coll h a b ord g => Sys2Proof.Machine.execColl h a b ord g s
  | .zsend h a b ord g => Sys2Proof.Machine.execZsend h a b ord g s
  | .zrecv h a b ord g => Sys2Proof.Machine.execZrecv h a b ord g s
  | .abind d a g => Sys2Proof.Machine.execAbind d a g s
  | .aunbind d a g => Sys2Proof.Machine.execAunbind d a g s
  | .samp h a b ord g => Sys2Proof.Machine.execSamp h a b ord g s
  | .gram h a b ord g => Sys2Proof.Machine.execGram h a b ord g s
  | .accept h a b ord g => Sys2Proof.Machine.execAccept h a b ord g s
  | .commit h a b ord g => Sys2Proof.Machine.execCommit h a b ord g s
  | .aadd d a b w g => Sys2Proof.Machine.execAadd d a b w g s
  | .asub d a b w g => Sys2Proof.Machine.execAsub d a b w g s
  | .aand d a b w g => Sys2Proof.Machine.execAand d a b w g s
  | .aor d a b w g => Sys2Proof.Machine.execAor d a b w g s
  | .axor d a b w g => Sys2Proof.Machine.execAxor d a b w g s
  | .amin d a b w g => Sys2Proof.Machine.execAmin d a b w g s
  | .amax d a b w g => Sys2Proof.Machine.execAmax d a b w g s
  | .axchg d a b w g => Sys2Proof.Machine.execAxchg d a b w g s
  | .acas d a b p w g => Sys2Proof.Machine.execAcas d a b p w g s
  | .aincw d a b w g => Sys2Proof.Machine.execAincw d a b w g s
  | .aaddb d a b p w g => Sys2Proof.Machine.execAaddb d a b p w g s
  | .aminu d a b w g => Sys2Proof.Machine.execAminu d a b w g s
  | .amaxu d a b w g => Sys2Proof.Machine.execAmaxu d a b w g s
  | .wreg a p k g => Sys2Proof.Machine.execWreg a p k g s
  | .wunreg g => Sys2Proof.Machine.execWunreg g s
  | .whold a p k g => Sys2Proof.Machine.execWhold a p k g s
  | .wrel a k g => Sys2Proof.Machine.execWrel a k g s
  | .prio d a g => Sys2Proof.Machine.execPrio d a g s
  | .lock a g => Sys2Proof.Machine.execLock a g s
  | .unlock a g => Sys2Proof.Machine.execUnlock a g s
  | .barinit d a g => Sys2Proof.Machine.execBarinit d a g s
  | .barrive d a g => Sys2Proof.Machine.execBarrive d a g s
  | .barwait d a g => Sys2Proof.Machine.execBarwait d a g s
  | .fence sc g => Sys2Proof.Machine.execFence sc g s
  | .srd d n g => Sys2Proof.Machine.execSrd d n g s
  | .swr a n g => Sys2Proof.Machine.execSwr a n g s
  | .trap n g => Sys2Proof.Machine.execTrap n g s
  | .sys d a n g => Sys2Proof.Machine.execSys d a n g s
  | .eret g => Sys2Proof.Machine.execEret g s
  | .halt d a g => Sys2Proof.Machine.execHalt d a g s
  | .idle g => Sys2Proof.Machine.execIdle g s
  | .tlbinvAll g => Sys2Proof.Machine.execTlbinvAll g s
  | .tlbinvPart a g => Sys2Proof.Machine.execTlbinvPart a g s
  | .tlbinvPage d a g => Sys2Proof.Machine.execTlbinvPage d a g s
  | .ustatusWrite v => Sys2Proof.Machine.execUstatusWrite v s
  | .postedStoreFailure id => Sys2Proof.Machine.execPostedStoreFailure id s
  | .priorityPropagation => Sys2Proof.Machine.execPriorityPropagation s
  | .tokenHop r hop => Sys2Proof.Machine.execTokenHop r hop s
  | .bubbleDiscard u input => Sys2Proof.Machine.execBubbleDiscard u input s
  | .pushPortEmit serial h => Sys2Proof.Machine.execPushPortEmit serial h s
  | .eosForward u => Sys2Proof.Machine.execEosForward u s
  | .binderLoad serial folio base => Sys2Proof.Machine.execBinderLoad serial folio base s
  | .bankTokenArrival t slice bank => Sys2Proof.Machine.execBankTokenArrival t slice bank s
  | .phaseEnd serial => Sys2Proof.Machine.execPhaseEnd serial s
  | .leafDone u => Sys2Proof.Machine.execLeafDone u s
  | .fadd u => Sys2Proof.Machine.execFadd u s
  | .fsub u => Sys2Proof.Machine.execFsub u s
  | .fmul u => Sys2Proof.Machine.execFmul u s
  | .fma u => Sys2Proof.Machine.execFma u s
  | .fnma u => Sys2Proof.Machine.execFnma u s
  | .fmin u => Sys2Proof.Machine.execFmin u s
  | .fmax u => Sys2Proof.Machine.execFmax u s
  | .fabs u => Sys2Proof.Machine.execFabs u s
  | .fneg u => Sys2Proof.Machine.execFneg u s
  | .fcmp u => Sys2Proof.Machine.execFcmp u s
  | .frcp u => Sys2Proof.Machine.execFrcp u s
  | .frsq u => Sys2Proof.Machine.execFrsq u s
  | .fexp2 u => Sys2Proof.Machine.execFexp2 u s
  | .flog2 u => Sys2Proof.Machine.execFlog2 u s
  | .fcvt u => Sys2Proof.Machine.execFcvt u s
  | .fclass u => Sys2Proof.Machine.execFclass u s
  | .iadd u => Sys2Proof.Machine.execIadd u s
  | .isub u => Sys2Proof.Machine.execIsub u s
  | .imul u => Sys2Proof.Machine.execImul u s
  | .iand u => Sys2Proof.Machine.execIand u s
  | .ior u => Sys2Proof.Machine.execIor u s
  | .ixor u => Sys2Proof.Machine.execIxor u s
  | .ishl u => Sys2Proof.Machine.execIshl u s
  | .ishr u => Sys2Proof.Machine.execIshr u s
  | .isra u => Sys2Proof.Machine.execIsra u s
  | .imin u => Sys2Proof.Machine.execImin u s
  | .imax u => Sys2Proof.Machine.execImax u s
  | .icmp u => Sys2Proof.Machine.execIcmp u s
  | .iclz u => Sys2Proof.Machine.execIclz u s
  | .ipopc u => Sys2Proof.Machine.execIpopc u s
  | .bcast u => Sys2Proof.Machine.execBcast u s
  | .perm u => Sys2Proof.Machine.execPerm u s
  | .lrot u => Sys2Proof.Machine.execLrot u s
  | .pack u => Sys2Proof.Machine.execPack u s
  | .unpack u => Sys2Proof.Machine.execUnpack u s
  | .quant u => Sys2Proof.Machine.execQuant u s
  | .dequant u => Sys2Proof.Machine.execDequant u s
  | .lred u => Sys2Proof.Machine.execLred u s
  | .scan u => Sys2Proof.Machine.execScan u s
  | .iota u => Sys2Proof.Machine.execIota u s
  | .lsel u => Sys2Proof.Machine.execLsel u s
  | .steer u => Sys2Proof.Machine.execSteer u s
  | .merge u => Sys2Proof.Machine.execMerge u s
  | .carry u => Sys2Proof.Machine.execCarry u s
  | .gate u => Sys2Proof.Machine.execGate u s
  | .const u => Sys2Proof.Machine.execConst u s
  | .delay u => Sys2Proof.Machine.execDelay u s
  | .ord u => Sys2Proof.Machine.execOrd u s
  | .ctr u => Sys2Proof.Machine.execCtr u s
  | .seq u => Sys2Proof.Machine.execSeq u s
  | .pipe u => Sys2Proof.Machine.execPipe u s
  | .strm u => Sys2Proof.Machine.execStrm u s
  | .mload u => Sys2Proof.Machine.execMload u s
  | .mswap u => Sys2Proof.Machine.execMswap u s
  | .swapMark u => Sys2Proof.Machine.execSwapMark u s
  | .mmac u => Sys2Proof.Machine.execMmac u s
  | .slabPass u => Sys2Proof.Machine.execSlabPass u s
  | .slabReplay u => Sys2Proof.Machine.execSlabReplay u s
  | .accrd u => Sys2Proof.Machine.execAccrd u s
  | .accwr u => Sys2Proof.Machine.execAccwr u s
  | .accclr u => Sys2Proof.Machine.execAccclr u s
  | .ag u => Sys2Proof.Machine.execAg u s
  | .ldn u => Sys2Proof.Machine.execLdn u s
  | .ldnRewind u => Sys2Proof.Machine.execLdnRewind u s
  | .ldnResolve u => Sys2Proof.Machine.execLdnResolve u s
  | .ldnRefEos u => Sys2Proof.Machine.execLdnRefEos u s
  | .stn u => Sys2Proof.Machine.execStn u s
  | .elasticBuffer u => Sys2Proof.Machine.execElasticBuffer u s
  | .rmw u => Sys2Proof.Machine.execRmw u s
  | .bankpass u => Sys2Proof.Machine.execBankpass u s
  | .lkpoolAcquire u => Sys2Proof.Machine.execLkpoolAcquire u s
  | .lkpoolRelease u => Sys2Proof.Machine.execLkpoolRelease u s
  | .engineRequestToken r h => Sys2Proof.Machine.execEngineRequestToken r h s
  | .engineUnit serial h idx => Sys2Proof.Machine.execEngineUnit serial h idx s
  | .tokenUnitRow tu => Sys2Proof.Machine.execTokenUnitRow tu s
  | .lap tu => Sys2Proof.Machine.execLap tu s
  | .queryAssembly q => Sys2Proof.Machine.execQueryAssembly q s
  | .keyBlockWalk q remove prove => Sys2Proof.Machine.execKeyBlockWalk q remove prove s
  | .scoreStage q b => Sys2Proof.Machine.execScoreStage q b s
  | .maskStage q b => Sys2Proof.Machine.execMaskStage q b s
  | .blendWeight q query b => Sys2Proof.Machine.execBlendWeight q query b s
  | .blendMerge q query ia ib => Sys2Proof.Machine.execBlendMerge q query ia ib s
  | .resolve q => Sys2Proof.Machine.execResolve q s
  | .cutStart serial => Sys2Proof.Machine.execCutStart serial s
  | .cutMarkerArrival r hop => Sys2Proof.Machine.execCutMarkerArrival r hop s
  | .cutComplete serial => Sys2Proof.Machine.execCutComplete serial s
  | .killStart serial cause sub => Sys2Proof.Machine.execKillStart serial cause sub s
  | .killComplete serial => Sys2Proof.Machine.execKillComplete serial s
  | .msixMessage fn vec => Sys2Proof.Machine.execMsixMessage fn vec s
  | .skill q v => Sys2Proof.Machine.execSkill q v s
  | .scut q v => Sys2Proof.Machine.execScut q v s
  | .sresume q v => Sys2Proof.Machine.execSresume q v s
  | .shungRestart q v => Sys2Proof.Machine.execShungRestart q v s
  | .mailboxFree q v => Sys2Proof.Machine.execMailboxFree q v s
  | .watchdogExpiry serial => Sys2Proof.Machine.execWatchdogExpiry serial s
  | .timerEvent core => Sys2Proof.Machine.execTimerEvent core s
  | .remoteTimeout id => Sys2Proof.Machine.execRemoteTimeout id s
  | .hostCompletion id a host => Sys2Proof.Machine.execHostCompletion id a host s
  | .hostLaunchEntry fn off size entry => Sys2Proof.Machine.execHostLaunchEntry fn off size entry s
  | .schedulerVisit => Sys2Proof.Machine.execSchedulerVisit s
  | .sliceExpiry serial => Sys2Proof.Machine.execSliceExpiry serial s
  | .roleControlTick choice => Sys2Proof.Machine.execRoleControlTick choice s
  | .roleFlip q => Sys2Proof.Machine.execRoleFlip q s
  | .lend v => Sys2Proof.Machine.execLend v s
  | .recall v => Sys2Proof.Machine.execRecall v s
  | .lendSelect v => Sys2Proof.Machine.execLendSelect v s
  | .cutDeadline q => Sys2Proof.Machine.execCutDeadline q s
  | .recallComplete q => Sys2Proof.Machine.execRecallComplete q s
  | .functionReset fn => Sys2Proof.Machine.execFunctionReset fn s
  | .arenaScrub fn => Sys2Proof.Machine.execArenaScrub fn s
  | .linkDown => Sys2Proof.Machine.execLinkDown s
  | .sroleWrite v => Sys2Proof.Machine.execSroleWrite v s
  | .partitionResourceWrite n v => Sys2Proof.Machine.execPartitionResourceWrite n v s
  | .tunnelWrite n v => Sys2Proof.Machine.execTunnelWrite n v s
  | .confidentialEnable v => Sys2Proof.Machine.execConfidentialEnable v s
  | .confidentialDisable v => Sys2Proof.Machine.execConfidentialDisable v s
  | .keySwitch p => Sys2Proof.Machine.execKeySwitch p s
  | .generationRetire p => Sys2Proof.Machine.execGenerationRetire p s
  | .transitOpen serial router kind gen seq tagOk => Sys2Proof.Machine.execTransitOpen serial router kind gen seq tagOk s
  | .fenceTrap => Sys2Proof.Machine.execFenceTrap s
  | .zillasRead hdr n => Sys2Proof.Machine.execZillasRead hdr n s
  | .zillasWrite hdr payload => Sys2Proof.Machine.execZillasWrite hdr payload s
  | .zillasAtomic hdr => Sys2Proof.Machine.execZillasAtomic hdr s
  | .zillasMessage hdr payload => Sys2Proof.Machine.execZillasMessage hdr payload s
  | .zillasCompletion hdr payload => Sys2Proof.Machine.execZillasCompletion hdr payload s
  | .zillasPortDown port => Sys2Proof.Machine.execZillasPortDown port s
  | .collResult id others => Sys2Proof.Machine.execCollResult id others s
  | .collCommit id => Sys2Proof.Machine.execCollCommit id s
  | .collIncomplete id members => Sys2Proof.Machine.execCollIncomplete id members s
  | .droopStretch die => Sys2Proof.Machine.execDroopStretch die s
  | .thermalTick temp => Sys2Proof.Machine.execThermalTick temp s
  | .thermtrip => Sys2Proof.Machine.execThermtrip s
  | .freeze => Sys2Proof.Machine.execFreeze s
  | .hubReset => Sys2Proof.Machine.execHubReset s
  | .bootStage e => Sys2Proof.Machine.execBootStage e s
  | .quireBringup pkg => Sys2Proof.Machine.execQuireBringup pkg s
  | .mpkgWrite v => Sys2Proof.Machine.execMpkgWrite v s
  | .mactStage images => Sys2Proof.Machine.execMactStage images s
  | .mactCommit => Sys2Proof.Machine.execMactCommit s
  | .commitPoint => Sys2Proof.Machine.execCommitPoint s
  | .getMeasurements index => Sys2Proof.Machine.execGetMeasurements index s
  | .debugRequest serial ask => Sys2Proof.Machine.execDebugRequest serial ask s
  | .zillasPortUp port => Sys2Proof.Machine.execZillasPortUp port s
  | .msixUnmask fn ask => Sys2Proof.Machine.execMsixUnmask fn ask s
  | .managementRequest ask => Sys2Proof.Machine.execManagementRequest ask s
  | .arenaRebind v => Sys2Proof.Machine.execArenaRebind v s

end Sys2Proof.Machine
end

