-- ==== Sys2Proof/WellFormed.lean ====
section
/-!
DEFINITION. Which terms of `Instr` stand for an instruction word: the checks of R140 step 1 that a field of its width
does not already make (R139 for `ld`, R222 for the wait-table kinds, R138 for the forms of a branch).
-/

namespace Sys2Proof

/-- The kinds that `wreg`, `whold` and `wrel` take: 1 BARRIER, 6 FLAG, 7 USER (R222). -/
def waitKind (k : BitVec 3) : Bool := k == 1#3 || k == 6#3 || k == 7#3

/-- A well-formed instruction. `br.t p0` and `call.t p0` are the words of `br` and `call` (R138, R173, R174). -/
def Instr.wf : Instr → Bool
  | .ld _ _ _ sx z _ => !(sx == 1#1 && z == 3#2)
  | .wreg _ _ k _ => waitKind k
  | .whold _ _ k _ => waitKind k
  | .wrel _ k _ => waitKind k
  | .brT p _ => p != 0#3
  | .callT p _ => p != 0#3
  | _ => true

end Sys2Proof
end

