-- ==== Sys2Proof/Decode.lean ====
section
/-!
DEFINITION. The decoder of control-thread words (R136 to R140), total on every word, and the encoder written from the
same format tables. A word that R139 or R140 step 1 calls no instruction is rejected by name.
-/

namespace Sys2Proof

/-- Why a word is no instruction (R139, R140 step 1): its major is unassigned, or no member of its major has these
selector bits with every reserved bit 0. -/
inductive Reject where
  | major (m : Nat)
  | member (m : Nat)
  deriving DecidableEq, Repr

/-- The words of major 0x01 (R165). -/
def decodeMajor01 (w : W32) : Except Reject Instr :=
  if w &&& 0xFC0007F8#32 = 0x04000000#32 then .ok (.add (w.extractLsb' 21 5) (w.extractLsb' 16 5) (w.extractLsb' 11 5) (w.extractLsb' 0 3))
  else if w &&& 0xFC0007F8#32 = 0x04000008#32 then .ok (.sub (w.extractLsb' 21 5) (w.extractLsb' 16 5) (w.extractLsb' 11 5) (w.extractLsb' 0 3))
  else if w &&& 0xFC0007F8#32 = 0x04000010#32 then .ok (.mul (w.extractLsb' 21 5) (w.extractLsb' 16 5) (w.extractLsb' 11 5) (w.extractLsb' 0 3))
  else if w &&& 0xFC0007F8#32 = 0x04000018#32 then .ok (.mulh (w.extractLsb' 21 5) (w.extractLsb' 16 5) (w.extractLsb' 11 5) (w.extractLsb' 0 3))
  else if w &&& 0xFC0007F8#32 = 0x04000020#32 then .ok (.mulhu (w.extractLsb' 21 5) (w.extractLsb' 16 5) (w.extractLsb' 11 5) (w.extractLsb' 0 3))
  else if w &&& 0xFC0007F8#32 = 0x04000028#32 then .ok (.div (w.extractLsb' 21 5) (w.extractLsb' 16 5) (w.extractLsb' 11 5) (w.extractLsb' 0 3))
  else if w &&& 0xFC0007F8#32 = 0x04000030#32 then .ok (.divu (w.extractLsb' 21 5) (w.extractLsb' 16 5) (w.extractLsb' 11 5) (w.extractLsb' 0 3))
  else if w &&& 0xFC0007F8#32 = 0x04000038#32 then .ok (.rem (w.extractLsb' 21 5) (w.extractLsb' 16 5) (w.extractLsb' 11 5) (w.extractLsb' 0 3))
  else if w &&& 0xFC0007F8#32 = 0x04000040#32 then .ok (.remu (w.extractLsb' 21 5) (w.extractLsb' 16 5) (w.extractLsb' 11 5) (w.extractLsb' 0 3))
  else if w &&& 0xFC0007F8#32 = 0x04000048#32 then .ok (.and (w.extractLsb' 21 5) (w.extractLsb' 16 5) (w.extractLsb' 11 5) (w.extractLsb' 0 3))
  else if w &&& 0xFC0007F8#32 = 0x04000050#32 then .ok (.or (w.extractLsb' 21 5) (w.extractLsb' 16 5) (w.extractLsb' 11 5) (w.extractLsb' 0 3))
  else if w &&& 0xFC0007F8#32 = 0x04000058#32 then .ok (.xor (w.extractLsb' 21 5) (w.extractLsb' 16 5) (w.extractLsb' 11 5) (w.extractLsb' 0 3))
  else if w &&& 0xFC0007F8#32 = 0x04000060#32 then .ok (.shl (w.extractLsb' 21 5) (w.extractLsb' 16 5) (w.extractLsb' 11 5) (w.extractLsb' 0 3))
  else if w &&& 0xFC0007F8#32 = 0x04000068#32 then .ok (.shr (w.extractLsb' 21 5) (w.extractLsb' 16 5) (w.extractLsb' 11 5) (w.extractLsb' 0 3))
  else if w &&& 0xFC0007F8#32 = 0x04000070#32 then .ok (.sra (w.extractLsb' 21 5) (w.extractLsb' 16 5) (w.extractLsb' 11 5) (w.extractLsb' 0 3))
  else if w &&& 0xFC0007F8#32 = 0x04000078#32 then .ok (.min (w.extractLsb' 21 5) (w.extractLsb' 16 5) (w.extractLsb' 11 5) (w.extractLsb' 0 3))
  else if w &&& 0xFC0007F8#32 = 0x04000080#32 then .ok (.max (w.extractLsb' 21 5) (w.extractLsb' 16 5) (w.extractLsb' 11 5) (w.extractLsb' 0 3))
  else if w &&& 0xFC0007F8#32 = 0x04000088#32 then .ok (.minu (w.extractLsb' 21 5) (w.extractLsb' 16 5) (w.extractLsb' 11 5) (w.extractLsb' 0 3))
  else if w &&& 0xFC0007F8#32 = 0x04000090#32 then .ok (.maxu (w.extractLsb' 21 5) (w.extractLsb' 16 5) (w.extractLsb' 11 5) (w.extractLsb' 0 3))
  else .error (.member 1)

/-- The words of major 0x02 (R166). -/
def decodeMajor02 (w : W32) : Except Reject Instr :=
  if w &&& 0xFC000000#32 = 0x08000000#32 then .ok (.addi (w.extractLsb' 21 5) (w.extractLsb' 16 5) (w.extractLsb' 3 13) (w.extractLsb' 0 3))
  else .error (.member 2)

/-- The words of major 0x03 (R166). -/
def decodeMajor03 (w : W32) : Except Reject Instr :=
  if w &&& 0xFC000000#32 = 0x0C000000#32 then .ok (.andi (w.extractLsb' 21 5) (w.extractLsb' 16 5) (w.extractLsb' 3 13) (w.extractLsb' 0 3))
  else .error (.member 3)

/-- The words of major 0x04 (R166). -/
def decodeMajor04 (w : W32) : Except Reject Instr :=
  if w &&& 0xFC000000#32 = 0x10000000#32 then .ok (.ori (w.extractLsb' 21 5) (w.extractLsb' 16 5) (w.extractLsb' 3 13) (w.extractLsb' 0 3))
  else .error (.member 4)

/-- The words of major 0x05 (R166). -/
def decodeMajor05 (w : W32) : Except Reject Instr :=
  if w &&& 0xFC000000#32 = 0x14000000#32 then .ok (.xori (w.extractLsb' 21 5) (w.extractLsb' 16 5) (w.extractLsb' 3 13) (w.extractLsb' 0 3))
  else .error (.member 5)

/-- The words of major 0x06 (R167). -/
def decodeMajor06 (w : W32) : Except Reject Instr :=
  if w &&& 0xFC00FE00#32 = 0x18000000#32 then .ok (.shli (w.extractLsb' 21 5) (w.extractLsb' 16 5) (w.extractLsb' 3 6) (w.extractLsb' 0 3))
  else if w &&& 0xFC00FE00#32 = 0x18000200#32 then .ok (.shri (w.extractLsb' 21 5) (w.extractLsb' 16 5) (w.extractLsb' 3 6) (w.extractLsb' 0 3))
  else if w &&& 0xFC00FE00#32 = 0x18000400#32 then .ok (.srai (w.extractLsb' 21 5) (w.extractLsb' 16 5) (w.extractLsb' 3 6) (w.extractLsb' 0 3))
  else .error (.member 6)

/-- The words of major 0x07 (R170). -/
def decodeMajor07 (w : W32) : Except Reject Instr :=
  if w &&& 0xFF000000#32 = 0x1C000000#32 then .ok (.cmpi (w.extractLsb' 21 3) (w.extractLsb' 16 5) (w.extractLsb' 13 3) (w.extractLsb' 3 10) (w.extractLsb' 0 3))
  else .error (.member 7)

/-- The words of major 0x08 (R168). -/
def decodeMajor08 (w : W32) : Except Reject Instr :=
  if w &&& 0xFC000000#32 = 0x20000000#32 then .ok (.movi (w.extractLsb' 21 5) (w.extractLsb' 3 18) (w.extractLsb' 0 3))
  else .error (.member 8)

/-- The words of major 0x09 (R169). -/
def decodeMajor09 (w : W32) : Except Reject Instr :=
  if w &&& 0xFC000000#32 = 0x24000000#32 then .ok (.movhi (w.extractLsb' 21 5) (w.extractLsb' 19 2) (w.extractLsb' 3 16) (w.extractLsb' 0 3))
  else .error (.member 9)

/-- The words of major 0x0A (R170). -/
def decodeMajor0A (w : W32) : Except Reject Instr :=
  if w &&& 0xFF0007C0#32 = 0x28000000#32 then .ok (.cmp (w.extractLsb' 21 3) (w.extractLsb' 16 5) (w.extractLsb' 11 5) (w.extractLsb' 3 3) (w.extractLsb' 0 3))
  else .error (.member 10)

/-- The words of major 0x0B (R171). -/
def decodeMajor0B (w : W32) : Except Reject Instr :=
  if w &&& 0xFF18C7F8#32 = 0x2C000000#32 then .ok (.pand (w.extractLsb' 21 3) (w.extractLsb' 16 3) (w.extractLsb' 11 3) (w.extractLsb' 0 3))
  else if w &&& 0xFF18C7F8#32 = 0x2C000008#32 then .ok (.por (w.extractLsb' 21 3) (w.extractLsb' 16 3) (w.extractLsb' 11 3) (w.extractLsb' 0 3))
  else if w &&& 0xFF18C7F8#32 = 0x2C000010#32 then .ok (.pxor (w.extractLsb' 21 3) (w.extractLsb' 16 3) (w.extractLsb' 11 3) (w.extractLsb' 0 3))
  else if w &&& 0xFF18FFF8#32 = 0x2C000018#32 then .ok (.pnot (w.extractLsb' 21 3) (w.extractLsb' 16 3) (w.extractLsb' 0 3))
  else .error (.member 11)

/-- The words of major 0x0C (R173). -/
def decodeMajor0C (w : W32) : Except Reject Instr :=
  if w &&& 0xFFC00000#32 = 0x30000000#32 then .ok (.br (w.extractLsb' 0 22))
  else if w &&& 0xFC400000#32 = 0x30000000#32 then .ok (.brT (w.extractLsb' 23 3) (w.extractLsb' 0 22))
  else if w &&& 0xFC400000#32 = 0x30400000#32 then .ok (.brF (w.extractLsb' 23 3) (w.extractLsb' 0 22))
  else .error (.member 12)

/-- The words of major 0x0D (R174). -/
def decodeMajor0D (w : W32) : Except Reject Instr :=
  if w &&& 0xFFC00000#32 = 0x34000000#32 then .ok (.call (w.extractLsb' 0 22))
  else if w &&& 0xFC400000#32 = 0x34000000#32 then .ok (.callT (w.extractLsb' 23 3) (w.extractLsb' 0 22))
  else if w &&& 0xFC400000#32 = 0x34400000#32 then .ok (.callF (w.extractLsb' 23 3) (w.extractLsb' 0 22))
  else .error (.member 13)

/-- The words of major 0x0E (R175). -/
def decodeMajor0E (w : W32) : Except Reject Instr :=
  if w &&& 0xFFE0FFF8#32 = 0x38000000#32 then .ok (.jr (w.extractLsb' 16 5) (w.extractLsb' 0 3))
  else if w &&& 0xFFFFFFF8#32 = 0x38000008#32 then .ok (.ret (w.extractLsb' 0 3))
  else .error (.member 14)

/-- The words of major 0x0F (R172). -/
def decodeMajor0F (w : W32) : Except Reject Instr :=
  if w &&& 0xFC0007C0#32 = 0x3C000000#32 then .ok (.sel (w.extractLsb' 21 5) (w.extractLsb' 16 5) (w.extractLsb' 11 5) (w.extractLsb' 3 3) (w.extractLsb' 0 3))
  else .error (.member 15)

/-- The words of major 0x10 (R176). -/
def decodeMajor10 (w : W32) : Except Reject Instr :=
  if w &&& 0xFC000000#32 = 0x40000000#32 ∧ ¬ (w.extractLsb' 3 3 = 7#3) then .ok (.ld (w.extractLsb' 21 5) (w.extractLsb' 16 5) (w.extractLsb' 6 10) (w.extractLsb' 5 1) (w.extractLsb' 3 2) (w.extractLsb' 0 3))
  else .error (.member 16)

/-- The words of major 0x11 (R177). -/
def decodeMajor11 (w : W32) : Except Reject Instr :=
  if w &&& 0xFC000000#32 = 0x44000000#32 then .ok (.st (w.extractLsb' 21 5) (w.extractLsb' 16 5) (w.extractLsb' 5 11) (w.extractLsb' 3 2) (w.extractLsb' 0 3))
  else .error (.member 17)

/-- The words of major 0x12 (R178). -/
def decodeMajor12 (w : W32) : Except Reject Instr :=
  if w &&& 0xFC000000#32 = 0x48000000#32 then .ok (.lea (w.extractLsb' 21 5) (w.extractLsb' 16 5) (w.extractLsb' 5 11) (w.extractLsb' 3 2) (w.extractLsb' 0 3))
  else .error (.member 18)

/-- The words of major 0x14 (R192, R193, R194, R195). -/
def decodeMajor14 (w : W32) : Except Reject Instr :=
  if w &&& 0xFC000FF8#32 = 0x50000000#32 then .ok (.spushP (w.extractLsb' 22 4) (w.extractLsb' 17 5) (w.extractLsb' 12 5) (w.extractLsb' 0 3))
  else if w &&& 0xFC01FFF8#32 = 0x50000040#32 then .ok (.spushB (w.extractLsb' 22 4) (w.extractLsb' 17 5) (w.extractLsb' 0 3))
  else if w &&& 0xFC000E38#32 = 0x50000008#32 then .ok (.spop (w.extractLsb' 22 4) (w.extractLsb' 17 5) (w.extractLsb' 12 5) (w.extractLsb' 6 3) (w.extractLsb' 0 3))
  else if w &&& 0xFC000E38#32 = 0x50000208#32 then .ok (.spopK (w.extractLsb' 22 4) (w.extractLsb' 17 5) (w.extractLsb' 12 5) (w.extractLsb' 6 3) (w.extractLsb' 0 3))
  else if w &&& 0xFFC00E38#32 = 0x50000010#32 then .ok (.sbound (w.extractLsb' 17 5) (w.extractLsb' 12 5) (w.extractLsb' 6 3) (w.extractLsb' 0 3))
  else if w &&& 0xFC3FFFF8#32 = 0x50000018#32 then .ok (.seos (w.extractLsb' 22 4) (w.extractLsb' 0 3))
  else .error (.member 20)

/-- The words of major 0x15 (R196, R197, R198, R199). -/
def decodeMajor15 (w : W32) : Except Reject Instr :=
  if w &&& 0xFFFFF800#32 = 0x54000000#32 then .ok (.cfg (w.extractLsb' 3 8) (w.extractLsb' 0 3))
  else if w &&& 0xFFE0F800#32 = 0x54001000#32 then .ok (.cfgPin (w.extractLsb' 16 5) (w.extractLsb' 3 8) (w.extractLsb' 0 3))
  else if w &&& 0xFC1FFFF8#32 = 0x54002000#32 then .ok (.go (w.extractLsb' 21 5) (w.extractLsb' 0 3))
  else if w &&& 0xFFFFFFF8#32 = 0x54004000#32 then .ok (.drain (w.extractLsb' 0 3))
  else if w &&& 0xFC1FFFF8#32 = 0x54006000#32 then .ok (.yieldpt (w.extractLsb' 21 5) (w.extractLsb' 0 3))
  else .error (.member 21)

/-- The words of major 0x16 (R201, R202). -/
def decodeMajor16 (w : W32) : Except Reject Instr :=
  if w &&& 0xFC00FFF8#32 = 0x58000000#32 then .ok (.launch (w.extractLsb' 21 5) (w.extractLsb' 16 5) (w.extractLsb' 0 3))
  else if w &&& 0xFC00FFF8#32 = 0x58000008#32 then .ok (.join (w.extractLsb' 21 5) (w.extractLsb' 16 5) (w.extractLsb' 0 3))
  else .error (.member 22)

/-- The words of major 0x17 (R204). -/
def decodeMajor17 (w : W32) : Except Reject Instr :=
  if w &&& 0xFC000FD8#32 = 0x5C000000#32 then .ok (.copy (w.extractLsb' 22 4) (w.extractLsb' 17 5) (w.extractLsb' 12 5) (w.extractLsb' 5 1) (w.extractLsb' 0 3))
  else if w &&& 0xFC000FD8#32 = 0x5C000008#32 then .ok (.gather (w.extractLsb' 22 4) (w.extractLsb' 17 5) (w.extractLsb' 12 5) (w.extractLsb' 5 1) (w.extractLsb' 0 3))
  else if w &&& 0xFC000FD8#32 = 0x5C000010#32 then .ok (.scatter (w.extractLsb' 22 4) (w.extractLsb' 17 5) (w.extractLsb' 12 5) (w.extractLsb' 5 1) (w.extractLsb' 0 3))
  else if w &&& 0xFC000FD8#32 = 0x5C000018#32 then .ok (.fill (w.extractLsb' 22 4) (w.extractLsb' 17 5) (w.extractLsb' 12 5) (w.extractLsb' 5 1) (w.extractLsb' 0 3))
  else .error (.member 23)

/-- The words of major 0x18 (R205). -/
def decodeMajor18 (w : W32) : Except Reject Instr :=
  if w &&& 0xFC000FD8#32 = 0x60000000#32 then .ok (.coll (w.extractLsb' 22 4) (w.extractLsb' 17 5) (w.extractLsb' 12 5) (w.extractLsb' 5 1) (w.extractLsb' 0 3))
  else if w &&& 0xFC000FD8#32 = 0x60000008#32 then .ok (.zsend (w.extractLsb' 22 4) (w.extractLsb' 17 5) (w.extractLsb' 12 5) (w.extractLsb' 5 1) (w.extractLsb' 0 3))
  else if w &&& 0xFC000FD8#32 = 0x60000010#32 then .ok (.zrecv (w.extractLsb' 22 4) (w.extractLsb' 17 5) (w.extractLsb' 12 5) (w.extractLsb' 5 1) (w.extractLsb' 0 3))
  else .error (.member 24)

/-- The words of major 0x19 (R291, R293). -/
def decodeMajor19 (w : W32) : Except Reject Instr :=
  if w &&& 0xFC00FFF8#32 = 0x64000000#32 then .ok (.abind (w.extractLsb' 21 5) (w.extractLsb' 16 5) (w.extractLsb' 0 3))
  else if w &&& 0xFC00FFF8#32 = 0x64000008#32 then .ok (.aunbind (w.extractLsb' 21 5) (w.extractLsb' 16 5) (w.extractLsb' 0 3))
  else .error (.member 25)

/-- The words of major 0x1A (R333, R340, R341, R342). -/
def decodeMajor1A (w : W32) : Except Reject Instr :=
  if w &&& 0xFC000FD8#32 = 0x68000000#32 then .ok (.samp (w.extractLsb' 22 4) (w.extractLsb' 17 5) (w.extractLsb' 12 5) (w.extractLsb' 5 1) (w.extractLsb' 0 3))
  else if w &&& 0xFC000FD8#32 = 0x68000008#32 then .ok (.gram (w.extractLsb' 22 4) (w.extractLsb' 17 5) (w.extractLsb' 12 5) (w.extractLsb' 5 1) (w.extractLsb' 0 3))
  else if w &&& 0xFC000FD8#32 = 0x68000010#32 then .ok (.accept (w.extractLsb' 22 4) (w.extractLsb' 17 5) (w.extractLsb' 12 5) (w.extractLsb' 5 1) (w.extractLsb' 0 3))
  else if w &&& 0xFC000FD8#32 = 0x68000018#32 then .ok (.commit (w.extractLsb' 22 4) (w.extractLsb' 17 5) (w.extractLsb' 12 5) (w.extractLsb' 5 1) (w.extractLsb' 0 3))
  else .error (.member 26)

/-- The words of major 0x1C (R209). -/
def decodeMajor1C (w : W32) : Except Reject Instr :=
  if w &&& 0xFC000778#32 = 0x70000000#32 then .ok (.aadd (w.extractLsb' 21 5) (w.extractLsb' 16 5) (w.extractLsb' 11 5) (w.extractLsb' 7 1) (w.extractLsb' 0 3))
  else if w &&& 0xFC000778#32 = 0x70000008#32 then .ok (.asub (w.extractLsb' 21 5) (w.extractLsb' 16 5) (w.extractLsb' 11 5) (w.extractLsb' 7 1) (w.extractLsb' 0 3))
  else if w &&& 0xFC000778#32 = 0x70000010#32 then .ok (.aand (w.extractLsb' 21 5) (w.extractLsb' 16 5) (w.extractLsb' 11 5) (w.extractLsb' 7 1) (w.extractLsb' 0 3))
  else if w &&& 0xFC000778#32 = 0x70000018#32 then .ok (.aor (w.extractLsb' 21 5) (w.extractLsb' 16 5) (w.extractLsb' 11 5) (w.extractLsb' 7 1) (w.extractLsb' 0 3))
  else if w &&& 0xFC000778#32 = 0x70000020#32 then .ok (.axor (w.extractLsb' 21 5) (w.extractLsb' 16 5) (w.extractLsb' 11 5) (w.extractLsb' 7 1) (w.extractLsb' 0 3))
  else if w &&& 0xFC000778#32 = 0x70000028#32 then .ok (.amin (w.extractLsb' 21 5) (w.extractLsb' 16 5) (w.extractLsb' 11 5) (w.extractLsb' 7 1) (w.extractLsb' 0 3))
  else if w &&& 0xFC000778#32 = 0x70000030#32 then .ok (.amax (w.extractLsb' 21 5) (w.extractLsb' 16 5) (w.extractLsb' 11 5) (w.extractLsb' 7 1) (w.extractLsb' 0 3))
  else if w &&& 0xFC000778#32 = 0x70000038#32 then .ok (.axchg (w.extractLsb' 21 5) (w.extractLsb' 16 5) (w.extractLsb' 11 5) (w.extractLsb' 7 1) (w.extractLsb' 0 3))
  else if w &&& 0xFC000078#32 = 0x70000040#32 then .ok (.acas (w.extractLsb' 21 5) (w.extractLsb' 16 5) (w.extractLsb' 11 5) (w.extractLsb' 8 3) (w.extractLsb' 7 1) (w.extractLsb' 0 3))
  else if w &&& 0xFC000778#32 = 0x70000048#32 then .ok (.aincw (w.extractLsb' 21 5) (w.extractLsb' 16 5) (w.extractLsb' 11 5) (w.extractLsb' 7 1) (w.extractLsb' 0 3))
  else if w &&& 0xFC000078#32 = 0x70000050#32 then .ok (.aaddb (w.extractLsb' 21 5) (w.extractLsb' 16 5) (w.extractLsb' 11 5) (w.extractLsb' 8 3) (w.extractLsb' 7 1) (w.extractLsb' 0 3))
  else if w &&& 0xFC000778#32 = 0x70000058#32 then .ok (.aminu (w.extractLsb' 21 5) (w.extractLsb' 16 5) (w.extractLsb' 11 5) (w.extractLsb' 7 1) (w.extractLsb' 0 3))
  else if w &&& 0xFC000778#32 = 0x70000060#32 then .ok (.amaxu (w.extractLsb' 21 5) (w.extractLsb' 16 5) (w.extractLsb' 11 5) (w.extractLsb' 7 1) (w.extractLsb' 0 3))
  else .error (.member 28)

/-- The words of major 0x1D (R223, R224, R225). -/
def decodeMajor1D (w : W32) : Except Reject Instr :=
  if w &&& 0xFFE0F038#32 = 0x74000000#32 ∧ waitKind (w.extractLsb' 6 3) then .ok (.wreg (w.extractLsb' 16 5) (w.extractLsb' 9 3) (w.extractLsb' 6 3) (w.extractLsb' 0 3))
  else if w &&& 0xFFFFFFF8#32 = 0x74000008#32 then .ok (.wunreg (w.extractLsb' 0 3))
  else if w &&& 0xFFE0F038#32 = 0x74000010#32 ∧ waitKind (w.extractLsb' 6 3) then .ok (.whold (w.extractLsb' 16 5) (w.extractLsb' 9 3) (w.extractLsb' 6 3) (w.extractLsb' 0 3))
  else if w &&& 0xFFE0FE38#32 = 0x74000018#32 ∧ waitKind (w.extractLsb' 6 3) then .ok (.wrel (w.extractLsb' 16 5) (w.extractLsb' 6 3) (w.extractLsb' 0 3))
  else if w &&& 0xFC00FFF8#32 = 0x74000020#32 then .ok (.prio (w.extractLsb' 21 5) (w.extractLsb' 16 5) (w.extractLsb' 0 3))
  else .error (.member 29)

/-- The words of major 0x1E (R214, R215, R217, R218, R219). -/
def decodeMajor1E (w : W32) : Except Reject Instr :=
  if w &&& 0xFFE0FFF8#32 = 0x78000000#32 then .ok (.lock (w.extractLsb' 16 5) (w.extractLsb' 0 3))
  else if w &&& 0xFFE0FFF8#32 = 0x78000008#32 then .ok (.unlock (w.extractLsb' 16 5) (w.extractLsb' 0 3))
  else if w &&& 0xFC00FFF8#32 = 0x78000010#32 then .ok (.barinit (w.extractLsb' 21 5) (w.extractLsb' 16 5) (w.extractLsb' 0 3))
  else if w &&& 0xFC00FFF8#32 = 0x78000018#32 then .ok (.barrive (w.extractLsb' 21 5) (w.extractLsb' 16 5) (w.extractLsb' 0 3))
  else if w &&& 0xFC00FFF8#32 = 0x78000020#32 then .ok (.barwait (w.extractLsb' 21 5) (w.extractLsb' 16 5) (w.extractLsb' 0 3))
  else .error (.member 30)

/-- The words of major 0x1F (R111). -/
def decodeMajor1F (w : W32) : Except Reject Instr :=
  if w &&& 0xFFFFFFE0#32 = 0x7C000000#32 then .ok (.fence (w.extractLsb' 3 2) (w.extractLsb' 0 3))
  else .error (.member 31)

/-- The words of major 0x3C (R181). -/
def decodeMajor3C (w : W32) : Except Reject Instr :=
  if w &&& 0xFC1F8000#32 = 0xF0000000#32 then .ok (.srd (w.extractLsb' 21 5) (w.extractLsb' 3 12) (w.extractLsb' 0 3))
  else if w &&& 0xFFE08000#32 = 0xF0008000#32 then .ok (.swr (w.extractLsb' 16 5) (w.extractLsb' 3 12) (w.extractLsb' 0 3))
  else .error (.member 60)

/-- The words of major 0x3D (R357). -/
def decodeMajor3D (w : W32) : Except Reject Instr :=
  if w &&& 0xFFFFC000#32 = 0xF4000000#32 then .ok (.trap (w.extractLsb' 3 11) (w.extractLsb' 0 3))
  else if w &&& 0xFC00C000#32 = 0xF4004000#32 then .ok (.sys (w.extractLsb' 21 5) (w.extractLsb' 16 5) (w.extractLsb' 3 11) (w.extractLsb' 0 3))
  else .error (.member 61)

/-- The words of major 0x3E (R360, R361, R362, R363). -/
def decodeMajor3E (w : W32) : Except Reject Instr :=
  if w &&& 0xFFFFFFF8#32 = 0xF8000000#32 then .ok (.eret (w.extractLsb' 0 3))
  else if w &&& 0xFC00FFF8#32 = 0xF8000008#32 then .ok (.halt (w.extractLsb' 21 5) (w.extractLsb' 16 5) (w.extractLsb' 0 3))
  else if w &&& 0xFFFFFFF8#32 = 0xF8000010#32 then .ok (.idle (w.extractLsb' 0 3))
  else if w &&& 0xFFFFFFF8#32 = 0xF8000018#32 then .ok (.tlbinvAll (w.extractLsb' 0 3))
  else if w &&& 0xFFE0FFF8#32 = 0xF8000058#32 then .ok (.tlbinvPart (w.extractLsb' 16 5) (w.extractLsb' 0 3))
  else if w &&& 0xFC00FFF8#32 = 0xF8000098#32 then .ok (.tlbinvPage (w.extractLsb' 21 5) (w.extractLsb' 16 5) (w.extractLsb' 0 3))
  else .error (.member 62)

/-- The decoder: the major opcode in bits [31:26] selects the family (R136, R139). -/
def decode (w : W32) : Except Reject Instr :=
  match (w.extractLsb' 26 6).toNat with
  | 0x01 => decodeMajor01 w
  | 0x02 => decodeMajor02 w
  | 0x03 => decodeMajor03 w
  | 0x04 => decodeMajor04 w
  | 0x05 => decodeMajor05 w
  | 0x06 => decodeMajor06 w
  | 0x07 => decodeMajor07 w
  | 0x08 => decodeMajor08 w
  | 0x09 => decodeMajor09 w
  | 0x0A => decodeMajor0A w
  | 0x0B => decodeMajor0B w
  | 0x0C => decodeMajor0C w
  | 0x0D => decodeMajor0D w
  | 0x0E => decodeMajor0E w
  | 0x0F => decodeMajor0F w
  | 0x10 => decodeMajor10 w
  | 0x11 => decodeMajor11 w
  | 0x12 => decodeMajor12 w
  | 0x14 => decodeMajor14 w
  | 0x15 => decodeMajor15 w
  | 0x16 => decodeMajor16 w
  | 0x17 => decodeMajor17 w
  | 0x18 => decodeMajor18 w
  | 0x19 => decodeMajor19 w
  | 0x1A => decodeMajor1A w
  | 0x1C => decodeMajor1C w
  | 0x1D => decodeMajor1D w
  | 0x1E => decodeMajor1E w
  | 0x1F => decodeMajor1F w
  | 0x3C => decodeMajor3C w
  | 0x3D => decodeMajor3D w
  | 0x3E => decodeMajor3E w
  | m => .error (.major m)

/-- The word of a control-thread instruction (R136 and the encoding tables of the instruction chapters); the steps that
no word encodes have none. -/
def encode : Instr → Option W32
  | .add d a b g => some (0x1#6 ++ d ++ a ++ b ++ 0x0#8 ++ g)
  | .sub d a b g => some (0x1#6 ++ d ++ a ++ b ++ 0x1#8 ++ g)
  | .mul d a b g => some (0x1#6 ++ d ++ a ++ b ++ 0x2#8 ++ g)
  | .mulh d a b g => some (0x1#6 ++ d ++ a ++ b ++ 0x3#8 ++ g)
  | .mulhu d a b g => some (0x1#6 ++ d ++ a ++ b ++ 0x4#8 ++ g)
  | .div d a b g => some (0x1#6 ++ d ++ a ++ b ++ 0x5#8 ++ g)
  | .divu d a b g => some (0x1#6 ++ d ++ a ++ b ++ 0x6#8 ++ g)
  | .rem d a b g => some (0x1#6 ++ d ++ a ++ b ++ 0x7#8 ++ g)
  | .remu d a b g => some (0x1#6 ++ d ++ a ++ b ++ 0x8#8 ++ g)
  | .and d a b g => some (0x1#6 ++ d ++ a ++ b ++ 0x9#8 ++ g)
  | .or d a b g => some (0x1#6 ++ d ++ a ++ b ++ 0xA#8 ++ g)
  | .xor d a b g => some (0x1#6 ++ d ++ a ++ b ++ 0xB#8 ++ g)
  | .shl d a b g => some (0x1#6 ++ d ++ a ++ b ++ 0xC#8 ++ g)
  | .shr d a b g => some (0x1#6 ++ d ++ a ++ b ++ 0xD#8 ++ g)
  | .sra d a b g => some (0x1#6 ++ d ++ a ++ b ++ 0xE#8 ++ g)
  | .min d a b g => some (0x1#6 ++ d ++ a ++ b ++ 0xF#8 ++ g)
  | .max d a b g => some (0x1#6 ++ d ++ a ++ b ++ 0x10#8 ++ g)
  | .minu d a b g => some (0x1#6 ++ d ++ a ++ b ++ 0x11#8 ++ g)
  | .maxu d a b g => some (0x1#6 ++ d ++ a ++ b ++ 0x12#8 ++ g)
  | .addi d a imm g => some (0x2#6 ++ d ++ a ++ imm ++ g)
  | .andi d a imm g => some (0x3#6 ++ d ++ a ++ imm ++ g)
  | .ori d a imm g => some (0x4#6 ++ d ++ a ++ imm ++ g)
  | .xori d a imm g => some (0x5#6 ++ d ++ a ++ imm ++ g)
  | .shli d a amt g => some (0x6#6 ++ d ++ a ++ 0x0#7 ++ amt ++ g)
  | .shri d a amt g => some (0x6#6 ++ d ++ a ++ 0x1#7 ++ amt ++ g)
  | .srai d a amt g => some (0x6#6 ++ d ++ a ++ 0x2#7 ++ amt ++ g)
  | .cmpi p a c imm g => some (0x1C#8 ++ p ++ a ++ c ++ imm ++ g)
  | .movi d imm g => some (0x8#6 ++ d ++ imm ++ g)
  | .movhi d q v g => some (0x9#6 ++ d ++ q ++ v ++ g)
  | .cmp p a b c g => some (0x28#8 ++ p ++ a ++ b ++ 0x0#5 ++ c ++ g)
  | .pand d a b g => some (0x2C#8 ++ d ++ 0x0#2 ++ a ++ 0x0#2 ++ b ++ 0x0#8 ++ g)
  | .por d a b g => some (0x2C#8 ++ d ++ 0x0#2 ++ a ++ 0x0#2 ++ b ++ 0x1#8 ++ g)
  | .pxor d a b g => some (0x2C#8 ++ d ++ 0x0#2 ++ a ++ 0x0#2 ++ b ++ 0x2#8 ++ g)
  | .pnot d a g => some (0x2C#8 ++ d ++ 0x0#2 ++ a ++ 0x3#13 ++ g)
  | .br d => some (0xC0#10 ++ d)
  | .brT p d => some (0xC#6 ++ p ++ 0x0#1 ++ d)
  | .brF p d => some (0xC#6 ++ p ++ 0x1#1 ++ d)
  | .call d => some (0xD0#10 ++ d)
  | .callT p d => some (0xD#6 ++ p ++ 0x0#1 ++ d)
  | .callF p d => some (0xD#6 ++ p ++ 0x1#1 ++ d)
  | .jr a g => some (0x1C0#11 ++ a ++ 0x0#13 ++ g)
  | .ret g => some (0x7000001#29 ++ g)
  | .sel d a b ps g => some (0xF#6 ++ d ++ a ++ b ++ 0x0#5 ++ ps ++ g)
  | .ld d a off sx z g => some (0x10#6 ++ d ++ a ++ off ++ sx ++ z ++ g)
  | .st src a off z g => some (0x11#6 ++ src ++ a ++ off ++ z ++ g)
  | .lea d a off z g => some (0x12#6 ++ d ++ a ++ off ++ z ++ g)
  | .spushP h a b g => some (0x14#6 ++ h ++ a ++ b ++ 0x0#9 ++ g)
  | .spushB h a g => some (0x14#6 ++ h ++ a ++ 0x8#14 ++ g)
  | .spop h d q p g => some (0x14#6 ++ h ++ d ++ q ++ 0x0#3 ++ p ++ 0x1#3 ++ g)
  | .spopK h d q p g => some (0x14#6 ++ h ++ d ++ q ++ 0x1#3 ++ p ++ 0x1#3 ++ g)
  | .sbound a b p g => some (0x140#10 ++ a ++ b ++ 0x0#3 ++ p ++ 0x2#3 ++ g)
  | .seos h g => some (0x14#6 ++ h ++ 0x3#19 ++ g)
  | .cfg f g => some (0xA8000#21 ++ f ++ g)
  | .cfgPin a f g => some (0x2A0#11 ++ a ++ 0x2#5 ++ f ++ g)
  | .go d g => some (0x15#6 ++ d ++ 0x400#18 ++ g)
  | .drain g => some (0xA800800#29 ++ g)
  | .yieldpt d g => some (0x15#6 ++ d ++ 0xC00#18 ++ g)
  | .launch d a g => some (0x16#6 ++ d ++ a ++ 0x0#13 ++ g)
  | .join d a g => some (0x16#6 ++ d ++ a ++ 0x1#13 ++ g)
  | .copy h a b ord g => some (0x17#6 ++ h ++ a ++ b ++ 0x0#6 ++ ord ++ 0x0#2 ++ g)
  | .gather h a b ord g => some (0x17#6 ++ h ++ a ++ b ++ 0x0#6 ++ ord ++ 0x1#2 ++ g)
  | .scatter h a b ord g => some (0x17#6 ++ h ++ a ++ b ++ 0x0#6 ++ ord ++ 0x2#2 ++ g)
  | .fill h a b ord g => some (0x17#6 ++ h ++ a ++ b ++ 0x0#6 ++ ord ++ 0x3#2 ++ g)
  | .coll h a b ord g => some (0x18#6 ++ h ++ a ++ b ++ 0x0#6 ++ ord ++ 0x0#2 ++ g)
  | .zsend h a b ord g => some (0x18#6 ++ h ++ a ++ b ++ 0x0#6 ++ ord ++ 0x1#2 ++ g)
  | .zrecv h a b ord g => some (0x18#6 ++ h ++ a ++ b ++ 0x0#6 ++ ord ++ 0x2#2 ++ g)
  | .abind d a g => some (0x19#6 ++ d ++ a ++ 0x0#13 ++ g)
  | .aunbind d a g => some (0x19#6 ++ d ++ a ++ 0x1#13 ++ g)
  | .samp h a b ord g => some (0x1A#6 ++ h ++ a ++ b ++ 0x0#6 ++ ord ++ 0x0#2 ++ g)
  | .gram h a b ord g => some (0x1A#6 ++ h ++ a ++ b ++ 0x0#6 ++ ord ++ 0x1#2 ++ g)
  | .accept h a b ord g => some (0x1A#6 ++ h ++ a ++ b ++ 0x0#6 ++ ord ++ 0x2#2 ++ g)
  | .commit h a b ord g => some (0x1A#6 ++ h ++ a ++ b ++ 0x0#6 ++ ord ++ 0x3#2 ++ g)
  | .aadd d a b w g => some (0x1C#6 ++ d ++ a ++ b ++ 0x0#3 ++ w ++ 0x0#4 ++ g)
  | .asub d a b w g => some (0x1C#6 ++ d ++ a ++ b ++ 0x0#3 ++ w ++ 0x1#4 ++ g)
  | .aand d a b w g => some (0x1C#6 ++ d ++ a ++ b ++ 0x0#3 ++ w ++ 0x2#4 ++ g)
  | .aor d a b w g => some (0x1C#6 ++ d ++ a ++ b ++ 0x0#3 ++ w ++ 0x3#4 ++ g)
  | .axor d a b w g => some (0x1C#6 ++ d ++ a ++ b ++ 0x0#3 ++ w ++ 0x4#4 ++ g)
  | .amin d a b w g => some (0x1C#6 ++ d ++ a ++ b ++ 0x0#3 ++ w ++ 0x5#4 ++ g)
  | .amax d a b w g => some (0x1C#6 ++ d ++ a ++ b ++ 0x0#3 ++ w ++ 0x6#4 ++ g)
  | .axchg d a b w g => some (0x1C#6 ++ d ++ a ++ b ++ 0x0#3 ++ w ++ 0x7#4 ++ g)
  | .acas d a b p w g => some (0x1C#6 ++ d ++ a ++ b ++ p ++ w ++ 0x8#4 ++ g)
  | .aincw d a b w g => some (0x1C#6 ++ d ++ a ++ b ++ 0x0#3 ++ w ++ 0x9#4 ++ g)
  | .aaddb d a b p w g => some (0x1C#6 ++ d ++ a ++ b ++ p ++ w ++ 0xA#4 ++ g)
  | .aminu d a b w g => some (0x1C#6 ++ d ++ a ++ b ++ 0x0#3 ++ w ++ 0xB#4 ++ g)
  | .amaxu d a b w g => some (0x1C#6 ++ d ++ a ++ b ++ 0x0#3 ++ w ++ 0xC#4 ++ g)
  | .wreg a p k g => some (0x3A0#11 ++ a ++ 0x0#4 ++ p ++ k ++ 0x0#3 ++ g)
  | .wunreg g => some (0xE800001#29 ++ g)
  | .whold a p k g => some (0x3A0#11 ++ a ++ 0x0#4 ++ p ++ k ++ 0x2#3 ++ g)
  | .wrel a k g => some (0x3A0#11 ++ a ++ 0x0#7 ++ k ++ 0x3#3 ++ g)
  | .prio d a g => some (0x1D#6 ++ d ++ a ++ 0x4#13 ++ g)
  | .lock a g => some (0x3C0#11 ++ a ++ 0x0#13 ++ g)
  | .unlock a g => some (0x3C0#11 ++ a ++ 0x1#13 ++ g)
  | .barinit d a g => some (0x1E#6 ++ d ++ a ++ 0x2#13 ++ g)
  | .barrive d a g => some (0x1E#6 ++ d ++ a ++ 0x3#13 ++ g)
  | .barwait d a g => some (0x1E#6 ++ d ++ a ++ 0x4#13 ++ g)
  | .fence sc g => some (0x3E00000#27 ++ sc ++ g)
  | .srd d n g => some (0x3C#6 ++ d ++ 0x0#6 ++ n ++ g)
  | .swr a n g => some (0x780#11 ++ a ++ 0x1#1 ++ n ++ g)
  | .trap n g => some (0x3D000#18 ++ n ++ g)
  | .sys d a n g => some (0x3D#6 ++ d ++ a ++ 0x1#2 ++ n ++ g)
  | .eret g => some (0x1F000000#29 ++ g)
  | .halt d a g => some (0x3E#6 ++ d ++ a ++ 0x1#13 ++ g)
  | .idle g => some (0x1F000002#29 ++ g)
  | .tlbinvAll g => some (0x1F000003#29 ++ g)
  | .tlbinvPart a g => some (0x7C0#11 ++ a ++ 0xB#13 ++ g)
  | .tlbinvPage d a g => some (0x3E#6 ++ d ++ a ++ 0x13#13 ++ g)
  | .illegalWord _ => none
  | .ustatusWrite _ => none
  | .postedStoreFailure _ => none
  | .priorityPropagation => none
  | .tokenHop _ _ => none
  | .bubbleDiscard _ _ => none
  | .pushPortEmit _ _ => none
  | .eosForward _ => none
  | .binderLoad _ _ _ => none
  | .bankTokenArrival _ _ _ => none
  | .phaseEnd _ => none
  | .leafDone _ => none
  | .fadd _ => none
  | .fsub _ => none
  | .fmul _ => none
  | .fma _ => none
  | .fnma _ => none
  | .fmin _ => none
  | .fmax _ => none
  | .fabs _ => none
  | .fneg _ => none
  | .fcmp _ => none
  | .frcp _ => none
  | .frsq _ => none
  | .fexp2 _ => none
  | .flog2 _ => none
  | .fcvt _ => none
  | .fclass _ => none
  | .iadd _ => none
  | .isub _ => none
  | .imul _ => none
  | .iand _ => none
  | .ior _ => none
  | .ixor _ => none
  | .ishl _ => none
  | .ishr _ => none
  | .isra _ => none
  | .imin _ => none
  | .imax _ => none
  | .icmp _ => none
  | .iclz _ => none
  | .ipopc _ => none
  | .bcast _ => none
  | .perm _ => none
  | .lrot _ => none
  | .pack _ => none
  | .unpack _ => none
  | .quant _ => none
  | .dequant _ => none
  | .lred _ => none
  | .scan _ => none
  | .iota _ => none
  | .lsel _ => none
  | .steer _ => none
  | .merge _ => none
  | .carry _ => none
  | .gate _ => none
  | .const _ => none
  | .delay _ => none
  | .ord _ => none
  | .ctr _ => none
  | .seq _ => none
  | .pipe _ => none
  | .strm _ => none
  | .mload _ => none
  | .mswap _ => none
  | .swapMark _ => none
  | .mmac _ => none
  | .slabPass _ => none
  | .slabReplay _ => none
  | .accrd _ => none
  | .accwr _ => none
  | .accclr _ => none
  | .ag _ => none
  | .ldn _ => none
  | .ldnRewind _ => none
  | .ldnResolve _ => none
  | .ldnRefEos _ => none
  | .stn _ => none
  | .elasticBuffer _ => none
  | .rmw _ => none
  | .bankpass _ => none
  | .lkpoolAcquire _ => none
  | .lkpoolRelease _ => none
  | .engineRequestToken _ _ => none
  | .engineUnit _ _ _ => none
  | .tokenUnitRow _ => none
  | .lap _ => none
  | .queryAssembly _ => none
  | .keyBlockWalk _ _ _ => none
  | .scoreStage _ _ => none
  | .maskStage _ _ => none
  | .blendWeight _ _ _ => none
  | .blendMerge _ _ _ _ => none
  | .resolve _ => none
  | .cutStart _ => none
  | .cutMarkerArrival _ _ => none
  | .cutComplete _ => none
  | .killStart _ _ _ => none
  | .killComplete _ => none
  | .msixMessage _ _ => none
  | .skill _ _ => none
  | .scut _ _ => none
  | .sresume _ _ => none
  | .shungRestart _ _ => none
  | .mailboxFree _ _ => none
  | .watchdogExpiry _ => none
  | .timerEvent _ => none
  | .remoteTimeout _ => none
  | .hostCompletion _ _ _ => none
  | .hostLaunchEntry _ _ _ _ => none
  | .schedulerVisit => none
  | .sliceExpiry _ => none
  | .roleControlTick _ => none
  | .roleFlip _ => none
  | .lend _ => none
  | .recall _ => none
  | .lendSelect _ => none
  | .cutDeadline _ => none
  | .recallComplete _ => none
  | .functionReset _ => none
  | .arenaScrub _ => none
  | .linkDown => none
  | .sroleWrite _ => none
  | .partitionResourceWrite _ _ => none
  | .tunnelWrite _ _ => none
  | .confidentialEnable _ => none
  | .confidentialDisable _ => none
  | .keySwitch _ => none
  | .generationRetire _ => none
  | .transitOpen _ _ _ _ _ _ => none
  | .fenceTrap => none
  | .zillasRead _ _ => none
  | .zillasWrite _ _ => none
  | .zillasAtomic _ => none
  | .zillasMessage _ _ => none
  | .zillasCompletion _ _ => none
  | .zillasPortDown _ => none
  | .collResult _ _ => none
  | .collCommit _ => none
  | .collIncomplete _ _ => none
  | .droopStretch _ => none
  | .thermalTick _ => none
  | .thermtrip => none
  | .freeze => none
  | .hubReset => none
  | .bootStage _ => none
  | .quireBringup _ => none
  | .mpkgWrite _ => none
  | .mactStage _ => none
  | .mactCommit => none
  | .commitPoint => none
  | .getMeasurements _ => none
  | .debugRequest _ _ => none
  | .zillasPortUp _ => none
  | .msixUnmask _ _ => none
  | .managementRequest _ => none
  | .arenaRebind _ => none

/-- A word's four bytes in memory, little-endian (R2). -/
def wordBytes (w : W32) : List Byte :=
  [w.extractLsb' 0 8, w.extractLsb' 8 8, w.extractLsb' 16 8, w.extractLsb' 24 8]

/-- The word that four bytes of memory hold, little-endian (R2). -/
def bytesWord : List Byte → W32
  | [b0, b1, b2, b3] => b3 ++ b2 ++ b1 ++ b0
  | _ => 0#32

/-- What the decoder reads from an instruction whose bits are `w`: every control-thread word has 32 bits (R136). The
word is laid out in memory order and read back, as a fetch does. -/
def decodeTableWord (nbits w : Nat) : Option Instr :=
  if nbits ≤ 32 then
    match decode (bytesWord (wordBytes (BitVec.ofNat 32 (w % 2 ^ nbits)))) with
    | .ok i => some i
    | .error _ => none
  else none

end Sys2Proof
end

