-- ==== Sys2Proof/Machine/Issue.lean ====
section
/-!
DEFINITION. Which thread issues, and what comes before its word: the rules of R24 and R374, the traps taken at an
instruction boundary (R177, R401, R402, R408), the passing of time, and how an instruction is laid where the next step
fetches it.
-/

namespace Sys2Proof.Machine

/-! ### Time -/

/-- The owner whose instances hold most slots of a quire, the lower owner among equals (R420 meter 0). -/
def State.quireOwner (s : State) (q : Nat) : Option Nat :=
  let held := s.insts.flatMap fun i => (i.region.filter fun r => r.1 == q).map fun _ => i.owner
  (upTo 64).foldl (fun best o =>
    let n := held.count o
    match best with
    | none => if n = 0 then none else some o
    | some b => if held.count b < n then some o else some b) none

/-- Time passes: CYCLE (R185), NSEC (R186), and meter QUS of every quire once for each microsecond (R420). -/
def State.pass (s : State) (dc dn : Nat) : State :=
  let us := (s.nsec.toNat + dn) / 1000 - s.nsec.toNat / 1000
  let s := { s with cycle := s.cycle + w64 dc, nsec := s.nsec + w64 dn }
  if us = 0 then s
  else (upTo Config.quires).foldl (fun t q => match t.quireOwner q with
    | some o => t.meter o 0 us
    | none => t) s

/-- Fabric reference periods and nanoseconds pass, and an activation window of 2 ms ends with them (R440). -/
def State.elapse (s : State) (dc dn : Nat) : State := (s.pass dc dn).windowOver

/-! ### Issue (R24, R374) -/

/-- A thread that could issue: not stopped by a double trap, at supervisor level, or with an instance that is PLACED or
RUN and is not being cut or killed (R23, R374, R396). -/
def State.runnable (s : State) : Hart → Bool
  | .ctl n =>
    if bitAt (s.quire (htQuire n)).shung (n % 8) then false
    else if (s.sup (htCore n)).active = some n then true
    else match s.instOn n with
      | some i => (i.state == .placed || i.state == .run) && i.cut.isNone && i.kill.isNone
      | none => false
  | .trearo k => decide (k < Config.trearoCores) && !(s.tcore k).hung

/-- A word of the thread has stalled (R374: not runnable until it can complete). -/
def State.stalled (s : State) : Hart → Bool
  | .ctl n =>
    if (s.sup (htCore n)).active = some n then (s.sup (htCore n)).wait
    else ((s.instOn n).map fun i => i.stall.isSome).getD false
  | .trearo _ => false

/-- The effective priority a thread issues with (R226, R374). -/
def State.issuePrio (s : State) (n : Nat) : Nat := ((s.instOn n).map Inst.eff).getD 0

/-- The threads of a control core in the order in which they may issue (R374). -/
def State.issueOrder (s : State) (core : Nat) : List Hart :=
  let a := 2 * core
  let b := 2 * core + 1
  let bank := s.sup core
  let aFirst :=
    if bank.active = some a then true
    else if bank.active = some b then false
    else if s.issuePrio a = s.issuePrio b then bank.last != 0
    else decide (s.issuePrio b < s.issuePrio a)
  (if aFirst then [Hart.ctl a, Hart.ctl b] else [Hart.ctl b, Hart.ctl a]).filter s.runnable

/-- A trap of the imprecise kind, taken at an instruction boundary (R177). -/
def postedTrap (a : W64) : Trap := ⟨0x13, 0x04, a, 0, true, 0#64, 0, false⟩

/-- A failed posted store of the thread is taken at the first boundary, a stalled word having none before it: at supervisor
level too, where a handler that still runs makes it a double trap (R177, R356; log entry 21). -/
def State.postedBoundary (s : State) : Option State :=
  if s.stalled s.cur then none
  else match s.posted.find? fun p => s.mine p.1 with
    | none => none
    | some p =>
      let u := takeTrap s (postedTrap p.2)
      some (if u.blocked then u else { u with posted := u.posted.erase p })

/-- The trap a thread takes at the boundary before its next word: DEADLOCK and WATCHDOG, at user level, also at a stalled
word (R401, R402); a failed posted store (R177); FENCE on Trearo core 0 (R408). -/
def State.boundary (s : State) : Option State :=
  match s.cur with
  | .ctl n =>
    match (if s.level = 0 then s.instOn n else none) with
    | none => s.postedBoundary
    | some i =>
      match i.dead, i.dog with
      | d :: l, _ =>
        let t : Trap := ⟨0x0D, 0, 0#64, 0, false, w64 d, 3, false⟩
        let u := takeTrap s t
        some (if u.blocked then u else u.modInst i.serial fun i => { i with dead := l, dlcount := satInc32 i.dlcount })
      | [], some (b, k) =>
        let u := takeTrap s ⟨0x0F, b, 0#64, 0, false, w64 k, 3, false⟩
        some (if u.blocked then u else u.modInst i.serial fun i => { i with dog := none })
      | [], none => s.postedBoundary
  | .trearo 0 => if s.fenceRaise then some (takeTrap { s with fenceRaise := false } (trapOf 0x0C 0)) else none
  | .trearo _ => none

/-- A thread at the issue of a word: no mark of an earlier stall of another thread, PLACED becomes RUN (R23). -/
def State.issue (s : State) (h : Hart) : State :=
  let s := { s with cur := h, blocked := false }
  match h with
  | .ctl n =>
    let s := s.modSup (htCore n) fun b => { b with last := n % 2 }
    if (s.sup (htCore n)).active = some n then s
    else s.modMe fun i => if i.state = .placed then { i with state := .run } else i
  | .trearo _ => s

/-- The instruction a word stands for (R139, R140): what the decoder reads, or the word that is no instruction. -/
def wordInstr (w : W32) : Instr :=
  match decode w with
  | .ok i => i
  | .error _ => .illegalWord w

/-- An event that a turn of the schedule may name: not a control-thread word, and not the effect of one that only its
own thread can bring about. -/
def isEvent (i : Instr) : Bool :=
  match i with
  | .illegalWord _ => false
  | .ustatusWrite _ => false
  | i => (encode i).isNone

/-! ### Laying an instruction where it is fetched -/

/-- Puts entries of 8 bytes into HBM. -/
def putEntries (s : State) (l : List (Nat × Nat)) : State := l.foldl (fun s e => s.putNum (hbmKey e.1) 8 e.2) s

/-- Partition 0 enabled over quire 0, cache slice 0 and all of HBM, with a page table that maps virtual page 0 to HBM page 0x6000,
user, R, W and X (R380, R381, R404); an instance with all registers on control thread 0, running at pc 0; and a turn of
control core 0 first in the schedule. -/
def State.withRunner (s : State) : State :=
  let s := putEntries s [(0x1000, 0x2001), (0x2000, 0x3001), (0x3000, 0x4001), (0x4000, 0x5001), (0x5000, 0x607B)]
  let s := s.modPart 0 fun p =>
    { p with quires := 1#32, slices := 1#64, en := true, ranges := [0x0003FFFF00000001#64], root := 0x1001#64 }
  let i : Inst := { Inst.blank with serial := 1, state := .run, header := BitVec.ofNat 4096 (32 * 2 ^ 48), hw := some 0, region := [(0, 0)] }
  let s := s.modSup 0 fun b => { b with active := none, wait := false }
  let s := s.modQuire 0 fun q => { q with shung := 0#8 }
  { s with insts := i :: s.insts.filter (fun j => j.hw != some 0 && j.serial != 1),
           tlb := s.tlb.filter (fun t => t.part != 0), posted := s.posted.filter (fun p => p.1 != 1),
           remotes := s.remotes.filter (fun r => r.serial != 1),
           sys := { s.sys with srole := s.sys.srole ||| 1#64 },
           frozen := false, cur := .ctl 0, turns := ⟨0, 0, .core 0 0⟩ :: s.turns }

/-- The runner with the bytes of a word at its pc. -/
def State.withWord (s : State) (w : Nat) : State := s.withRunner.putNum (hbmKey 0x6000) 4 w

end Sys2Proof.Machine
end

