-- ==== Sys2Proof/Machine/Step.lean ====
section
/-!
DEFINITION. One step of the machine: the next turn of the schedule, and the state in which the next step fetches a
given word.
-/

namespace Sys2Proof.Machine

/-- A hardware thread issues: a trap that waits at the boundary, or the word at pc (R162, R374). -/
def stepHart (s : State) (h : Hart) : Host.Outcome State Fault Refusal :=
  let s := s.issue h
  match s.boundary with
  | some t => .next t
  | none =>
    match s.fetch with
    | .trap t s => .next (takeTrap s t)
    | .wait w s => .next (s.stallOn w)
    | .ok w s => exec (wordInstr w) s

/-- A control core issues from the first of its threads that can: a thread whose word stalls again gives way (R374). -/
def stepCore (s : State) (core : Nat) : Host.Outcome State Fault Refusal :=
  match s.issueOrder core with
  | [] => .next s
  | [h] => stepHart s h
  | h :: k :: _ =>
    if s.stalled h then
      match stepHart s h with
      | .next t => if t.blocked then stepHart s k else .next t
      | o => o
    else stepHart s h

/-- With no turn scheduled, the first control core whose thread can go on issues; nothing happens when none can. -/
def stepIdle (s : State) : List Nat → Host.Outcome State Fault Refusal
  | [] => .next s
  | k :: ks =>
    if (s.issueOrder k).isEmpty then stepIdle s ks
    else match stepCore s k with
      | .next t => if t.blocked then stepIdle s ks else .next t
      | o => o

/-- One turn. -/
def stepAct (s : State) (a : Act) : Host.Outcome State Fault Refusal :=
  match a with
  | .core q k => stepCore s (4 * q + k)
  | .trearo k => if s.runnable (.trearo k) then stepHart s (.trearo k) else .next s
  | .event i => if isEvent i then exec i s else .next s

/-- A turn with every clock stopped: only RESET_N and a read-out take place, and no time passes (R443, R444). -/
def stepFrozen (s : State) : Host.Outcome State Fault Refusal :=
  match s.turns with
  | ⟨_, _, .event i⟩ :: ts => if runsFrozen i then exec i { s with turns := ts } else .fault .clocksStopped
  | _ => .fault .clocksStopped

/-- One step of the package: with every clock stopped a turn of those that still take place; else the next turn of the schedule,
after the time that passes before it. -/
def step (s : State) : Host.Outcome State Fault Refusal :=
  if s.frozen then stepFrozen s
  else match s.turns with
    | [] => stepIdle s (List.range Config.cores)
    | t :: ts => stepAct (({ s with turns := ts } : State).elapse t.dCycle t.dNsec) t.act

/-- The state in which the next step fetches and runs the word of a table row (log entry 22). -/
def State.withFetchWord (s : State) (nbits w : Nat) : State := s.withWord (w % 2 ^ nbits)

end Sys2Proof.Machine
end

