-- ==== Sys2Proof/Certificates/Slice0/Obligations.lean ====
section
/-!
DEFINITION. The statements about the machine: each an `Obligations.<Name>`, with the notions they share in
`Sys2Proof.Claims`.
-/

namespace Sys2Proof.Claims

open Sys2Proof.Machine

/-- An instruction answers a next state, and that state satisfies P. -/
def Next (o : Host.Outcome State Fault Refusal) (P : State → Prop) : Prop := ∃ t, o = .next t ∧ P t

/-- The thread that executes may run a user-level word that names `regs` under guard `g`: the first four steps of R140
pass. -/
def Ready (s : State) (regs : List (BitVec 5)) (g : BitVec 3) : Prop :=
  s.threaded ∧ (∀ r ∈ regs, r ≠ 0#5 → r.toNat < s.regLimit) ∧ s.pr g = true

/-- The machine with what a computing word may touch put aside: its thread's context is zero, its thread's stall has
ended, its instance has just made progress. -/
def blank (s : State) : State := (s.retire .stay).modCtx fun _ => Ctx.zero

/-- The machine with memory put aside. -/
def noMem (s : State) : State := { s with mem := [], poison := [] }

/-- The frame of a word beside its thread's own context and memory: the contexts of every other thread and of every other
level, every special register, accumulator, trap register, lock, unit and queue are as before. -/
structure Beside (s t : State) : Prop where
  others : ∀ h, h ≠ s.cur → t.ctxOf h = s.ctxOf h
  rest : noMem (blank t) = noMem (blank s)

/-- The frame of a word that stores nothing: every byte of memory too. -/
structure Kept (s t : State) : Prop extends Beside s t where
  memory : ∀ a, memRead t.mem a = memRead s.mem a

/-- A word that writes `v` to xd and goes on: x0 discards the write (R164); every other register and every predicate is
as before. -/
structure Writes (s : State) (d : BitVec 5) (v : W64) (t : State) : Prop extends Kept s t where
  value : t.rd d = if d = 0#5 then 0#64 else v
  regs : ∀ r, r ≠ d → t.rd r = s.rd r
  preds : ∀ k, t.pr k = s.pr k
  pc : t.pc = s.pc + 4#64

/-- A word that writes `b` to predicate pd and goes on: p0 discards the write (R164). -/
structure WritesPred (s : State) (p : BitVec 3) (b : Bool) (t : State) : Prop extends Kept s t where
  value : t.pr p = if p = 0#3 then true else b
  preds : ∀ k, k ≠ p → t.pr k = s.pr k
  regs : ∀ r, t.rd r = s.rd r
  pc : t.pc = s.pc + 4#64

/-- A word whose only effect is where its thread goes on. -/
structure Goes (s : State) (pc : W64) (t : State) : Prop extends Kept s t where
  regs : ∀ r, t.rd r = s.rd r
  preds : ∀ k, t.pr k = s.pr k
  pc : t.pc = pc

/-- The quotient and remainder of R165: a zero divisor gives all ones and keeps the dividend, MIN by -1 gives MIN and 0. -/
def quotS (a b : W64) : W64 :=
  if b = 0#64 then BitVec.allOnes 64 else if a = BitVec.intMin 64 ∧ b = BitVec.allOnes 64 then a else a.sdiv b

def remainS (a b : W64) : W64 :=
  if b = 0#64 then a else if a = BitVec.intMin 64 ∧ b = BitVec.allOnes 64 then 0#64 else a.srem b

def quotU (a b : W64) : W64 := if b = 0#64 then BitVec.allOnes 64 else a.udiv b

def remainU (a b : W64) : W64 := if b = 0#64 then a else a.umod b

/-- The least level, the registers and the guard of a control-thread word, as R140 checks them: `call` and `ret` use ln
(R174, R175), a branch has no guard. -/
def shape : Instr → Option (Nat × List (BitVec 5) × BitVec 3)
  | .add d a b g | .sub d a b g | .mul d a b g | .mulh d a b g | .mulhu d a b g | .div d a b g | .divu d a b g
  | .rem d a b g | .remu d a b g | .and d a b g | .or d a b g | .xor d a b g | .shl d a b g | .shr d a b g | .sra d a b g
  | .min d a b g | .max d a b g | .minu d a b g | .maxu d a b g | .sel d a b _ g
  | .aadd d a b _ g | .asub d a b _ g | .aand d a b _ g | .aor d a b _ g | .axor d a b _ g | .amin d a b _ g
  | .amax d a b _ g | .axchg d a b _ g | .acas d a b _ _ g | .aincw d a b _ g | .aaddb d a b _ _ g | .aminu d a b _ g
  | .amaxu d a b _ g => some (0, [d, a, b], g)
  | .addi d a _ g | .andi d a _ g | .ori d a _ g | .xori d a _ g | .shli d a _ g | .shri d a _ g | .srai d a _ g
  | .ld d a _ _ _ g | .st d a _ _ g | .lea d a _ _ g | .launch d a g | .join d a g | .abind d a g | .aunbind d a g
  | .prio d a g | .barinit d a g | .barrive d a g | .barwait d a g | .sys d a _ g | .spop _ d a _ g | .spopK _ d a _ g =>
    some (0, [d, a], g)
  | .cmp _ a b _ g | .spushP _ a b g | .sbound a b _ g | .copy _ a b _ g | .gather _ a b _ g | .scatter _ a b _ g
  | .fill _ a b _ g | .coll _ a b _ g | .zsend _ a b _ g | .zrecv _ a b _ g | .samp _ a b _ g | .gram _ a b _ g
  | .accept _ a b _ g | .commit _ a b _ g => some (0, [a, b], g)
  | .cmpi _ a _ _ g | .jr a g | .spushB _ a g | .cfgPin a _ g | .wreg a _ _ g | .whold a _ _ g | .wrel a _ g | .lock a g
  | .unlock a g => some (0, [a], g)
  | .movi d _ g | .movhi d _ _ g | .go d g | .yieldpt d g => some (0, [d], g)
  | .pand _ _ _ g | .por _ _ _ g | .pxor _ _ _ g | .pnot _ _ g | .seos _ g | .cfg _ g | .drain g | .wunreg g | .fence _ g
  | .trap _ g => some (0, [], g)
  | .br _ | .brT _ _ | .brF _ _ => some (0, [], 0#3)
  | .call _ | .callT _ _ | .callF _ _ => some (0, [31#5], 0#3)
  | .ret g => some (0, [31#5], g)
  | .eret g | .idle g | .tlbinvAll g => some (1, [], g)
  | .halt d a g | .tlbinvPage d a g => some (1, [d, a], g)
  | .tlbinvPart a g => some (1, [a], g)
  | _ => none

/-- The request of an access to a window, or its completion, cannot be numbered: it crosses between the parts of a confidential
partition, a key switch is BUSY, and the one source fence router that seals it has used up its numbers (R417; which router that is,
log entry 14). -/
def Held (s : State) (w : Who) (pool : Pool) : Prop :=
  ∃ q, pool.quire? = some q ∧ (s.part w.part).crosses w.quire q = true ∧ (s.part w.part).retiring.isSome = true ∧
    let a := s.part w.part
    let used (router kind : Nat) : Prop := 2 ^ 32 - 1 ≤ (a.chan router kind a.gen.toNat).sent
    used (a.source w.quire q) 1 ∨ used (a.source q w.quire) 2

/-- The supervisor trap registers of control thread n's core. -/
def supRegs (s : State) (n : Nat) : TrapRegs := (s.sup (htCore n)).regs

/-- The unit at u has its turn in its phase: it is configured with opcode `op`, has not faulted, no cut marker has reached
it, no leaf marker stands in it, and no latent error waits in it. -/
structure Turn (s : State) (u : UKey) (op : Nat) (f : FabUnit) : Prop where
  there : s.unit? u = some f
  code : f.op = op
  alive : f.dead = false
  runs : f.halted = false
  phase : s.inPhase f.serial f.folio = true
  clear : f.marker = none
  config : f.cfgBad = false
  latches : f.eccBad = false

/-- The machine with what a firing may touch put aside: the units, and when instances progressed and folios fired. -/
def still (s : State) : State :=
  { s with units := [], insts := s.insts.map (Inst.progressed 0#64), residents := s.residents.map fun r => { r with lastFire := 0 } }

/-- A unit with its latches, slots and time of firing put aside. -/
def bare (f : FabUnit) : FabUnit := { f with ins := [], outs := [], fired := 0 }

/-- An output slot after `tok` was placed in it for every route that leaves it; with no route it goes nowhere (R31). -/
def slotWith (s : State) (f : FabUnit) (p : Nat) (tok : Token) : Slot :=
  if s.routesFrom f.key p = [] then f.slot p else ⟨some tok, (s.routesFrom f.key p).map Route.id⟩

/-- Unit f takes what stands in latches `ks`, its output slots are replaced as `slots` says, and it is `h` but for these;
every other latch and slot and every other unit are as before, and the rest of the machine, memory included, is as in r. -/
structure Acts (s r : State) (f : FabUnit) (ks : List Nat) (slots : List (Nat × Slot)) (h : FabUnit) (t : State) : Prop where
  unit : ∃ g, t.unit? f.key = some g ∧ bare g = bare h ∧ (∀ k, g.latch k = if k ∈ ks then none else f.latch k) ∧
    ∀ p < f.outs.length, g.slot p = (slots.lookup p).getD (f.slot p)
  others : ∀ v, v ≠ f.key → t.unit? v = s.unit? v
  rest : still t = still r

/-- Unit f takes what stands in latches `ks` and places `sends` in its output slots; the rest of the machine is as
before. -/
abbrev Fires (s : State) (f : FabUnit) (ks : List Nat) (sends : List (Nat × Token)) (h : FabUnit) (t : State) : Prop :=
  Acts s s f ks (sends.map fun e => (e.1, slotWith s f e.1 e.2)) h t

/-- Unit f places `sends` in its output slots and is `h` but for these; the units `touched`, which are others, each go through
the function named; every other latch, slot and unit, and the rest of the machine, are as before. -/
structure ActsOn (s : State) (f : FabUnit) (sends : List (Nat × Token)) (h : FabUnit) (touched : List (UKey × (FabUnit → FabUnit)))
    (t : State) : Prop where
  unit : ∃ g, t.unit? f.key = some g ∧ bare g = bare h ∧ (∀ k, g.latch k = f.latch k) ∧
    ∀ p < f.outs.length, g.slot p = ((sends.map fun e => (e.1, slotWith s f e.1 e.2)).lookup p).getD (f.slot p)
  reached : ∀ e ∈ touched, t.unit? e.1 = (s.unit? e.1).map e.2
  others : ∀ v, v ≠ f.key → v ∉ touched.map Prod.fst → t.unit? v = s.unit? v
  rest : still t = still s

/-- A unit that a permit reaches: a controller has one more to serve, a leaf head one more run to start (R40, R253), for the index
vector v that the permit carries (R49). -/
def permitted (v : List Nat) (f : FabUnit) : FabUnit :=
  match f.st with
  | .ctl p on it sent dones total fin e => { f with st := .ctl (p + 1) on it sent dones total fin e, given := f.given ++ [v] }
  | .ctr use trips idx bounds pos run ready on runs want ends marks fin =>
    { f with st := .ctr use trips idx bounds pos run ready on (runs + 1) want ends marks fin,
             vecs := f.vecs ++ [⟨run + (if on then 1 else 0) + runs, [], v⟩] }
  | _ => f

/-- A counter that is asked for its index token. -/
def asked (f : FabUnit) : FabUnit :=
  match f.st with
  | .ctr use trips idx bounds pos run ready on runs _ ends marks fin =>
    { f with st := .ctr use trips idx bounds pos run ready on runs 1 ends marks fin }
  | _ => f

/-- A unit to which no further permit will come. -/
def closed (f : FabUnit) : FabUnit :=
  match f.st with
  | .ctl p on it sent dones total _ e => { f with st := .ctl p on it sent dones total true e }
  | .ctr use trips idx bounds pos run ready on runs want ends marks _ =>
    { f with st := .ctr use trips idx bounds pos run ready on runs want ends marks true }
  | _ => f

/-- A controller to which its child k is done once more. -/
def heard (k : UKey) (f : FabUnit) : FabUnit :=
  match f.st with
  | .ctl a on it sent dones total fin e =>
    { f with st := .ctl a on it sent (updAt dones ((findAt (fun c => c == k) f.kids).getD 0) (· + 1)) total fin e }
  | _ => f

/-- Unit f faults: it fires no more, and its instance is FAULTED with a record that names the cause and the unit (R49,
R389, R393); memory is as before. -/
structure Faults (s : State) (f : FabUnit) (cause : BitVec 8) (sub : BitVec 8) (t : State) : Prop where
  dead : (t.unit? f.key).map FabUnit.dead = some true
  record : ∀ i, s.inst? f.serial = some i → i.state = .run → i.fault.v = false → ∃ x, t.inst? f.serial = some x ∧
    x.state = .faulted ∧ x.fault.v = true ∧ x.fault.cause = cause ∧ x.fault.sub = sub ∧ x.fault.origin = 1#2 ∧
    x.fault.unitId = unitWord f.folio f.fx f.fy f.key.slot f.op f.key.q
  memory : t.mem = s.mem

/-- The opcodes of the element operations (R236 to R246). -/
def elements : List (Nat × (UKey → Instr)) :=
  [(0x01, .fadd), (0x02, .fsub), (0x03, .fmul), (0x04, .fma), (0x05, .fnma), (0x06, .fmin), (0x07, .fmax), (0x08, .fabs),
   (0x09, .fneg), (0x0A, .fcmp), (0x0B, .frcp), (0x0C, .frsq), (0x0D, .fexp2), (0x0E, .flog2), (0x0F, .fcvt), (0x10, .fclass),
   (0x40, .iadd), (0x41, .isub), (0x42, .imul), (0x43, .iand), (0x44, .ior), (0x45, .ixor), (0x46, .ishl), (0x47, .ishr),
   (0x48, .isra), (0x49, .imin), (0x4A, .imax), (0x4B, .icmp), (0x4C, .iclz), (0x4D, .ipopc), (0x60, .bcast), (0x61, .perm),
   (0x62, .lrot), (0x63, .pack), (0x64, .unpack), (0x65, .quant), (0x66, .dequant), (0x67, .lred), (0x68, .scan), (0x69, .iota),
   (0x6A, .lsel)]

/-- A number clamped to a range. -/
def clampTo (lo hi v : Int) : Int := max lo (min hi v)

/-- The number that the index vector of a nest stands for, level 1 fastest, and the number of its index tokens. -/
def mixed : List W32 → List Nat → Nat
  | b :: l, i :: m => i + b.toNat * mixed l m
  | _, _ => 0

def product : List W32 → Nat
  | [] => 1
  | b :: l => b.toNat * product l

end Sys2Proof.Claims

open Sys2Proof Sys2Proof.Machine Sys2Proof.Claims

/-- What hub reset leaves (R354, R355, R353, R400, R379, R386, R409, R423, R437, R438, R439). Right after reset no
instance, folio, unit, route, lock, wait entry or request exists and no partition is enabled or holds a key; every
Trearo core is at machine level with SWDOG 0x000F_4240; the trap registers of every level are 0 but for STIMECMP,
all ones; SEVENT and SEVMASK are 0 and SWDOG is 0x000F_4240; the hub, scheduling and partition registers are 0;
every Zillas port is down. (The values of register banks that the spec leaves open, and unlisted memory, are log
entries 2 and 3; nothing here rests on them.) -/
def Obligations.ResetState : Prop :=
  State.reset.insts = [] ∧ State.reset.units = [] ∧ State.reset.routes = [] ∧ State.reset.residents = [] ∧
  State.reset.locks = [] ∧ State.reset.waits = [] ∧ State.reset.remotes = [] ∧ State.reset.frozen = false ∧
  (∀ k, (State.reset.tcore k).level = 2 ∧ (State.reset.tcore k).deleg = 0#64 ∧ (State.reset.tcore k).hung = false ∧
    (State.reset.tcore k).ctx.swdog = 0x000F4240#32 ∧ (State.reset.tcore k).ctx.mbox.v = false) ∧
  (∀ k, (State.reset.sup k).active = none ∧ (State.reset.sup k).regs.inh = false ∧ (State.reset.sup k).regs.tvec = 0#64 ∧
    (State.reset.sup k).regs.epc = 0#64 ∧ (State.reset.sup k).regs.cause = 0#64 ∧ (State.reset.sup k).regs.addr = 0#64 ∧
    (State.reset.sup k).regs.info = 0#64 ∧ (State.reset.sup k).regs.scratch = 0#64 ∧
    (State.reset.sup k).regs.timecmp = BitVec.allOnes 64) ∧
  (∀ q, (State.reset.quire q).sevent = 0#64 ∧ (State.reset.quire q).sevmask = 0#64 ∧ (State.reset.quire q).shung = 0#8 ∧
    (State.reset.quire q).swdog = 0x000F4240#32 ∧ (State.reset.quire q).mbox.v = false) ∧
  (∀ p, (State.reset.part p).en = false ∧ (State.reset.part p).quires = 0#32 ∧ (State.reset.part p).slices = 0#64 ∧
    (State.reset.part p).root = 0#64 ∧ (State.reset.part p).mccfg = 0#64 ∧ (State.reset.part p).key = none) ∧
  State.reset.sys.schctl = 0#64 ∧ State.reset.sys.srole = 0#64 ∧ State.reset.sys.mflog = 0#64 ∧
  State.reset.sys.mboot = 0#64 ∧ State.reset.sys.mevent = 0#64 ∧ State.reset.sys.mecc = 0#64 ∧
  (∀ p, State.reset.portsUp.getD p false = false)

/-- Memory is in canonical form right after reset (R83, R91). The form (addresses strictly rising, no entry equal to
what an unlisted byte reads as) is the model's own (log entry 2). -/
def Obligations.ResetMemoryCanonical : Prop :=
  Memory.wf State.reset.mem = true

/-- Every step keeps memory in canonical form (R83, R91). From every state whose memory has its keys strictly rising and
lists no byte equal to what an unlisted byte reads as, a step that answers a next state leaves memory in that form,
whatever agent takes the step. The form is the model's own (log entry 2): it makes equal memories equal data. -/
def Obligations.StepKeepsMemoryCanonical : Prop :=
  ∀ s t : State, Memory.wf s.mem = true → step s = .next t → Memory.wf t.mem = true

/-- Decoding the word of a well-formed instruction gives the instruction back (R136, R137, R138, R139, R165, R171, R176,
R192, R204, R209, R222, R363). For every well-formed instruction that has a word, with every operand at every value
its field admits, the decoder reads from its word that very instruction. -/
def Obligations.DecodeEncode : Prop :=
  ∀ (i : Instr) (w : W32), i.wf = true → encode i = some w → decode w = .ok i

/-- A word that decodes is the word of a well-formed instruction (R3, R136, R137, R138, R139, R140). Whatever the
decoder reads from a word is well-formed and encodes to that same word: no reserved bit is dropped and no two words
mean one instruction. -/
def Obligations.EncodeDecode : Prop :=
  ∀ (w : W32) (i : Instr), decode w = .ok i → i.wf = true ∧ encode i = some w

/-- The words that the spec writes out decode to what it says they are (R140, R138, R357, R360, R361, R362, R363, R392).
`(p2) addi x5, x4, -3`, a branch on p1 back three words, `trap 5`, `sys 0`, `eret`, `halt x4, x5`, `idle`,
`tlbinv.all`, `tlbinv.page x6, x7` and `swr 0x0A3, x0`, as the spec encodes them; the words of majors 0x00 and 0x3F
are no instructions. -/
def Obligations.SampleWords : Prop :=
  decode 0x08A4FFEA#32 = .ok (.addi 5 4 0x1FFD 2) ∧ decode 0x30BFFFFD#32 = .ok (.brT 1 0x3FFFFD) ∧
  decode 0xF4000028#32 = .ok (.trap 5 0) ∧ decode 0xF4004000#32 = .ok (.sys 0 0 0 0) ∧
  decode 0xF8000000#32 = .ok (.eret 0) ∧ decode 0xF8850008#32 = .ok (.halt 4 5 0) ∧ decode 0xF8000010#32 = .ok (.idle 0) ∧
  decode 0xF8000018#32 = .ok (.tlbinvAll 0) ∧ decode 0xF8C70098#32 = .ok (.tlbinvPage 6 7 0) ∧
  decode 0xF0008518#32 = .ok (.swr 0 0x0A3 0) ∧ decode 0x00000000#32 = .error (.major 0) ∧
  decode 0xFFFFFFFF#32 = .error (.major 63)

/-- A step runs the instruction that stands at pc (R24, R162, R374). When the next turn is a control core's, one of its
threads can issue (the first in issue order, not stalled), no trap waits at its boundary and the fetch at its pc
gives a word, the step is `exec` of the instruction the word decodes to (or of the word that is no instruction), at
the state in which time has passed, the thread is the one that executes and its fetch has been translated. With
several candidates the order is R374's. The schedule that names whose turn it is is the model's own (log entry 1). -/
def Obligations.StepRunsWord : Prop :=
  ∀ (s : State) (q k : Nat) (dc dn : Nat) (ts : List Turn) (h : Hart) (hs : List Hart) (w : W32) (u : State),
    s.frozen = false → s.turns = ⟨dc, dn, .core q k⟩ :: ts →
    (({ s with turns := ts } : State).elapse dc dn).issueOrder (4 * q + k) = h :: hs →
    (({ s with turns := ts } : State).elapse dc dn).stalled h = false →
    ((({ s with turns := ts } : State).elapse dc dn).issue h).boundary = none →
    ((({ s with turns := ts } : State).elapse dc dn).issue h).fetch = .ok w u →
    step s = exec (match decode w with | .ok i => i | .error _ => .illegalWord w) u

/-- The decode steps of R140, for every control-thread word (R140, R174, R352). For every word but `srd` and `swr`:
below its level it traps PRIV; else a register field that the thread has not allocated traps ILL, whatever the guard
holds; else a guard of 0 retires it with no effect but the pc's advance. A word that does not decode traps ILL at
every level. -/
def Obligations.DecodeOrder : Prop :=
  (∀ (i : Instr) (need : Nat) (regs : List (BitVec 5)) (g : BitVec 3) (s : State), shape i = some (need, regs, g) →
    s.threaded →
    (s.level < need → exec i s = .next (takeTrap s (trapOf 0x02 0))) ∧
    (need ≤ s.level → (∃ r ∈ regs, r ≠ 0#5 ∧ s.regLimit ≤ r.toNat) → exec i s = .next (takeTrap s (trapOf 0x01 0))) ∧
    (need ≤ s.level → (∀ r ∈ regs, r ≠ 0#5 → r.toNat < s.regLimit) → s.pr g = false →
      Next (exec i s) (Goes s (s.pc + 4#64)))) ∧
  (∀ (w : W32) (s : State), s.threaded → exec (.illegalWord w) s = .next (takeTrap s (trapOf 0x01 0)))

/-- The register arithmetic of R165 (R71, R164, R165). Each of the nineteen RR integer members writes its result to xd,
advances pc, and changes nothing else; the division members as R165 spells them; x0 discards the result. -/
def Obligations.ArithmeticResults : Prop :=
  ∀ (s : State) (d a b : BitVec 5) (g : BitVec 3), Ready s [d, a, b] g →
    Next (exec (.add d a b g) s) (Writes s d (s.rd a + s.rd b)) ∧
    Next (exec (.sub d a b g) s) (Writes s d (s.rd a - s.rd b)) ∧
    Next (exec (.mul d a b g) s) (Writes s d (s.rd a * s.rd b)) ∧
    Next (exec (.mulh d a b g) s)
      (Writes s d (((s.rd a).signExtend 128 * (s.rd b).signExtend 128).extractLsb' 64 64)) ∧
    Next (exec (.mulhu d a b g) s) (Writes s d (((s.rd a).setWidth 128 * (s.rd b).setWidth 128).extractLsb' 64 64)) ∧
    Next (exec (.div d a b g) s) (Writes s d (quotS (s.rd a) (s.rd b))) ∧
    Next (exec (.divu d a b g) s) (Writes s d (quotU (s.rd a) (s.rd b))) ∧
    Next (exec (.rem d a b g) s) (Writes s d (remainS (s.rd a) (s.rd b))) ∧
    Next (exec (.remu d a b g) s) (Writes s d (remainU (s.rd a) (s.rd b))) ∧
    Next (exec (.and d a b g) s) (Writes s d (s.rd a &&& s.rd b)) ∧
    Next (exec (.or d a b g) s) (Writes s d (s.rd a ||| s.rd b)) ∧
    Next (exec (.xor d a b g) s) (Writes s d (s.rd a ^^^ s.rd b)) ∧
    Next (exec (.shl d a b g) s) (Writes s d (s.rd a <<< ((s.rd b).toNat % 64))) ∧
    Next (exec (.shr d a b g) s) (Writes s d (s.rd a >>> ((s.rd b).toNat % 64))) ∧
    Next (exec (.sra d a b g) s) (Writes s d ((s.rd a).sshiftRight ((s.rd b).toNat % 64))) ∧
    Next (exec (.min d a b g) s) (Writes s d (if (s.rd a).toInt ≤ (s.rd b).toInt then s.rd a else s.rd b)) ∧
    Next (exec (.max d a b g) s) (Writes s d (if (s.rd a).toInt ≤ (s.rd b).toInt then s.rd b else s.rd a)) ∧
    Next (exec (.minu d a b g) s) (Writes s d (if (s.rd a).toNat ≤ (s.rd b).toNat then s.rd a else s.rd b)) ∧
    Next (exec (.maxu d a b g) s) (Writes s d (if (s.rd a).toNat ≤ (s.rd b).toNat then s.rd b else s.rd a))

/-- The immediate forms of R166 to R169, and lea (R168). `movi` (format LI, major 0x08) writes its sign-extended
immediate; the immediate arithmetic and shifts, `movhi` and `lea` write theirs; each advances pc and changes nothing
else. -/
def Obligations.ImmediateResults : Prop :=
  ∀ (s : State) (d a : BitVec 5) (g : BitVec 3),
    (∀ imm : BitVec 18, encode (.movi d imm g) = some (0x08#6 ++ d ++ imm ++ g)) ∧
    (Ready s [d] g → ∀ imm : BitVec 18, Next (exec (.movi d imm g) s) (Writes s d (imm.signExtend 64))) ∧
    (Ready s [d] g → ∀ (q : BitVec 2) (v : BitVec 16), Next (exec (.movhi d q v g) s)
      (Writes s d ((s.rd d &&& ~~~(0xFFFF#64 <<< (16 * q.toNat))) ||| (v.setWidth 64 <<< (16 * q.toNat))))) ∧
    (Ready s [d, a] g →
      (∀ imm : BitVec 13, Next (exec (.addi d a imm g) s) (Writes s d (s.rd a + imm.signExtend 64)) ∧
        Next (exec (.andi d a imm g) s) (Writes s d (s.rd a &&& imm.signExtend 64)) ∧
        Next (exec (.ori d a imm g) s) (Writes s d (s.rd a ||| imm.signExtend 64)) ∧
        Next (exec (.xori d a imm g) s) (Writes s d (s.rd a ^^^ imm.signExtend 64))) ∧
      (∀ amt : BitVec 6, Next (exec (.shli d a amt g) s) (Writes s d (s.rd a <<< amt.toNat)) ∧
        Next (exec (.shri d a amt g) s) (Writes s d (s.rd a >>> amt.toNat)) ∧
        Next (exec (.srai d a amt g) s) (Writes s d ((s.rd a).sshiftRight amt.toNat))) ∧
      (∀ (off : BitVec 11) (z : BitVec 2), Next (exec (.lea d a off z g) s)
        (Writes s d (s.rd a + off.signExtend 64 * BitVec.ofNat 64 (2 ^ z.toNat)))))

/-- Compares and predicate logic (R164, R170, R171). `cmp` and `cmpi` write pd with the condition of R170's table, the
predicate members write theirs; p0 discards a write and still reads 1; each advances pc and changes nothing else. -/
def Obligations.PredicateResults : Prop :=
  (∀ (s : State) (p : BitVec 3) (a b : BitVec 5) (imm : BitVec 10) (g : BitVec 3),
    let holds (c : Nat) (x y : W64) : Bool :=
      if c = 0 then x == y else if c = 1 then x != y else if c = 2 then decide (x.toInt < y.toInt)
      else if c = 3 then decide (x.toInt ≤ y.toInt) else if c = 4 then decide (x.toInt > y.toInt)
      else if c = 5 then decide (x.toInt ≥ y.toInt) else if c = 6 then decide (x.toNat < y.toNat) else decide (x.toNat ≥ y.toNat)
    ∀ c : BitVec 3,
      (Ready s [a, b] g → Next (exec (.cmp p a b c g) s) (WritesPred s p (holds c.toNat (s.rd a) (s.rd b)))) ∧
      (Ready s [a] g → Next (exec (.cmpi p a c imm g) s) (WritesPred s p (holds c.toNat (s.rd a) (imm.signExtend 64))))) ∧
  (∀ (s : State) (d a b g : BitVec 3), Ready s [] g →
    Next (exec (.pand d a b g) s) (WritesPred s d (s.pr a && s.pr b)) ∧
    Next (exec (.por d a b g) s) (WritesPred s d (s.pr a || s.pr b)) ∧
    Next (exec (.pxor d a b g) s) (WritesPred s d (s.pr a != s.pr b)) ∧
    Next (exec (.pnot d a g) s) (WritesPred s d (!s.pr a)))

/-- `sel` (R172). `sel` has major 0x0F, ps in fn[2:0], and a word of that major with a bit of fn[7:3] set is no
instruction; it writes xa to xd when p[ps] is 1 and xb otherwise, advances pc and changes nothing else; an
unallocated xd, xa or xb traps ILL, whichever of them is chosen. -/
def Obligations.SelectWord : Prop :=
  (∀ (d a b r : BitVec 5) (ps g : BitVec 3), encode (.sel d a b ps g) = some (0x0F#6 ++ d ++ a ++ b ++ (0#5 ++ ps) ++ g) ∧
    decode (0x0F#6 ++ d ++ a ++ b ++ (0#5 ++ ps) ++ g) = .ok (.sel d a b ps g) ∧
    (r ≠ 0#5 → ∀ i, decode (0x0F#6 ++ d ++ a ++ b ++ (r ++ ps) ++ g) ≠ .ok i)) ∧
  (∀ (s : State) (d a b : BitVec 5) (ps g : BitVec 3),
    (Ready s [d, a, b] g → Next (exec (.sel d a b ps g) s) (Writes s d (if s.pr ps = true then s.rd a else s.rd b))) ∧
    (s.threaded → (∃ r ∈ [d, a, b], r ≠ 0#5 ∧ s.regLimit ≤ r.toNat) →
      exec (.sel d a b ps g) s = .next (takeTrap s (trapOf 0x01 0))))

/-- Branches and jumps (R138, R173, R175). A taken branch goes to its own address plus four times its displacement, one
not taken to pc + 4; `jr` and `ret` go to an aligned target and trap ALIGN, naming it, on a misaligned one. Nothing
else changes. -/
def Obligations.BranchTargets : Prop :=
  (∀ (s : State) (p : BitVec 3) (d : BitVec 22), s.threaded →
    Next (exec (.br d) s) (Goes s (s.pc + d.signExtend 64 * 4#64)) ∧
    Next (exec (.brT p d) s) (Goes s (if s.pr p = true then s.pc + d.signExtend 64 * 4#64 else s.pc + 4#64)) ∧
    Next (exec (.brF p d) s) (Goes s (if s.pr p = true then s.pc + 4#64 else s.pc + d.signExtend 64 * 4#64))) ∧
  (∀ (s : State) (a : BitVec 5) (g : BitVec 3),
    (Ready s [a] g → (s.rd a).toNat % 4 = 0 → Next (exec (.jr a g) s) (Goes s (s.rd a))) ∧
    (Ready s [a] g → (s.rd a).toNat % 4 ≠ 0 → exec (.jr a g) s = .next (takeTrap s (trapAt 0x03 0 (s.rd a)))) ∧
    (Ready s [31#5] g → (s.rd 31#5).toNat % 4 = 0 → Next (exec (.ret g) s) (Goes s (s.rd 31#5))) ∧
    (Ready s [31#5] g → (s.rd 31#5).toNat % 4 ≠ 0 → exec (.ret g) s = .next (takeTrap s (trapAt 0x03 0 (s.rd 31#5)))))

/-- Calls (R174). A call is encoded as the branch of its form with major 0x0D. A taken call writes its own address plus
4 to ln and branches as `br` does; one that is not taken writes nothing and goes to pc + 4; with fewer than 32
registers allocated a call traps ILL, taken or not. -/
def Obligations.CallWord : Prop :=
  (∀ (p : BitVec 3) (d : BitVec 22),
    (encode (.br d) = some (0x0C#6 ++ 0#3 ++ 0#1 ++ d) ∧ encode (.call d) = some (0x0D#6 ++ 0#3 ++ 0#1 ++ d)) ∧
    (encode (.brT p d) = some (0x0C#6 ++ p ++ 0#1 ++ d) ∧ encode (.callT p d) = some (0x0D#6 ++ p ++ 0#1 ++ d)) ∧
    (encode (.brF p d) = some (0x0C#6 ++ p ++ 1#1 ++ d) ∧ encode (.callF p d) = some (0x0D#6 ++ p ++ 1#1 ++ d))) ∧
  (∀ (s : State) (p : BitVec 3) (d : BitVec 22),
    let called (t : State) : Prop := Kept s t ∧ (∃ u, exec (.br d) s = .next u ∧ t.pc = u.pc) ∧
      t.pc = s.pc + d.signExtend 64 * 4#64 ∧ t.rd 31#5 = s.pc + 4#64 ∧ (∀ r, r ≠ 31#5 → t.rd r = s.rd r) ∧ ∀ k, t.pr k = s.pr k
    (Ready s [31#5] 0#3 →
      Next (exec (.call d) s) called ∧
      (s.pr p = true → Next (exec (.callT p d) s) called ∧ Next (exec (.callF p d) s) (Goes s (s.pc + 4#64))) ∧
      (s.pr p = false → Next (exec (.callF p d) s) called ∧ Next (exec (.callT p d) s) (Goes s (s.pc + 4#64)))) ∧
    (s.threaded → s.regLimit < 32 →
      exec (.call d) s = .next (takeTrap s (trapOf 0x01 0)) ∧ exec (.callT p d) s = .next (takeTrap s (trapOf 0x01 0)) ∧
      exec (.callF p d) s = .next (takeTrap s (trapOf 0x01 0))))

/-- Loads (R2, R164, R176, R179, R417). With no posted store of the thread outstanding, a load of a window address
(classified and translated as `locate` does) whose bytes are without error writes xd with the little-endian value of
its 2^sz bytes, widened with zeros or with the sign, and changes nothing else but the thread's context; only a
window in the other part of a confidential partition also takes the next packet numbers, and the load waits while a
source router of its packets has used up its own (R417). Any load whose access succeeds completes, and leaves every
byte of memory as it was; a misaligned one traps ALIGN naming the address. -/
def Obligations.LoadResults : Prop :=
  ∀ (s u : State) (d a : BitVec 5) (off : BitVec 10) (sx : BitVec 1) (z : BitVec 2) (g : BitVec 3), Ready s [d, a] g →
    let n := 2 ^ z.toNat
    let ea := s.rd a + off.signExtend 64 * BitVec.ofNat 64 n
    (∀ (pool : Pool) (o : Nat), ea.toNat % n = 0 → s.locate .load ea = .ok (.win pool o) u → u.poisoned (pool.mem o) n = false →
      s.postedLeft none = false →
      (u.crossesTo u.who pool = false → u.sealedTo u.who pool = u ∧ ¬ Held u u.who pool) ∧
      (Held u u.who pool → exec (.ld d a off sx z g) s = .next (u.stallOn (some (remoteWait ea)))) ∧
      (¬ Held u u.who pool → Next (exec (.ld d a off sx z g) s)
        (Writes (u.sealedTo u.who pool) d (if sx = 1#1 then (BitVec.ofNat (8 * n) (u.num (pool.mem o) n)).signExtend 64
          else BitVec.ofNat 64 (u.num (pool.mem o) n))))) ∧
    (∀ v : Nat, s.load ea n = .ok v u → v < 2 ^ (8 * n) →
      u.ctx? = s.ctx? ∧ (∀ k, memRead u.mem k = memRead s.mem k) ∧
      Next (exec (.ld d a off sx z g) s) (Writes u d (if sx = 1#1 then (BitVec.ofNat (8 * n) v).signExtend 64 else BitVec.ofNat 64 v))) ∧
    (ea.toNat % n ≠ 0 → exec (.ld d a off sx z g) s = .next (takeTrap s (trapAt 0x03 0 ea)))

/-- Stores (R2, R177, R179, R417, R420). With no earlier store of the thread outstanding (to host memory: none but those
to host memory), a store to a window address puts the low 2^sz bytes of xs there, lowest byte first, and leaves
every other byte of memory, every register and every predicate, and all else but packet numbers where it crosses
between the parts of a confidential partition, for which it waits while they are used up (R417); a store to local
HBM that the fence passes, in a tile that is not sealed, does the same, and is metered to its owner in whole units
of 64 bytes (R420 as log entry 96 reads it: the model's choice); a store to host memory is posted, changing no byte
now; a misaligned store traps ALIGN naming its address. -/
def Obligations.StoreResults : Prop :=
  ∀ (s u : State) (x a : BitVec 5) (off : BitVec 11) (z : BitVec 2) (g : BitVec 3), Ready s [x, a] g →
    let n := 2 ^ z.toNat
    let ea := s.rd a + off.signExtend 64 * BitVec.ofNat 64 n
    let stored (key : Nat) (r t : State) : Prop :=
      (∀ k, k < n → memRead t.mem (key + k) = (s.rd x).extractLsb' (8 * k) 8) ∧
      (∀ k, k < key ∨ key + n ≤ k → memRead t.mem k = memRead s.mem k) ∧
      (∀ r, t.rd r = s.rd r) ∧ (∀ k, t.pr k = s.pr k) ∧ t.pc = s.pc + 4#64 ∧ Beside r t
    Memory.wf s.mem = true → ea.toNat % n = 0 →
    (∀ (pool : Pool) (o : Nat), s.locate .store ea = .ok (.win pool o) u → u.postedLeft none = false →
      (Held u u.who pool → exec (.st x a off z g) s = .next (u.stallOn none)) ∧
      (¬ Held u u.who pool → Next (exec (.st x a off z g) s) (stored (pool.mem o) (u.sealedTo u.who pool)))) ∧
    (∀ pa : Nat, s.locate .store ea = .ok (.hbm pa false) u → u.mayReach pa = true → u.sealAt (pa / 4096 * 4096) = none →
      u.postedLeft none = false → Next (exec (.st x a off z g) s) (stored (hbmKey pa) (u.hbmMoved u.who.owner n))) ∧
    (∀ pa : Nat, s.locate .store ea = .ok (.host pa) u → u.postedLeft (some none) = false →
      Next (exec (.st x a off z g) s) fun t => (∀ k, memRead t.mem k = memRead s.mem k) ∧ (∀ r, t.rd r = s.rd r) ∧
        t.pc = s.pc + 4#64 ∧ ∃ r ∈ t.remotes, r.posted = true ∧ r.kind = 1 ∧ r.addr = pa ∧ r.va = ea ∧ r.ans = none ∧
          r.data = natBytes n (s.rd x).toNat)

/-- The order in which an access of a user thread traps (R88, R89, R179). A control thread's load or store at user level
traps ALIGN on a misaligned address, before everything else; then XLAT, CANON on a non-canonical one; then PERM in
the supervisor half; then BOUND, WIN in a window gap or beyond the region's tiles; each naming the address, and none
changing anything. -/
def Obligations.AccessTraps : Prop :=
  ∀ (s : State) (n : Nat) (va : W64) (b : Nat) (acc : Acc), s.cur = .ctl n → s.level = 0 → acc.x = false →
    (va.toNat % b ≠ 0 → s.load va b = .trap (trapAt 0x03 0 va) s ∧ ∀ v, s.store va b v = .trap (trapAt 0x03 0 va) s) ∧
    (canonical va = false → s.locate acc va = .trap (trapAt 0x04 0x01 va) s) ∧
    (canonical va = true → va.getLsbD 56 = true → s.locate acc va = .trap (trapAt 0x05 0x05 va) s) ∧
    (va.toNat / 2 ^ 31 = 0x1E00000 → 4 * s.who.region.length ≤ va.toNat / 2 ^ 22 % 2 ^ 9 →
      s.locate acc va = .trap (trapAt 0x06 0x04 va) s) ∧
    (va.toNat / 2 ^ 30 = 0x3C40000 → (s.scratch s.who.part).length ≤ va.toNat / 2 ^ 24 % 2 ^ 6 →
      s.locate acc va = .trap (trapAt 0x06 0x04 va) s) ∧
    (va.toNat / 2 ^ 48 = 0xF0 ∨ va.toNat / 2 ^ 48 = 0xF1 → va.toNat / 2 ^ 31 ≠ 0x1E00000 → va.toNat / 2 ^ 30 ≠ 0x3C40000 →
      s.locate acc va = .trap (trapAt 0x06 0x04 va) s)

/-- A trap writes no memory and no register or predicate of any thread (R163). Whatever trap a word takes, every byte of
memory, and the x registers and predicates of every instance, of every supervisor bank and of every level of every
Trearo core, are as they were before the word. -/
def Obligations.TrapWritesNothing : Prop :=
  ∀ (s : State) (tr : Trap),
    (∀ a, memRead (takeTrap s tr).mem a = memRead s.mem a) ∧
    (takeTrap s tr).insts.map (fun i => (i.serial, i.ctx.x, i.ctx.p)) = s.insts.map (fun i => (i.serial, i.ctx.x, i.ctx.p)) ∧
    (takeTrap s tr).sups.map (fun b => (b.ctx.x, b.ctx.p)) = s.sups.map (fun b => (b.ctx.x, b.ctx.p)) ∧
    (takeTrap s tr).cores.map (fun c => (c.user.x, c.user.p, c.sup.x, c.sup.p, c.mach.x, c.mach.p)) =
      s.cores.map (fun c => (c.user.x, c.user.p, c.sup.x, c.sup.p, c.mach.x, c.mach.p))

/-- `trap` and `sys` enter the supervisor (R163, R356, R357, R389, R391). On a control thread at user level whose
instance's own handler does not take the trap, while no thread of the core is at supervisor level and no handler
runs: `trap n` saves its own pc, cause BRK, code n, `sys n` saves pc + 4, cause SYS, code n; both save the level,
the instance's SERIAL, address 0, set INH and go to STVEC at supervisor level. `trap` puts the instance in FAULTED
and writes its fault record (a record that stands only counts MORE); `sys` leaves state and record. Memory and the
user context are untouched. -/
def Obligations.TrapEntry : Prop :=
  ∀ (s : State) (n : Nat) (i : Inst) (c : BitVec 11) (d a : BitVec 5) (g : BitVec 3),
    s.cur = .ctl n → s.instOn n = some i → (s.sup (htCore n)).active = none → (supRegs s n).inh = false →
    htCore n < s.sups.length →
    let entered (cause : Nat) (epc : W64) (t : State) : Prop :=
      t.level = 1 ∧ t.pc = (supRegs s n).tvec ∧
      supRegs t n = { supRegs s n with
        pl := 0#2, inh := true, epc := epc, cause := BitVec.ofNat 64 cause, addr := 0#64,
        info := BitVec.ofNat 64 (i.serial % 2 ^ 32 + c.toNat * 2 ^ 32) } ∧
      (∀ k, memRead t.mem k = memRead s.mem k) ∧ (t.instOn n).map Inst.ctx = some i.ctx
    (Ready s [] g → (bitAt i.utmask 0x0A && !i.uinh) = false →
      Next (exec (.trap c g) s) fun t => entered 0x0A i.ctx.pc t ∧ (t.instOn n).map Inst.state = some .faulted ∧
        ∃ j, t.instOn n = some j ∧
          (i.fault.v = false → j.fault.cause = 0x0A#8 ∧ j.fault.sub = 0#8 ∧ j.fault.pc = i.ctx.pc ∧ j.fault.addr = 0#64 ∧
            j.fault.origin = 0#2 ∧ j.fault.v = true ∧ j.fault.more = 0#16 ∧ j.fault.time = s.nsec) ∧
          (i.fault.v = true → j.fault = { i.fault with more := (if i.fault.more = 0xFFFF#16 then 0xFFFF#16 else i.fault.more + 1#16) })) ∧
    (Ready s [d, a] g → Next (exec (.sys d a c g) s) fun t => entered 0x15 (i.ctx.pc + 4#64) t ∧
      ∃ j, t.instOn n = some j ∧ j.state = i.state ∧ j.fault = i.fault)

/-- Entry to the user handler and return from it (R387, R391, R392). A BRK whose bit is set in UTMASK, outside the
handler, enters it at user level: UEPC, PSAVE and INH are written, pc goes to UTVEC, the instance keeps its state. A
write of USTATUS with INH 0 inside the handler restores p1 to p7 from PSAVE, clears INH and resumes at UEPC; with
INH 1 it writes PSAVE and stays; outside the handler it traps ILL. -/
def Obligations.UserHandler : Prop :=
  ∀ (s : State) (n : Nat) (i : Inst) (c : BitVec 11) (g : BitVec 3) (v : W64),
    s.cur = .ctl n → s.instOn n = some i → s.level = 0 →
    (Ready s [] g → bitAt i.utmask 0x0A = true → i.uinh = false →
      Next (exec (.trap c g) s) fun t => t.level = 0 ∧ t.pc = i.utvec ∧ (∀ r, t.rd r = s.rd r) ∧
        ∃ j, t.instOn n = some j ∧ j.uepc = i.ctx.pc &&& ~~~3#64 ∧ j.uinh = true ∧ j.state = i.state ∧
          ∀ k : Nat, k < 7 → j.usave.getLsbD k = s.pr (BitVec.ofNat 3 (k + 1))) ∧
    (Ready s [] 0#3 → i.uinh = true → v.getLsbD 0 = false →
      Next (exec (.ustatusWrite v) s) fun t => t.pc = i.uepc ∧ (∀ r, t.rd r = s.rd r) ∧
        (∀ k : Nat, k < 7 → t.pr (BitVec.ofNat 3 (k + 1)) = i.usave.getLsbD k) ∧ (t.instOn n).map Inst.uinh = some false) ∧
    (Ready s [] 0#3 → i.uinh = true → v.getLsbD 0 = true →
      Next (exec (.ustatusWrite v) s) fun t => t.pc = s.pc + 4#64 ∧ (t.instOn n).map Inst.usave = some (v.extractLsb' 1 7) ∧
        (t.instOn n).map Inst.uinh = some true ∧ ∀ k, t.pr k = s.pr k) ∧
    (Ready s [] 0#3 → i.uinh = false → exec (.ustatusWrite v) s = .next (takeTrap s (trapOf 0x01 0)))

/-- `eret` (R352, R355, R360). At supervisor level of a control thread with PL 0, `eret` clears INH, returns to user
level at XEPC, leaves the user registers, and puts a FAULTED instance back in RUN; with PL 1 it resumes in the
supervisor. On a Trearo core at machine level it goes to the level MSTATUS.PL names, at MEPC, and clears
MSTATUS.INH. -/
def Obligations.TrapReturn : Prop :=
  (∀ (s : State) (n : Nat) (i : Inst) (g : BitVec 3), s.cur = .ctl n → s.instOn n = some i →
    (s.sup (htCore n)).active = some n → Ready s [] g →
    ((supRegs s n).pl = 0#2 → Next (exec (.eret g) s) fun t => t.level = 0 ∧ t.pc = (supRegs s n).epc ∧
      supRegs t n = { supRegs s n with inh := false } ∧
      (∀ k, memRead t.mem k = memRead s.mem k) ∧ ∃ j, t.instOn n = some j ∧ j.ctx.x = i.ctx.x ∧ j.ctx.p = i.ctx.p ∧
        j.state = if i.state = .faulted then .run else i.state) ∧
    ((supRegs s n).pl ≠ 0#2 → Next (exec (.eret g) s) fun t => t.level = 1 ∧ t.pc = (supRegs s n).epc ∧
      supRegs t n = { supRegs s n with inh := false } ∧ (t.instOn n).map Inst.ctx = some i.ctx)) ∧
  (∀ (s : State) (k : Nat) (g : BitVec 3), s.cur = .trearo k → k < s.cores.length → (s.tcore k).level = 2 →
    (s.tcore k).m.pl ≠ 3#2 → Ready s [] g →
    Next (exec (.eret g) s) fun t => t.level = (s.tcore k).m.pl.toNat ∧ t.pc = (s.tcore k).m.epc ∧
      (t.tcore k).m = { (s.tcore k).m with inh := false } ∧ (t.tcore k).s = (s.tcore k).s ∧
      (t.tcore k).user.x = (s.tcore k).user.x ∧ (t.tcore k).sup.x = (s.tcore k).sup.x ∧ (t.tcore k).mach.x = (s.tcore k).mach.x)

/-- The atomics (R208, R209, R210, R212, R420). With no posted store of the thread outstanding, an atomic whose aligned
address lies in a window (one in the other part of a confidential partition can be numbered, and is), or in local
HBM that the fence passes and no seal covers, without error there and whose bytes hold no watched barrier's COUNT,
reads the old value, stores the member's new value when it stores, writes the old value zero-extended to xd and the
predicate to pd for `acas` and `aaddb`; no other byte, register or predicate changes; at HBM the access is metered
to its owner (in whole units of 64 bytes, the model's choice of log entry 96). The thirteen members are those of
R209's table. -/
def Obligations.AtomicResults : Prop :=
  ∀ (s u : State) (d a b : BitVec 5) (p : BitVec 3) (w : BitVec 1) (g : BitVec 3) (pool : Pool) (o : Nat),
    let n := if w = 1#1 then 8 else 4
    let x := (s.rd b).toNat % 2 ^ (8 * n)
    let e := (s.rd d).toNat % 2 ^ (8 * n)
    let sg (v : Nat) : Int := (BitVec.ofNat (8 * n) v).toInt
    let clear (v : State) (key : Nat) : Prop := v.poisoned key n = false ∧ ∀ o ∈ s.bars, ¬ (key ≤ o.addr ∧ o.addr + 4 ≤ key + n)
    let members (key : Nat) (r : State) : Prop :=
    let old := s.num key n
    let stores (v : Nat) (t : State) : Prop :=
      t.num key n = v % 2 ^ (8 * n) ∧ (∀ k, k < key ∨ key + n ≤ k → memRead t.mem k = memRead s.mem k) ∧
      (∀ r, t.rd r = if r = 0#5 then 0#64 else if r = d then BitVec.ofNat 64 old else s.rd r) ∧ t.pc = s.pc + 4#64 ∧
      Beside r t
    let stays (t : State) : Prop := ∀ k, t.pr k = s.pr k
    let tells (v : Bool) (t : State) : Prop := ∀ k, t.pr k = if k = 0#3 then true else if k = p then v else s.pr k
    Next (exec (.aadd d a b w g) s) (fun t => stores (old + x) t ∧ stays t) ∧
    Next (exec (.asub d a b w g) s) (fun t => stores (old + (2 ^ (8 * n) - x)) t ∧ stays t) ∧
    Next (exec (.aand d a b w g) s) (fun t => stores (old &&& x) t ∧ stays t) ∧
    Next (exec (.aor d a b w g) s) (fun t => stores (old ||| x) t ∧ stays t) ∧
    Next (exec (.axor d a b w g) s) (fun t => stores (old ^^^ x) t ∧ stays t) ∧
    Next (exec (.amin d a b w g) s) (fun t => stores (if sg old ≤ sg x then old else x) t ∧ stays t) ∧
    Next (exec (.amax d a b w g) s) (fun t => stores (if sg old ≤ sg x then x else old) t ∧ stays t) ∧
    Next (exec (.axchg d a b w g) s) (fun t => stores x t ∧ stays t) ∧
    Next (exec (.acas d a b p w g) s) (fun t => stores (if old = e then x else old) t ∧ tells (decide (old = e)) t) ∧
    Next (exec (.aincw d a b w g) s) (fun t => stores (if x ≤ old then 0 else old + 1) t ∧ stays t) ∧
    Next (exec (.aaddb d a b p w g) s) (fun t => stores (if old + x ≤ e then old + x else old) t ∧ tells (decide (e < old + x)) t) ∧
    Next (exec (.aminu d a b w g) s) (fun t => stores (min old x) t ∧ stays t) ∧
    Next (exec (.amaxu d a b w g) s) (fun t => stores (max old x) t ∧ stays t)
    Ready s [d, a, b] g → Memory.wf s.mem = true → (s.rd a).toNat % n = 0 → s.postedLeft none = false →
    (s.locate .both (s.rd a) = .ok (.win pool o) u → s.canCross (.win pool o) = true → clear s (pool.mem o) →
      members (pool.mem o) (s.sealedTo s.who pool)) ∧
    (∀ pa : Nat, s.locate .both (s.rd a) = .ok (.hbm pa false) u → u.mayReach pa = true → (∀ k < n, u.sealAt (pa + k) = none) →
      clear u (hbmKey pa) → members (hbmKey pa) (u.hbmMoved u.who.owner n))

/-- Lock tokens (R213, R214, R215, R286, R410). `lock` of a free token (its address aligned to 8, in a window that the
thread can reach or in local HBM) by a thread that holds fewer than 16 makes the thread its holder and completes;
`unlock` of a token the thread holds and no one waits for, once the thread's earlier stores have performed, gives it
up; registers and predicates stay; `unlock` of one it does not hold traps BOUND, LOCK, and a 17th `lock` traps
BOUND, LOCKS. The token is the one R286's hash of the offset selects at the pool that serves it; at HBM of bits
[23:0] of the physical address, at the cache slice that R410 gives. -/
def Obligations.LockAndUnlock : Prop :=
  ∀ (s u : State) (a : BitVec 5) (g : BitVec 3), Ready s [a] g → (s.rd a).toNat % 8 = 0 →
    let hash (o : Nat) : Nat := ((o / 2 ^ 3 % 2 ^ 6) ^^^ (o / 2 ^ 9 % 2 ^ 6)) ^^^ ((o / 2 ^ 15 % 2 ^ 6) ^^^ (o / 2 ^ 21 % 2 ^ 3))
    let mine := (s.locks.filter fun l => l.holder == s.meParty).length
    let guarded (v : State) (pool : Pool) (token : Nat) : Prop :=
    (s.holderOf (pool, token) = none → mine < 16 →
      Next (exec (.lock a g) s) fun t => t.locks = s.locks ++ [⟨pool, token, s.meParty⟩] ∧ t.pc = s.pc + 4#64 ∧
        (∀ r, t.rd r = s.rd r) ∧ ∀ p, t.pr p = s.pr p) ∧
    (s.holderOf (pool, token) = none → 16 ≤ mine →
      exec (.lock a g) s = .next (takeTrap v (trapAt 0x06 0x0D (s.rd a)))) ∧
    (s.holderOf (pool, token) = some s.meParty → v.tokWaiters (pool, token) = [] → s.postedLeft none = false →
      Next (exec (.unlock a g) s) fun t =>
        t.locks = s.locks.filter (fun l => !(l.pool == pool && l.idx == token)) ∧ t.pc = s.pc + 4#64 ∧ (∀ r, t.rd r = s.rd r) ∧
        ∀ p, t.pr p = s.pr p) ∧
    (s.holderOf (pool, token) ≠ some s.meParty → exec (.unlock a g) s = .next (takeTrap v (trapAt 0x06 0x0C (s.rd a))))
    (∀ (pool : Pool) (o : Nat), s.locate .load (s.rd a) = .ok (.win pool o) u → s.canCross (.win pool o) = true → guarded s pool (hash o)) ∧
    (∀ (pa : Nat) (sealed : Bool), s.locate .load (s.rd a) = .ok (.hbm pa sealed) u →
      guarded u (s.cachePool s.who.part pa) (hash (pa % 2 ^ 24)))

/-- Barrier objects (R213, R217, R218, R219, R420). At a 16-byte aligned address without error, in a window that the
thread can reach, or in local HBM that the fence passes and no seal covers (metered in whole units of 64 bytes, the
model's choice of log entry 96), with no posted store of it outstanding: `barinit` writes COUNT 0, TARGET and GEN 0
(and zeroes for target 0) and keeps the object in, or takes it out of, its pipeline's watch; `barrive` at a watched
object with COUNT below TARGET - 1 adds 1 to COUNT, and at COUNT = TARGET - 1 writes COUNT 0 and advances GEN,
answering the GEN before, as an `aincw.w` on COUNT with bound TARGET - 1 does; `barwait` completes when GEN differs;
outside the watch `barrive` and `barwait` trap BOUND, BARRIER. -/
def Obligations.BarrierResults : Prop :=
  ∀ (s u : State) (d a b : BitVec 5) (g : BitVec 3),
    let target := (s.rd d).toNat % 2 ^ 32
    let watched (key : Nat) : Bool := s.bars.any fun b => b.addr == key
    let inits (v : State) (pool : Pool) (key : Nat) : Prop :=
      (target = 0 → Next (exec (.barinit d a g) s) fun t => t.bars = s.bars.filter (fun b => b.addr != key) ∧
        t.num key 16 = 0 ∧ t.pc = s.pc + 4#64) ∧
      (target ≠ 0 → watched key = true → Next (exec (.barinit d a g) s) fun t => t.bars = s.bars ∧ t.num key 4 = 0 ∧
        t.num (key + 4) 4 = target ∧ t.num (key + 8) 4 = 0 ∧ t.pc = s.pc + 4#64) ∧
      (target ≠ 0 → watched key = false → (s.bars.filter fun b => b.pool == pool).length < 8 →
        Next (exec (.barinit d a g) s) fun t => t.bars = s.bars ++ [⟨pool, key, s.meId⟩] ∧ t.num key 4 = 0 ∧
          t.num (key + 4) 4 = target ∧ t.num (key + 8) 4 = 0 ∧ t.pc = s.pc + 4#64) ∧
      (target ≠ 0 → watched key = false → 8 ≤ (s.bars.filter fun b => b.pool == pool).length →
        exec (.barinit d a g) s = .next (takeTrap v (trapAt 0x06 0x0E (s.rd a))))
    let arrives (v : State) (key : Nat) : Prop :=
      (watched key = true →
        s.num key 4 + 1 < s.num (key + 4) 4 →
        Next (exec (.barrive d a g) s) fun t => t.num key 4 = s.num key 4 + 1 ∧ t.num (key + 8) 4 = s.num (key + 8) 4 ∧
          t.rd d = (if d = 0#5 then 0#64 else BitVec.ofNat 64 (s.num (key + 8) 4)) ∧ t.pc = s.pc + 4#64) ∧
      (watched key = true →
        s.num key 4 + 1 = s.num (key + 4) 4 →
        Next (exec (.barrive d a g) s) fun t => t.num key 4 = 0 ∧ t.num (key + 8) 4 = (s.num (key + 8) 4 + 1) % 2 ^ 32 ∧
          t.rd d = (if d = 0#5 then 0#64 else BitVec.ofNat 64 (s.num (key + 8) 4)) ∧ t.pc = s.pc + 4#64) ∧
      (watched key = true → s.num key 4 + 1 = s.num (key + 4) 4 → Ready s [d, a, b] g → (s.rd b).toNat % 2 ^ 32 = s.num key 4 →
        Next (exec (.aincw d a b 0#1 g) s) fun t => t.num key 4 = 0 ∧ t.num (key + 8) 4 = (s.num (key + 8) 4 + 1) % 2 ^ 32 ∧
          t.rd d = (if d = 0#5 then 0#64 else BitVec.ofNat 64 (s.num key 4)) ∧ t.pc = s.pc + 4#64) ∧
      (watched key = false → exec (.barrive d a g) s = .next (takeTrap v (trapAt 0x06 0x0F (s.rd a))))
    let waits (v r : State) (key : Nat) : Prop :=
      (watched key = true → s.num (key + 8) 4 ≠ target → Next (exec (.barwait d a g) s) (Goes r (s.pc + 4#64))) ∧
      (watched key = false → exec (.barwait d a g) s = .next (takeTrap v (trapAt 0x06 0x0F (s.rd a))))
    let opens (pa : Nat) : Prop := u.mayReach pa = true ∧ (∀ k < 16, u.sealAt (pa + k) = none) ∧ u.poisoned (hbmKey pa) 16 = false
    Ready s [d, a] g → Memory.wf s.mem = true → (s.rd a).toNat % 16 = 0 → s.postedLeft none = false →
    (∀ (pool : Pool) (o : Nat), s.poisoned (pool.mem o) 16 = false → s.canCross (.win pool o) = true →
      (s.locate .store (s.rd a) = .ok (.win pool o) u → inits s pool (pool.mem o)) ∧
      (s.locate .both (s.rd a) = .ok (.win pool o) u → arrives s (pool.mem o)) ∧
      (s.locate .load (s.rd a) = .ok (.win pool o) u → waits s (s.sealedTo s.who pool) (pool.mem o))) ∧
    (∀ pa : Nat, opens pa →
      (s.locate .store (s.rd a) = .ok (.hbm pa false) u → inits u (s.cachePool s.who.part pa) (hbmKey pa)) ∧
      (s.locate .both (s.rd a) = .ok (.hbm pa false) u → arrives (u.hbmMoved u.who.owner 16) (hbmKey pa)) ∧
      (s.locate .load (s.rd a) = .ok (.hbm pa false) u →
        waits (u.hbmMoved u.who.owner 16) (u.hbmMoved u.who.owner 16) (hbmKey pa)))

/-- `prio` (R225). `prio` writes the old BASE to xd and sets BASE to the smaller of xa and CEIL, raises no trap, and
R226 reads the new base at once. -/
def Obligations.PriorityWord : Prop :=
  ∀ (s : State) (n : Nat) (i : Inst) (d a : BitVec 5) (g : BitVec 3), s.cur = .ctl n → s.instOn n = some i →
    (∀ j ∈ s.insts, j.serial = i.serial → j = i) → Ready s [d, a] g →
    Next (exec (.prio d a g) s) fun t => (t.instOn n).map Inst.base = some (min (s.rd a).toNat i.ceil) ∧
      t.baseOf (.thread i.serial) = min (s.rd a).toNat i.ceil ∧ min (s.rd a).toNat i.ceil ≤ t.effOf i.serial ∧
      t.rd d = (if d = 0#5 then 0#64 else BitVec.ofNat 64 i.base) ∧ (∀ r, r ≠ d → t.rd r = s.rd r) ∧
      (∀ k, t.pr k = s.pr k) ∧ t.pc = s.pc + 4#64 ∧ ∀ k, memRead t.mem k = memRead s.mem k

/-- The words of the wait-for table (R221, R223, R224, R226). `wreg` in a bank with a free entry leaves the thread's
software entry on the object and writes 1 to pd; `wunreg` takes the thread's software entry away; `whold` below four
declarations declares the thread and writes 1, and one that stands is declared no second time; the fifth writes 0
and counts SWOVF, or traps WTFULL under STRICT; `wrel` withdraws the declaration; every instance's effective
priority is then the one of R226. -/
def Obligations.WaitTableWords : Prop :=
  ∀ (s : State) (n : Nat) (i : Inst) (a : BitVec 5) (p k g : BitVec 3), s.cur = .ctl n → s.instOn n = some i →
    let obj := (s.rd a).toNat % 2 ^ 57
    let dec : Decl := ⟨i.serial, k.toNat, obj⟩
    let soft (w : Wait) : Bool := w.waiter == Party.thread i.serial && w.sw
    (Ready s [a] g → (upTo Config.waitBank).any (fun e => !(s.waits.filter fun w => !soft w).any fun w => w.bank == htQuire n && w.idx == e) = true →
      Next (exec (.wreg a p k g) s) fun t => (t.waits.filter soft).map (fun w => (w.kind, w.obj, w.bank)) = [(k.toNat, obj, htQuire n)] ∧
        t.pr p = true ∧ t.pc = s.pc + 4#64) ∧
    (Ready s [] g → Next (exec (.wunreg g) s) fun t => (∀ w ∈ t.waits, soft w = false) ∧ t.decls = s.decls ∧ t.pc = s.pc + 4#64) ∧
    (Ready s [a] g → dec ∉ s.decls → (s.decls.filter fun e => e.serial == i.serial).length < 4 →
      Next (exec (.whold a p k g) s) fun t => t.decls = s.decls ++ [dec] ∧ t.pr p = true ∧ t.pc = s.pc + 4#64) ∧
    (Ready s [a] g → dec ∈ s.decls → Next (exec (.whold a p k g) s) fun t => t.decls = s.decls ∧ t.pr p = true ∧ t.pc = s.pc + 4#64) ∧
    (Ready s [a] g → dec ∉ s.decls → 4 ≤ (s.decls.filter fun e => e.serial == i.serial).length →
      (i.strict = false → Next (exec (.whold a p k g) s) fun t => t.decls = s.decls ∧ t.pr p = (if p = 0#3 then true else false) ∧
        (t.instOn n).map Inst.swovf = some (if i.swovf = BitVec.allOnes 32 then i.swovf else i.swovf + 1)) ∧
      (i.strict = true → exec (.whold a p k g) s = .next (takeTrap s (trapOf 0x0E 0)))) ∧
    (Ready s [a] g → Next (exec (.wrel a k g) s) fun t => t.decls = s.decls.filter (fun e => e != dec) ∧ t.pc = s.pc + 4#64) ∧
    (Next (exec .priorityPropagation s) fun t => t.insts = s.insts.map fun j => { j with eff := s.effOf j.serial })

/-- `fence`, `idle` and the timer event (R111, R187, R354, R362). A `fence` whose scope waits for nothing (scope i
always; p and k once every engine request that the thread made has responded; s also once no posted store of it is
out) completes and changes nothing but the model's own record of which posted stores of the thread are fenced;
`idle` completes when an unmasked event is pending; NSEC reaching a core's STIMECMP sets TIMER in its quire's SEVENT
and nothing else (one STIMECMP for each control core and one SEVENT for its quire is the model's choice, log entry
51). -/
def Obligations.FenceAndEvents : Prop :=
  (∀ (s : State) (sc : BitVec 2) (g : BitVec 3), Ready s [] g →
    (sc = 0#2 ∨ ∀ i, s.me = some i → i.answered = true) →
    (sc ≠ 3#2 ∨ ∀ r ∈ s.remotes, r.posted = true → r.serial ≠ s.meId) →
    Next (exec (.fence sc g) s) (Goes (s.modMe fun i => { i with fenced := s.nextId }) (s.pc + 4#64))) ∧
  (∀ (s : State) (g : BitVec 3), Ready s [] g → 1 ≤ s.level → s.woken = true →
    Next (exec (.idle g) s) (Goes s (s.pc + 4#64))) ∧
  (∀ (s : State) (c : Nat), c < 128 → (s.sup c).regs.timecmp.toNat ≤ s.nsec.toNat →
    exec (.timerEvent c) s = .next (s.modQuire (c / 4) fun r => { r with sevent := setBitTo r.sevent 5 true }))

/-- `srd` and `swr` (R3, R9, R22, R23, R181, R183, R184, R185, R186, R352, R354, R355). A number that no chapter
assigns, or a write of a wholly read-only register, traps ILL at every level; a number from 0x100 in user mode, and
one from 0x400 below machine level, traps PRIV. Otherwise `srd` writes the register to xd and changes nothing else,
but that a read of MECC first counts the errors corrected since (how many is free, log entry 61); on a control
thread IID, THREAD, QUIREID, ISTATE, CYCLE, NSEC and PRIO read the fields of the instance and the place and time
that their tables name; a `swr` of SSCRATCH at supervisor level of a control thread writes it, of STVEC and SEPC all
but the low bits that read 0, and a `swr` of UTMASK keeps the bits of causes that are not delegable at 0. -/
def Obligations.SpecialRegisterAccess : Prop :=
  (∀ (s : State) (d a : BitVec 5) (n : BitVec 12) (g : BitVec 3), s.threaded →
    (s.assigned n.toNat = false → exec (.srd d n g) s = .next (takeTrap s (trapOf 0x01 0)) ∧
      exec (.swr a n g) s = .next (takeTrap s (trapOf 0x01 0))) ∧
    (readOnly n.toNat = true → exec (.swr a n g) s = .next (takeTrap s (trapOf 0x01 0))) ∧
    (s.assigned n.toNat = true → (0x100 ≤ n.toNat ∧ s.level = 0) ∨ (0x400 ≤ n.toNat ∧ s.level < 2) →
      exec (.srd d n g) s = .next (takeTrap s (trapOf 0x02 0)) ∧
      (readOnly n.toNat = false → exec (.swr a n g) s = .next (takeTrap s (trapOf 0x02 0)))) ∧
    (Ready s [d] g → s.level = 2 → Next (exec (.srd d 0x444 g) s)
      (Writes (s.countCorrected 0x444) d (s.countCorrected 0x444).sys.mecc)) ∧
    (Ready s [d] g → n ≠ 0x444 → s.assigned n.toNat = true → (n.toNat < 0x100 ∨ (n.toNat < 0x400 ∧ 1 ≤ s.level) ∨ s.level = 2) →
      Next (exec (.srd d n g) s) (Writes s d (s.readReg n.toNat)))) ∧
  (∀ (s : State) (k : Nat) (i : Inst) (d : BitVec 5) (g : BitVec 3), s.cur = .ctl k → s.instOn k = some i → Ready s [d] g →
    let code := match i.state with
      | .queued => 0 | .placed => 1 | .run => 2 | .yielded => 3 | .cut => 4 | .faulted => 5 | .killed => 6 | .done => 7
    let reads (n : BitVec 12) (v : W64) : Prop := Next (exec (.srd d n g) s) (Writes s d v)
    reads 0x000 ((BitVec.ofNat 6 i.owner ++ BitVec.ofNat 5 i.part ++ 0#11 ++ BitVec.ofNat 32 i.serial : BitVec 54).setWidth 64) ∧
    reads 0x001 (BitVec.ofNat 64 (k % 8)) ∧ reads 0x002 (BitVec.ofNat 64 (k / 8)) ∧
    reads 0x003 (BitVec.ofNat 64 (code + (if i.active then 8 else 0) + i.phaseNo % 16 * 16)) ∧
    reads 0x004 s.cycle ∧ reads 0x005 s.nsec ∧
    reads 0x008 (BitVec.ofNat 64 (i.base % 8 + i.eff % 8 * 2 ^ 4 + i.ceil % 8 * 2 ^ 8))) ∧
  (∀ (s : State) (k : Nat) (a : BitVec 5) (g : BitVec 3), s.cur = .ctl k → (s.sup (htCore k)).active = some k → Ready s [a] g →
    Next (exec (.swr a 0x106 g) s) (fun t => supRegs t k = { supRegs s k with scratch := s.rd a } ∧ t.pc = s.pc + 4#64 ∧ ∀ r, t.rd r = s.rd r) ∧
    Next (exec (.swr a 0x101 g) s) (fun t => supRegs t k = { supRegs s k with tvec := s.rd a &&& ~~~0x3F#64 } ∧ t.pc = s.pc + 4#64) ∧
    Next (exec (.swr a 0x102 g) s) (fun t => supRegs t k = { supRegs s k with epc := s.rd a &&& ~~~3#64 } ∧ t.pc = s.pc + 4#64)) ∧
  (∀ (s : State) (k : Nat) (i : Inst) (a : BitVec 5) (g : BitVec 3), s.cur = .ctl k → s.instOn k = some i → Ready s [a] g →
    Next (exec (.swr a 0x0A1 g) s) fun t => (∀ c < 32, ((t.instOn k).map fun j => j.utmask.getLsbD c) =
      some ((s.rd a).getLsbD c && delegable.contains c)) ∧ t.pc = s.pc + 4#64)

/-- `tlbinv` (R363, R383). `tlbinv.all` on a Trearo core drops every cached translation; `tlbinv.part` drops every
translation of the partition xa[4:0] names, and `tlbinv.page` those of partition xd[4:0] that cover xa, whatever
their page size, on a Trearo core or of the control thread's own partition; the translations that stay, every
register, predicate and byte of memory and all else are as before, and pc advances. On a control thread
`tlbinv.all`, and `tlbinv.part` and `tlbinv.page` of any partition but its own, trap PRIV. -/
def Obligations.TranslationDrops : Prop :=
  ∀ (s : State) (d a : BitVec 5) (g : BitVec 3), 1 ≤ s.level →
    let keeps (p : Trans → Bool) : State := { s with tlb := s.tlb.filter p }
    (Ready s [] g → s.onCtl = false → Next (exec (.tlbinvAll g) s) (Goes { s with tlb := [] } (s.pc + 4#64))) ∧
    (Ready s [] g → s.onCtl = true → exec (.tlbinvAll g) s = .next (takeTrap s (trapOf 0x02 0))) ∧
    (Ready s [a] g → (s.onCtl = false ∨ s.who.part = (s.rd a).toNat % 32) → Next (exec (.tlbinvPart a g) s)
      (Goes (keeps fun e => e.part != (s.rd a).toNat % 32) (s.pc + 4#64))) ∧
    (Ready s [a] g → s.onCtl = true → s.who.part ≠ (s.rd a).toNat % 32 →
      exec (.tlbinvPart a g) s = .next (takeTrap s (trapOf 0x02 0))) ∧
    (Ready s [d, a] g → (s.onCtl = false ∨ s.who.part = (s.rd d).toNat % 32) → Next (exec (.tlbinvPage d a g) s)
      (Goes (keeps fun e => !(e.part == (s.rd d).toNat % 32 && e.va == (s.rd a).toNat % 2 ^ 57 / e.size * e.size)) (s.pc + 4#64))) ∧
    (Ready s [d, a] g → s.onCtl = true → s.who.part ≠ (s.rd d).toNat % 32 →
      exec (.tlbinvPage d a g) s = .next (takeTrap s (trapOf 0x02 0)))

/-- `halt` (R361, R366). `halt` writes 1 when no live instance with the SERIAL is within reach, 2 when it is queued or
cut (or, the model's choice of log entry 63, being cut or killed), 3 while a phase of it is active, changing nothing
else; otherwise, once its requests have responded and, by the same log entry, nothing of it is out, it writes 0 to
xd, leaves every other register and predicate and advances pc, and the instance is DONE, on no thread, with no
region, folio, unit or route, and holds no lock token, wait entry or declaration. (The thread that halts does not
itself wait for a token.) -/
def Obligations.HaltWord : Prop :=
  ∀ (s : State) (d a : BitVec 5) (g : BitVec 3), Ready s [d, a] g → 1 ≤ s.level →
    let serial := (s.rd a).toNat % 2 ^ 32
    (s.reachable serial = none → Next (exec (.halt d a g) s) (Writes s d 1#64)) ∧
    (∀ i, s.reachable serial = some i →
      (i.state = .queued ∨ i.state = .cut ∨ i.cut ≠ none ∨ i.kill ≠ none → Next (exec (.halt d a g) s) (Writes s d 2#64)) ∧
      (¬ (i.state = .queued ∨ i.state = .cut ∨ i.cut ≠ none ∨ i.kill ≠ none) →
        (i.active = true → Next (exec (.halt d a g) s) (Writes s d 3#64)) ∧
        (i.active = false → s.settled i = true → (∀ j ∈ s.insts, j.hw.map Hart.ctl = some s.cur → j.stall = none) →
          Next (exec (.halt d a g) s) fun t =>
          (∃ j, t.inst? serial = some j ∧ j.state = .done ∧ j.hw = none ∧ j.region = []) ∧
          (∀ r, t.rd r = if r = d then 0#64 else s.rd r) ∧ (∀ k, t.pr k = s.pr k) ∧ t.pc = s.pc + 4#64 ∧
          (∀ f ∈ t.units, f.serial ≠ serial) ∧ (∀ r ∈ t.routes, r.serial ≠ serial) ∧ (∀ f ∈ t.residents, f.serial ≠ serial) ∧
          (∀ l ∈ t.locks, l.holder.serial? ≠ some serial) ∧ (∀ w ∈ t.waits, w.waiter.serial? ≠ some serial) ∧
          ∀ e ∈ t.decls, e.serial ≠ serial)))

/-- `spush` and `seos` (R188, R189, R192, R193). With no posted store outstanding that a fence orders before it, on a
push handle with a free place, `spush.p` appends a data token with xa and xb in lanes 0 to 3 and 0 elsewhere,
`spush.b` one with xa[31:0] in every lane, `seos` an EOS token; registers, predicates and memory are as before. On a
full queue the word stalls, registered as a QUEUE wait of code 0; on a handle that is no push handle it traps BOUND,
subcause 1. -/
def Obligations.StreamPushes : Prop :=
  ∀ (s : State) (n : Nat) (i : Inst) (q : Handle) (h : BitVec 4) (a b : BitVec 5) (g : BitVec 3),
    s.cur = .ctl n → s.instOn n = some i → i.handles[h.toNat]? = some q →
    let pushed (ok : Token → Prop) (t : State) : Prop :=
      (∃ j tok, t.instOn n = some j ∧ j.handles[h.toNat]? = some { q with q := q.q ++ [tok] } ∧ ok tok ∧
        ∀ k, k ≠ h.toNat → j.handles[k]? = i.handles[k]?) ∧
      t.pc = s.pc + 4#64 ∧ (∀ r, t.rd r = s.rd r) ∧ (∀ p, t.pr p = s.pr p) ∧ ∀ k, memRead t.mem k = memRead s.mem k
    let full : WaitFor := ⟨4, i.serial % 2 ^ 32 + h.toNat * 2 ^ 32, none⟩
    (q.bind.isPush = true → q.q.length < 16 → s.fencedIn = false →
      (Ready s [a, b] g → Next (exec (.spushP h a b g) s) (pushed fun tok => ∃ v, tok = .data v ∧
        lane v 0 = (s.rd a).extractLsb' 0 32 ∧ lane v 1 = (s.rd a).extractLsb' 32 32 ∧ lane v 2 = (s.rd b).extractLsb' 0 32 ∧
        lane v 3 = (s.rd b).extractLsb' 32 32 ∧ ∀ k, 4 ≤ k → k < 128 → lane v k = 0#32)) ∧
      (Ready s [a] g → Next (exec (.spushB h a g) s) (pushed fun tok => ∃ v, tok = .data v ∧
        ∀ k < 128, lane v k = (s.rd a).extractLsb' 0 32)) ∧
      (Ready s [] g → Next (exec (.seos h g) s) (pushed fun tok => tok = .eos))) ∧
    (q.bind.isPush = true → 16 ≤ q.q.length → s.fencedIn = false →
      (Ready s [a, b] g → exec (.spushP h a b g) s = .next (s.stallOn (some full))) ∧
      (Ready s [a] g → exec (.spushB h a g) s = .next (s.stallOn (some full))) ∧
      (Ready s [] g → exec (.seos h g) s = .next (s.stallOn (some full)))) ∧
    (q.bind.isPush = false →
      (Ready s [a, b] g → exec (.spushP h a b g) s = .next (takeTrap s (trapOf 0x06 0x01))) ∧
      (Ready s [a] g → exec (.spushB h a g) s = .next (takeTrap s (trapOf 0x06 0x01))) ∧
      (Ready s [] g → exec (.seos h g) s = .next (takeTrap s (trapOf 0x06 0x01))))

/-- `spop` and `spop.k` (R164, R188, R189, R194). On a pop handle whose oldest token is a data token, both read its lane
pair xq[5:0] into xd and write 1 to pd; on EOS they write 0 and 0; `spop` takes the token away, `spop.k` leaves it.
With nothing to read they stall, registered as a QUEUE wait of code 1. -/
def Obligations.StreamPops : Prop :=
  ∀ (s : State) (n : Nat) (i : Inst) (q : Handle) (h : BitVec 4) (d x : BitVec 5) (p g : BitVec 3),
    s.cur = .ctl n → s.instOn n = some i → i.handles[h.toNat]? = some q → q.bind.isPop = true → Ready s [d, x] g →
    let pair := (s.rd x).toNat % 64
    let read (v : W64) (b : Bool) (left : Handle) (t : State) : Prop :=
      t.rd d = (if d = 0#5 then 0#64 else v) ∧ t.pr p = (if p = 0#3 then true else b) ∧
      (∀ r, r ≠ d → t.rd r = s.rd r) ∧ (∀ k, k ≠ p → t.pr k = s.pr k) ∧ t.pc = s.pc + 4#64 ∧
      (∀ k, memRead t.mem k = memRead s.mem k) ∧ ∃ j, t.instOn n = some j ∧ j.handles[h.toNat]? = some left ∧
        ∀ k, k ≠ h.toNat → j.handles[k]? = i.handles[k]?
    let wide (v : Strip) : W64 := (lane v (2 * pair)).setWidth 64 ||| ((lane v (2 * pair + 1)).setWidth 64 <<< 32)
    (∀ v : Strip, q.oldest = some (.data v) →
      Next (exec (.spop h d x p g) s) (read (wide v) true q.popped) ∧ Next (exec (.spopK h d x p g) s) (read (wide v) true q)) ∧
    (q.oldest = some .eos →
      Next (exec (.spop h d x p g) s) (read 0#64 false q.popped) ∧ Next (exec (.spopK h d x p g) s) (read 0#64 false q)) ∧
    (q.oldest = none →
      exec (.spop h d x p g) s = .next (s.stallOn (some ⟨4, i.serial % 2 ^ 32 + h.toNat * 2 ^ 32 + 2 ^ 36, none⟩)) ∧
      exec (.spopK h d x p g) s = .next (s.stallOn (some ⟨4, i.serial % 2 ^ 32 + h.toNat * 2 ^ 32 + 2 ^ 36, none⟩)))

/-- `sbound`, `cfg`, `go` and `drain` (R25, R195, R196, R197, R198). With no posted store outstanding that a fence
orders before the word (and for a `go` that starts a phase, none of the thread at all): `sbound` of a bound that is
not accepted writes 0 to pd and sends nothing; one that is accepted, with a free place, writes 1, and waits with the
folio when its counter is not placed, or enters the counter's queue. `cfg` names a folio below NFOLIO once, and
`cfg.pin` with its slot where that is legal; a folio id not below NFOLIO traps BOUND, FOLIO. `go` behind a running
phase stalls; a failed check writes its status and discards the named set; otherwise it writes 0, ACTIVE is 1 and
the named set empty. `drain` completes when no phase is active, and stalls while one is. -/
def Obligations.PhaseCommands : Prop :=
  ∀ (s : State) (n : Nat) (i : Inst), s.cur = .ctl n → s.instOn n = some i →
    (∀ (a b : BitVec 5) (p g : BitVec 3), Ready s [a, b] g → s.fencedIn = false →
      (s.boundOk i (s.rd a) (s.rd b) = false → Next (exec (.sbound a b p g) s) (WritesPred s p false)) ∧
      (s.boundOk i (s.rd a) (s.rd b) = true → s.boundCount i (ctrRef (s.rd a)) < 4 →
        Next (exec (.sbound a b p g) s) fun t => t.pr p = true ∧ t.pc = s.pc + 4#64 ∧ (∀ r, t.rd r = s.rd r) ∧
          (∀ f, s.ctrUnit i.serial (ctrRef (s.rd a)) = some f → t.units = updWhere (fun x => x.key == f.key)
            (fun x => x.pushBound (ctrRef (s.rd a)).level ((s.rd b).extractLsb' 0 32)) s.units) ∧
          (s.ctrUnit i.serial (ctrRef (s.rd a)) = none → t.units = s.units ∧
            (t.instOn n).map Inst.boundWaits = some (i.boundWaits ++ [⟨(ctrRef (s.rd a)).folio, (ctrRef (s.rd a)).x,
              (ctrRef (s.rd a)).y, (ctrRef (s.rd a)).slot, (ctrRef (s.rd a)).level, (s.rd b).extractLsb' 0 32⟩])))) ∧
    (∀ (f : BitVec 8) (a : BitVec 5) (g : BitVec 3), s.fencedIn = false →
      (Ready s [] g → f.toNat < i.nfolio → Next (exec (.cfg f g) s) fun t => t.pc = s.pc + 4#64 ∧ (∀ r, t.rd r = s.rd r) ∧
        (t.instOn n).map Inst.named = some (if i.named.any (fun x => x.1 == f.toNat) then i.named else i.named ++ [(f.toNat, none)])) ∧
      (Ready s [] g → i.nfolio ≤ f.toNat → exec (.cfg f g) s = .next (takeTrap s (trapOf 0x06 0x02))) ∧
      (Ready s [a] g → f.toNat < i.nfolio → ∀ fo, s.folio i f.toNat = .ok fo →
        (legalSlot i.region fo.shape (s.rd a).toNat = true → Next (exec (.cfgPin a f g) s) fun t => t.pc = s.pc + 4#64 ∧
          (t.instOn n).map Inst.named = some (if i.named.any (fun x => x.1 == f.toNat) then i.named else i.named ++ [(f.toNat, some (s.rd a).toNat)])) ∧
        (legalSlot i.region fo.shape (s.rd a).toNat = false → exec (.cfgPin a f g) s = .next (takeTrap s (trapOf 0x06 0x03))))) ∧
    (∀ (d : BitVec 5) (g : BitVec 3), Ready s [d] g →
      (i.active = true → exec (.go d g) s = .next (s.stallOn (some ⟨0, i.serial % 2 ^ 32 + i.phaseNo % 16 * 2 ^ 32, none⟩))) ∧
      (i.active = false → s.goStatus i ≠ 0 → Next (exec (.go d g) s) fun t =>
        t.rd d = (if d = 0#5 then 0#64 else BitVec.ofNat 64 (s.goStatus i)) ∧ t.pc = s.pc + 4#64 ∧ t.units = s.units ∧
        (t.instOn n).map (fun j => (j.named, j.active, j.phaseNo)) = some ([], false, i.phaseNo)) ∧
      (i.active = false → s.goStatus i = 0 → s.postedLeft none = false → Next (exec (.go d g) s) fun t =>
        t.rd d = 0#64 ∧ t.pc = s.pc + 4#64 ∧
        (t.instOn n).map (fun j => (j.named, j.active, j.phaseNo)) = some ([], true, if i.started then i.phaseNo + 1 else 0))) ∧
    (∀ g : BitVec 3, Ready s [] g →
      (i.active = false → Next (exec (.drain g) s) (Goes s (s.pc + 4#64))) ∧
      (i.active = true → exec (.drain g) s = .next (s.stallOn (some ⟨0, i.serial % 2 ^ 32 + i.phaseNo % 16 * 2 ^ 32, none⟩))))

/-- `yieldpt` (R199, R327, R385). With no yield request pending, or while a phase is active, `yieldpt` writes 0 and has
no other effect. At user level with a request pending, no phase active, no token row of the instance in progress,
and no token of it on its way between parts, its save areas are written: the instance enters YIELDED, leaves its
region and its thread, and keeps its registers with xd = 1 and its pc behind the word; where the first of them that
fails raises a fault, a RUN instance is FAULTED with that cause (R385); that it then stays where it is and has not
gone on, and in which order its areas are written, is the model's choice (log entry 12). -/
def Obligations.YieldPoint : Prop :=
  ∀ (s : State) (n : Nat) (i : Inst) (d : BitVec 5) (g : BitVec 3), s.cur = .ctl n → s.instOn n = some i → Ready s [d] g →
    (i.yieldReq = false ∨ i.active = true → Next (exec (.yieldpt d g) s) (Writes s d 0#64)) ∧
    (i.yieldReq = true → i.active = false → s.level = 0 → s.rowsStopped i.serial = true → s.arrivedAll i.serial = true →
      s.inst? i.serial = some i → i.state = .run →
      Next (exec (.yieldpt d g) s) fun t => ∃ j, t.inst? i.serial = some j ∧
        match (s.writeAreas i (s.foliosOf i.serial)).1 with
        | none => j.state = .yielded ∧ j.region = [] ∧ j.hw = none ∧
          j.yieldReq = false ∧ j.saved ≠ none ∧ j.ctx.pc = i.ctx.pc + 4#64 ∧ j.ctx.p = i.ctx.p ∧
          ∀ r, j.ctx.rd r = if r = 0#5 then 0#64 else if r = d then 1#64 else i.ctx.rd r
        | some e => j.state = .faulted ∧ j.region = i.region ∧ j.hw = i.hw ∧ j.ctx = i.ctx ∧
          (i.fault.v = false → j.fault.cause = BitVec.ofNat 8 e.2.cause ∧ j.fault.sub = BitVec.ofNat 8 e.2.sub))

/-- `launch` and `join` (R200, R201, R202). A `launch` in a partition that is not enabled writes NOPART (the model's
choice, log entry 101). In an enabled one, a `launch` whose descriptor R201 refuses, whose header it refuses, whose
PSIZE exceeds PARAMSZ, or whose thread has 256 unjoined children writes the failure word of that check and creates
nothing. One that passes, when the next SERIAL is free, creates a child in QUEUED that is the parent's last unjoined
child, puts it in the partition queue, or in the parent's kitty when that queue is full, and writes its SERIAL; with
both full it stalls. `join` of a child that has finished writes 0 for DONE and bit 63 with the kill cause for
KILLED, and the child is joined; of a child that lives it stalls, registered as a CHILD wait; of anything else it
writes NOTCHILD. -/
def Obligations.LaunchAndJoin : Prop :=
  (∀ (s u v w : State) (n : Nat) (i : Inst) (d a : BitVec 5) (g : BitVec 3) (desc : BitVec 512) (l ps : List Byte),
    s.cur = .ctl n → u.instOn n = some i → Ready s [d, a] g → u.cur = .ctl n → v.cur = .ctl n → u.ctx? = s.ctx? → v.ctx? = s.ctx? →
    s.loadDesc (s.rd a) = .ok desc u →
    let fails (z : State) (sub : Nat) (t : State) : Prop := t.rd d = (if d = 0#5 then 0#64 else BitVec.ofNat 64 (2 ^ 63 + sub * 2 ^ 8 + 0x14)) ∧
      t.pc = s.pc + 4#64 ∧ t.insts.map Inst.serial = z.insts.map Inst.serial ∧ ∀ k, memRead t.mem k = memRead z.mem k
    let okay := fieldN desc 164 348 = 0 ∧ fieldN desc 0 64 % 512 = 0 ∧ fieldN desc 64 64 % 8 = 0 ∧ fieldN desc 128 32 ≤ 65536
    let head : BitVec 4096 := BitVec.ofNat 4096 (bytesNat l)
    ((u.part i.part).en = false → Next (exec (.launch d a g) s) (fails u 6)) ∧
    ((u.part i.part).en = true → ¬ okay → Next (exec (.launch d a g) s) (fails u 1)) ∧
    ((u.part i.part).en = true → okay → u.readSpan 8 (desc.extractLsb' 0 64) 512 = .ok l v →
      (v.headerOk { i.who with user := v.level == 0 } (desc.extractLsb' 0 64) head = false → Next (exec (.launch d a g) s) (fails v 2)) ∧
      (v.headerOk { i.who with user := v.level == 0 } (desc.extractLsb' 0 64) head = true →
        (fieldN head 128 32 < fieldN desc 128 32 → Next (exec (.launch d a g) s) (fails v 1)) ∧
        (fieldN desc 128 32 ≤ fieldN head 128 32 → 256 ≤ i.children.length → Next (exec (.launch d a g) s) (fails v 3)) ∧
        (fieldN desc 128 32 ≤ fieldN head 128 32 → i.children.length < 256 →
          (v.checkTouch { i.who with user := v.level == 0 } (desc.extractLsb' 0 64) head).readSpan 32 (desc.extractLsb' 64 64)
            (fieldN desc 128 32) = .ok ps w → w.cur = .ctl n → w.ctx? = s.ctx? → w.instOn n = some i →
          i.live = true → w.insts.any (fun j => j.serial == w.nextSerial % 2 ^ 32 && j.live) = false →
          let c := w.nextSerial % 2 ^ 32
          let made (t : State) : Prop := t.rd d = (if d = 0#5 then 0#64 else BitVec.ofNat 64 c) ∧ t.pc = s.pc + 4#64 ∧
            (t.instOn n).map Inst.children = some (i.children ++ [c]) ∧
            ∃ j, t.inst? c = some j ∧ j.state = .queued ∧ j.owner = i.owner ∧ j.part = i.part ∧ j.src.parent = some i.serial
          ((w.part i.part).queue.length < 64 → i.part < w.parts.length → Next (exec (.launch d a g) s) fun t =>
            made t ∧ (t.part i.part).queue = (w.part i.part).queue ++ [c]) ∧
          (64 ≤ (w.part i.part).queue.length → i.kitty.length < fieldN i.header 80 16 → Next (exec (.launch d a g) s) fun t =>
            made t ∧ (t.instOn n).map Inst.kitty = some (i.kitty ++ [c])) ∧
          (64 ≤ (w.part i.part).queue.length → fieldN i.header 80 16 ≤ i.kitty.length →
            exec (.launch d a g) s = .next (w.stallOn (some ⟨4, i.serial % 2 ^ 32 + 3 * 2 ^ 36, none⟩))))))) ∧
  (∀ (s : State) (n : Nat) (i c : Inst) (d a : BitVec 5) (g : BitVec 3), s.cur = .ctl n → s.instOn n = some i → Ready s [d, a] g →
    let child := (s.rd a).toNat % 2 ^ 32
    (child ∈ i.children → s.inst? child = some c →
      (c.state = .done → Next (exec (.join d a g) s) fun t => t.rd d = 0#64 ∧ (t.instOn n).map Inst.children = some (i.children.erase child) ∧ t.pc = s.pc + 4#64) ∧
      (c.state = .killed → Next (exec (.join d a g) s) fun t =>
        t.rd d = (if d = 0#5 then 0#64 else BitVec.ofNat 64 (2 ^ 63 + c.killCause % 256)) ∧
        (t.instOn n).map Inst.children = some (i.children.erase child) ∧ t.pc = s.pc + 4#64) ∧
      (c.state ≠ .done → c.state ≠ .killed → exec (.join d a g) s = .next (s.stallOn (some ⟨2, child, none⟩)))) ∧
    (child ∉ i.children → Next (exec (.join d a g) s) (Writes s d (BitVec.ofNat 64 (2 ^ 63 + 4 * 2 ^ 8 + 0x14)))))

/-- The engine and token-unit commands (R189, R203, R204, R205, R206, R323). A command on a handle bound to its engine
(for the token units, to any engine), whose descriptor reads without a trap and whose stream has a free response
place, adds one request with that descriptor, tag, ORD flag and member at the end of the stream, in the active phase
or in none, and completes; with 32 requests on the stream it stalls, registered as a QUEUE wait of code 2; on
another handle it traps BOUND, subcause 1. -/
def Obligations.EngineCommands : Prop :=
  ∀ (s u : State) (n : Nat) (i : Inst) (q : Handle) (h : BitVec 4) (a b : BitVec 5) (o : BitVec 1) (g : BitVec 3) (desc : BitVec 512),
    s.cur = .ctl n → s.instOn n = some i → u.inst? i.serial = some i → u.instOn n = some i → u.cur = .ctl n → u.ctx? = s.ctx? →
    i.handles[h.toNat]? = some q → Ready s [a, b] g → s.loadDesc (s.rd a) = .ok desc u →
    let issued (m : Nat) (t : State) : Prop := (∃ j, t.instOn n = some j ∧ j.handles[h.toNat]? =
        some { q with reqs := q.reqs ++ [Request.new u.nextId m desc (s.rd b) (o == 1#1) false i.active] }) ∧
      t.pc = s.pc + 4#64 ∧ (∀ r, t.rd r = s.rd r) ∧ (∀ k, memRead t.mem k = memRead u.mem k) ∧ t.nextId = u.nextId + 1
    let engines : List (Nat × Instr) := [(0, .copy h a b o g), (1, .gather h a b o g), (2, .scatter h a b o g), (3, .fill h a b o g),
      (4, .coll h a b o g), (5, .zsend h a b o g), (6, .zrecv h a b o g)]
    let tokens : List (Nat × Instr) := [(7, .samp h a b o g), (8, .gram h a b o g), (9, .accept h a b o g), (10, .commit h a b o g)]
    (∀ e ∈ engines,
      (q.bind = .engine e.1 → q.reqs.length < 32 → Next (exec e.2 s) (issued e.1)) ∧
      (q.bind = .engine e.1 → 32 ≤ q.reqs.length →
        exec e.2 s = .next (u.stallOn (some ⟨4, i.serial % 2 ^ 32 + h.toNat * 2 ^ 32 + 2 * 2 ^ 36, none⟩))) ∧
      (q.bind ≠ .engine e.1 → exec e.2 s = .next (takeTrap s (trapOf 0x06 0x01)))) ∧
    (∀ e ∈ tokens,
      (∀ k, q.bind = .engine k → q.reqs.length < 32 → Next (exec e.2 s) (issued e.1)) ∧
      (∀ k, q.bind = .engine k → 32 ≤ q.reqs.length →
        exec e.2 s = .next (u.stallOn (some ⟨4, i.serial % 2 ^ 32 + h.toNat * 2 ^ 32 + 2 * 2 ^ 36, none⟩))) ∧
      ((∀ k, q.bind ≠ .engine k) → exec e.2 s = .next (takeTrap s (trapOf 0x06 0x01))))

/-- `abind` and `aunbind` (R290, R291, R292, R293). `abind` answers ACTIVE during a phase, DESC on a malformed
descriptor, PORT on a folio that the image does not have, binding nothing; when every check passes and the quire's
pipeline is free it answers OK and the pipeline is bound. `aunbind` answers ACTIVE, DESC and NOBIND as R293 orders
them, and otherwise OK, the binding gone. -/
def Obligations.AttentionBinding : Prop :=
  (∀ (s u : State) (n : Nat) (i : Inst) (d a : BitVec 5) (g : BitVec 3) (desc : BitVec 512), s.cur = .ctl n → u.cur = .ctl n →
    u.ctx? = s.ctx? → u.instOn n = some i → Ready s [d, a] g → s.loadDesc (s.rd a) = .ok desc u →
    (i.active = true → Next (exec (.abind d a g) s) (Writes u d 0x3F0302#64)) ∧
    (i.active = false → bdOk i desc = false → Next (exec (.abind d a g) s) (Writes u d 0x3F0303#64)) ∧
    (i.active = false → bdOk i desc = true → i.nfolio ≤ bdFolio desc → Next (exec (.abind d a g) s) (Writes u d 0x3F0304#64)) ∧
    (∀ (f : Folio) (rs : List (Nat × StageRec)) (b : Nat × StageRec), i.active = false → bdOk i desc = true → bdFolio desc < i.nfolio →
      u.folio i (bdFolio desc) = .ok f → bdPort i desc f = true →
      (∀ x ∈ u.attns, x.q ≠ ((i.region[bdRslot desc]?).map Prod.fst).getD 0) →
      (∀ r ∈ u.residents, r.borrows (((i.region[bdRslot desc]?).map Prod.fst).getD 0) = false) → u.bindStages i desc = .ok rs → bindCheck rs = none → rs.find? (fun r => r.1 == 2) = some b →
      Next (exec (.abind d a g) s) fun t => t.rd d = (if d = 0#5 then 0#64 else 0x3F0300#64) ∧ t.pc = s.pc + 4#64 ∧
        (t.attns.map fun x => (x.serial, x.folio, x.qport, x.oport)) = (u.attns.map fun x => (x.serial, x.folio, x.qport, x.oport)) ++
          [(i.serial, bdFolio desc, bdQport desc, bdOport desc)] ∧
        (t.instOn n).map (fun j => j.bindings.map Binding.desc) = some (i.bindings.map Binding.desc ++ [desc]))) ∧
  (∀ (s : State) (n : Nat) (i : Inst) (d a : BitVec 5) (g : BitVec 3), s.cur = .ctl n → s.instOn n = some i → Ready s [d, a] g →
    let bound := i.bindings.any fun b => b.rslot == (s.rd a).toNat % 128
    (i.active = true → Next (exec (.aunbind d a g) s) (Writes s d 0x3F0302#64)) ∧
    (i.active = false → 128 ≤ (s.rd a).toNat → Next (exec (.aunbind d a g) s) (Writes s d 0x3F0303#64)) ∧
    (i.active = false → (s.rd a).toNat < 128 → bound = false → Next (exec (.aunbind d a g) s) (Writes s d 0x3F030B#64)) ∧
    (i.active = false → (s.rd a).toNat < 128 → bound = true → Next (exec (.aunbind d a g) s) fun t =>
      t.rd d = (if d = 0#5 then 0#64 else 0x3F0300#64) ∧
      t.attns = s.attns.filter (fun x => !(x.serial == i.serial && x.bind.rslot == (s.rd a).toNat)) ∧
      (t.instOn n).map Inst.bindings = some (i.bindings.filter fun b => b.rslot != (s.rd a).toNat)))

/-- Elements fire on whole operands, and what the floating members give (R31, R32, R64, R235, R236, R237, R238, R241,
R242, R243, R244, R246). An element in its turn fires exactly when every source it names holds a data token (or is
the immediate, or unused) and its output slot is free: it takes one token from every latch it reads, places the
result of its operation in its output slot for every route, and advances its lane generator only under stochastic
rounding; otherwise nothing changes, so a half-matched operand waits. Everything else, memory included, is as
before. The result value by value: `fadd`, `fsub`, `fmul`, `fma` and `fnma` are the exact result rounded once in the
mode; `fmin`, `fmax`, `fabs`, `fneg` and the estimates of R70; `fcmp` is a value mask and `fclass` a one-hot class;
`fcvt`, `pack`, `unpack`, `quant` and `dequant` convert, narrow, widen, code and decode the values that PART names
and copy the others from B; `lred` reduces by the tree of COUNT and `scan` writes the prefixes. (The read of an
integer `pack` with SAT and U as unsigned is the model's choice, log entry 108.) -/
def Obligations.ElementFirings : Prop :=
  (∀ (s : State) (u : UKey) (f : FabUnit), ∀ e ∈ elements, Turn s u e.1 f →
    (∀ a b c, f.operand f.srcA = some a → f.operand f.srcB = some b → f.operand f.srcC = some c → f.outFree 0 = true →
      Next (exec (e.2 u) s) (Fires s f f.reads
        [(0, .data (ElemIn.result ⟨e.1, f.ty, f.mode, f.aux, a, b, c, s.chanOf f, laneRandom f.seed f.gen⟩))]
        { f with gen := if f.mode = 4 then (f.gen + 1) % 2 ^ 22 else f.gen })) ∧
    (f.operand f.srcA = none ∨ f.operand f.srcB = none ∨ f.operand f.srcC = none ∨ f.outFree 0 = false →
      exec (e.2 u) s = .next s)) ∧
  (∀ (i : ElemIn) (k : Nat), i.ty ≤ 2 → k < 4096 / laneBits i.ty →
    let w := laneBits i.ty
    let f := laneFmt i.ty
    let x := f.decode (stripVal i.a w k)
    let y := f.decode (stripVal i.b w k)
    let z := f.decode (stripVal i.c w k)
    let once (mode : Nat) (e : Fp) : Nat := f.narrow mode false 0 e % 2 ^ w
    let estimate (v : W32) : Nat := if i.ty = 0 then v.toNat else once 0 (f32Val v)
    let r (op : Nat) : Nat := stripVal (ElemIn.result { i with op := op }) w k
    (r 0x01 = once i.mode (x.add i.mode y) ∧ r 0x02 = once i.mode (x.add i.mode y.neg) ∧ r 0x03 = once i.mode (x.mul y) ∧
      r 0x04 = once i.mode ((x.mul y).add i.mode z) ∧ r 0x05 = once i.mode (z.add i.mode (x.mul y).neg)) ∧
    (r 0x06 = once i.mode (x.minNum y) ∧ r 0x07 = once i.mode (x.maxNum y) ∧ r 0x08 = once i.mode x.abs ∧ r 0x09 = once i.mode x.neg) ∧
    (r 0x0B = estimate (frcpOf x) ∧ r 0x0C = estimate (frsqOf x) ∧ r 0x0D = estimate (fexp2Of x) ∧ r 0x0E = estimate (flog2Of x)) ∧
    (x = .nan → r 0x10 = 256) ∧ (∀ s, x = .inf s → r 0x10 = if s then 1 else 128) ∧
    (∀ s m, x = .fin s m → r 0x10 = if m.n = 0 then (if s then 8 else 16) else if m.n < 2 ^ f.mb then (if s then 4 else 32)
      else if s then 2 else 64) ∧
    (∀ b < 32, (lane (ElemIn.result { i with op := 0x0A }) (k / (32 / w))).getLsbD b =
      if b < 32 / w then (f.decode (stripVal i.a w (k / (32 / w) * (32 / w) + b))).rel (i.aux % 8)
        (f.decode (stripVal i.b w (k / (32 / w) * (32 / w) + b))) else false)) ∧
  (∀ (i : ElemIn) (k : Nat), k < 4096 / laneBits i.ty → i.op = 0x0F → laneBits (i.aux % 16) = laneBits i.ty →
    let d := i.aux % 16
    let w := laneBits d
    let v := stripVal i.a w k
    let sat : Bool := i.aux / 2 ^ 7 % 2 == 1
    let u : Bool := i.aux / 2 ^ 8 % 2 == 1
    let r := stripVal (ElemIn.result i) w k
    (i.ty ≤ 5 → d ≤ 5 → r = (laneFmt d).narrow i.mode sat (i.rnd k) ((laneFmt i.ty).decode v) % 2 ^ w) ∧
    (i.ty ≤ 5 → 5 < d → r = toInteger w u i.mode (i.rnd k) ((laneFmt i.ty).decode v) % 2 ^ w) ∧
    (5 < i.ty → d ≤ 5 → r = (laneFmt d).narrow i.mode sat (i.rnd k) (ofInteger w u v) % 2 ^ w)) ∧
  (∀ (i : ElemIn) (v : Nat),
    let d := i.aux % 16
    let p := i.aux / 2 ^ 4 % 8
    let w := laneBits i.ty
    let wd := laneBits d
    let signed (x : Nat) : Int := if i.mode / 2 % 2 = 1 then x else signedN w x
    v < 4096 / wd →
    (i.op = 0x63 →
      let x := stripVal i.a w (v - p * (4096 / w))
      let r := stripVal (ElemIn.result i) wd v
      (v < p * (4096 / w) ∨ (p + 1) * (4096 / w) ≤ v → r = stripVal i.b wd v) ∧
      (p * (4096 / w) ≤ v → v < (p + 1) * (4096 / w) →
        (i.ty ≤ 5 → d ≤ 5 → r = (laneFmt d).narrow i.mode (i.aux / 2 ^ 7 % 2 == 1) (i.rnd v) ((laneFmt i.ty).decode x) % 2 ^ wd) ∧
        (5 < i.ty → i.mode % 2 = 0 → r = x % 2 ^ wd) ∧
        (5 < i.ty → i.mode % 2 = 1 → (r : Int) = (if i.mode / 2 % 2 = 1 then clampTo 0 (2 ^ wd - 1) (signed x)
          else clampTo (-2 ^ (wd - 1)) (2 ^ (wd - 1) - 1) (signed x)) % 2 ^ wd))) ∧
    (i.op = 0x64 →
      let x := stripVal i.a w (v + p * (4096 / wd))
      let r := stripVal (ElemIn.result i) wd v
      (i.ty ≤ 5 → r = (laneFmt d).narrow 0 false 0 ((laneFmt i.ty).decode x) % 2 ^ wd) ∧
      (5 < i.ty → (r : Int) = signed x % 2 ^ wd))) ∧
  (∀ (i : ElemIn) (v : Nat),
    let c := i.chan (i.aux % 32)
    let p := i.aux / 2 ^ 6 % 128
    let w := (codeFmt c.code).w
    let block (b : Nat) : List Fp := (List.range 32).map fun j => f32Val (lane i.a (32 * b + j))
    let plain : Fp := if c.code = 10 ∨ c.code = 11 then c.sc else .fin false (.dyadic 1 0)
    (i.op = 0x65 → i.aux / 2 ^ 5 % 2 = 0 → v < stripCount w → stripVal (ElemIn.result i) w v =
      if 128 * p ≤ v ∧ v < 128 * p + 128 then
        (quantise (codeFmt c.code) (if isMx c.code then pow2Fp (blockExp c.code (block ((v - 128 * p) / 32))) else plain) c.ct i.mode
          (i.rnd v) (f32Val (lane i.a (v - 128 * p)))).code % 2 ^ w
      else stripVal i.b w v) ∧
    (i.op = 0x65 → i.aux / 2 ^ 5 % 2 = 1 → v < 512 → stripVal (ElemIn.result i) 8 v =
      if 4 * p ≤ v ∧ v < 4 * p + 4 then blockScale c.code (block (v - 4 * p)) % 256 else stripVal i.b 8 v) ∧
    (i.op = 0x66 → v < 128 → lane (ElemIn.result i) v = roundF32 0 (rungValue (codeFmt c.code)
      (if isMx c.code then scaleVal (stripVal i.b 8 (4 * p + v / 32)) else plain) c.ct (stripVal i.a w (128 * p + v))))) ∧
  (∀ (i : ElemIn) (k : Nat),
    let w := laneBits i.ty
    let f := laneFmt i.ty
    let count := i.aux / 2 ^ 8 % 1024 + 1
    let rop := i.aux % 4
    let signed (x : Nat) : Int := if i.mode / 2 % 2 = 1 then x else signedN w x
    let value (j : Nat) : Nat := if i.ty ≤ 5 then fp32.narrow 0 false 0 (f.decode (stripVal i.a w j)) else stripVal i.a w j
    let op (x y : Nat) : Nat :=
      if i.ty ≤ 5 then
        (if rop = 0 then fp32.narrow i.mode false 0 ((fp32.decode x).add i.mode (fp32.decode y))
        else if rop = 1 then fp32.narrow 0 false 0 ((fp32.decode x).maxNum (fp32.decode y))
        else fp32.narrow 0 false 0 ((fp32.decode x).minNum (fp32.decode y)))
      else if rop = 0 then intResult w (i.mode % 2 == 1) (i.mode / 2 % 2 == 1) (signed x + signed y)
      else if (signed x ≤ signed y ↔ rop = 1) then y else x
    let out (x : Nat) : Nat := (if i.ty ≤ 5 ∧ i.ty ≠ 0 then f.narrow i.mode false 0 (fp32.decode x) else x) % 2 ^ w
    k < 4096 / w → count ≤ 4096 / w →
    (i.op = 0x67 → ∃ levels : Nat → List Nat, levels 0 = (List.range count).map value ∧
      (∀ n j, (levels (n + 1))[j]? = match (levels n)[2 * j]?, (levels n)[2 * j + 1]? with
        | some x, some y => some (op x y)
        | x, _ => x) ∧
      (levels 10).length = 1 ∧ some (stripVal (ElemIn.result i) w k) = ((levels 10)[0]?).map out) ∧
    (i.op = 0x68 → ∃ y : Nat → Nat, y 0 = value 0 ∧ (∀ n, y (n + 1) = op (y n) (value (n + 1))) ∧
      stripVal (ElemIn.result i) w k = if k < count then out (y k) else 0))

/-- The i32 lanes of the integer and lane-movement members (R62, R71, R239, R240, R245). With lane type i32 and no flag,
lane by lane: `iadd`, `isub` and `imul` wrap; with SAT they clamp to the signed range, with SAT and U to the
unsigned range (that they then read their operands as unsigned is the model's choice, log entry 108); the bitwise
members; shifts by B mod 32; `imin`, `imax` signed, unsigned with U; `iclz` counts the leading zeros (32 for 0) and
`ipopc` the one bits; `icmp` gives bit 0 of the lane by the relation; `bcast`, `perm`, `lrot`, `iota` and `lsel`
move lanes. -/
def Obligations.IntegerLanes : Prop :=
  ∀ (i : ElemIn) (k : Nat), i.ty = 6 → k < 128 →
    let r (op mode : Nat) : W32 := lane (ElemIn.result { i with op := op, mode := mode }) k
    let x := lane i.a k
    let y := lane i.b k
    (r 0x40 0 = x + y ∧ r 0x41 0 = x - y ∧ r 0x42 0 = x * y) ∧
    ((r 0x40 1).toInt = clampTo (-2 ^ 31) (2 ^ 31 - 1) (x.toInt + y.toInt) ∧
      (r 0x41 1).toInt = clampTo (-2 ^ 31) (2 ^ 31 - 1) (x.toInt - y.toInt) ∧
      (r 0x42 1).toInt = clampTo (-2 ^ 31) (2 ^ 31 - 1) (x.toInt * y.toInt)) ∧
    (((r 0x40 3).toNat : Int) = clampTo 0 (2 ^ 32 - 1) (x.toNat + y.toNat) ∧
      ((r 0x41 3).toNat : Int) = clampTo 0 (2 ^ 32 - 1) (x.toNat - y.toNat) ∧
      ((r 0x42 3).toNat : Int) = clampTo 0 (2 ^ 32 - 1) (x.toNat * y.toNat)) ∧
    (r 0x43 0 = x &&& y ∧ r 0x44 0 = x ||| y ∧ r 0x45 0 = x ^^^ y) ∧
    (r 0x46 0 = x <<< (y.toNat % 32) ∧ r 0x47 0 = x >>> (y.toNat % 32) ∧ r 0x48 0 = x.sshiftRight (y.toNat % 32)) ∧
    (r 0x49 0 = (if y.slt x then y else x) ∧ r 0x4A 0 = (if x.slt y then y else x) ∧
      r 0x49 2 = (if y < x then y else x) ∧ r 0x4A 2 = (if x < y then y else x)) ∧
    (x = 0#32 → r 0x4C 0 = 32#32) ∧ (∀ n < 32, (∀ m < 32, n < m → x.getLsbD m = false) → x.getLsbD n = true → r 0x4C 0 = BitVec.ofNat 32 (31 - n)) ∧
    r 0x4D 0 = BitVec.ofNat 32 ((List.range 32).countP x.getLsbD) ∧
    (∀ mode, mode = 0 ∨ mode = 2 →
      let lt : Bool := if mode = 0 then x.slt y else x.ult y
      let rel (n : Nat) : Option Bool := [x == y, x != y, lt, lt || x == y, !lt && x != y, !lt][n]?
      ∀ b, rel (i.aux % 8) = some b → r 0x4B mode = if b then 1#32 else 0#32) ∧
    r 0x60 0 = lane i.a (i.aux % 128) ∧ r 0x61 0 = lane i.a (y.toNat % 128) ∧ r 0x62 0 = lane i.a ((k + i.aux % 128) % 128) ∧
    r 0x69 0 = (BitVec.ofNat 12 i.aux).signExtend 32 + BitVec.ofNat 32 k * (BitVec.ofNat 12 (i.aux / 2 ^ 12)).signExtend 32 ∧
    r 0x6A 0 = if x.getLsbD 0 then y else lane i.c k

/-- Router nodes fire (R34, R35, R37, R248, R249, R250, R251). `steer` sends its data token to output 0 for predicate 1
and output 1 for 0; `merge` takes the token that its predicate selects and leaves the other; `gate` passes its data
token on a control token that qualifies and takes away one that does not; `const` sends its constant on each
trigger, or free, as often as its count says and then ends; `ord` passes its data token with an ordering token;
`delay` sends its last stage and takes one token. A `carry` prefers a back token with its predicate: to body, or to
a retire slot; else it admits an initial token while fewer than P are inside; finished tokens leave in the order of
admission. -/
def Obligations.RouterFirings : Prop :=
  ∀ (s : State) (u : UKey) (f : FabUnit),
    (Turn s u 0x80 f → ∀ p v, f.strip? 0 = some p → f.strip? 1 = some v →
      let out := if p.getLsbD 0 then 0 else 1
      (f.outFree out = true → Next (exec (.steer u) s) (Fires s f [0, 1] [(out, .data v)] f)) ∧
      (f.outFree out = false → exec (.steer u) s = .next s)) ∧
    (Turn s u 0x81 f → ∀ p v, f.strip? 0 = some p → f.outFree 0 = true →
      let k := if p.getLsbD 0 then 2 else 1
      (f.strip? k = some v → Next (exec (.merge u) s) (Fires s f [0, k] [(0, .data v)] f)) ∧
      (f.strip? k = none → exec (.merge u) s = .next s)) ∧
    (Turn s u 0x83 f → f.ended = false → ∀ c v, f.latch 1 = some c → c ≠ .eos →
      (c.qualifies (f.auxBits 0 3) = true → f.strip? 0 = some v → f.outFree 0 = true →
        Next (exec (.gate u) s) (Fires s f [0, 1] [(0, .data v)] f)) ∧
      (c.qualifies (f.auxBits 0 3) = false → Next (exec (.gate u) s) (Fires s f [1] [] f))) ∧
    (Turn s u 0x84 f → ∀ v n, f.st = .const v n → f.outFree 0 = true →
      (f.auxBits 0 1 = 0 → (f.strip? 0).isSome = true → Next (exec (.const u) s) (Fires s f [0] [(0, .data v)] f)) ∧
      (f.auxBits 0 1 = 1 → f.ended = false → 0 < n →
        Next (exec (.const u) s) (Fires s f [] [(0, .data v)] { f with st := .const v (n - 1) })) ∧
      (f.auxBits 0 1 = 1 → f.ended = false → n = 0 → Next (exec (.const u) s) (Fires s f [] [(0, .eos)] { f with ended := true }))) ∧
    (Turn s u 0x86 f → ∀ v w, f.strip? 0 = some v → f.strip? 1 = some w → f.outFree 0 = true →
      Next (exec (.ord u) s) (Fires s f [0, 1] [(0, .data v)] f)) ∧
    (Turn s u 0x85 f → ∀ x l, f.st = .delay (.data x :: l) → l.length ≤ f.auxBits 0 4 →
      (∀ v, f.outFree 0 = true → f.strip? 0 = some v →
        Next (exec (.delay u) s) (Fires s f [0] [(0, .data x)] { f with st := .delay (l ++ [.data v]) })) ∧
      (f.outFree 0 = true → f.latch 0 = none → Next (exec (.delay u) s) (Fires s f [] [(0, .data x)] { f with st := .delay l })) ∧
      (f.outFree 0 = false → f.latch 0 = none → Next (exec (.delay u) s) (Fires s f [] [] f))) ∧
    (Turn s u 0x82 f → ∀ loop retired nextId nextExit a b, f.st = .carry loop retired nextId nextExit a b →
      (∀ tok, retired.find? (fun e => e.1 == nextExit) = some (nextExit, tok) → f.outFree 1 = true →
        (∀ k, f.strip? k = none) → Next (exec (.carry u) s) (Fires s f [] [(1, tok)]
          { f with st := .carry loop (retired.filter fun e => e.1 != nextExit) nextId (nextExit + 1) a b })) ∧
      (retired.find? (fun e => e.1 == nextExit) = none →
        (∀ v p k ks, f.strip? 1 = some v → f.strip? 2 = some p → loop = k :: ks →
          (p.getLsbD 0 = true → f.outFree 0 = true → Next (exec (.carry u) s) (Fires s f [1, 2] [(0, .data v)]
            { f with st := .carry (ks ++ [k]) retired nextId nextExit a b })) ∧
          (p.getLsbD 0 = true → f.outFree 0 = false → exec (.carry u) s = .next s) ∧
          (p.getLsbD 0 = false → retired.length ≤ f.auxBits 0 4 → Next (exec (.carry u) s) (Fires s f [1, 2] []
            { f with st := .carry ks (retired ++ [(k, .data v)]) nextId nextExit a b }))) ∧
        (∀ v, f.strip? 1 = none ∨ f.strip? 2 = none → f.strip? 0 = some v → loop.length ≤ f.auxBits 0 4 → f.outFree 0 = true →
          Next (exec (.carry u) s) (Fires s f [0] [(0, .data v)]
            { f with st := .carry (loop ++ [nextId]) retired (nextId + 1) nextExit a b }))))

/-- EOS and bubbles at elements and routers (R33, R36, R44). When EOS stands in every input, a unit of whose inputs no
delay line feeds one, and that has not ended, takes it, sends EOS on each of its data outputs and has ended: an
element, `steer` to both outputs, `merge` on all three, `ord`, a triggered `const`, and a `gate` whose control input
is EOS too or is fed by the control network. At an element, `steer`, `merge`, `ord` or a `gate` (whose data a delay
line feeds), EOS in the inputs that no delay line feeds does it. A `carry` sends EOS to body when EOS holds init and
no token is inside, and to exit when its retire slots are empty. A bubble in a latch is discarded and nothing else
changes. -/
def Obligations.StreamEnds : Prop :=
  ∀ (s : State) (u : UKey) (f : FabUnit),
    (∀ op, Turn s u op f → f.ended = false →
      let ends (ks ps : List Nat) : Prop :=
        (∀ k ∈ ks, s.fedByDelay u k = false) → (∀ k ∈ ks, f.latch k = some .eos) → (∀ p ∈ ps, f.outFree p = true) →
        Next (exec (.eosForward u) s) (Fires s f ks (ps.map fun p => (p, .eos)) { f with ended := true })
      let late (ks ps : List Nat) : Prop := op ≠ 0x85 → (∃ k ∈ ks, s.fedByDelay u k = false) →
        (∀ k ∈ ks, s.fedByDelay u k = false → f.latch k = some .eos) → (∀ p ∈ ps, f.outFree p = true) →
        Next (exec (.eosForward u) s) fun t => ∃ g, t.unit? u = some g ∧ g.ended = true ∧ (∀ k ∈ ks, g.latch k = none) ∧
          (∀ p ∈ ps, p < f.outs.length → g.slot p = slotWith s f p .eos) ∧ t.mem = s.mem
      (op < 0x80 → late f.reads [0]) ∧ (op = 0x80 → late [0, 1] [0, 1]) ∧ (op = 0x81 → late [0, 1, 2] [0]) ∧
      (op = 0x86 → late [0, 1] [0]) ∧ (op = 0x83 → s.fedByDelay u 0 = true → late [0, 1] [0]) ∧
      (op < 0x80 → ends f.reads [0]) ∧
      (op = 0x80 → ends [0, 1] [0, 1]) ∧ (op = 0x81 → ends [0, 1, 2] [0]) ∧ (op = 0x86 → ends [0, 1] [0]) ∧
      (op = 0x84 → f.auxBits 0 1 = 0 → ends [0] [0]) ∧ (op = 0x83 → ends [0, 1] [0]) ∧
      (op = 0x83 → s.fedByControl u 1 = true → s.fedByDelay u 0 = false → f.latch 0 = some .eos → f.outFree 0 = true →
        Next (exec (.eosForward u) s) (Fires s f [0, 1] [(0, .eos)] { f with ended := true })) ∧
      (op = 0x82 → ∀ loop retired n m a b, f.st = .carry loop retired n m a b →
        (a = false → f.latch 0 = some .eos → loop = [] → f.outFree 0 = true → Next (exec (.eosForward u) s)
          (Fires s f [] [(0, .eos)] { f with st := .carry loop retired n m true b })) ∧
        (a = false → loop ≠ [] → exec (.eosForward u) s = .next s) ∧
        (a = true → b = false → retired = [] → f.outFree 1 = true → Next (exec (.eosForward u) s)
          (Fires s f [] [(1, .eos)] { f with st := .carry loop retired n m true true })) ∧
        (a = true → b = true → f.latch 1 = some .eos → f.latch 2 = some .eos → Next (exec (.eosForward u) s)
          (Fires s f [0, 1, 2] [] { f with ended := true })))) ∧
    (∀ k, s.unit? u = some f → f.latch k = some .bubble → Next (exec (.bubbleDiscard u k) s) (Fires s f [k] [] f))

/-- `TOKEN_HOP` (R31, R36, R49, R149, R255, R389, R397). A token moves one hop of its route when the place it comes to
is free: a link buffer of two, or an empty latch that no cut has closed; it leaves the place it stood in, and an
output slot is free when its last route has taken its token. A full buffer or latch holds it where it is. A token
whose arrival puts a stream mismatch into the latches makes the unit fault with ELEM, EOSMIS, which the record names
with the unit. Memory is as before. (That each route has two places of its own at each hop is the model's reading of
R31, log entry 39; what counts as a mismatch at a carry, its reading of R36, log entry 42.) -/
def Obligations.TokenHops : Prop :=
  ∀ (s : State) (n k : Nat) (r : Route) (tok : Token), s.routes.find? (fun r => r.id == n) = some r → s.loopToken r k = none →
    (∀ m, r.mark = some m → m < k) → s.hopToken r k = some tok →
    let leaves (t : State) : Prop := t.mem = s.mem ∧
      (∀ v io, k = 0 → r.src = .unit v io → ∀ g, s.unit? v = some g → r.pout < g.outs.length →
        (t.unit? v).map (fun x => x.slot r.pout) = some ((g.slot r.pout).took n)) ∧
      (0 < k → ((t.routes.find? fun r => r.id == n).bind fun a => a.hops[k - 1]?) = (r.hops[k - 1]?).map (List.drop 1)) ∧
      ∀ id, id ≠ n → t.routes.find? (fun r => r.id == id) = s.routes.find? fun r => r.id == id
    (∀ l, r.hops[k]? = some l →
      (l.length < 2 → Next (exec (.tokenHop n k) s) fun t => leaves t ∧
        ((t.routes.find? fun r => r.id == n).bind fun a => a.hops[k]?) = some (l ++ [tok])) ∧
      (2 ≤ l.length → exec (.tokenHop n k) s = .next s)) ∧
    (∀ u i f, r.hops.length = k → r.dst = .unit u i → s.unit? u = some f → f.cut[i]? = some false → f.left = false → i < f.ins.length →
      let wrong := !f.dead && s.mismatch { f with ins := updAt f.ins i fun _ => some tok }
      (f.latch i = none → Next (exec (.tokenHop n k) s) fun t => leaves t ∧
        (t.unit? u).map (fun g => (g.latch i, g.dead)) = some (some tok, f.dead || wrong) ∧
        (wrong = true → Faults s f 0x07 0x01 t)) ∧
      ((f.latch i).isSome = true → exec (.tokenHop n k) s = .next s))

/-- The order of a counter's index vectors (R41, R42, R43, R252). A nest of at most seven levels with no bound queued
and every index below its trip count goes through its index vectors in order, level 1 fastest: it goes on to the
vector that follows, ending as many levels as have wrapped to 0, and after the last vector the run is over and every
level has ended. A nest that starts with positive trip counts is at index 0 in every level. -/
def Obligations.CounterOrder : Prop :=
  ∀ (ts : List W32) (is : List Nat), is.length = ts.length → 0 < ts.length → ts.length ≤ 7 →
    (∀ b ∈ ts, 0 < b.toNat) →
    ((∀ j (hj : j < ts.length), ∀ i, is[j]? = some i → i < (ts[j]).toNat) →
      (mixed ts is + 1 < product ts → ∃ js rank, Nest.advance ⟨ts, is, []⟩ = (⟨ts, js, []⟩, rank, false) ∧
        js.length = ts.length ∧ mixed ts js = mixed ts is + 1 ∧ (∀ j (hj : j < ts.length), ∀ i, js[j]? = some i → i < (ts[j]).toNat) ∧
        (∀ j, j < rank → js[j]? = some 0) ∧ ∀ j, rank < j → js[j]? = is[j]?) ∧
      (mixed ts is + 1 = product ts → (Nest.advance ⟨ts, is, []⟩).2 = (ts.length, true))) ∧
    Nest.start ⟨ts, is, []⟩ = (⟨ts, List.replicate ts.length 0, []⟩, 0, false)

/-- Counters and controllers take turns (R40, R41, R42, R49, R252, R253, R453). A counter sends, in this order of
preference, an end token on its control output, the end marker of a leaf's run along the routes inside its leaf, the
index token of its present vector (only on request when it is bound) and goes on to the next, a new run, and EOS on
both outputs at the end. A controller with a permit begins a run, and so does its bound counter; in a run it sends
the first later child that R40 lets have it its permit, else it starts an iteration where R40 allows one, with a
permit on its control output and one to its first child (of a `strm`, to every child) and a request to its bound
counter, else it ends the run when no iteration is left and every child is done, of which its parent hears, or which
is the root's done; with no run and no more permits to come it sends EOS on its control output and closes its
children and its counter. Each permit carries the index vector of the iteration it is for, which a fault of that run
reports (R49; log entry 23). (Its children and its bound counter are other units, each named once.) -/
def Obligations.CounterTurns : Prop :=
  ∀ (s : State) (u : UKey) (f : FabUnit),
    (Turn s u 0x87 f → ∀ use trips idx bounds pos run ready on runs want ends marks fin,
      f.st = .ctr use trips idx bounds pos run ready on runs want ends marks fin →
      (∀ rank p l, ends = (rank, p) :: l → f.outFree 3 = true → Next (exec (.ctr u) s) (Fires s f [] [(3, .endTok rank p)]
        { f with st := .ctr use trips idx bounds pos run ready on runs want l marks fin })) ∧
      (∀ m l, ends = [] → marks = m :: l → f.outFree 0 = true →
        let ids := ((s.routesFrom u 0).filter fun r => r.endsIn (s.leafSet u)).map Route.id
        Next (exec (.ctr u) s) (Acts s s f [] [(0, if ids = [] then f.slot 0 else ⟨some (.leafEnd u m), ids⟩)]
          { f with st := .ctr use trips idx bounds pos run ready on runs want [] l fin })) ∧
      (ends = [] → marks = [] → on = true → ready = true → (use = 1 → want ≠ 0) → f.outFree 0 = true →
        let n := Nest.advance ⟨trips, idx, bounds⟩
        let nxt : NodeSt := .ctr use n.1.trips n.1.idx n.1.bounds (pos + 1) (if n.2.2 then run + 1 else run) (!n.2.2) (!n.2.2) runs
          (want - 1) (if n.2.1 = 0 then [] else [(n.2.1, pos + 1)]) (if n.2.2 ∧ use = 2 then [run] else []) fin
        Next (exec (.ctr u) s) (Fires s f []
          [(0, .data (ofLanes ((List.range 7).map (fun j => BitVec.ofNat 32 ((idx[j]?).getD 0)) ++
            [BitVec.ofNat 32 pos, BitVec.ofNat 32 (2 ^ n.2.1 - 1)])))]
          { f with st := nxt, vecs := noteIdx run idx f.vecs })) ∧
      (ends = [] → marks = [] → on = true → ready = true → use = 1 → want = 0 → exec (.ctr u) s = .next s) ∧
      (ends = [] → marks = [] → on = false → 0 < runs → use ≠ 1 → Next (exec (.ctr u) s) (Fires s f [] []
        { f with st := (NodeSt.ctr use trips idx bounds pos run ready on (runs - 1) want [] [] fin).startRun })) ∧
      (ends = [] → marks = [] → on = false → runs = 0 → fin = true → f.ended = false → f.outFree 0 = true → f.outFree 3 = true →
        Next (exec (.ctr u) s) (Fires s f [] [(0, .eos), (3, .eos)] { f with ended := true }))) ∧
    (∀ e ∈ [(0x88, Instr.seq u), (0x89, .pipe u), (0x8A, .strm u)], Turn s u e.1 f →
      (∀ k ∈ f.kids, k ≠ u) → f.kids.Nodup → (∀ c, f.bound = some c → c ≠ u ∧ c ∉ f.kids) →
      ∀ permits on iter sent dones total fin gone, f.st = .ctl permits on iter sent dones total fin gone →
      let zeros := f.kids.map fun _ => 0
      let later := (List.range sent.length).find? fun j => j != 0 && f.mayPermit iter sent dones j
      let steps : Bool := (s.iterState f iter).1 && f.mayStart iter dones
      let ended' : FabUnit := { f with st := .ctl permits false iter sent dones (total + 1) fin gone, given := f.given.drop 1, vecs := [] }
      let own : List Nat := match (f.bound.bind s.unit?).map FabUnit.st with
        | some (.ctr _ _ idx _ _ _ _ _ _ _ _ _ _) => idx
        | _ => []
      let outer : List Nat := f.given.head?.getD []
      (on = false → 0 < permits → Next (exec e.2 s) (ActsOn s f [] { f with st := .ctl (permits - 1) true 0 zeros zeros total fin gone }
        (f.bound.toList.map fun c => (c, fun g => { g with st := g.st.startRun })))) ∧
      (∀ j k, on = true → later = some j → f.kids[j]? = some k → Next (exec e.2 s) (ActsOn s f []
        { f with st := .ctl permits true iter (updAt sent j (· + 1)) dones total fin gone } [(k, permitted (f.vecOf ((sent[j]?).getD 0)))])) ∧
      (on = true → later = none → steps = true → f.outFree 3 = true → Next (exec e.2 s) (ActsOn s f [(3, .permit iter)]
        { f with st := .ctl permits true (iter + 1) (sent.mapIdx fun j n => if j = 0 ∨ e.1 = 0x8A then n + 1 else n) dones total fin gone,
                 vecs := f.vecs ++ [⟨iter, own, outer⟩] }
        (f.bound.toList.map (fun c => (c, asked)) ++ (if e.1 = 0x8A then f.kids else f.kids.take 1).map fun k => (k, permitted (own ++ outer))))) ∧
      (on = true → later = none → steps = false → (s.iterState f iter).2 = true → (∀ d ∈ dones, d = iter) →
        (∀ p, s.parentOf u = some p → s.unit? p.key = some p → Next (exec e.2 s) (ActsOn s f [] ended' [(p.key, heard u)])) ∧
        (s.parentOf u = none → fieldN f.frame 157 1 = 1 → Next (exec e.2 s)
          (Acts s (s.modInst f.serial fun i => { i with rootDone := true }) f [] [] ended'))) ∧
      (on = false → permits = 0 → fin = true → gone = false → f.outFree 3 = true →
        Next (exec e.2 s) (ActsOn s f [(3, .eos)] { f with st := .ctl 0 false iter sent dones total true true, ended := true }
          ((f.kids ++ f.bound.toList).map fun k => (k, closed)))))

/-- `ag` and `ldn` (R101, R153, R275, R276, R278, R279, R280, R281, R288, R443). An address program goes through its
index vectors level 0 fastest; `ag` sends the address token of the present vector. `ldn`, on an address token or on
its own program, sends the strip that stands at the offset in its tile (or, as a push load node, in its scratch
slice), or a held store of its own invocation over it; an address that is no multiple of 512 faults ADDR, a bank
handed on faults BANK, an uncorrectable error ECC. A bubble that is due goes first, along the routes that may take
one (R33). A node with REF keeps its units: REWIND sends the oldest unit's strips again on POUT 1, those it has not
read yet among them, as loads of the runs that read them first (and faults REFLEN on a unit that is too long; with
no unit it waits), a RESOLVE retires it after PPS of them, and EOS from the mmac retires all, faulting REFLEN on a
unit not wholly sent, also on one of which no strip has gone. -/
def Obligations.AddressAndLoads : Prop :=
  ∀ (s : State) (u : UKey) (f : FabUnit) (w : Walk) (us : List RefUnit) (r : Nat) (rs : List Nat) (q : Nat) (fin re es : Bool),
    f.st = .prog w us r rs q fin re es →
    let off := progOffset f.frame f.offBits w
    let next := progNext f.frame w
    let bubs (p : Nat) : List Nat := s.bubbleRoutes ((s.routesFrom u p).map Route.id)
    let due (p : Nat) : Bool := s.bubbleDue f.sent && !(bubs p).isEmpty
    let unit : List Nat := f.unitOffs w us
    let loads (i : Instr) (o : Nat) (ks : List Nat) (n : Walk) (last stop : Bool) : Prop :=
      let pool := s.ldPool f
      let units := if f.ref then addRef us o f.passed last else if s.feedsMatrix u then addWait us o f.passed else us
      let tokens := if f.ref || s.feedsMatrix u || !s.routed u 2 then q else q + 1
      let sends (v : Strip) : Prop := Next (exec i s) (Fires s f ks [(0, .data v)]
        { f with sent := f.sent + 1, st := .prog n units r rs tokens (fin || stop) re es })
      (s.bankGone pool f.serial f.folio (o / 512 % 16) = true → Next (exec i s) (Faults s f 0x06 0x0B)) ∧
      (s.bankGone pool f.serial f.folio (o / 512 % 16) = false → s.poisoned (pool.mem o) 512 = true → Next (exec i s) (Faults s f 0x12 0x03)) ∧
      (s.bankGone pool f.serial f.folio (o / 512 % 16) = false → s.poisoned (pool.mem o) 512 = false →
        (due 0 = true → Next (exec i s) (Acts s s f [] [(0, ⟨some .bubble, bubs 0⟩)] { f with sent := 0 })) ∧
        (due 0 = false → (∀ h ∈ s.helds, f.edge = true ∨ h.tile ≠ u.tile ∨ h.off ≠ o) →
          sends (ofBytes (memBytes s.mem (pool.mem o) 512))) ∧
        (due 0 = false → f.edge = false → ∀ l a, s.leafOf f = some l →
          (s.helds.filter fun h => h.tile == u.tile && h.serial == f.serial && h.leaf == l && h.run == f.passed && h.off == o).getLast? = some a →
          sends a.data))
    (Turn s u 0xC0 f → w.running = true → f.outFree 0 = true →
      s.mayIssue f (.tile u.tile) (progOffset f.frame 22 w) = true →
      Next (exec (.ag u) s) (Fires s f (if f.auxBits 2 1 = 1 ∧ next.running = false then [0] else [])
        [(0, .data (addressToken f.frame w))]
        { f with st := .prog next us r rs q (fin || f.auxBits 2 1 != 1 && !next.running) re es })) ∧
    (Turn s u 0xC1 f → q = 0 ∨ f.outFree 2 = false → f.outFree 0 = true →
      (f.agv = true → w.running = true → s.mayIssue f (s.ldPool f) off = true →
        loads (.ldn u) off (if f.trig ∧ next.running = false then [0] else []) next ((List.range f.ulv).all (progLast f.frame w))
          (!f.trig && !next.running)) ∧
      (f.agv = false → ∀ a, f.strip? 0 = some a →
        (offsetOf a % 512 ≠ 0 → Next (exec (.ldn u) s) (Faults s f 0x07 0x02)) ∧
        (offsetOf a % 512 = 0 → loads (.ldn u) (offsetOf a) [0] w false false))) ∧
    (Turn s u 0xC1 f → 0 < q → f.outFree 2 = true → Next (exec (.ldn u) s) (Fires s f [] [(2, .data 0#4096)]
      { f with st := .prog w us r rs (q - 1) fin re es })) ∧
    (Turn s u 0xC1 f →
      (∀ x, f.latch 1 = some (.doneTok x) → x.toNat / 2 ^ 30 = 1 → rs = [] →
        (unit = [] → exec (.ldnRewind u) s = .next s) ∧
        (unit ≠ [] → (∀ a, us.head? = some a → s.tooLong f a = false) → Next (exec (.ldnRewind u) s) (Fires s f [1] []
          { f with st := .prog w us r unit q fin re es })) ∧
        (unit ≠ [] → ∀ a, us.head? = some a → s.tooLong f a = true → Next (exec (.ldnRewind u) s) (Faults s f 0x06 0x09))) ∧
      (∀ o l, rs = o :: l → f.latch 1 = none → f.outFree 1 = true → s.loadFault f (s.ldPool f) o = none → due 1 = false →
        Next (exec (.ldnRewind u) s) (Fires s f [] [(1, .data (s.ldStrip f (resendRun us unit.length rs.length f.passed) o))]
          { f with sent := f.sent + 1, st := .prog w us r l q fin re es })) ∧
      (∀ x, f.latch 1 = some (.doneTok x) → x.toNat / 2 ^ 30 = 0 → ∀ a l, us = a :: l →
        (r + 1 < f.pps → Next (exec (.ldnResolve u) s) (Fires s f [1] [] { f with st := .prog w us (r + 1) rs q fin re es })) ∧
        (f.pps ≤ r + 1 → Next (exec (.ldnResolve u) s) (Fires s f [1] []
          { f with st := .prog w l 0 rs (if s.routed u 2 then q + a.offs.length else q) fin re es }))) ∧
      (f.ref = true → f.latch 1 = some .eos →
        ((∀ a ∈ us, a.whole = true) → (f.agv && w.running) = false → Next (exec (.ldnRefEos u) s) (Fires s f [1] []
          { f with st := .prog w [] r rs (if s.routed u 2 then q + (us.map fun a => a.offs.length).sum else q) fin true es })) ∧
        ((∃ a ∈ us, a.whole = false) ∨ (f.agv && w.running) = true → Next (exec (.ldnRefEos u) s) (Faults s f 0x06 0x09)))) ∧
    (∀ (p : Payload) (v : Walk), v.running = true → (∀ j, j < 4 → v.idx.getD j 0 < progIters p j) →
      let n (v : Walk) := v.i0 + progIters p 0 * (v.i1 + progIters p 1 * (v.i2 + progIters p 2 * v.i3))
      (n v + 1 < progTotal p → (progNext p v).running = true ∧ n (progNext p v) = n v + 1) ∧
      (n v + 1 = progTotal p → (progNext p v).running = false))

/-- `stn`, elastic buffers and `rmw` (R48, R101, R103, R210, R251, R282, R283, R284, R285). A store outside a leaf
writes its strip at its offset at once; in a leaf it is held for its invocation and memory does not change until its
done. An offset that is no multiple of 512 faults ADDR, a bank handed on BANK, a strip with no offset left STNLEN;
the 257th held store of an invocation in a bank group faults. An elastic buffer sends its oldest strip and stores a
new one in its next place while it has room; an uncorrectable error in the strip faults ECC, a bank handed on BANK.
An `rmw` is one step of the atomic its word names at its tile, and sends the old value and an ordering token. -/
def Obligations.MemoryStores : Prop :=
  ∀ (s : State) (u : UKey) (f : FabUnit),
    (∀ w us r rs q fin re es, Turn s u 0xC2 f → f.elastic = false → f.st = .prog w us r rs q fin re es → q = 0 ∨ f.outFree 2 = false →
      ∀ v, f.strip? 1 = some v →
      let stores (o : Nat) (ks : List Nat) (n : Walk) : Prop :=
        let gone := s.bankGone (.tile u.tile) f.serial f.folio (o / 512 % 16)
        (o % 512 ≠ 0 → Next (exec (.stn u) s) (Faults s f 0x07 0x02)) ∧
        (o % 512 = 0 → gone = true → Next (exec (.stn u) s) (Faults s f 0x06 0x0B)) ∧
        (o % 512 = 0 → gone = false →
          (s.leafOf f = none → Next (exec (.stn u) s) (Acts s (s.put (tileMem u.tile o) (stripBytes v)) f ks []
            { f with st := .prog n us r rs (if s.routed u 2 then q + 1 else q) fin re es })) ∧
          (∀ l, s.leafOf f = some l →
            let group := s.helds.filter fun h => h.tile == u.tile && h.off / 512 % 16 / 4 == o / 512 % 16 / 4
            let mine := group.filter fun h => h.serial == f.serial && h.leaf == l && h.run == f.passed
            let inside := ((s.routesFrom u 2).filter fun r => r.endsIn (s.leafSet l)).map Route.id
            (256 ≤ mine.length → Next (exec (.stn u) s) (Faults s f 0x06 0x05)) ∧
            (mine.length < 256 → 256 ≤ group.length → exec (.stn u) s = .next s) ∧
            (group.length < 256 → inside = [] ∨ f.outFree 2 = true → Next (exec (.stn u) s)
              (Acts s { s with helds := s.helds ++ [⟨u.tile, f.serial, l, f.passed, u, o, v⟩] } f ks
                (if inside = [] then [] else [(2, ⟨some (.data 0#4096), inside⟩)]) { f with st := .prog n us r rs q fin re es }))))
      (f.agv = true → w.running = true → s.mayIssue f (.tile u.tile) (progOffset f.frame 22 w) = true →
        stores (progOffset f.frame 22 w) [1] (progNext f.frame w)) ∧
      (f.agv = true → w.running = false → Next (exec (.stn u) s) (Faults s f 0x06 0x0A)) ∧
      (f.agv = false → ∀ a, f.strip? 0 = some a → stores (offsetOf a) [0, 1] w)) ∧
    (∀ first count e, Turn s u 0xC2 f → f.st = .ring first count e →
      let total := progTotal f.frame
      let place (k : Nat) := progOffset f.frame 22 (progNth f.frame (k % total))
      let fault (o : Nat) := s.loadFault f (.tile u.tile) o
      (∀ c b, 0 < count → f.outFree 0 = true → fault (place first) = some (c, b) →
        Next (exec (.elasticBuffer u) s) (Faults s f (BitVec.ofNat 8 c) (BitVec.ofNat 8 b))) ∧
      (0 < count → f.outFree 0 = true → fault (place first) = none → Next (exec (.elasticBuffer u) s)
        (Fires s f [] [(0, .data (ofBytes (memBytes s.mem (tileMem u.tile (place first)) 512)))]
          { f with st := .ring ((first + 1) % total) (count - 1) e })) ∧
      (count = 0 ∨ f.outFree 0 = false → count < total → ∀ v, f.strip? 1 = some v →
        s.mayIssue f (.tile u.tile) (place (first + count)) = true →
        let gone := s.bankGone (.tile u.tile) f.serial f.folio (bankOf (place (first + count)))
        (gone = true → Next (exec (.elasticBuffer u) s) (Faults s f 0x06 0x0B)) ∧
        (gone = false → Next (exec (.elasticBuffer u) s)
          (Acts s (s.put (tileMem u.tile (place (first + count))) (stripBytes v)) f [1] [] { f with st := .ring first (count + 1) e }))) ∧
      (f.outFree 0 = false → total ≤ count → Next (exec (.elasticBuffer u) s) (Fires s f [] [] f))) ∧
    (Turn s u 0xC3 f →
      let op := f.auxBits 0 4
      let n := if f.auxBits 4 1 = 1 then 8 else 4
      let three := op = 8 ∨ op = 10
      let value (v : Strip) : Nat := v.toNat % 2 ^ (8 * n)
      ∀ a b e, f.strip? 0 = some a → f.strip? 1 = some b → (if three then f.strip? 2 = some e else e = 0#4096) →
      f.outFree 0 = true → f.outFree 2 = true →
      let o := offsetOf a / n * n
      let k := tileMem u.tile o
      let ks := if three then [0, 1, 2] else [0, 1]
      let x := s.atomicAt k n op (value b) (value e)
      (s.bankGone (.tile u.tile) f.serial f.folio (o / 512 % 16) = true → Next (exec (.rmw u) s) (Faults s f 0x06 0x0B)) ∧
      (s.bankGone (.tile u.tile) f.serial f.folio (o / 512 % 16) = false → s.poisoned k n = true → Next (exec (.rmw u) s) (Faults s f 0x12 0x03)) ∧
      (s.bankGone (.tile u.tile) f.serial f.folio (o / 512 % 16) = false → s.poisoned k n = false →
        ∃ old, Next (exec (.rmw u) s) (Acts s x.2 f ks [(0, slotWith s f 0 (.data old)), (2, slotWith s f 2 (.data 0#4096))]
          { f with upds := bumpUpd f.upds f.passed }) ∧
          lane old 0 = BitVec.ofNat 32 (s.num k n) ∧ lane old 1 = (if n = 8 then BitVec.ofNat 32 (s.num k n / 2 ^ 32) else 0#32) ∧
          lane old 2 = if x.1.2 then 1#32 else 0#32))

/-- Bank tokens and `lkpool` (R47, R99, R214, R215, R286, R287, R288). A `bankpass` whose banks are all drained, and
each held or handed on before, hands on those it holds to the next configuration placed at its tile, and the token
reaches that configuration when it is placed; nothing else changes. (A folio evicted and placed again keeps its
place in that order, and is not its own next configuration: the model's reading, log entry 114.) An acquire of a
free lock token makes the subgraph its holder and sends the address on; of one held elsewhere, or that it holds
already, it waits with its operand in the latch; with 16 held, nothing happens. A release of a token that nobody
waits for frees it; of a token that the subgraph does not hold, it faults UNLOCK. -/
def Obligations.BanksAndLocks : Prop :=
  ∀ (s : State) (u : UKey) (f : FabUnit),
    (Turn s u 0xC4 f → ∀ v, f.latch 0 = some (.data v) →
      let p := s.poolOf f (f.auxBits 16 1 == 1) (f.auxBits 17 6)
      let named (b : Nat) : Bool := decide (b < 16) && f.auxBits b 1 == 1
      let gone (b : Nat) : Bool := s.bankGone p f.serial f.folio b
      ((∀ b < 16, named b = true → s.bankDrained f p b = true ∧ (s.bankHere p f.serial f.folio b = true ∨ gone b = true)) →
        Next (exec (.bankpass u) s) fun t => Acts s { s with bankToks := t.bankToks } f [0] [] f t ∧
          (∀ b, named b = true → gone b = false → t.bankTok? p f.serial b = some ⟨p, f.serial, b, s.nextConf p f.serial f.folio b, false⟩) ∧
          ∀ p' serial b, p' ≠ p ∨ serial ≠ f.serial ∨ named b = false ∨ gone b = true → t.bankTok? p' serial b = s.bankTok? p' serial b) ∧
      ((∃ b < 16, named b = true ∧ (s.bankDrained f p b = false ∨ s.bankHere p f.serial f.folio b = false ∧ gone b = false)) → exec (.bankpass u) s = .next s)) ∧
    (∀ (p : Pool) (t : TKey) (slice : Option Nat) (bank : Nat), p = (match slice with | some n => Pool.slice n | none => .tile t) →
      Next (exec (.bankTokenArrival t slice bank) s) fun z => { z with bankToks := s.bankToks } = s ∧
        ∀ p' serial b, z.bankTok? p' serial b = (s.bankTok? p' serial b).map fun a =>
          if p' = p ∧ b = bank ∧ ((s.confs.find? fun c => c.pool == p && c.serial == serial).map fun c => decide (a.pos < c.confs.length)) = some true
          then { a with given := true } else a) ∧
    (Turn s u 0xC5 f → ∀ held since, f.st = .lk held since →
      let idx (a : Strip) := lockHash (offsetOf a)
      let me : Party := .sub f.serial u
      (∀ a, f.strip? 0 = some a →
        (idx a ∉ held → 16 ≤ held.length → exec (.lkpoolAcquire u) s = .next s) ∧
        (idx a ∈ held → Next (exec (.lkpoolAcquire u) s) fun t => (t.unit? u).map (fun g => (g.latch 0, g.outs)) = some (some (.data a), f.outs) ∧
          t.locks = s.locks ∧ t.waits = s.waits ∧ t.mem = s.mem) ∧
        (idx a ∉ held → held.length < 16 → s.holderOf (.tile u.tile, idx a) = none → f.outFree 0 = true →
          Next (exec (.lkpoolAcquire u) s) fun t => t.holderOf (.tile u.tile, idx a) = some me ∧
            (t.unit? u).map (fun g => (g.latch 0, g.st)) = some (none, .lk (held ++ [idx a]) none) ∧
            (0 < f.outs.length → (t.unit? u).map (fun g => g.slot 0) = some (slotWith s f 0 (.data a))) ∧
            (∀ k, k ≠ (.tile u.tile, idx a) → t.holderOf k = s.holderOf k) ∧ (s.waits = [] → t.mem = s.mem)) ∧
        (∀ h, idx a ∉ held → held.length < 16 → s.holderOf (.tile u.tile, idx a) = some h → h ≠ me →
          Next (exec (.lkpoolAcquire u) s) fun t => (t.unit? u).map (fun g => (g.latch 0, g.outs)) = some (some (.data a), f.outs) ∧
            (∀ k, t.holderOf k = s.holderOf k))) ∧
      (∀ a, f.strip? 1 = some a →
        (idx a ∈ held → since = none →
          (∀ i ∈ s.insts, (i.stall.map fun x => x.tok) ≠ some (some (.tile u.tile, idx a))) →
          (∀ v ∈ s.units, v.key.tile = u.tile → v.key ≠ u → ∀ l x, v.st ≠ .lk l (some x)) →
          Next (exec (.lkpoolRelease u) s) fun t => t.holderOf (.tile u.tile, idx a) = none ∧
            (t.unit? u).map (fun g => (g.latch 1, g.st)) = some (none, .lk (held.erase (idx a)) since) ∧
            (∀ k, k ≠ (.tile u.tile, idx a) → t.holderOf k = s.holderOf k) ∧ (s.waits = [] → t.mem = s.mem)) ∧
        (idx a ∉ held → Next (exec (.lkpoolRelease u) s) (Faults s f 0x06 0x0C))))

/-- `mload`, `mswap`, swap marks and the rows of a pass (R41, R256, R260, R261, R262, R263, R265, R271). `mload` fills
the loading register strip by strip and takes no strip while it is full; a bad metadata group faults SPMETA with the
strip that brings it and no part of the slab stays, also in a refetched slab, EOS inside a slab EOSMIS; a strip sent
again goes to the refetch while a sub-pass awaits it. `mswap` places strips, swap marks at their positions and EOS
on the path in order, and nothing while an end token whose position it has reached is still on its way. A mark that
comes first, with every earlier pass resolved, makes the loaded slab the active one, or faults NOSLAB when none can
come. The mmac takes rows into the open pass, fires once for each whole row, and ends its stream on EOS: with no
active slab it faults NOSLAB, at a 65th row PASS64 (rows of a pass that a fault has discarded count for nothing).
(The count of strips or rows by which they act on an end token, and the wait for one still on its way, are the
model's reading of R41, log entry 44.) -/
def Obligations.MatrixFeeding : Prop :=
  ∀ (s : State) (u : UKey) (f : FabUnit) (m : MTile), s.mtile? u.tile = some m →
    let left (x : MTile) : Bool := x.badLoading && !x.loading.strips.isEmpty
    let with' (g : MTile → MTile) : State := s.modMtile u.tile g
    (∀ a b n, Turn s u 0xB0 f → f.st = .mload a b n →
      (∀ v, f.latch 1 = none → f.latch 0 = some (.data v) →
        let l := m.loading.strips ++ [v]
        let need := (s.geom f).slabStrips
        (m.loading.full = true → exec (.mload u) s = .next s) ∧
        (m.loading.full = false → l.length < need → (s.geom f).badGroup l = none → Next (exec (.mload u) s) (Acts s (with' fun x => { x with loading := ⟨l, 0, false⟩, badLoading := left x }) f [0] [] f)) ∧
        (m.loading.full = false → need ≤ l.length → (s.geom f).badGroup l = none → Next (exec (.mload u) s)
          (Acts s (with' fun x => { x with loading := ⟨l, 0, true⟩, badLoading := left x }) f [0] [] { f with st := .mload a b (n + 1) })) ∧
        (m.loading.full = false → (s.geom f).badGroup l ≠ none → Next (exec (.mload u) s) fun t =>
          Faults s f 0x08 0 t ∧ (t.mtile? u.tile).map MTile.loading = some .empty)) ∧
      (∀ v, f.latch 1 = some (.data v) → f.latch 0 = none →
        (m.awaits (s.geom f).slabStrips false = true → (s.geom f).badGroup (m.refetch ++ [v]) ≠ none → Next (exec (.mload u) s) fun t =>
          Faults s f 0x08 0 t ∧ (t.mtile? u.tile).map (fun x => (x.refetch, x.active)) = some ([], .empty)) ∧
        (m.awaits (s.geom f).slabStrips false = true → (s.geom f).badGroup (m.refetch ++ [v]) = none → Next (exec (.mload u) s)
          (Acts s (with' fun x => { x with refetch := x.refetch ++ [v] }) f [1] [] f)) ∧
        (m.awaits (s.geom f).slabStrips false = false → exec (.mload u) s = .next s)) ∧
      (f.latch 1 = none → f.latch 0 = some .eos → m.loading.full = false → m.loading.strips ≠ [] → Next (exec (.mload u) s) (Faults s f 0x07 0x01)) ∧
      (f.latch 1 = none → f.latch 0 = some .eos → m.loading.strips = [] → m.loading.full = false → s.fed u 1 = false →
        Next (exec (.mload u) s) (Fires s f [0] [] { f with st := .mload true b n, ended := true }))) ∧
    (∀ n i ends, Turn s u 0xB1 f → f.ended = false → f.st = .mswap n i ends → f.latch 1 = none → m.path.length < 2 →
      (s.endLate u 1 n = true → exec (.mswap u) s = .next s) ∧ (s.endLate u 1 n = false →
      let put (x : PathItem) : State := with' fun t => { t with path := t.path ++ [x] }
      let init := f.auxBits 3 1 = 1 ∧ i = false
      let due := ∃ e l, ends = e :: l ∧ e.2 ≤ n
      (init → Next (exec (.mswap u) s) (Acts s (put .mark) f [] [] { f with st := .mswap n true ends })) ∧
      (¬ init → due → Next (exec (.mswap u) s) (Acts s (put .mark) f [] [] { f with st := .mswap n i (ends.drop 1) })) ∧
      (¬ init → ¬ due → ∀ v, f.latch 0 = some (.data v) → Next (exec (.mswap u) s)
        (Acts s (put (.strip v)) f [0] [] { f with st := .mswap (n + 1) i ends })) ∧
      (¬ init → ¬ due → f.latch 0 = some .eos → Next (exec (.mswap u) s)
        (Acts s (put .eos) f [0] [] { f with st := .mswap n i [], ended := true })))) ∧
    (∀ n i ends rank p, Turn s u 0xB1 f → f.st = .mswap n i ends → 2 ≤ m.path.length → f.latch 1 = some (.endTok rank p) →
      Next (exec (.mswap u) s) (Fires s f [1] []
        { f with st := .mswap n i (if f.auxBits 0 3 ≤ rank ∧ f.ended = false then ends ++ [(rank, p)] else ends) })) ∧
    (∀ n cur k e0 e1 ends sink, Turn s u 0xB2 f → f.st = .mmac n cur k e0 e1 ends sink → m.pass = .opened →
      (∀ e l, ends = e :: l → n < e.2) →
      (m.path.head? = some .mark → m.aStrips = [] → m.loading.full = true → Next (exec (.swapMark u) s) fun t =>
        t.mem = s.mem ∧ t.mtile? u.tile =
          some { m with path := m.path.drop 1, active := m.loading, loading := .empty, badActive := m.badLoading, badLoading := false }) ∧
      (m.path.head? = some .mark → m.aStrips = [] → m.loading = .empty →
        (∃ l b x, s.sibling f 0xB0 = some l ∧ l.st = .mload true b x) → Next (exec (.swapMark u) s) (Faults s f 0x06 0x06)) ∧
      (m.path.head? = some .mark → m.aStrips ≠ [] → exec (.swapMark u) s = .next s) ∧
      (∀ v, m.path.head? = some (.strip v) → f.latch 1 = none → f.latch 2 = none → e0 = false → s.endLate u 1 n = false →
        let l := m.aStrips ++ [v]
        let more := (s.geom f).rowsIn l.length - (s.geom f).rowsIn m.aStrips.length
        (m.active.strips = [] → Next (exec (.mmac u) s) (Faults s f 0x06 0x06)) ∧
        (m.active.strips ≠ [] → (s.geom f).rowsIn l.length ≤ 64 ∨ m.lost = true → Next (exec (.mmac u) s)
          (Acts s (with' fun t => { t with path := m.path.drop 1, aStrips := l }) f [] [] { f with st := .mmac (n + more) cur k e0 e1 ends sink })) ∧
        (m.active.strips ≠ [] → 64 < (s.geom f).rowsIn l.length → m.lost = false → Next (exec (.mmac u) s) (Faults s f 0x06 0x07))) ∧
      (m.path.head? = some .eos → f.latch 1 = none → f.latch 2 = none → e0 = false → e1 = false → s.endLate u 1 n = false →
        let due := ends.filter fun e => decide (e.2 ≤ n)
        Next (exec (.mmac u) s) (Acts s (with' fun t => { t with path := m.path.drop 1 }) f [] []
          { f with st := .mmac n cur k true e1 (if m.aStrips = [] then due else due ++ [(1, n)]) sink })) ∧
      (∀ rank p, m.path = [] → f.latch 1 = some (.endTok rank p) → f.latch 2 = none → e0 = false → Next (exec (.mmac u) s)
        (Fires s f [1] [] { f with st := .mmac n cur k e0 e1 (ends ++ [(rank, p)]) sink })))

/-- Passes, replays and the accumulator slots (R41, R72, R78, R80, R263, R264, R267, R268, R269, R272). A closing end
token turns the slots of an empty pass, or of one that a fault has discarded (R272), and nothing else; it runs the
trial of a pass with rows on the active slab, or begins its refetch when no whole slab of rung 0 is there. Within
budget, or at the last rung, the pass commits: every value of the delta is added into its place of the current slot,
rounded once, every other value stays, RESOLVE goes out and the pass is open again. Over budget the delta is
dropped, the slots stay, and the pass replays at the next rung: REWIND, then a sub-pass once the slab has come
again. `accrd` reads a row of a slot, `accwr` writes or adds it, `accclr` clears it, in the columns its mask names;
they wait for a closed pass that is unresolved, and an odd slot with PAIR faults. An uncorrectable error in the
active register, or in a slot that is read, faults ECC. (That `mswap` and `mmac` act on an end token by a count of
strips or rows, and are held up while one whose position is reached is still on its way, is the model's reading of
R41, log entry 44.) -/
def Obligations.MatrixPasses : Prop :=
  ∀ (s : State) (u : UKey) (f : FabUnit) (m : MTile), s.mtile? u.tile = some m →
    (∀ n cur k e0 e1 rank p ends sink, Turn s u 0xB2 f → f.st = .mmac n cur k e0 e1 ((rank, p) :: ends) sink →
      m.pass = .opened → p ≤ n →
      let g := s.geom f
      let rows := g.rowsIn m.aStrips.length
      let zeros : List (List W32) := List.replicate rows (List.replicate g.ns 0#32)
      let x := g.subPass 0 0 0 rows m.aStrips m.active.strips zeros zeros
      let c : Counts := { x.2.2 with canc := g.cancellations x.1 x.2.1 }
      let turned := if f.srank ≠ 0 ∧ f.srank ≤ rank then f.slot0 + (cur - f.slot0 + if g.pair then 2 else 1) % f.scnt else cur
      (rows = 0 ∨ m.lost = true ∨ s.runLost f = true → Next (exec (.slabPass u) s)
        (Acts s (s.modMtile u.tile fun y => { y with aStrips := [], lost := false }) f [] []
          { f with st := .mmac n turned k e0 e1 ends sink })) ∧
      (m.lost = false → s.runLost f = false →
      (0 < rows → rows ≤ 64 → f.commitReady = true → m.active.full = true → m.active.rung = 0 → m.badActive = false → m.badDelta = false →
        m.slotBad g.pair cur = false → g.overBudget 0 c = false →
        Next (exec (.slabPass u) s) fun t => (∃ y, t.mtile? u.tile = some y ∧ y.pass = .opened ∧ y.aStrips = [] ∧
            (∀ r j v, (x.1[r]?).bind (fun l => l[j]?) = some v →
              slotGet y.slots (slotIdx (cur + j / 64) r (j % 64)) = addF32 (slotGet m.slots (slotIdx (cur + j / 64) r (j % 64))) v) ∧
            ∀ k, (∀ r j, r < rows → j < g.ns → k ≠ slotIdx (cur + j / 64) r (j % 64)) → slotGet y.slots k = slotGet m.slots k) ∧
          (t.unit? u).map FabUnit.st = some (.mmac n turned ((k + 1) % 2 ^ 24) e0 e1 ends sink) ∧
          (3 < f.outs.length → (t.unit? u).map (fun z => z.slot 3) = some (slotWith s f 3 (.doneTok (mmacIter k 0 0 0 0)))) ∧ t.mem = s.mem) ∧
      (0 < rows → f.commitReady = true → m.active.full = true → m.active.rung = 0 → m.badActive = true →
        Next (exec (.slabPass u) s) (Faults s f 0x12 0x03)) ∧
      (0 < rows → f.commitReady = true → m.active.full = false ∨ m.active.rung ≠ 0 → Next (exec (.slabPass u) s) fun t =>
        (t.mtile? u.tile).map (fun y => (y.slots, y.aStrips, y.pass)) =
          some (m.slots, m.aStrips, .replay rank 0 0 0 false 0 zeros zeros Counts.zero) ∧ t.mem = s.mem) ∧
      (0 < rows → f.commitReady = true → m.active.full = true → m.active.rung = 0 → m.badActive = false → m.badDelta = false →
        g.overBudget 0 c = true →
        Next (exec (.slabPass u) s) fun t => (∃ y, t.mtile? u.tile = some y ∧ y.slots = m.slots ∧ y.aStrips = m.aStrips ∧
          y.pass = .replay rank 1 0 0 false 1 (List.replicate x.1.length (List.replicate g.ns 0#32))
            (List.replicate x.1.length (List.replicate g.ns 0#32)) Counts.zero) ∧ t.mem = s.mem))) ∧
    (∀ n cur k e0 e1 ends sink rank i h j sq dm sm c, Turn s u 0xB2 f → f.st = .mmac n cur k e0 e1 ends sink →
      (m.pass = .replay rank i h j false sq dm sm c → f.outFree 3 = true → Next (exec (.slabReplay u) s)
        (Acts s (s.modMtile u.tile fun y => { y with pass := .replay rank i h j true sq dm sm c }) f []
          [(3, slotWith s f 3 (.doneTok (mmacIter k i h j 1)))] f)) ∧
      (m.pass = .replay rank i h j true sq dm sm c → m.refetch.length < (s.geom f).slabStrips → exec (.slabReplay u) s = .next s) ∧
      (m.pass = .replay rank i h j true sq dm sm c → (s.geom f).slabStrips ≤ m.refetch.length → f.arep = false → f.commitReady = true → m.badRows = false →
        (s.geom f).badGroup (m.refetch.take (s.geom f).slabStrips) = none → j + 1 < (s.geom f).nK i →
        Next (exec (.slabReplay u) s) fun t => ∃ y, t.mtile? u.tile = some y ∧ y.slots = m.slots ∧
          y.active.strips = m.refetch.take (s.geom f).slabStrips ∧ y.refetch = m.refetch.drop (s.geom f).slabStrips ∧
          ∃ d e x, y.pass = .replay rank i h (j + 1) false sq d e x)) ∧
    (∀ a, f.strip? 0 = some a →
      let slot := (f.aux + a.toNat / 2 ^ 6 % 16) % 16
      let row := a.toNat % 64
      let named (c : Nat) : Bool := decide (c < (if f.auxBits 4 1 = 1 then 128 else 64)) && (f.auxBits 5 1 == 0 || a.getLsbD (32 + c))
      let place (r c : Nat) := slotIdx (slot + c / 64) r (c % 64)
      let old (c : Nat) := slotGet m.slots (place row c)
      let only (rows : Nat → Prop) (new : Nat → W32) (t : State) : Prop := ∃ y, t.mtile? u.tile = some y ∧
        (∀ r c, r < 64 → rows r → named c = true → slotGet y.slots (place r c) = new c) ∧
        (∀ k, (∀ r c, r < 64 → rows r → named c = true → k ≠ place r c) → slotGet y.slots k = slotGet m.slots k) ∧ t.mem = s.mem
      let legal := s.slotsWait f = false ∧ ¬ (f.auxBits 4 1 = 1 ∧ slot % 2 = 1)
      let bad : Bool := m.slotBad (f.auxBits 4 1 == 1) slot
      let fine := legal ∧ bad = false
      let odd := s.slotsWait f = false ∧ f.auxBits 4 1 = 1 ∧ slot % 2 = 1
      (Turn s u 0xB3 f → f.outFree 0 = true →
        (s.slotsWait f = true → exec (.accrd u) s = .next s) ∧ (odd → Next (exec (.accrd u) s) (Faults s f 0x06 0x08)) ∧
        (legal → bad = true → Next (exec (.accrd u) s) (Faults s f 0x12 0x03)) ∧
        (fine → Next (exec (.accrd u) s) fun t =>
          (∃ v, (0 < f.outs.length → (t.unit? u).map (fun g => g.slot 0) = some (slotWith s f 0 (.data v))) ∧
            ∀ c < 128, lane v c = if named c then old c else 0#32) ∧
          (f.auxBits 6 1 = 1 → only (· = row) (fun _ => 0#32) t) ∧ (f.auxBits 6 1 = 0 → t.mtiles = s.mtiles))) ∧
      (Turn s u 0xB4 f → ∀ d, f.strip? 1 = some d →
        (s.slotsWait f = true → exec (.accwr u) s = .next s) ∧ (odd → Next (exec (.accwr u) s) (Faults s f 0x06 0x08)) ∧
        (legal → f.auxBits 6 1 = 1 → bad = true → Next (exec (.accwr u) s) (Faults s f 0x12 0x03)) ∧
        (legal → f.auxBits 6 1 = 0 ∨ bad = false → Next (exec (.accwr u) s) (only (· = row) fun c => if f.auxBits 6 1 = 1 then addF32 (old c) (lane d c) else lane d c))) ∧
      (Turn s u 0xB5 f →
        (s.slotsWait f = true → exec (.accclr u) s = .next s) ∧ (odd → Next (exec (.accclr u) s) (Faults s f 0x06 0x08)) ∧
        (legal → Next (exec (.accclr u) s) (only (fun r => f.auxBits 6 1 = 1 ∨ r = row) fun _ => 0#32))))

/-- Push ports, the leaf's done and the end of a phase (R25, R26, R27, R48, R103, R106, R193, R253, R407, R416, R417). A
port takes the oldest token of its push queue while its phase runs, its EOS has not come, and it has room; a token
that a closed fence stops is dropped, and one that crosses between the parts of a confidential partition goes under
way sealed, and waits only while its own source fence router has used up its numbers of tokens (R417; which router
that is, log entry 14). The room of a port is its 64 places and SPILL more (R26, R27; where spilled tokens stand is
the model's choice, log entry 38). When the end marker of a leaf's oldest run has passed every sink and no unit of
the leaf has faulted in it or before, the run's held stores perform in the order they were made and its done goes
up; before that no memory changes. A phase ends exactly when its root's done has come, every sink of its folios and
every pop stream has its EOS, no store is held and every request made in it has responded; its only effect is that
ACTIVE is 0 (what counts as the end is the model's reading of R25, log entry 56). -/
def Obligations.PhasesAndLeaves : Prop :=
  (∀ (s : State) (serial h : Nat) (i : Inst) (q : Handle) (folio port : Nat) (tok : Token) (l : List Token) (p : InPort),
    s.inst? serial = some i → i.handles[h]? = some q → q.bind = .push folio port → q.q = tok :: l → s.port? serial folio port = some p →
    let emits := s.inPhase serial folio = true ∧ p.gotEos = false ∧ p.cut = false ∧
      ∀ x ∈ s.transits, x.serial = serial → x.dst = .port folio port → x.tok ≠ .eos
    let away := s.folioQuire serial folio
    let opens := s.pathOpen i.part i.threadQuire away = true
    let room := p.q.length + s.underWay serial (.port folio port) < 64 + fieldN i.header 192 16
    let crosses := (s.part i.part).crosses i.threadQuire away = true
    let takes := emits ∧ opens ∧ room ∧ ¬ crosses ∧ s.underWay serial (.port folio port) = 0
    let seals := emits ∧ opens ∧ room ∧ crosses ∧ (s.part i.part).spent ((s.part i.part).source i.threadQuire away) 0 = false
    let drops := emits ∧ ¬ opens
    let taken (t : State) : Prop := ((t.inst? serial).bind fun j => j.handles[h]?) = some { q with q := l }
    (¬ takes → ¬ seals → ¬ drops → exec (.pushPortEmit serial h) s = .next s) ∧
    (drops → Next (exec (.pushPortEmit serial h) s) fun t =>
      taken t ∧ t.mem = s.mem ∧ t.ports = s.ports ∧ bitAt t.sys.mflog 46 = true) ∧
    (seals → Next (exec (.pushPortEmit serial h) s) fun t => taken t ∧ t.mem = s.mem ∧ t.ports = s.ports ∧
      ∃ x, t.transits = s.transits ++ [x] ∧ x.tok = tok ∧ x.dst = .port folio port ∧ x.part = i.part ∧ x.serial = serial ∧
        x.router = (s.part i.part).source i.threadQuire away ∧
        x.seq = ((s.part i.part).chan x.router 0 (s.part i.part).gen.toNat).sent) ∧
    (takes → Next (exec (.pushPortEmit serial h) s) fun t =>
      taken t ∧ (p.q.length < 64 → t.mem = s.mem) ∧ ∃ x, t.port? serial folio port = some x ∧
        x.gotEos = (tok == .eos) ∧
        (s.portRoutes serial folio port = [] → x.q = p.q ++ [tok] ∧ x.slot = p.slot) ∧
        (s.portRoutes serial folio port ≠ [] → p.slot.tok = none → p.q = [] → s.bubbleDue p.sent = false →
          x.q = [] ∧ x.slot = ⟨some tok, s.portRoutes serial folio port⟩))) ∧
  (∀ (s : State) (u : UKey) (f : FabUnit), s.unit? u = some f → f.isHead = true → f.halted = false →
    let passed := f.markSent f.passed = true ∧
      (∀ x ∈ s.leafSinks u, x ≠ u → ∃ g, s.unit? x = some g ∧ f.passed < g.passed) ∧
      ∀ x ∈ s.leafSet u, x ≠ u → ∀ g, s.unit? x = some g → g.dead = true → f.passed < g.passed
    let mine := s.helds.filter fun h => h.leaf == u && h.run == f.passed && h.serial == f.serial
    (passed → Next (exec (.leafDone u) s) fun t =>
      t.mem = mine.foldl (fun m h => memPut m (tileMem h.tile h.off) (stripBytes h.data)) s.mem ∧
      t.helds = s.helds.filter (fun h => !(h.leaf == u && h.run == f.passed && h.serial == f.serial)) ∧
      (t.unit? u).map FabUnit.passed = some (f.passed + 1)) ∧
    (¬ passed → exec (.leafDone u) s = .next s)) ∧
  (∀ (s : State) (serial : Nat) (i : Inst), s.inst? serial = some i → i.active = true →
    let done := i.rootDone = true ∧
      (∀ h ∈ i.handles, ∀ folio port, h.bind = .pop folio port → (∃ p ∈ i.folios, p.1 = folio) → h.eosNow = true) ∧
      (∀ p ∈ i.folios, if (s.resident? serial p.1).isSome then
          ∀ f ∈ s.units, f.serial = serial → f.folio = p.1 → f.dead = false ∧ (s.isSink f = true → f.ended = true)
        else p.1 ∈ i.endedFolios) ∧
      (∀ h ∈ s.helds, h.serial ≠ serial) ∧ ∀ h ∈ i.handles, ∀ r ∈ h.reqs, r.inPhase = true → r.resp ≠ none
    (done → Next (exec (.phaseEnd serial) s) fun t => t.inst? serial = some { i with active := false } ∧ { t with insts := s.insts } = s) ∧
    (¬ done → exec (.phaseEnd serial) s = .next s))

/-- The binder places a folio (R25, R28, R82, R84, R148, R196, R418). A folio that the instance has named, that is not
resident and whose frames pass their checks is placed at the base slot chosen among the legal free ones, its units
as its frames describe them; its tiles' banks are cleared where no save holds them, or left as they are when it is
pinned; no other memory changes and no resident folio moves. A frame that fails, or in a confidential partition a
folio that is not what was measured at its instance's first placement, raises FRAME for the instance and places
nothing; of several faults the subcause is that of the first check in the model's order, the measure, then each
frame's fields, then the folio as a whole (log entry 24). A folio that is resident, or that is neither named nor of
the running phase, is not loaded. -/
def Obligations.BinderLoads : Prop :=
  ∀ (s : State) (serial n base : Nat) (i : Inst), s.inst? serial = some i →
    ((s.resident? serial n).isSome = true → exec (.binderLoad serial n base) s = .next s) ∧
    ((∀ x ∈ i.named, x.1 ≠ n) → s.inPhase serial n = false → exec (.binderLoad serial n base) s = .next s) ∧
    (∀ (f : Folio) (pin : Option Nat) (bases : List (Nat × Nat)) (q b : Nat),
      i.state = .run ∨ i.state = .placed → i.cut = none → i.kill = none → i.active = false → s.resident? serial n = none →
      (∃ x ∈ i.named, x.1 = n) → i.namedPin n = some pin → s.folio i n = .ok f → f.id = n → s.plan i f pin false = some ([], bases) →
      i.region[base]? = some (q, b) → (q, b) ∈ bases →
      let changed := (s.part i.part).conf = true ∧ ∀ l, s.folioBytes i.device i.image i.header n = .ok l → i.measures[n]? ≠ some (Config.sha384 l)
      let bad (e : Option Nat) : Prop := (changed → e = some frMeasure) ∧ (¬ changed →
        e = if s.framesMatch i.device i.image i.header n = false then some frField else folioFault f n (s.scratch i.part).length)
      (∀ e, bad (some e) → Next (exec (.binderLoad serial n base) s) fun t =>
        t.residents = s.residents ∧ t.units = s.units ∧ t.mem = s.mem ∧ (i.fault.v = false → ∃ x, t.inst? serial = some x ∧ x.state = .faulted ∧
          x.fault.cause = 0x09#8 ∧ x.fault.sub = BitVec.ofNat 8 e ∧ x.fault.origin = 2#2)) ∧
      (bad none → (∀ e ∈ i.foldSaves, e.folio ≠ n) → Next (exec (.binderLoad serial n base) s) fun t =>
        (∃ r, t.residents = s.residents ++ [r] ∧ r.serial = serial ∧ r.folio = n ∧ r.q = q ∧ r.base = b ∧ r.shape = f.shape ∧
          r.pinned = pin.isSome) ∧
        t.units.map FabUnit.key = s.units.map FabUnit.key ++ f.nodes.map (fun a => ⟨q, tileX b a.x, tileY b a.y, a.slot⟩) ∧
        (pin.isSome = true → ∀ a, memRead t.mem a = memRead s.mem a) ∧
        (pin = none → ∀ a, memRead t.mem a =
          if ∃ k ∈ memTiles q f.shape b, tileMem k 0 ≤ a ∧ a < tileMem k 0 + 2 ^ 22 then 0#8 else memRead s.mem a)))

/-- Engine requests and token rows advance (R46, R107, R115, R203, R204, R206, R324, R325, R326, R327, R334, R417). A
request that may start is checked: a broken rule ends it with the response MALFORMED, a length of zero with status
0, else it starts. A copy or fill between windows moves one strip per step, in order, and changes no other byte; at
its full length it responds with status 0 and DONE; a source that holds an error or does not translate ends it with
that cause, the bytes done and the address; it waits only while the one source router of its own access has used up
its numbers. A request token from the fabric adds a request to its engine's stream, or waits while 32 are on it. A
token unit serves no request that an earlier one of its stream holds back; it checks its request, begins the row
that is due, keeps a row in progress until its laps have run, then goes to the next, and responds after the last
row; a row waits only where an access of its own meets such a source, so one that reads or writes local HBM waits
for none (that it then makes the accesses of its row again is the model's choice, log entry 110); a lap adds one lap
and one count of the owner's meter. -/
def Obligations.EngineSteps : Prop :=
  (∀ (s : State) (serial h idx : Nat) (i : Inst) (a : Handle) (r : Request), s.inst? serial = some i → i.handles[h]? = some a →
    a.reqs[idx]? = some r → (∀ x ∈ a.reqs, x.id = r.id → x = r) → (∀ x ∈ a.reqs, x.told = false → x.resp = none) → i.region ≠ [] → r.resp = none →
    a.mayStart r = true →
    let after (t : State) : Option Request := ((t.inst? serial).bind fun j => j.handles[h]?).bind fun x => x.reqs[idx]?
    let responds (cause sub done : Nat) (va : W64) (t : State) : Prop :=
      (after t).map Request.resp = some (some (respStrip cause sub r.tag done va 0))
    let run (P : State → Prop) : Prop := Next (exec (.engineUnit serial h idx) s) P
    (r.member ≤ 6 → r.started = false →
      (s.requestOk i r = false → run fun t => responds 0x01 0x01 0 0 t ∧ t.mem = s.mem) ∧
      (s.requestOk i r = true → r.member ≠ 5 → r.total = 0 → run fun t => responds 0 0 0 0 t ∧ t.mem = s.mem) ∧
      (s.requestOk i r = true → r.member = 5 ∨ r.total ≠ 0 → run fun t => after t = some { r with started := true } ∧ t.mem = s.mem)) ∧
    (r.member = 0 ∨ r.member = 3 → r.started = true → r.wait = none → r.buf = none →
      let src := r.desc.extractLsb' 64 64 + BitVec.ofNat 64 r.pos
      let dst := r.desc.extractLsb' 0 64 + BitVec.ofNat 64 r.pos
      (r.len ≤ r.pos → run fun t => responds 0 0 r.len 0 t ∧ t.mem = s.mem) ∧
      (r.pos < r.len → r.member = 0 → ∀ (p p' : Pool) (o o' : Nat), inWindow src = true → inWindow dst = true →
        s.resolve i.who .load src = .ok (.win p o) s → s.resolve i.who .store dst = .ok (.win p' o') s →
        (Held s i.who p → exec (.engineUnit serial h idx) s = .next s) ∧
        (¬ Held s i.who p → ¬ Held (s.sealedTo i.who p) i.who p' → s.poisoned (p.mem o) 512 = false → run fun t =>
          t.mem = memPut s.mem (p'.mem o') (memBytes s.mem (p.mem o) 512) ∧ after t = some { r with pos := r.pos + 512 }) ∧
        (¬ Held s i.who p → s.poisoned (p.mem o) 512 = true → run fun t => responds 0x12 0x03 r.pos src t ∧ t.mem = s.mem)) ∧
      (r.pos < r.len → r.member = 3 → Memory.wf s.mem = true → ∀ (p : Pool) (o : Nat), inWindow dst = true → s.resolve i.who .store dst = .ok (.win p o) s →
        ¬ Held s i.who p → run fun t => after t = some { r with pos := r.pos + 512 } ∧
          (∀ k < 512, memRead t.mem (p.mem o + k) = (r.desc.extractLsb' 64 64).extractLsb' (8 * (k % 8)) 8) ∧
          ∀ k, k < p.mem o ∨ p.mem o + 512 ≤ k → memRead t.mem k = memRead s.mem k) ∧
      (r.pos < r.len → r.member = 0 → ∀ x u, s.resolve i.who .load src = .trap x u → u = s →
        run fun t => responds x.cause x.sub r.pos src t ∧ t.mem = s.mem))) ∧
  (∀ (s : State) (n h : Nat) (r : Route) (folio port : Nat) (i : Inst) (q : Handle) (e : Nat) (v : Strip),
    s.routes.find? (fun r => r.id == n) = some r → r.dst = .port folio port → s.inst? r.serial = some i → i.popHandle folio port = none →
    (∀ c ∈ i.chains, (c.1, c.2.1) ≠ (folio, port)) → (∀ a ∈ s.attns, a.serial = r.serial → a.folio = folio → a.qport ≠ port) →
    s.hopToken r r.hops.length = some (.data v) → i.handles[h]? = some q → q.bind = .engine e →
    (q.reqs.length < 32 → Next (exec (.engineRequestToken n h) s) fun t => t.nextId = s.nextId + 1 ∧ t.mem = s.mem ∧
      ((t.inst? r.serial).bind fun j => (j.handles[h]?).map Handle.reqs) =
        some (q.reqs ++ [Request.new s.nextId e (v.extractLsb' 0 512) (v.extractLsb' 512 64) false true i.active])) ∧
    (32 ≤ q.reqs.length → exec (.engineRequestToken n h) s = .next s)) ∧
  (∀ (s : State) (k : Nat) (w : TokUnit), s.tokUnits[k]? = some w →
    (∀ e ∈ w.queue, ∃ x, s.tokEntry e = some x ∧ x.2.2.2.started = false ∧ x.2.2.1.mayStart x.2.2.2 = false) →
    exec (.tokenUnitRow k) s = .next s) ∧
  (∀ (s : State) (k : Nat) (i : Inst) (h : Nat) (a : Handle) (r : Request) (w : TokUnit), s.tokRequest k = some (i, h, a, r) → s.tokUnits[k]? = some w →
    s.inst? i.serial = some i →
    let req (t : State) : Option Request := ((t.inst? i.serial).bind fun j => j.handles[h]?).bind fun x => x.reqs.find? fun y => y.id == r.id
    let run (P : State → Prop) : Prop := Next (exec (.tokenUnitRow k) s) P
    let rest := w.queue.erase (i.serial, h, r.id)
    let ends (cause sub done laps : Nat) (t : State) : Prop := (req t).map Request.resp = some (some (respStrip cause sub r.tag done 0 laps)) ∧
      t.tokUnits[k]? = some ⟨rest, none⟩ ∧ t.mem = s.mem
    (i.leaving = true → w.lap = none → run fun t => t.tokUnits[k]? = some ⟨rest, none⟩ ∧ t.insts = s.insts) ∧
    (i.leaving = false ∨ w.lap ≠ none →
      (r.started = false →
        (r.tokenOk = false → run (ends 0x01 0x01 0 0)) ∧
        (r.tokenOk = true → s.partOfQuire (4 * r.tunit) ≠ some i.part → run (ends 0x05 0x08 0 0)) ∧
        (r.tokenOk = true → s.partOfQuire (4 * r.tunit) = some i.part → run fun t => req t = some { r with started := true } ∧ t.mem = s.mem)) ∧
      (r.started = true →
        (∀ l, w.lap = some l → l.run < l.need → exec (.tokenUnitRow k) s = .next s ∧
          Next (exec (.lap k) s) fun t => t.tokUnits[k]? = some { w with lap := some { l with run := l.run + 1 } } ∧
            (i.owner < s.owners.length → 17 < (s.owner i.owner).meters.length →
              (t.owner i.owner).meters[17]? = ((s.owner i.owner).meters[17]?).map fun v => if v = BitVec.allOnes 64 then v else v + 1#64) ∧ t.mem = s.mem) ∧
        (∀ l u, w.lap = some l → l.need ≤ l.run → l.record = none → s.report i r r.pos l = (none, u) → run fun t =>
          t.tokUnits[k]? = (u.tokUnits[k]?).map (fun x => { x with lap := none }) ∧
          req t = (req u).map (fun x => { x with pos := r.pos + 1, done := r.done + l.need }) ∧ t.mem = u.mem) ∧
        (w.lap = none → r.nb ≤ r.pos → run (ends 0 0 r.pos (r.done % 2 ^ 32))) ∧
        (∀ l u x, w.lap = some l → l.need ≤ l.run → l.record = none → s.report i r r.pos l = (some (x, keyHeldErr), u) →
          exec (.tokenUnitRow k) s = .next s) ∧
        (w.lap = none → r.pos < r.nb → ∀ l u, s.beginRow i r r.pos = (l, u) →
          ((l.rstat, l.sub) = keyHeldErr → exec (.tokenUnitRow k) s = .next s) ∧
          ((l.rstat, l.sub) ≠ keyHeldErr → 0 < l.need →
            run fun t => t = { u with tokUnits := updAt u.tokUnits k fun x => { x with lap := some l } })))))
  ∧
  (∀ (s u : State) (i : Inst) (ver n pa : Nat) (va : W64) (l : List Byte) (p : Pool) (o : Nat) (sealed : Bool),
    (s.resolve i.who .load va = .ok (.win p o) u → ((s.nowRead i ver va n).1 = .error keyHeldErr ↔ Held u i.who p)) ∧
    (s.resolve i.who .store va = .ok (.win p o) u → ((s.nowWrite i ver va l).1 = some keyHeldErr ↔ Held u i.who p)) ∧
    (s.resolve i.who .load va = .ok (.hbm pa sealed) u → (s.nowRead i ver va n).1 ≠ .error keyHeldErr) ∧
    (s.resolve i.who .store va = .ok (.hbm pa sealed) u → (s.nowWrite i ver va l).1 ≠ some keyHeldErr))

/-- The stages of the attention pipeline (R295, R296, R297, R298, R299, R300, R302, R303, R305, R316, R317, R417). Query
assembly joins a head and its strip to a query, fills the open block and closes it when it is full, at FLUSH, before
a query of another sequence, and at EOS, where a head without its strip is a query too; it holds 256 and drops
bubbles. A walk of a sequence not below NSEQ ends in BOUND; a block that cull proves empty is removed where removal
is allowed, and its rows are not read; another block is read with its rows; the walk waits only where an access of
its own meets a source router that has used up its numbers (R417, as `EngineSteps` says of such an access; log entry
110), and a pipeline under a cut works no further (R305). A block that stands gets its scores, counted for the
owner, then its keep bits, once. A surviving block gives a query one leaf, once; in ordered mode the lowest leaf
merges into the state once nothing below it is to come, in free mode any two states merge. The oldest query's tokens
go out together when it is ready and its port has room, and EOS after the last. -/
def Obligations.AttentionStages : Prop :=
  ∀ (s : State) (q : Nat) (a : Attn), s.attn? q = some a →
    let gives (i : Instr) (b : Attn) : Prop := Next (exec i s) fun t => t.attn? q = some b ∧ { t with attns := s.attns } = s
    let block (l : List Query) : QBlock := ⟨l, none, 0, none, [], l.map fun _ => ⟨[], [], false⟩, span (l.map Query.qpos), span (l.map Query.qseg)⟩
    (a.cut = true → exec (.queryAssembly q) s = .next s ∧ (∀ remove prove, exec (.keyBlockWalk q remove prove) s = .next s) ∧
      (∀ b, exec (.scoreStage q b) s = .next s ∧ exec (.maskStage q b) s = .next s) ∧
      (∀ query b, exec (.blendWeight q query b) s = .next s) ∧ (∀ query ia ib, exec (.blendMerge q query ia ib) s = .next s) ∧
      exec (.resolve q) s = .next s) ∧
    (a.cut = false →
    (a.inq = [] → exec (.queryAssembly q) s = .next s) ∧
    (∀ t l, a.inq = t :: l →
      (t = .bubble → gives (.queryAssembly q) { a with inq := l }) ∧
      (∀ v, t = .data v → a.head = none → 256 ≤ a.held → exec (.queryAssembly q) s = .next s) ∧
      (∀ v, t = .data v → a.head = none → a.held < 256 → gives (.queryAssembly q) { a with inq := l, head := some v }) ∧
      (t = .eos → a.head = none → gives (.queryAssembly q)
        { a with inq := l, eosIn := true, opened := [], blocks := if a.opened = [] then a.blocks else a.blocks ++ [block a.opened] }) ∧
      (∀ h, a.head = some h →
        let parts := ∃ o ∈ a.opened, o.seq ≠ h.toNat / 2 ^ 32 % 2 ^ 32
        ∀ opened blocks, (parts → opened = [] ∧ blocks = a.blocks ++ [block a.opened]) →
          (¬ parts → opened = a.opened ∧ blocks = a.blocks) →
          (t = .eos → gives (.queryAssembly q)
            { a with inq := l, head := none, eosIn := true, opened := [], blocks := blocks ++ [block (opened ++ [⟨h, none⟩])] }) ∧
          (∀ v, t = .data v →
            let full := h.getLsbD 96 = true ∨ 2 ^ (a.bind.desc.toNat / 2 ^ 80 % 8 + 2) ≤ opened.length + 1
            (full → gives (.queryAssembly q)
              { a with inq := l, head := none, opened := [], blocks := blocks ++ [block (opened ++ [⟨h, some v⟩])] }) ∧
            (¬ full → gives (.queryAssembly q) { a with inq := l, head := none, opened := opened ++ [⟨h, some v⟩], blocks := blocks })))) ∧
    (∀ remove prove i k b, s.inst? a.serial = some i → a.blocks.findIdx? (fun b => !b.walked a.bind.desc) = some k → a.blocks[k]? = some b →
      (∀ r : QBlock × State, r = (match b.entry with | none => s.readEntry i a.bind.desc b | some e => s.walkBlock i a b e remove prove) →
        r.1.err = some keyHeldErr → exec (.keyBlockWalk q remove prove) s = .next s) ∧
      ((∀ x, b.queries.head? = some x → b.entry = none → a.bind.desc.toNat / 2 ^ 192 % 2 ^ 32 ≤ x.seq →
          gives (.keyBlockWalk q remove prove) { a with blocks := a.blocks.set k { b with err := some (0x06, 0x11) } }) ∧
        (∀ e, b.entry = some e → e.kseg = 0#64 →
          let d := a.bind.desc
          let key := b.next * bdBk d
          let n := min (bdBk d) (e.len - key)
          let box : Box := ⟨b.qpos, (key, key + n - 1), b.qseg, span (List.replicate n 0)⟩
          let cull := (a.bind.mask.map StageProg.cull).getD 0
          let next (x : KeyBlock) : Attn := { a with blocks := a.blocks.set k { b with next := b.next + 1, blocks := b.blocks ++ [x] } }
          (remove = true → cullNever cull box = true → gives (.keyBlockWalk q remove prove)
            (next ⟨b.next, n, [], [], List.replicate n 0, true, false, none, none⟩)) ∧
          (remove = false ∨ cullNever cull box = false → ∀ l r₁ r₂ r₃ ks vs, s.spanRead i 0 2 (e.pages + w64 (8 * (key / 64))) 8 = (.ok l, r₁) →
            let page := w64 (bytesNat l)
            page.toNat % 4096 = 0 → r₁.rows i e.ver (rowBytes d) page (key % 64) n = (.ok ks, r₂) →
            r₂.rows i e.ver (rowBytes d) page (64 + key % 64) n = (.ok vs, r₃) →
            Next (exec (.keyBlockWalk q remove prove) s) fun t => t.mem = r₃.mem ∧ t.attn? q =
              some (next ⟨b.next, n, ks, vs, List.replicate n 0, false, prove && bdExact d && cullAlways cull box, none, none⟩))))) ∧
    (∀ b,
      let due (k : KeyBlock) : Bool := !k.removed && k.scores.isNone
      let next (x : QBlock) (g : KeyBlock → KeyBlock) : QBlock := { x with blocks := x.blocks.map fun k => if k.b = b ∧ due k = true then g k else k }
      ((∀ x ∈ a.blocks, x.err = none → ∀ k ∈ x.blocks, k.b = b → due k = false) → exec (.scoreStage q b) s = .next s) ∧
      (∀ n qb, a.blocks.findIdx? (fun x => x.err.isNone && x.blocks.any fun k => k.b == b && due k) = some n → a.blocks[n]? = some qb →
        let done (k : KeyBlock) : KeyBlock := { k with
          scores := some (qb.queries.map fun x => a.scoreRow x k)
          kept := if k.proven = true ∨ a.bind.mask = none then some (qb.queries.map fun _ => List.replicate k.n true) else none }
        Next (exec (.scoreStage q b) s) fun t => { t with attns := s.attns, owners := s.owners } = s ∧
          (∀ i, s.inst? a.serial = some i → t.owners = (s.meter i.owner (kvMeter (bdKv a.bind.desc)) 1).owners) ∧
          t.attn? q = some { a with blocks := a.blocks.set n (next qb done) })) ∧
    (∀ b p, a.bind.mask = some p →
      let due (k : KeyBlock) : Bool := !k.removed && k.scores.isSome && k.kept.isNone
      let next (x : QBlock) (g : KeyBlock → KeyBlock) : QBlock := { x with blocks := x.blocks.map fun k => if k.b = b ∧ due k = true then g k else k }
      ((∀ x ∈ a.blocks, x.err = none → ∀ k ∈ x.blocks, k.b = b → due k = false) → exec (.maskStage q b) s = .next s) ∧
      (∀ n qb, a.blocks.findIdx? (fun x => x.err.isNone && x.blocks.any fun k => k.b == b && due k) = some n → a.blocks[n]? = some qb →
        let done (k : KeyBlock) : KeyBlock :=
          { k with kept := some ((qb.queries.zip (k.scores.getD [])).map fun x => a.maskRow p x.1 k x.2) }
        gives (.maskStage q b) { a with blocks := a.blocks.set n (next qb done) })) ∧
    (∀ query k n qb x w, findQuery a.blocks query = some (k, n) → a.blocks[k]? = some qb → qb.queries[n]? = some x → qb.work[n]? = some w →
      x.strip.isSome = true → qb.err = none →
      let works (w' : QueryWork) : Attn := { a with blocks := a.blocks.set k { qb with work := qb.work.set n w' } }
      (∀ b kb, qb.blocks.find? (fun k => k.b == b) = some kb →
        (b ∉ w.weighed → kb.kept.isSome = true → kb.survives n = true → gives (.blendWeight q query b)
          (works { w with parts := w.parts ++ [(b + 1, a.leaf x kb n)], weighed := w.weighed ++ [b] })) ∧
        (b ∈ w.weighed ∨ kb.kept = none ∨ kb.survives n = false → exec (.blendWeight q query b) s = .next s)) ∧
      (∀ ia ib, bdOrdered a.bind.desc = true →
        ((∀ p ∈ w.parts, p.1 = 0) → exec (.blendMerge q query ia ib) s = .next s) ∧
        (∀ p ∈ w.parts, p.1 ≠ 0 → (∀ r ∈ w.parts, r.1 = p.1 → r = p) → (∀ r ∈ w.parts, r.1 ≠ 0 → p.1 ≤ r.1) →
          let state := ((w.parts.find? fun r => r.1 == 0).map Prod.snd).getD (a.identity x)
          (qb.below w n (p.1 - 1) = true → gives (.blendMerge q query ia ib)
            (works { w with parts := (0, a.merge x state p.2) :: w.parts.filter fun r => r.1 ≠ 0 ∧ r.1 ≠ p.1 })) ∧
          (qb.below w n (p.1 - 1) = false → exec (.blendMerge q query ia ib) s = .next s))) ∧
      (∀ ia ib, bdOrdered a.bind.desc = false →
        let at' (j : Nat) : Partial := ((w.parts[j]?).map Prod.snd).getD (a.identity x)
        (ia = ib → ia < w.parts.length → exec (.blendMerge q query ia ib) s = .next s) ∧
        (ia ≠ ib ∨ w.parts.length ≤ ia → gives (.blendMerge q query ia ib)
          (works { w with parts := ((w.parts.zipIdx.filter fun r => r.2 ≠ ia ∧ r.2 ≠ ib).map Prod.fst) ++ [(0, a.merge x (at' ia) (at' ib))] })))) ∧
      (a.eosIn = true → a.eosSent = false → a.held = 0 →
        (s.portRoom a.serial a.folio a.oport = false → exec (.resolve q) s = .next s) ∧
        (s.portRoom a.serial a.folio a.oport = true → Next (exec (.resolve q) s) fun t =>
          t.attn? q = some { a with eosSent := true } ∧ (t.port? a.serial a.folio a.oport).map InPort.gotEos = some true)) ∧
      (a.held ≠ 0 → a.ready = none → exec (.resolve q) s = .next s) ∧
      (∀ ts, a.held ≠ 0 → a.ready = some ts →
        (s.portRoomFor a.serial a.folio a.oport ts.length = false → exec (.resolve q) s = .next s) ∧
        (s.portRoomFor a.serial a.folio a.oport ts.length = true → Next (exec (.resolve q) s) fun t => t.attn? q = some a.dropQuery ∧
          t = (ts.foldl (fun r k => r.portPut a.serial a.folio a.oport k) s).modAttn q Attn.dropQuery)))

/-- The stages of a cut and of a kill (R45, R385, R394, R396, R397, R398, R399, R448). A cut that is asked for stops the
thread at a word boundary and marks every source of the running folios; the engine channels follow once every
request has responded; an instance that is FAULTED is killed instead. A marker takes the tokens of the buffer it
passes into the record, and cuts the input it comes to. A cut whose markers have passed everything, and whose record
fits and is written, leaves the instance CUT without region or thread, at the new epoch; a record that does not fit
kills it, and a fault of its writing faults it and then kills it. A kill that starts takes every unit, route and
held store of the instance away and counts them; it completes only when nothing of the instance is under way
outside, and leaves it KILLED. -/
def Obligations.CutsAndKills : Prop :=
  (∀ (s : State) (serial : Nat) (i : Inst) (c : CutSt), s.inst? serial = some i → i.cut = some c → i.kill = none →
    let held (k : Nat) (sub : Nat) (t : State) : Prop := ∃ j, t.inst? serial = some j ∧ j.kill = some ⟨k, sub, false, 0, 0, 0, 0⟩ ∧ j.state = i.state
    (i.state = .faulted → Next (exec (.cutStart serial) s) (held 0x11 2) ∧ Next (exec (.cutComplete serial) s) (held 0x11 2)) ∧
    (i.state ≠ .faulted → c.stage = 0 → Next (exec (.cutStart serial) s) fun t => t.mem = s.mem ∧
      (∃ j, t.inst? serial = some j ∧ j.cut = some { c with stage := 1 } ∧ j.stall = none ∧ j.ctx = i.ctx) ∧
      ∀ folio port p, s.port? serial folio port = some p → s.running serial folio = true → s.engineChannel i folio port = false →
        s.portFed i folio port = false → (t.port? serial folio port).map (fun x => (x.cut, x.q)) = some (true, p.q)) ∧
    (i.state ≠ .faulted → c.stage = 1 → i.enginesDone = true → Next (exec (.cutStart serial) s) fun t => t.mem = s.mem ∧
      (t.inst? serial).map Inst.cut = some (some { c with stage := 2 })) ∧
    (i.state ≠ .faulted → c.stage = 1 → i.enginesDone = false → exec (.cutStart serial) s = .next s) ∧
    (i.state ≠ .faulted → s.cutDone i c = false → exec (.cutComplete serial) s = .next s) ∧
    (i.state ≠ .faulted → s.cutDone i c = true → (∀ m ∈ s.mtiles, m.serial ≠ serial) →
      let l := s.saveEntries i (s.capture i)
      (i.saveSize.toNat < saveUsed l → Next (exec (.cutComplete serial) s) (held 0x11 3)) ∧
      (saveUsed l ≤ i.saveSize.toNat → (s.writeSave i c.epoch l).2.insts = s.insts → match (s.writeSave i c.epoch l).1 with
        | some e => i.state = .run ∨ i.state = .placed → i.fault.v = false → Next (exec (.cutComplete serial) s) fun t =>
          ∃ j, t.inst? serial = some j ∧ j.state = .faulted ∧ j.kill = some ⟨e.cause, e.sub, false, 0, 0, 0, 0⟩ ∧
            j.fault.cause = BitVec.ofNat 8 e.cause ∧ j.fault.sub = BitVec.ofNat 8 e.sub
        | none => Next (exec (.cutComplete serial) s) fun t => ∃ j, t.inst? serial = some j ∧ j.state = .cut ∧ j.region = [] ∧
          j.hw = none ∧ j.cut = none ∧ j.saved ≠ none ∧ j.epoch = c.epoch ∧
          j.debugHeld = c.debug ∧ j.ctx = i.ctx))) ∧
  (∀ (s : State) (n hop : Nat) (r : Route), s.routes.find? (fun r => r.id == n) = some r →
    (r.mark ≠ some hop → exec (.cutMarkerArrival n hop) s = .next s) ∧
    (∀ l, r.mark = some hop → r.hops[hop]? = some l → hop < r.saved.length → Next (exec (.cutMarkerArrival n hop) s) fun t => t.mem = s.mem ∧
      ∃ a, t.routes.find? (fun r => r.id == n) = some a ∧ a.mark = some (hop + 1) ∧ a.saved[hop]? = some (l.filter fun x => x != .bubble) ∧
        a.hops[hop]? = some []) ∧
    (∀ u k f, r.mark = some hop → r.hops.length = hop → r.dst = .unit u k → s.unit? u = some f → k < f.cut.length →
      Next (exec (.cutMarkerArrival n hop) s) fun t => t.mem = s.mem ∧ ((t.unit? u).bind fun g => g.cut[k]?) = some true ∧
        (f.left = false → (t.unit? u).map FabUnit.left = some ((s.mustCut f).all fun j => j == k || (f.cut[j]?).getD false)))) ∧
  (∀ (s : State) (serial : Nat) (i : Inst) (k : KillSt), s.inst? serial = some i → i.kill = some k →
    (k.started = false → Next (exec (.killStart serial k.cause k.sub) s) fun t => t.mem = s.mem ∧ (∀ f ∈ t.units, f.serial ≠ serial) ∧
      (∀ r ∈ t.routes, r.serial ≠ serial) ∧ (∀ h ∈ t.helds, h.serial ≠ serial) ∧
      (∀ f ∈ s.units, f.serial ≠ serial → f ∈ t.units) ∧ ∃ j, t.inst? serial = some j ∧ j.active = false ∧ j.cut = none ∧
        (∀ v, j.saved = some v → v.units = [] ∧ v.routes = [] ∧ v.helds = [] ∧ v.attns = []) ∧ (∀ h ∈ j.handles, h.q = []) ∧ ∃ x, j.kill = some x ∧ x.cause = k.cause ∧ x.sub = k.sub ∧ x.started = true ∧
        (i.saved = none → x.helds = (s.helds.filter fun h => h.serial == serial).length)) ∧
    (k.started = true → exec (.killStart serial k.cause k.sub) s = .next s) ∧
    (k.started = false ∨ s.quietOutside i = false → exec (.killComplete serial) s = .next s) ∧
    (k.started = true → s.quietOutside i = true → Next (exec (.killComplete serial) s) fun t => ∃ j, t.inst? serial = some j ∧
      j.state = .killed ∧ j.region = [] ∧ j.hw = none ∧ j.killCause = k.cause ∧ j.killSub = k.sub ∧ j.kill = none ∧
      (∀ f ∈ t.units, f.serial ≠ serial) ∧ ∀ l ∈ t.locks, l.holder.serial? ≠ some serial))

/-- SKILL, SCUT, SRESUME, SHUNG, the mailbox, the debug server and the watchdog (R390, R400, R401, R403, R455). SKILL
and SCUT answer OK and ask for the kill or the cut of an instance of the quire, which for SCUT of a FAULTED one is
the kill CUTKILL FAULTED, STATE for one of the quire's partition that is QUEUED, DONE or KILLED, NOINST for one that
does not exist or is not the quire's, and SCUT STATE or INPROG for one that is saved or being cut. SRESUME releases
a debug hold, whichever quire it is written on. A hung thread restarts at STVEC at supervisor level. A 1 to V frees
the mailbox. A debug client stops, reads, writes a saved register but not that of a confidential instance, and
resumes; after a boot failure it is refused. A region timer that has not run out does nothing; one that has, with no
wait of the region, makes WATCHDOG pending; with a wait on another instance it starts again. (That a region's timer
takes SWDOG, SWDCNT and SEVENT.WDOG of the region's first quire is the model's reading, log entry 67; so are the
debug server's write of a register and its refusals, log entry 94, and that these register writes come as events,
log entry 69, the model's choice.) -/
def Obligations.QuireControls : Prop :=
  (∀ (s : State) (q : Nat) (v : W64) (i : Inst), q < s.quires.length → s.inst? (v.toNat % 2 ^ 32) = some i →
    let n := v.toNat % 2 ^ 32
    let code (f : QuireRegs → BitVec 3) (k : BitVec 3) (t : State) : Prop := f (t.quire q) = k
    (i.named455 (some q) = true → i.kill = none → i.state ≠ .done → i.state ≠ .killed → Next (exec (.skill q v) s) fun t =>
      code QuireRegs.skill 0#3 t ∧ ∃ j, t.inst? n = some j ∧ j.kill = some ⟨v.toNat / 2 ^ 32 % 2 ^ 8, v.toNat / 2 ^ 40 % 2 ^ 8, false, 0, 0, 0, 0⟩) ∧
    (i.state = .done ∨ i.state = .killed ∨ i.state = .queued → s.partOfQuire q = some i.part →
      Next (exec (.skill q v) s) (fun t => code QuireRegs.skill 2#3 t ∧ t.insts = s.insts) ∧
      Next (exec (.scut q v) s) fun t => code QuireRegs.scut 2#3 t ∧ t.insts = s.insts) ∧
    (i.named455 (some q) = true → (i.state = .run ∨ i.state = .placed) → i.cut = none → Next (exec (.scut q v) s) fun t => code QuireRegs.scut 0#3 t ∧
      ∃ j, t.inst? n = some j ∧ j.cut = some ⟨(i.epoch + 1) % 2 ^ 32, v.getLsbD 32, 0⟩ ∧ j.state = i.state) ∧
    (i.named455 (some q) = true → i.state = .faulted → i.cut = none → i.kill = none → Next (exec (.scut q v) s) fun t => code QuireRegs.scut 0#3 t ∧
      ∃ j, t.inst? n = some j ∧ j.cut = none ∧ j.kill = some ⟨0x11, 2, false, 0, 0, 0, 0⟩) ∧
    (i.named455 (some q) = false → (s.partOfQuire q ≠ some i.part ∨ (i.state ≠ .done ∧ i.state ≠ .killed ∧ i.state ≠ .queued)) →
      Next (exec (.skill q v) s) (fun t => code QuireRegs.skill 1#3 t ∧ t.insts = s.insts) ∧
      Next (exec (.scut q v) s) fun t => code QuireRegs.scut 1#3 t ∧ t.insts = s.insts) ∧
    (i.named455 (some q) = true → (i.state = .run ∨ i.state = .placed) → i.cut ≠ none → Next (exec (.scut q v) s) fun t =>
      code QuireRegs.scut 3#3 t ∧ t.insts = s.insts) ∧
    (i.named455 (some q) = true → (i.state = .yielded ∨ i.state = .cut) → Next (exec (.scut q v) s) fun t => code QuireRegs.scut 2#3 t ∧ t.insts = s.insts) ∧
    (i.state = .cut → i.debugHeld = true → Next (exec (.sresume q v) s) fun t =>
      t.inst? n = some { i with debugHeld := false, arrival := s.nsec } ∧ { t with insts := s.insts } = s) ∧
    (i.state ≠ .cut ∨ i.debugHeld = false → exec (.sresume q v) s = .next s)) ∧
  (∀ (s : State) (q : Nat) (v : W64), q < s.quires.length → s.inst? (v.toNat % 2 ^ 32) = none →
    Next (exec (.skill q v) s) (fun t => (t.quire q).skill = 1#3 ∧ t.insts = s.insts) ∧
    Next (exec (.scut q v) s) fun t => (t.quire q).scut = 1#3 ∧ t.insts = s.insts) ∧
  (∀ (s : State) (q k : Nat) (v : W64), q < s.quires.length → k < 8 → v = BitVec.ofNat 64 (2 ^ k) → (s.quire q).shung.getLsbD k = true →
    htCore (8 * q + k) < s.sups.length →
    let core := (s.sup (htCore (8 * q + k))).active
    (∀ n, core = some n → n ≠ 8 * q + k → exec (.shungRestart q v) s = .next s) ∧
    (core = none ∨ core = some (8 * q + k) → Next (exec (.shungRestart q v) s) fun t => (t.quire q).shung.getLsbD k = false ∧
      (∀ j, j ≠ k → (t.quire q).shung.getLsbD j = (s.quire q).shung.getLsbD j) ∧ t.levelOf (.ctl (8 * q + k)) = 1 ∧
      (t.ctxOf (.ctl (8 * q + k))).map Ctx.pc = some (supRegs s (8 * q + k)).tvec ∧ t.mem = s.mem)) ∧
  (∀ (s : State) (q : Nat) (v : W64), q < s.quires.length →
    (v.getLsbD 19 = true → Next (exec (.mailboxFree q v) s) fun t => (t.quire q).mbox = { (s.quire q).mbox with v := false, more := 0 } ∧ t.insts = s.insts ∧
      t.mem = s.mem) ∧
    (v.getLsbD 19 = false → exec (.mailboxFree q v) s = .next s)) ∧
  (∀ (s : State) (serial : Nat) (ask : DebugAsk), s.bootFailed = true →
    exec (.debugRequest serial ask) s = .next { s with replies := s.replies ++ [.refused] }) ∧
  (∀ (s : State) (serial : Nat) (i : Inst), serial < 2 ^ 32 → s.inst? serial = some i → s.bootFailed = false →
    let asks (a : DebugAsk) (P : State → Prop) : Prop := Next (exec (.debugRequest serial a) s) P
    let answers (a : DebugAsk) (r : Reply) : Prop := exec (.debugRequest serial a) s = .next { s with replies := s.replies ++ [r] }
    (i.state = .run ∨ i.state = .placed → i.cut = none → i.kill = none → asks .stop fun t => ∃ j, t.inst? serial = some j ∧
      j.cut = some ⟨(i.epoch + 1) % 2 ^ 32, true, 0⟩) ∧
    (i.state = .faulted → i.cut = none → i.kill = none → asks .stop fun t => ∃ j, t.inst? serial = some j ∧
      j.cut = none ∧ j.kill = some ⟨0x11, 2, false, 0, 0, 0, 0⟩) ∧
    (∀ (r : Nat) (v : W64), i.state = .cut → r < i.regs → r < 32 → (s.part i.part).conf = false → asks (.writeThreadReg r v) fun t =>
      ∃ j, t.inst? serial = some j ∧ (0 < r → j.ctx.rd (BitVec.ofNat 5 r) = v) ∧ (∀ k, k ≠ BitVec.ofNat 5 r → j.ctx.rd k = i.ctx.rd k) ∧ j.ctx.pc = i.ctx.pc) ∧
    (∀ (r : Nat) (v : W64), i.state ≠ .cut ∨ (s.part i.part).conf = true ∨ i.regs ≤ r →
      exec (.debugRequest serial (.writeThreadReg r v)) s = .next s) ∧
    answers .readRecord (.record i.fault.words) ∧
    (∀ q, answers (.readMailbox q) (.record (s.quire q).mbox.words)) ∧
    (∀ header off n, i.state ≠ .cut ∨ (if header = true then 4096 else i.saveSize.toNat) < off + n → answers (.readSaved header off n) .refused) ∧
    (∀ header off n l u, i.state = .cut → off + n ≤ (if header = true then 4096 else i.saveSize.toNat) →
      s.debugRead i (n / 4096 + 2) ((if header = true then i.recVA else i.saveBase) + BitVec.ofNat 64 off) n = (.ok l, u) →
      exec (.debugRequest serial (.readSaved header off n)) s = .next { u with replies := u.replies ++ [.saved l] }) ∧
    (∀ header off l, i.state ≠ .cut → exec (.debugRequest serial (.writeSaved header off l)) s = .next s) ∧
    (i.state = .cut → i.debugHeld = true → asks .resume fun t => t.inst? serial = some { i with debugHeld := false, arrival := s.nsec })) ∧
  (∀ (s : State) (serial : Nat) (i : Inst) (q b : Nat), s.inst? serial = some i → i.region.head? = some (q, b) → i.cut = none → i.kill = none → q < s.quires.length →
    let limit := i.lastProgress.toNat + (s.quire q).swdog.toNat * 1000
    (s.nsec.toNat < limit ∨ (s.quire q).swdog = 0#32 → exec (.watchdogExpiry serial) s = .next s) ∧
    (limit ≤ s.nsec.toNat → (s.quire q).swdog ≠ 0#32 →
      ((∀ w ∈ s.waits, w.waiter.serial? ≠ some serial) → Next (exec (.watchdogExpiry serial) s) fun t => (t.quire q).sevent.getLsbD 3 = true ∧
        (t.quire q).swdcnt = (s.quire q).swdcnt ∧ ∃ j, t.inst? serial = some j ∧ j.dog = some (1, 0) ∧ j.lastProgress = s.nsec) ∧
      (∀ w ∈ s.waits, ∀ n, w.waiter.serial? = some serial → s.forced w = true → w.kind = 3 → w.holders = [.thread n] → n ≠ serial →
        (∀ x ∈ s.waits, x.waiter.serial? = some serial → x.kind ≠ 5) → Next (exec (.watchdogExpiry serial) s) fun t =>
        (t.quire q).swdcnt = satInc32 (s.quire q).swdcnt ∧ ∃ j, t.inst? serial = some j ∧ j.dog = i.dog ∧ j.lastProgress = s.nsec)))

/-- Launches, decisions, slices and roles (R364, R365, R369, R370, R371, R373, R377, R378, R440). With the scheduler off
or a commit window open nothing is decided. The only candidate, whose region and thread are free, is placed there
when its owner's deficit and weight pay for its slots, keeps its registers, and its owner's deficit is then 0; else
the deficit grows by the weight. An entry of 64 bytes that passes every check becomes a QUEUED instance at the end
of its queue and counts in ACC; one that finds its queue full or fails a check completes with LAUNCH; a write of
another size or place, or to a closed queue or a partition that is not enabled, counts in DROP. An expired slice
posts a yield request when a candidate waits for slots, else it starts again. The role controller lets the chosen
quire leave its role, which flips when no region stands on it; every instance there is asked to yield, a FAULTED one
too. (The model's readings: an entry before boot is complete is dropped and counted, log entry 73; one decision for
each visit, and none while SCHCTL.EN is 0, log entry 70; a yield request also to a PLACED instance, log entry 66.) -/
def Obligations.SchedulerDecisions : Prop :=
  (∀ s : State, s.sys.schctl.getLsbD 0 = false ∨ s.sys.mactState = 2#2 → exec .schedulerVisit s = .next s) ∧
  (∀ (s : State) (c : Inst) (r : List (Nat × Nat)) (n : Nat), s.sys.schctl.getLsbD 0 = true → s.sys.mactState ≠ 2#2 → s.inst? c.serial = some c →
    c.candidate = true → c.state = .queued → c.saved = none → (∀ j ∈ s.insts, j.candidate = true → j = c) → c.owner < 64 → c.owner < s.owners.length →
    1 ≤ (s.owner c.owner).weight → s.fitOf c = some (r, n) →
    let have' := min ((s.owner c.owner).deficit + (s.owner c.owner).weight) ((s.owner c.owner).weight + 128)
    (c.slots ≤ have' → Next (exec .schedulerVisit s) fun t => t.lastOwner = c.owner ∧ (t.owner c.owner).deficit = 0 ∧
      ∃ j, t.inst? c.serial = some j ∧ j.state = .placed ∧ j.region = r ∧ j.hw = some n ∧ j.ctx = c.ctx ∧ j.age = 0) ∧
    (have' < c.slots → Next (exec .schedulerVisit s) fun t => t.lastOwner = c.owner ∧ (t.owner c.owner).deficit = have' ∧ t.insts = s.insts)) ∧
  (∀ (s : State) (f off size : Nat) (e : BitVec 512), f < 257 → off < 0x4000 → f < s.fns.length →
    let k := off / 4096
    let dropped (t : State) : Prop := (t.fn f).drop = satInc32 (s.fn f).drop ∧ t.insts = s.insts ∧ t.mem = s.mem
    (size ≠ 64 ∨ off % 64 ≠ 0 → Next (exec (.hostLaunchEntry f off size e) s) dropped) ∧
    (size = 64 → off % 64 = 0 → (s.fn f).qen.getLsbD k = false ∨ s.booted = false → Next (exec (.hostLaunchEntry f off size e) s) dropped) ∧
    let opens := size = 64 ∧ off % 64 = 0 ∧ (s.fn f).qen.getLsbD k = true ∧ s.booted = true
    let fails (r : State) (sub : Nat) : Prop := exec (.hostLaunchEntry f off size e) s =
      .next (r.complete (s.fn f).who f k (e.extractLsb' 192 64) (e.extractLsb' 256 64) 0 0 0x14 sub)
    (opens → (s.fn f).pv = false ∨ (s.part (s.fn f).part).en = false → Next (exec (.hostLaunchEntry f off size e) s) dropped) ∧
    (opens → (s.fn f).pv = true → (s.part (s.fn f).part).en = true → ∀ q, (s.fn f).queues[k]? = some q → 64 ≤ q.length → fails s 5) ∧
    (opens → (s.fn f).pv = true → (s.part (s.fn f).part).en = true → ∀ q sub u, (s.fn f).queues[k]? = some q → q.length < 64 →
      s.launchCheck (s.fn f).who e = (.error sub, u) → fails u sub) ∧
    (∀ h ps u, opens → (s.fn f).pv = true → (s.part (s.fn f).part).en = true →
      s.launchCheck (s.fn f).who e = (.ok (h, ps), u) → ∀ q a, (s.fn f).queues[k]? = some q → (s.fn f).acc[k]? = some a → q.length < 64 →
      (∀ j ∈ s.insts, j.serial = s.nextSerial % 2 ^ 32 → j.live = false) →
      let n := s.nextSerial % 2 ^ 32
      Next (exec (.hostLaunchEntry f off size e) s) fun t => (t.fn f).queues[k]? = some (q ++ [n]) ∧ (t.fn f).acc[k]? = some (a + 1) ∧
        t.nextSerial = (n + 1) % 2 ^ 32 ∧ t.sys.mevent.getLsbD 0 = true ∧
        ∃ j, t.inst? n = some j ∧ j.state = .queued ∧ j.owner = (s.fn f).owner ∧ j.part = (s.fn f).part ∧ j.header = h ∧ j.image = e.extractLsb' 0 64 ∧
          j.base = min (if e.getLsbD 163 then e.toNat / 2 ^ 160 % 8 else h.toNat / 2 ^ 56 % 8) (s.fn f).maxprio)) ∧
  (∀ (s : State) (serial : Nat) (i : Inst), s.inst? serial = some i → i.region ≠ [] → i.state = .run ∨ i.state = .placed → i.cut = none → i.yieldReq = false →
    let len := s.sys.schctl.toNat / 2 ^ 32
    let wanted := ∃ c ∈ s.insts, c.candidate = true ∧ c.part = i.part ∧ s.slotsFor c = none
    (len = 0 ∨ s.nsec.toNat < i.sliceEnd.toNat → exec (.sliceExpiry serial) s = .next s) ∧
    (0 < len → i.sliceEnd.toNat ≤ s.nsec.toNat →
      (wanted → Next (exec (.sliceExpiry serial) s) fun t => t.inst? serial = some { i with yieldReq := true } ∧ { t with insts := s.insts } = s) ∧
      (¬ wanted → Next (exec (.sliceExpiry serial) s) fun t =>
        t.inst? serial = some { i with sliceEnd := s.nsec + BitVec.ofNat 64 (len * 1000) } ∧ { t with insts := s.insts } = s))) ∧
  (∀ (s : State) (q : Nat), q < s.lends.length → q < 32 →
    (s.sys.role.getLsbD 15 = true → (∀ l ∈ s.lends, l.leaving = false) → ∀ d, s.roleMove = some d → q ∈ s.roleQuires d →
      Next (exec (.roleControlTick q) s) fun t => (t.lendOf q).leaving = true ∧ t.sys = s.sys ∧
        ∀ j ∈ t.insts, (j.state = .run ∨ j.state = .placed ∨ j.state = .faulted) → j.cut = none → (∃ x ∈ j.region, x.1 = q) → j.yieldReq = true) ∧
    (s.sys.role.getLsbD 15 = false ∨ (∃ l ∈ s.lends, l.leaving = true) → exec (.roleControlTick q) s = .next s) ∧
    ((s.lendOf q).leaving = true → (s.lendOf q).busy = false → (∀ j ∈ s.insts, ∀ x ∈ j.region, x.1 ≠ q) → Next (exec (.roleFlip q) s) fun t =>
      (t.lendOf q).leaving = false ∧ t.sys.rolemask.getLsbD q = !s.sys.rolemask.getLsbD q ∧ (∀ k, k ≠ q → t.sys.rolemask.getLsbD k = s.sys.rolemask.getLsbD k)) ∧
    ((s.lendOf q).leaving = false → exec (.roleFlip q) s = .next s))

/-- Lending, recall and function reset (R375, R376, R405, R411, R412, R427). LEND OP 1 of an empty quire that is neither
lent nor bound, next to a quire of the target partition, both partitions not confidential and left connected, moves
it there and answers OK, or where it would leave a set that is not connected sets ERR and answers NOTADJ; of an
occupied quire it answers BUSYQ, of another NOTADJ, with an operation in progress INPROG. OP 2 of a lent quire is
BUSY and cuts every instance on it; at T0 + 250 µs those that are not done are killed; from T0 + 1 ms, once the
quire is empty, its arrays are cleared and it is home, or stays lent, with NOTADJ and ERR of the borrower, where its
going would now leave a set that is not connected. A function reset closes its queues, marks it BUSY and kills what
it launched; a link down does so for every function; the arena is zeroed and BUSY clears when earlier requests have
responded; a new VFABASE clears the mark. (The model's readings: NOTADJ with ERR for a move that disconnects, and
that a recall completes once the quire is empty, log entry 74; whom a reset ends and when BUSY clears, log entry 75;
and its choice that an empty set counts as connected, log entry 105.) -/
def Obligations.LendingAndResets : Prop :=
  (∀ (s : State) (v : W64), let q := v.toNat % 32
    let dst := v.toNat / 2 ^ 5 % 32
    let op := v.toNat / 2 ^ 10 % 4
    q < s.lends.length →
    let selected (t : State) : Prop := t.sys = { s.sys with lendQuire := q, lendTo := dst }
    let only (k : BitVec 3) (t : State) : Prop := selected t ∧ (t.lendOf q).result = k ∧ t.parts.map Part.quires = s.parts.map Part.quires ∧ t.insts = s.insts
    (op = 0 → Next (exec (.lendSelect v) s) fun t => selected t ∧ { t with sys := s.sys } = s) ∧
    (op ≠ 0 → exec (.lendSelect v) s = .next s) ∧ (op ≠ 1 → exec (.lend v) s = .next s) ∧ (op ≠ 2 → exec (.recall v) s = .next s) ∧
    (op = 1 → (s.lendOf q).busy = true → Next (exec (.lend v) s) (only 5#3)) ∧
    (op = 2 → (s.lendOf q).busy = true → Next (exec (.recall v) s) (only 5#3)) ∧
    (op = 1 → (s.lendOf q).busy = false → (∃ j ∈ s.insts, ∃ x ∈ j.region, x.1 = q) → Next (exec (.lend v) s) (only 2#3)) ∧
    (op = 1 → (s.lendOf q).busy = false → (∀ j ∈ s.insts, ∀ x ∈ j.region, x.1 ≠ q) → (∀ a ∈ s.attns, a.q ≠ q) → ∀ home, s.partOfQuire q = some home →
      home < s.parts.length → dst < s.parts.length →
      let fits := dst ≠ home ∧ (s.lendOf q).lent = none ∧ (s.part home).conf = false ∧ (s.part dst).conf = false ∧
        (∃ x < 32, (s.part dst).quires.getLsbD x = true ∧ adjacent q x = true)
      (¬ fits → Next (exec (.lend v) s) (only 3#3)) ∧
      (fits → s.splits q home dst = true → Next (exec (.lend v) s) fun t => only 3#3 t ∧ (t.part home).err = true) ∧
      (fits → s.splits q home dst = false → Next (exec (.lend v) s) fun t => selected t ∧ (t.lendOf q).result = 0#3 ∧ (t.lendOf q).lent = some home ∧
        (t.part home).quires.getLsbD q = false ∧ (t.part dst).quires.getLsbD q = true ∧ t.mem = s.mem)) ∧
    (op = 2 → (s.lendOf q).busy = false → (s.lendOf q).lent = none → Next (exec (.recall v) s) (only 4#3)) ∧
    (op = 2 → (s.lendOf q).busy = false → ∀ home b, (s.lendOf q).lent = some home → s.partOfQuire q = some b → s.splits q b home = false →
      Next (exec (.recall v) s) fun t => (t.lendOf q).busy = true ∧ (t.lendOf q).t0 = s.nsec ∧
        ∀ i, s.inst? i.serial = some i → (∃ x ∈ i.region, x.1 = q) → (i.state = .run ∨ i.state = .placed) → i.cut = none →
          ∃ j, t.inst? i.serial = some j ∧ j.cut = some ⟨(i.epoch + 1) % 2 ^ 32, false, 0⟩)) ∧
  (∀ (s : State) (q : Nat), q < s.lends.length → (s.lendOf q).busy = true →
    let t0 := (s.lendOf q).t0.toNat
    let killed := (s.lendOf q).killed = true ∨ ∃ e ∈ (s.lendOf q).affected, ∃ i, s.inst? e.1 = some i ∧ i.state = .killed ∧ i.killCause = 0x11
    (s.nsec.toNat < t0 + 250000 → exec (.cutDeadline q) s = .next s) ∧
    (t0 + 250000 ≤ s.nsec.toNat → ∀ i c n, (s.lendOf q).affected = [(i.serial, n)] → s.inst? i.serial = some i → i.cut = some c → s.cutDone i c = false →
      i.kill = none → i.live = true → Next (exec (.cutDeadline q) s) fun t => (t.lendOf q).killed = true ∧ ∃ j, t.inst? i.serial = some j ∧
        j.kill = some ⟨0x11, 1, false, 0, 0, 0, 0⟩) ∧
    (s.nsec.toNat < t0 + 1000000 ∨ (∃ j ∈ s.insts, ∃ x ∈ j.region, x.1 = q) → exec (.recallComplete q) s = .next s) ∧
    (∀ home b, t0 + 1000000 ≤ s.nsec.toNat → (∀ j ∈ s.insts, ∀ x ∈ j.region, x.1 ≠ q) → (s.lendOf q).lent = some home → s.partOfQuire q = some b →
      home < s.parts.length → b < s.parts.length → b ≠ home → Next (exec (.recallComplete q) s) fun t => (t.lendOf q).busy = false ∧
        (s.splits q b home = false → (t.lendOf q).lent = none ∧ (t.part home).quires.getLsbD q = (decide (q < 32)) ∧
          (killed → (t.lendOf q).result = 1#3) ∧ (¬ killed → (t.lendOf q).result = 0#3)) ∧
        (s.splits q b home = true → (t.lendOf q).lent = some home ∧ (t.lendOf q).result = 3#3 ∧ (t.part b).err = true ∧
          t.parts.map Part.quires = s.parts.map Part.quires) ∧
        ∀ a, memRead t.mem a = if tileKey q 0 0 ≤ a ∧ a < tileKey q 0 0 + 2 ^ 26 then 0#8 else memRead s.mem a)) ∧
  (∀ (s : State) (f : Nat), f < 257 → s.fns.length = 257 →
    ((s.fn f).busy = true → exec (.functionReset f) s = .next s) ∧
    ((s.fn f).busy = false → Next (exec (.functionReset f) s) fun t => (t.fn f).qen = 0#4 ∧ (t.fn f).rstMark = true ∧ (t.fn f).busy = true ∧
      (∀ g, g ≠ f → t.fn g = s.fn g) ∧
      ∀ i, s.inst? i.serial = some i → i.live = true → i.src.fn = f → i.kill = none → ∃ j, t.inst? i.serial = some j ∧
        j.kill = some ⟨0x19, 0, false, 0, 0, 0, 0⟩) ∧
    (Next (exec .linkDown s) fun t => (t.fn f).busy = true ∧ ((s.fn f).busy = false → (t.fn f).qen = 0#4 ∧ (t.fn f).rstMark = true)) ∧
    ((s.fn f).busy = false ∨ s.owes (s.fn f).rstAt = true → exec (.arenaScrub f) s = .next s) ∧
    ((s.fn f).busy = true → s.owes (s.fn f).rstAt = false → s.attns = [] → Next (exec (.arenaScrub f) s) fun t => (t.fn f).busy = false ∧ t.insts = s.insts ∧
      ∀ pa u, (s.fn f).asize = 4096#64 → Memory.wf s.mem = true → s.resolve { (s.fn f).who with owner := none } .store (s.fn f).abase = .ok (.hbm pa false) u →
        u.fencePass (s.fn f).part pa = true → ∀ k < 4096, memRead t.mem (hbmKey pa + k) = 0#8) ∧
    (s.sys.vfsel = BitVec.ofNat 9 f → ∀ v : W64, Next (exec (.arenaRebind v) s) fun t => (t.fn f).rstMark = false ∧
      (t.fn f).abase = (v >>> 12) <<< 12 ∧ t.mem = s.mem ∧ ∀ g, g ≠ f → t.fn g = s.fn g))

/-- Roles, resources, tunnels, keys, channels and FENCE (R404, R405, R406, R408, R409, R410, R413, R416, R417, R423).
SROLE sets the roles of the owned slices of an idle partition that keeps a cache slice. A write of MPQUIRE, MPSLICE
or MPRANGE that keeps R405 and R406 takes effect, any other sets ERR and changes nothing else. MTCFG and MTRANGE
take their writable bits. MCCFG makes a partition confidential when it is enabled, empty, and its rectangles cover
exactly its quires: its arrays are zero, keys are drawn, CMR is 0; V = 0 destroys its keys. A switch makes the next
generation current under a new key and the old one retire, unless one retires; a source whose number has reached
2^31 starts one, or, while one retires, the next as soon as that one's end has come; the end of the old one waits
for its packets and destroys its channels. A sealed packet in order moves its channel on and its token is delivered,
a bad tag or number discards it and asks for the TAGFAIL kill, a completion whose key is gone counts in MFLOG. A
raised FENCE enters Trearo core 0, at machine level unless it is delegated below it. (The model's readings: SROLE
and when a slice may go, log entry 76; the rectangles and the tunnel, log entry 77; SWITCH alone, and a second V =
1, log entry 78; channels for each generation, and a bad packet that leaves its channel, log entry 79; FENCE held
until it is taken, log entry 89.) -/
def Obligations.PartitionRegisters : Prop :=
  (∀ (s : State) (v : W64), let own := (s.part s.sys.psel.toNat).slices
    let idle := ∀ i ∈ s.insts, i.part = s.sys.psel.toNat → i.state = .queued ∨ i.state = .killed ∨ i.state = .done
    (idle → own &&& v ≠ 0#64 → Next (exec (.sroleWrite v) s) fun t => { t with sys := s.sys } = s ∧ { t.sys with srole := s.sys.srole } = s.sys ∧
      ∀ k, t.sys.srole.getLsbD k = if own.getLsbD k then v.getLsbD k else s.sys.srole.getLsbD k) ∧
    (¬ idle ∨ own &&& v = 0#64 → exec (.sroleWrite v) s = .next s)) ∧
  (∀ (s : State) (v : W64), let p := s.sys.mpselP.toNat
    let a := s.part p
    let only (x : Part) (t : State) : Prop := t.part p = x ∧ (∀ r, r ≠ p → t.part r = s.part r) ∧ { t with parts := s.parts } = s
    let refused (n : Nat) : Prop := Next (exec (.partitionResourceWrite n v) s) (only { a with err := true })
    p < s.parts.length → s.parts.length = 32 →
    let takes := ∃ q < 32, a.quires.getLsbD q = true ∧ v.getLsbD q = false ∧ ((∃ j ∈ s.insts, ∃ x ∈ j.region, x.1 = q) ∨ ∃ b ∈ s.attns, b.q = q)
    let shares := ∃ q < 32, a.quires.getLsbD q = false ∧ v.getLsbD q = true ∧ ∃ r < 32, (s.part r).quires.getLsbD q = true
    let list := quireList (v.extractLsb' 0 32)
    let whole := connected list = true ∨ (a.mccfg.getLsbD 11 = true ∧ (∃ x ∈ s.tunnels, x.joins 1 p = true) ∧ list = rectangles a.mccfg)
    (¬ takes → ¬ shares → whole → Next (exec (.partitionResourceWrite 0x411 v) s) (only { a with quires := v.extractLsb' 0 32 })) ∧
    (takes ∨ shares ∨ ¬ whole → refused 0x411) ∧
    let busy := ∃ i ∈ s.insts, i.part = p ∧ i.state ≠ .queued ∧ i.state ≠ .killed ∧ i.state ≠ .done
    let drops := a.slices &&& ~~~v ≠ 0#64
    let steals := ∃ k < 64, a.slices.getLsbD k = false ∧ v.getLsbD k = true ∧ ∃ r < 32, (s.part r).slices.getLsbD k = true
    let cached := a.en = false ∨ v &&& s.sys.srole ≠ 0#64
    (¬ (busy ∧ drops) → ¬ steals → cached → Next (exec (.partitionResourceWrite 0x412 v) s) (only { a with slices := v })) ∧
    ((busy ∧ drops) ∨ steals ∨ ¬ cached → refused 0x412) ∧
    let meets := ∃ r < 32, r ≠ p ∧ ∃ x ∈ (s.part r).ranges, ∃ pa, rangeHas v pa = true ∧ rangeHas x pa = true
    (meets → refused 0x413) ∧
    (¬ meets → s.sys.mpselR.toNat < a.ranges.length → Next (exec (.partitionResourceWrite 0x413 v) s) fun t => { t with parts := s.parts } = s ∧
      (∀ r, r ≠ p → t.part r = s.part r) ∧ { t.part p with ranges := a.ranges } = a ∧
      ∀ k, (t.part p).ranges[k]? = if k = s.sys.mpselR.toNat then some (v &&& 0x7FFFFFFFFFFFFFFF#64) else a.ranges[k]?) ∧
    (∀ n, n ≠ 0x411 → n ≠ 0x412 → n ≠ 0x413 → exec (.partitionResourceWrite n v) s = .next s)) ∧
  (∀ (s : State) (v : W64), let k := s.sys.mtsel.toNat
    let becomes (n : Nat) (f : Tunnel → Tunnel) : Prop := Next (exec (.tunnelWrite n v) s) fun t => { t with tunnels := s.tunnels } = s ∧
      ∀ j, t.tunnels[j]? = if j = k then s.tunnels[j]?.map f else s.tunnels[j]?
    becomes 0x419 (fun t => { t with cfg := v &&& 0xFFF#64 }) ∧ becomes 0x41A (fun t => { t with range := v &&& 0x7FFFFFFFFFFFFFFF#64 })) ∧
  (∀ (s : State) (v : W64), let p := s.sys.mpselP.toNat
    let a := s.part p
    let low := v &&& 0x3FFFFF#64
    let switches := v.getLsbD 38 = true ∧ (low = 0#64 ∨ low = a.mccfg &&& 0x3FFFFF#64)
    let empty := ∀ i ∈ s.insts, i.part = p → i.state = .killed ∨ i.state = .done
    let only (x : Part) (t : State) : Prop := t.part p = x ∧ (∀ r, r ≠ p → t.part r = s.part r) ∧ t.insts = s.insts
    p < s.parts.length →
    let covers := rectangles v = quireList a.quires ∧ (v.getLsbD 11 = true → s.joined p v = true)
    (v.getLsbD 0 = false → exec (.confidentialEnable v) s = .next s) ∧ (v.getLsbD 0 = true → exec (.confidentialDisable v) s = .next s) ∧
    (v.getLsbD 0 = true → switches → exec (.confidentialEnable v) s = exec (.keySwitch p) s) ∧
    (v.getLsbD 0 = false → switches → exec (.confidentialDisable v) s = exec (.keySwitch p) s) ∧
    (v.getLsbD 0 = true → ¬ switches → ¬ (a.en = true ∧ empty ∧ covers) → Next (exec (.confidentialEnable v) s) fun t => only { a with err := true } t ∧ t.mem = s.mem) ∧
    (v.getLsbD 0 = true → ¬ switches → a.en = true → empty → covers → a.mccfg.getLsbD 0 = false → Next (exec (.confidentialEnable v) s) fun t =>
      only { a with mccfg := low, key := some s.nextKey, tkey := s.nextKey + 1, gen := 0, retiring := none, chans := [], cmr := 0 } t ∧
      s.nextKey + 1 < t.nextKey ∧ (∀ x ∈ t.transits, x.part ≠ p) ∧
      ∀ x, memRead t.mem x = if ∃ q < 32, a.quires.getLsbD q = true ∧ tileKey q 0 0 ≤ x ∧ x < tileKey q 0 0 + 2 ^ 26 then 0#8 else memRead s.mem x) ∧
    (v.getLsbD 0 = true → ¬ switches → a.en = true → empty → covers → a.mccfg.getLsbD 0 = true → Next (exec (.confidentialEnable v) s) fun t =>
      only { a with mccfg := low } t ∧ t.mem = s.mem) ∧
    (v.getLsbD 0 = false → ¬ switches → ¬ empty → Next (exec (.confidentialDisable v) s) fun t => only { a with err := true } t ∧ t.mem = s.mem) ∧
    (v.getLsbD 0 = false → ¬ switches → empty → Next (exec (.confidentialDisable v) s) fun t =>
      only { a with mccfg := low, key := none, retiring := none, chans := [] } t ∧ t.mem = s.mem)) ∧
  (∀ (s : State) (p : Nat), p < s.parts.length → let a := s.part p
    (a.mccfg.getLsbD 0 = false ∨ a.retiring ≠ none → exec (.keySwitch p) s = .next s) ∧
    (a.mccfg.getLsbD 0 = true → a.retiring = none → Next (exec (.keySwitch p) s) fun t =>
      t.part p = { a with gen := a.gen + 1, retiring := some a.gen, tkey := s.nextKey, tkeyOld := a.tkey } ∧ (∀ r, r ≠ p → t.part r = s.part r) ∧ s.nextKey < t.nextKey ∧ t.mem = s.mem ∧ t.insts = s.insts) ∧
    (a.retiring = none → exec (.generationRetire p) s = .next s) ∧
    (∀ g, a.retiring = some g → (∃ x ∈ s.transits, x.part = p ∧ x.gen = g.toNat) → exec (.generationRetire p) s = .next s) ∧
    (∀ g, a.retiring = some g → (∀ x ∈ s.transits, x.part = p → x.gen ≠ g.toNat) → Next (exec (.generationRetire p) s) fun t =>
      let far := ∃ c ∈ a.chans, c.gen ≠ g.toNat ∧ c.gen = a.gen.toNat ∧ 2 ^ 31 ≤ c.sent
      (¬ far → (t.part p).retiring = none ∧ (t.part p).gen = a.gen) ∧
      (far → a.mccfg.getLsbD 0 = true → (t.part p).retiring = some a.gen ∧ (t.part p).gen = a.gen + 1) ∧
      (∀ c ∈ (t.part p).chans, c.gen ≠ g.toNat) ∧ (∀ c ∈ a.chans, c.gen ≠ g.toNat → c ∈ (t.part p).chans) ∧ (∀ r, r ≠ p → t.part r = s.part r) ∧ t.mem = s.mem)) ∧
  (∀ (s : State) (p router kind : Nat), p < s.parts.length → let a := s.part p
    let n := (a.chan router kind a.gen.toNat).sent
    let t := (s.number p router kind).2
    (s.number p router kind).1 = n ∧ ((t.part p).chan router kind a.gen.toNat).sent = n + 1 ∧
    (n + 1 < 2 ^ 31 ∨ a.retiring ≠ none → (t.part p).gen = a.gen) ∧
    (2 ^ 31 ≤ n + 1 → a.mccfg.getLsbD 0 = true → a.retiring = none → (t.part p).gen = a.gen + 1 ∧ (t.part p).retiring = some a.gen)) ∧
  (∀ (s : State) (serial router kind gen seq : Nat) (ok : Bool) (i : Inst), s.inst? serial = some i → i.part < s.parts.length →
    let a := s.part i.part
    let opens (P : State → Prop) : Prop := Next (exec (.transitOpen serial router kind gen seq ok) s) P
    let it (x : Transit) : Prop := kind = 0 ∧ x.serial = serial ∧ x.router = router ∧ x.gen = gen ∧ x.seq = seq
    let left (t : State) : Prop := ∀ x, x ∈ t.transits ↔ x ∈ s.transits ∧ ¬ it x
    let killed (t : State) : Prop := left t ∧ ∃ j, t.inst? serial = some j ∧ j.kill = some ⟨0x0B, 0, false, 0, 0, 0, 0⟩
    let due := (a.chan router kind gen).seq
    (a.mccfg.getLsbD 0 = false → exec (.transitOpen serial router kind gen seq ok) s = .next s) ∧
    (a.mccfg.getLsbD 0 = true → a.transitKey gen = none →
      (kind = 2 → opens fun t => t.insts = s.insts ∧ t.mem = s.mem ∧
        t.parts = s.parts ∧ t.sys.mflog.toNat % 2 ^ 32 = min (s.sys.mflog.toNat % 2 ^ 32 + 1) (2 ^ 32 - 1) ∧ t.sys.mflog.getLsbD 46 = true ∧
        (s.sys.mflog.getLsbD 46 = false → t.fenceRaise = true)) ∧
      (kind ≠ 2 → i.live = true → i.kill = none → opens killed)) ∧
    (∀ key, a.mccfg.getLsbD 0 = true → a.transitKey gen = some key →
      (ok = false ∨ seq ≠ due → i.live = true → i.kill = none → opens killed) ∧
      (ok = true → seq = due → (∀ x ∈ s.transits, ¬ it x) → exec (.transitOpen serial router kind gen seq ok) s = .next s) ∧
      (∀ x ∈ s.transits, ok = true → seq = due → it x → (∀ y ∈ s.transits, it y → y = x) → i.live = true → i.kill = none →
        let tag := transitTag key (transitIv i.part router kind gen seq) x.tok
        (x.tag ≠ tag → opens killed) ∧
        (x.tag = tag → opens fun t => left t ∧ ((t.part i.part).chan router kind gen).seq = seq + 1 ∧
          (∀ r k g, (r, k, g) ≠ (router, kind, gen) → (t.part i.part).chan r k g = a.chan r k g) ∧
          (∀ h q, x.dst = .pop h → i.handles[h]? = some q → t.mem = s.mem ∧
            ((t.inst? serial).bind fun j => j.handles[h]?) = some { q with q := q.q ++ [x.tok], eosNow := q.eosNow || x.tok == .eos }) ∧
          ∀ folio port p, x.dst = .port folio port → s.port? serial folio port = some p → s.portRoutes serial folio port = [] →
            (t.port? serial folio port).map InPort.q = some (p.q ++ [x.tok]))))) ∧
  (∀ s : State, let c := s.tcore 0
    let pc := if c.level = 0 then c.user.pc else if c.level = 1 then c.sup.pc else c.mach.pc
    let entered (x : TrapRegs) : Prop := x.cause = 0x0C#64 ∧ x.epc = pc ∧ x.inh = true ∧ x.pl = BitVec.ofNat 2 c.level
    let lower := c.level < 2 ∧ c.deleg.getLsbD 0x0C = true
    (s.fenceRaise = false ∨ c.hung = true → exec .fenceTrap s = .next s) ∧
    (s.fenceRaise = true → c.hung = false → 0 < s.cores.length →
      (¬ lower → c.m.inh = false → Next (exec .fenceTrap s) fun t => t.fenceRaise = false ∧ (t.tcore 0).level = 2 ∧ entered (t.tcore 0).m ∧
        (t.tcore 0).mach.pc = c.m.tvec ∧ (t.tcore 0).s = c.s ∧ (∀ k, k ≠ 0 → t.tcore k = s.tcore k) ∧ t.mem = s.mem) ∧
      (lower → c.s.inh = false → Next (exec .fenceTrap s) fun t => t.fenceRaise = false ∧ (t.tcore 0).level = 1 ∧ entered (t.tcore 0).s ∧
        (t.tcore 0).sup.pc = c.s.tvec ∧ (t.tcore 0).m = c.m ∧ (∀ k, k ≠ 0 → t.tcore k = s.tcore k) ∧ t.mem = s.mem) ∧
      ((if c.level < 2 ∧ c.deleg.getLsbD 0x0C = true then c.s.inh else c.m.inh) = true → Next (exec .fenceTrap s) fun t =>
        t.tcore 0 = { c with hung := true } ∧ t.mem = s.mem)))

/-- Answers from outside, requests of peers, messages, ports and collectives (R93, R95, R109, R177, R425, R426, R428,
R429, R430, R431, R433, R435). A request with no completion in its time completes with TIMEOUT, and what comes later
is discarded. A host completion performs the store at the host or brings the bytes, in the order of the thread's
requests; UR and CA become REMOTE answers. A completion of a peer, a collective's result or its commit comes only
while a port is up and the request has left. A failed posted store waits for its thread's boundary. A signal becomes
an MSI-X message, or a pending bit while its vector or function is masked or MSI-X is not enabled, and the message
goes when neither is so any more. A peer's read, write, atomic or message for this package performs on the memory of
the partition that owns its address and is answered; an address that no partition owns is answered UR, a byte that
holds an error CA with an event, and its bytes count for the owner of the partition. A message for a partition that
is not enabled is acknowledged and dropped, and nothing happens while the buffer is full. A port that goes down with
packets outstanding that were sent on it drains first, and while one drains no other comes up. A collective's result
is reduced left-deep and written piece by piece, after which the member returns written; a commit completes the
member, an INCOMPLETE carries MEMBERS. (The model's readings and choices: while one port drains no other comes up,
log entry 35; the two steps of a port that goes down, log entry 88; CA with an event, log entry 37; the owner of a
partition, log entry 81; HBM counted in units of 64 bytes, log entry 96; MSI-X masks, enable and table after reset,
log entry 5.) -/
def Obligations.OutsideCompletions : Prop :=
  (∀ (s : State) (r : Remote), r ∈ s.remotes → (∀ x ∈ s.remotes, x.id = r.id → x = r) → r.ans = none →
    let limit := if r.kind = 4 then 1000000000 else if r.kind = 5 ∨ r.kind = 6 ∨ r.kind = 7 then 50000000 else if r.peer = none then 50000000 else 2000000
    let late := r.sent.toNat + limit ≤ s.nsec.toNat
    let answered (st : Nat) (l : List Byte) (t : State) : Prop := ∃ x ∈ t.remotes, x.id = r.id ∧ x.ans = some (st, l) ∧ t.insts = s.insts
    let gone (t : State) : Prop := ∀ x ∈ t.remotes, x.id ≠ r.id
    let first := r.serial < 2 ^ 42 → ∀ x ∈ s.remotes, x.serial = r.serial → x.peer = none → x.id < r.id → x.ans ≠ none
    let linked := ∃ k ∈ s.upPorts, k ∉ s.draining
    let left := r.gone = true ∧ ∀ p ∈ s.heldPackets, p.1 ≠ r.id
    (late → r.kind = 6 ∨ (∀ p ∈ s.heldPackets, p.1 ≠ r.id) → Next (exec (.remoteTimeout r.id) s) fun t => answered 1 [] t ∧ t.mem = s.mem) ∧
    (¬ late → exec (.remoteTimeout r.id) s = .next s) ∧
    (∀ a host, r.peer = none → r.kind < 2 → late ∨ ¬ first → exec (.hostCompletion r.id a host) s = .next s) ∧
    (∀ a v, r.peer = none → r.kind < 2 → ¬ late → first → exec (.hostCompletion r.id a (some v)) s =
      exec (.hostCompletion r.id a none) (s.put (hostKey r.addr) ((natBytes 8 v.toNat).take r.size))) ∧
    (r.peer = none → r.kind < 2 → ¬ late → first →
      Next (exec (.hostCompletion r.id .ur none) s) (fun t => answered 2 [] t ∧ t.mem = s.mem) ∧
      Next (exec (.hostCompletion r.id .ca none) s) (fun t => answered 3 [] t ∧ t.mem = s.mem) ∧
      (r.kind = 0 → r.posted = false → Next (exec (.hostCompletion r.id .ok none) s) fun t => answered 0 (s.bytes (hostKey r.addr) r.size) t ∧ t.mem = s.mem) ∧
      (r.kind = 1 → Memory.wf s.mem = true → Next (exec (.hostCompletion r.id .ok none) s) fun t => (r.posted = true → gone t) ∧
        (r.posted = false → answered 0 [] t) ∧
        (∀ k < r.data.length, some (memRead t.mem (hostKey r.addr + k)) = r.data[k]?) ∧
        ∀ x, x < hostKey r.addr ∨ hostKey r.addr + r.data.length ≤ x → memRead t.mem x = memRead s.mem x)) ∧
    (∀ hdr payload, r.kind ≤ 3 → r.peer = some (fieldN hdr 16 12) → r.id % 2 ^ 16 = fieldN hdr 39 16 → fieldN hdr 0 4 = 2 * r.kind + 1 →
      fieldN hdr 4 12 = s.sys.mpkg.toNat → (∀ x ∈ s.remotes, x.ans = none → x.peer = r.peer → x.id % 2 ^ 16 = r.id % 2 ^ 16 → x = r) →
      (¬ linked ∨ ¬ left → exec (.zillasCompletion hdr payload) s = .next s) ∧ (linked → left →
      (late → exec (.zillasCompletion hdr payload) s = .next s) ∧
      (¬ late → fieldN hdr 66 6 = 0 → r.posted = true → Next (exec (.zillasCompletion hdr payload) s) fun t => gone t ∧ t.mem = s.mem) ∧
      (¬ late → fieldN hdr 66 6 = 0 → r.posted = false → r.kind = 0 → payload.length = r.size → Next (exec (.zillasCompletion hdr payload) s) fun t =>
        answered 0 payload t ∧ t.mem = s.mem) ∧
      (¬ late → fieldN hdr 66 6 = 0 → r.posted = false → r.kind = 1 ∨ r.kind = 3 → Next (exec (.zillasCompletion hdr payload) s) fun t =>
        answered 0 [] t ∧ t.mem = s.mem) ∧
      (¬ late → fieldN hdr 66 6 = 0 → r.posted = false → r.kind = 2 → Next (exec (.zillasCompletion hdr payload) s) fun t => t.mem = s.mem ∧
        answered 0 (natBytes r.size (fieldN hdr 128 64) ++ List.replicate (8 - r.size) 0#8 ++ [if hdr.getLsbD 192 = decide (r.member ≠ 10) then 1#8 else 0#8]) t) ∧
      (¬ late → fieldN hdr 66 6 = 1 → Next (exec (.zillasCompletion hdr payload) s) fun t => answered 2 [] t ∧ t.mem = s.mem) ∧
      (¬ late → fieldN hdr 66 6 = 2 → Next (exec (.zillasCompletion hdr payload) s) fun t => answered 3 [] t ∧ t.mem = s.mem))) ∧
    (∀ members : BitVec 256, (r.kind = 5 ∨ r.kind = 6 ∨ r.kind = 7) → ¬ late →
      (linked → Next (exec (.collIncomplete r.id members) s) fun t => answered 256 (natBytes 32 members.toNat) t ∧ t.mem = s.mem) ∧
      (¬ linked → exec (.collIncomplete r.id members) s = .next s)) ∧
    (r.kind = 6 → ¬ late → linked → left → r.posted = false → Next (exec (.collCommit r.id) s) fun t => answered 0 [] t ∧ t.mem = s.mem) ∧
    (r.kind ≠ 6 ∨ late ∨ ¬ linked ∨ ¬ left → exec (.collCommit r.id) s = .next s) ∧
    (∀ (i : Inst) (h : Nat) (a : Handle) (q : Request) (others : List (List Byte)), s.waitingReq r.id = some (i, h, q) →
      s.inst? i.serial = some i → i.handles[h]? = some a → a.reqs.find? (fun y => y.id == q.id) = some q →
      match Config.collGroup (q.desc.toNat / 2 ^ 256 % 2 ^ 16) with
      | none => exec (.collResult r.id others) s = .next s
      | some (n, me) => (r.kind ≠ 5 ∨ late ∨ ¬ linked ∨ ¬ left ∨ others.length + 1 ≠ n → exec (.collResult r.id others) s = .next s) ∧
      (r.kind = 5 → ¬ late → linked → left → others.length + 1 = n → (∀ l ∈ others, l.length = q.len) →
        let l := collReduce (q.aux / 16 % 16) (q.aux % 16) (others.take me ++ r.data :: others.drop me)
        Next (exec (.collResult r.id others) s) fun t => t.mem = s.mem ∧ (∃ x ∈ t.remotes, x.id = r.id ∧ x.kind = 7 ∧ x.ans = none) ∧
          ((t.inst? i.serial).bind fun j => (j.handles[h]?).bind fun b => b.reqs.find? fun y => y.id == q.id) =
            some { q with pos := 0, buf := some l, idx := some r.id, wait := none }))) ∧
  (∀ (s : State) (serial h idx : Nat) (i : Inst) (a : Handle) (q : Request) (r : Remote) (l : List Byte), s.inst? serial = some i →
    i.handles[h]? = some a → a.reqs[idx]? = some q → (∀ x ∈ a.reqs, x.id = q.id → x = q) → (∀ x ∈ a.reqs, x.told = false → x.resp = none) →
    i.region ≠ [] → q.resp = none → a.mayStart q = true → q.started = true → q.member = 4 → q.wait = none → q.idx = some r.id → q.buf = some l →
    r ∈ s.remotes → (∀ x ∈ s.remotes, x.id = r.id → x = r) → r.ans = none →
    let after (t : State) : Option Request := ((t.inst? serial).bind fun j => j.handles[h]?).bind fun x => x.reqs[idx]?
    let dst := q.desc.extractLsb' 0 64 + BitVec.ofNat 64 q.pos
    (l = [] → Next (exec (.engineUnit serial h idx) s) fun t => (∃ x ∈ t.remotes, x.id = r.id ∧ x.kind = 6 ∧ x.ans = none) ∧
      after t = some { q with wait := some r.id } ∧ t.mem = s.mem) ∧
    (l ≠ [] → ∀ p o, inWindow dst = true → s.resolve i.who .store dst = .ok (.win p o) s → ¬ Held s i.who p →
      Next (exec (.engineUnit serial h idx) s) fun t => t.mem = memPut s.mem (p.mem o) (l.take 512) ∧
        after t = some { q with pos := q.pos + (l.take 512).length, buf := some (l.drop 512) })) ∧
  (∀ x y : W32, collReduce 6 0 [natBytes 4 x.toNat, natBytes 4 y.toNat] = natBytes 4 (x + y).toNat) ∧
  (∀ x y z : W32, collReduce 0 0 [natBytes 4 x.toNat, natBytes 4 y.toNat, natBytes 4 z.toNat] =
    natBytes 4 (roundF32 0 ((f32Val (roundF32 0 ((f32Val x).add 0 (f32Val y)))).add 0 (f32Val z))).toNat) ∧
  (∀ (s : State) (r : Remote), r ∈ s.remotes → r.posted = true → (∀ x ∈ s.remotes, x.id = r.id → x = r) →
    (r.ans = none → exec (.postedStoreFailure r.id) s = .next s) ∧
    (∀ st l, r.ans = some (st, l) → st ≠ 0 → Next (exec (.postedStoreFailure r.id) s) fun t => t.posted = s.posted ++ [(r.serial, r.va)] ∧
      (∀ x, x ∈ t.remotes ↔ x ∈ s.remotes ∧ x.id ≠ r.id) ∧ t.mem = s.mem)) ∧
  (∀ (s : State) (f k : Nat), f < 257 → k < 8 → s.fns.length = 257 →
    let n := (s.fn f).owed.getD k 0
    let sends : Bool := (s.fn f).msixOn && !(s.fn f).msixHold
    (n = 0 → exec (.msixMessage f k) s = .next s) ∧
    (0 < n → Next (exec (.msixMessage f k) s) fun t => (t.fn f).owed.getD k 0 = n - 1 ∧ (∀ g, g ≠ f → t.fn g = s.fn g) ∧ t.mem = s.mem ∧
      ((s.fn f).msixMask.getLsbD k = true ∨ sends = false → (t.fn f).msixPend.getLsbD k = true ∧ t.msixSent = s.msixSent) ∧
      ((s.fn f).msixMask.getLsbD k = false → sends = true → (t.fn f).msixPend = (s.fn f).msixPend ∧ t.msixSent = s.msixSent ++ [(f, k)])) ∧
    (Next (exec (.msixUnmask f (.vector k)) s) fun t => (t.fn f).msixMask.getLsbD k = false ∧ t.mem = s.mem ∧
      (t.fn f).msixPend.getLsbD k = ((s.fn f).msixPend.getLsbD k && !sends) ∧
      (∀ j, j ≠ k → (t.fn f).msixMask.getLsbD j = (s.fn f).msixMask.getLsbD j) ∧
      t.msixSent = s.msixSent ++ if (s.fn f).msixPend.getLsbD k && sends then [(f, k)] else []) ∧
    (∀ on hold : Bool, let go (j : Nat) : Bool := (s.fn f).msixPend.getLsbD j && !(s.fn f).msixMask.getLsbD j && on && !hold
      Next (exec (.msixUnmask f (.control on hold)) s) fun t => (t.fn f).msixOn = on ∧ (t.fn f).msixHold = hold ∧ t.mem = s.mem ∧
        (t.fn f).msixMask = (s.fn f).msixMask ∧ (∀ j < 8, (t.fn f).msixPend.getLsbD j = ((s.fn f).msixPend.getLsbD j && !go j)) ∧
        t.msixSent = s.msixSent ++ ((List.range 8).filter go).map fun j => (f, j))) ∧
  (∀ (s : State) (hdr : BitVec 512) (payload : List Byte) (n : Nat),
    let pa := hdr.toNat / 2 ^ 72 % 2 ^ 52
    let here := fieldN hdr 4 12 = s.sys.mpkg.toNat ∧ ∃ k ∈ s.upPorts, k ∉ s.draining
    let owned (n : Nat) := ∃ p < 32, s.owns p pa = true ∧ s.owns p (pa + (n - 1)) = true
    let answered (st : Nat) (P : Packet → Prop) (t : State) : Prop := ∃ p, t.sentPackets = s.sentPackets ++ [p] ∧ fieldN p.hdr 0 4 = fieldN hdr 0 4 + 1 ∧
      fieldN p.hdr 4 12 = fieldN hdr 16 12 ∧ fieldN p.hdr 16 12 = s.sys.mpkg.toNat ∧ fieldN p.hdr 28 11 = fieldN hdr 28 11 ∧
      fieldN p.hdr 39 16 = fieldN hdr 39 16 ∧ fieldN p.hdr 66 6 = st ∧ P p
    let same (t : State) : Prop := { t with sentPackets := s.sentPackets } = s
    let noted (t : State) : Prop := { t with sentPackets := s.sentPackets, sys := s.sys } = s ∧ t.sys.mevent.getLsbD 2 = true ∧
      t.sys.mecc.toNat / 2 ^ 32 = min (s.sys.mecc.toNat / 2 ^ 32 + 1) (2 ^ 32 - 1)
    let counted (n : Nat) (t : State) : Prop := ∀ p o, s.ownerOf pa n = some p → s.ownerOfPart p = some o →
      t.owners = ((s.meter o 16 n).meter o 15 ((n + 63) / 64)).owners
    (¬ here → exec (.zillasRead hdr n) s = .next s ∧ exec (.zillasWrite hdr payload) s = .next s ∧ exec (.zillasAtomic hdr) s = .next s ∧
      exec (.zillasMessage hdr payload) s = .next s) ∧ (
    let plain (_ : Packet) : Prop := True
    s.draining = [] → here →
    (fieldN hdr 0 4 = 0 → (¬ owned n → Next (exec (.zillasRead hdr n) s) fun t => answered 1 plain t ∧ same t) ∧
      (owned n → s.poisoned pa n = true → Next (exec (.zillasRead hdr n) s) fun t => answered 2 plain t ∧ noted t) ∧
      (owned n → s.poisoned pa n = false → s.seals = [] → Next (exec (.zillasRead hdr n) s) fun t =>
        answered 0 (fun p => fieldN p.hdr 128 384 = bytesNat ((s.bytes pa n).take 48) ∧ p.payload = (s.bytes pa n).drop 48) t ∧
        counted n t ∧ { t with sentPackets := s.sentPackets, owners := s.owners } = s)) ∧
    (fieldN hdr 0 4 = 2 → (¬ owned payload.length → Next (exec (.zillasWrite hdr payload) s) fun t => answered 1 plain t ∧ same t) ∧
      (owned payload.length → s.seals = [] → Memory.wf s.mem = true → Next (exec (.zillasWrite hdr payload) s) fun t => answered 0 plain t ∧ counted payload.length t ∧
        (∀ k < payload.length, some (memRead t.mem (pa + k)) = payload[k]?) ∧
        (∀ x, x < pa ∨ pa + payload.length ≤ x → memRead t.mem x = memRead s.mem x) ∧ t.insts = s.insts)) ∧
    (fieldN hdr 0 4 = 4 → let member := fieldN hdr 124 4
      let size := if hdr.getLsbD 256 then 8 else 4
      let old := s.num pa size
      let m := atomicMember (8 * size) member old (fieldN hdr 128 64 % 2 ^ (8 * size)) (fieldN hdr 192 64 % 2 ^ (8 * size))
      (13 ≤ member ∨ pa % size ≠ 0 ∨ ¬ owned size → Next (exec (.zillasAtomic hdr) s) fun t => answered 1 plain t ∧ same t) ∧
      (member < 13 → pa % size = 0 → owned size → s.poisoned pa size = true → Next (exec (.zillasAtomic hdr) s) fun t => answered 2 plain t ∧ noted t) ∧
      (member < 13 → pa % size = 0 → owned size → s.poisoned pa size = false → s.seals = [] → Memory.wf s.mem = true →
        (∀ o ∈ s.bars, ¬ (pa ≤ o.addr ∧ o.addr + 4 ≤ pa + size)) → Next (exec (.zillasAtomic hdr) s) fun t =>
          answered 0 (fun p => fieldN p.hdr 128 64 = old ∧ p.hdr.getLsbD 192 = m.1.isSome) t ∧ t.num pa size = (m.1.getD old) % 2 ^ (8 * size) ∧
          ∀ x, x < pa ∨ pa + size ≤ x → memRead t.mem x = memRead s.mem x)) ∧
    (fieldN hdr 0 4 = 6 → let chan := hdr.toNat / 2 ^ 72 % 2 ^ 16
      let room := (s.messages.map fun m => m.data.length).sum + payload.length ≤ 16 * 2 ^ 20
      ((s.part (chan / 2 ^ 11)).en = false → Next (exec (.zillasMessage hdr payload) s) fun t => answered 0 plain t ∧ same t) ∧
      ((s.part (chan / 2 ^ 11)).en = true → ¬ room → exec (.zillasMessage hdr payload) s = .next s) ∧
      ((s.part (chan / 2 ^ 11)).en = true → room → Next (exec (.zillasMessage hdr payload) s) fun t => answered 0 plain t ∧
        t.messages = s.messages ++ [⟨fieldN hdr 16 12, chan, payload⟩] ∧ t.mem = s.mem)))) ∧
  (∀ (s : State) (k : Nat), k < s.portsUp.length →
    (s.portsUp.getD k false = false → exec (.zillasPortDown k) s = .next s) ∧
    (s.portsUp.getD k false = true → s.carries k = true → Next (exec (.zillasPortDown k) s) fun t => k ∈ t.draining ∧ { t with draining := s.draining } = s) ∧
    (s.portsUp.getD k false = true → s.carries k = false → (∀ x ∈ s.draining, x = k) → Next (exec (.zillasPortDown k) s) fun t => t.draining = [] ∧
      (∀ j, t.portsUp.getD j false = if j = k then false else s.portsUp.getD j false) ∧ t.heldPackets = [] ∧ t.mem = s.mem ∧
      ((∃ j < 18, t.portsUp.getD j false = true) → t.sentPackets = s.sentPackets ++ s.heldPackets.map Prod.snd)) ∧
    (s.sys.mpkgSet = false → exec (.zillasPortUp k) s = .next s) ∧
    (s.draining ≠ [] → k ∉ s.draining → exec (.zillasPortUp k) s = .next s) ∧
    (s.sys.mpkgSet = true → s.draining = [] ∨ k ∈ s.draining → Next (exec (.zillasPortUp k) s) fun t => (∀ j, t.portsUp.getD j false = if j = k then true else s.portsUp.getD j false) ∧
      k ∉ t.draining ∧ t.mem = s.mem))

/-- Droop, temperature, freeze, reset, boot, activation and measurements (R419, R421, R436, R437, R438, R440, R441,
R442, R443, R444). A stretch counts in MDROOP. The throttle level, after 100 µs, rises at 95 degrees, falls below
90, stays within 0 to 15, and a rise sets MEVENT.THERM; at 110 degrees every clock stops under THERMTRIP. With the
clocks stopped, by that or by freeze, only RESET_N and a read-out take place; a read-out of a confidential quire
needs SPDM authentication. A hub reset clears MBOOT, the meters, the partitions and the keys and keeps memory. A
stage whose image verifies runs the next: ALG 0x01, the digest over LEN bytes, the signature and the fuse; a failure
stops boot with its number and its reason, a fetch that fails three times among them; the measurement of an image
that runs is kept. Bring-up zeroes the arrays and the HBM outside the carve-out, writes MPKG once, enables the ports
and sets UP. A stage write whose images verify, commit and commit point move MACT.STATE in order, the commit point
at most 2 ms after the commit, and one that leaves STATE other than 0 sets MEVENT.ACT; the new images' measurements
are in force from the commit point on. A measurement request is answered by the class of its arrival; after a boot
failure every request but GET_VERSION and GET_MEASUREMENTS is refused. (The model's readings and choices: memory
kept over a reset, log entry 85; a stage write that fails changes nothing, log entry 83; MEVENT.ACT and the trip,
log entry 86; stage 1 and the bring-up in one step, log entry 87; the carve-out's address, log entry 95; the order
of a stage's checks, log entry 106; other requests, log entry 13; what a read-out gives, log entry 84; measurements
before boot, log entry 11.) -/
def Obligations.HubEvents : Prop :=
  (∀ (s : State) (die : Nat), (4 ≤ die → exec (.droopStretch die) s = .next s) ∧
    (die < 4 → Next (exec (.droopStretch die) s) fun t => t.sys.mdroop.toNat = min (s.sys.mdroop.toNat + 1) (2 ^ 32 - 1) ∧
      { t with sys := s.sys } = s ∧ { t.sys with mdroop := s.sys.mdroop } = s.sys)) ∧
  (∀ (s : State) (temp : Nat), let l := s.sys.mtherm.toNat / 2 ^ 8 % 16
    let due := s.sys.thermAt.toNat + 100000 ≤ s.nsec.toNat
    let n := if due then (if 95 ≤ temp then min 15 (l + 1) else if temp < 90 then l - 1 else l) else l
    Next (exec (.thermalTick temp) s) fun t => t.sys.mtherm.toNat = min temp 255 + n * 2 ^ 8 ∧ { t with sys := s.sys, frozen := s.frozen } = s ∧
      t.sys.thermAt = (if due then s.nsec else s.sys.thermAt) ∧ (110 ≤ temp → t.frozen = true ∧ t.sys.thermTrip = true) ∧
      (temp < 110 → t.frozen = s.frozen ∧ t.sys.thermTrip = s.sys.thermTrip) ∧
      ∀ k, t.sys.mevent.getLsbD k = if k = 3 ∧ l < n then true else s.sys.mevent.getLsbD k) ∧
  (∀ s : State, let hot := 110 ≤ s.sys.mtherm.toNat % 2 ^ 8
    exec .freeze s = .next { s with frozen := true } ∧ (¬ hot → exec .thermtrip s = .next s) ∧
    (hot → exec .thermtrip s = .next { s with frozen := true, sys := { s.sys with thermTrip := true } })) ∧
  (∀ s : State, s.frozen = true → let works (i : Instr) := i = .hubReset ∨ ∃ scan auth a, i = .managementRequest (.readOut scan auth a)
    (s.turns = [] → step s = .fault .clocksStopped) ∧
    (∀ dc dn i ts, s.turns = ⟨dc, dn, .event i⟩ :: ts → (works i → step s = exec i { s with turns := ts }) ∧ (¬ works i → step s = .fault .clocksStopped)) ∧
    (∀ dc dn a ts, s.turns = ⟨dc, dn, a⟩ :: ts → (∀ i, a ≠ .event i) → step s = .fault .clocksStopped)) ∧
  (∀ (s : State) (scan auth : Bool) (a : ArrayAsk), let reads := s.frozen = true ∧ (scan = true ∨ s.sys.mboot.toNat / 2 ^ 4 % 16 = 0) ∧
      (auth = true ∨ ∀ p, s.arrayPart a = some p → (s.part p).mccfg.getLsbD 0 = false)
    let gives (r : Reply) : Prop := exec (.managementRequest (.readOut scan auth a)) s = .next { s with replies := s.replies ++ [r] }
    (reads → gives (.array (s.arrayBytes a))) ∧ (¬ reads → gives .refused)) ∧
  (∀ s : State, Next (exec .hubReset s) fun t => t.sys.mboot = 0#64 ∧ t.sys.mpkgSet = false ∧ t.sys.mactState = 0#2 ∧ (∀ p, t.part p = Part.reset) ∧
    (∀ o : Nat, ∀ v ∈ (t.owner o).meters, v = 0#64) ∧ (∀ f, t.fn f = Fn.reset) ∧ t.insts = [] ∧ t.stageMeas = List.replicate 4 0 ∧ t.staged = none ∧ t.frozen = false ∧ t.mem = s.mem ∧ t.poison = s.poison) ∧
  (∀ (s : State) (e : BootFetch), let stage := s.sys.mboot.toNat % 16
    let err := s.sys.mboot.toNat / 2 ^ 4 % 16
    let sets (k n : Nat) : Prop := exec (.bootStage e) s =
      .next { s with sys := { s.sys with mboot := BitVec.ofNat 64 (k + n * 2 ^ 4), fetchFails := 0 } }
    (err ≠ 0 ∨ 5 ≤ stage → exec (.bootStage e) s = .next s) ∧ (err = 0 → stage = 0 → sets 1 0) ∧
    (err = 0 → 0 < stage → stage < 5 → (∀ record bytes, e = .image record bytes → exec (.bootStage e) s = .next { s with
        sys := { s.sys with mboot := BitVec.ofNat 64 (stage + 1 + bootVerdict stage record bytes * 2 ^ 4), fetchFails := 0 }
        stageMeas := updAt s.stageMeas (stage - 1) fun m => if bootVerdict stage record bytes = 0 then colophonMeas record.toNat else m }) ∧
      (e = .failed → 2 ≤ s.sys.fetchFails → sets (stage + 1) 4) ∧
      (e = .failed → s.sys.fetchFails < 2 → exec (.bootStage e) s = .next { s with sys := { s.sys with fetchFails := s.sys.fetchFails + 1 } }))) ∧
  (∀ (k : Nat) (record : BitVec 1200) (bytes : List Byte), let len := record.toNat / 2 ^ 16 % 2 ^ 32
    bootVerdict k record bytes = 0 ↔ record.toNat % 2 ^ 8 = 1 ∧ len ≤ bytes.length ∧ Config.sha384 (bytes.take len) = colophonMeas record.toNat ∧
      Config.p384Verify (if k = 1 then 0 else 1) ((natBytes 150 record.toNat).take 54) (record.extractLsb' 432 768) = true ∧
      Config.svnFuse k ≤ record.toNat / 2 ^ 8 % 2 ^ 8) ∧
  (∀ (s : State) (pkg : BitVec 12) (v : W64), let done := s.sys.mboot.toNat % 2 ^ 8 = 5
    (¬ done ∨ s.sys.mboot.getLsbD 8 = true → exec (.quireBringup pkg) s = .next s) ∧
    (done → s.sys.mboot.getLsbD 8 = false → Next (exec (.quireBringup pkg) s) fun t => t.sys.mboot.getLsbD 8 = true ∧ t.sys.mpkgSet = true ∧
      t.sys.mpkg = (if s.sys.mpkgSet then s.sys.mpkg else pkg) ∧ (∀ p ∈ t.portsUp, p = true) ∧ t.portsUp.length = s.portsUp.length ∧
      (∀ x, memRead t.mem x = if (376 * 2 ^ 30 ≤ x ∧ x < 384 * 2 ^ 30) ∨ (hostKey 0 ≤ x ∧ x < tileKey 0 0 0) then memRead s.mem x else 0#8)) ∧
    (s.sys.mpkgSet = true → exec (.mpkgWrite v) s = .next s) ∧
    (s.sys.mpkgSet = false → Next (exec (.mpkgWrite v) s) fun t => t.sys.mpkg = v.extractLsb' 0 12 ∧ t.sys.mpkgSet = true ∧ { t with sys := s.sys } = s)) ∧
  (∀ (k : Nat) (record : BitVec 1200) (bytes : List Byte), stageImage k .failed = none ∧
    stageImage k (.image record bytes) = if bootVerdict k record bytes = 0 then some (colophonMeas record.toNat) else none) ∧
  (∀ s : State, let moves (k : BitVec 2) (P : State → Prop) (t : State) : Prop := t.sys.mactState = k ∧ P t ∧
      { t with sys := s.sys, stageMeas := s.stageMeas, staged := s.staged } = s ∧
      { t.sys with mactState := s.sys.mactState, mevent := s.sys.mevent, commitAt := s.sys.commitAt } = s.sys ∧
      ∀ j, t.sys.mevent.getLsbD j = (s.sys.mevent.getLsbD j || decide (j = 4 ∧ k ≠ 0#2))
    let goes (i : Instr) (k : BitVec 2) (P : State → Prop) : Prop := Next (exec i s) (moves k P)
    (∀ monitor os, Next (exec (.mactStage ⟨monitor, os⟩) s) fun t => match stageImage 3 monitor, stageImage 4 os with
      | some a, some b => if s.sys.mactState = 2#2 then t = s else moves 1#2 (fun t => t.staged = some (a, b) ∧ t.stageMeas = s.stageMeas) t
      | _, _ => t = s) ∧
    (s.sys.mactState = 1#2 → goes .mactCommit 2#2 fun t => t.sys.commitAt = s.nsec ∧ t.staged = s.staged ∧ t.stageMeas = s.stageMeas) ∧
    (s.sys.mactState ≠ 1#2 → exec .mactCommit s = .next s) ∧
    (s.sys.mactState = 2#2 → goes .commitPoint 0#2 fun t => t.staged = none ∧ (s.staged = none → t.stageMeas = s.stageMeas) ∧
      ∀ a b, s.staged = some (a, b) → t.stageMeas = s.stageMeas.take 2 ++ [a, b]) ∧
    (s.sys.mactState ≠ 2#2 → exec .commitPoint s = .next s) ∧
    ∀ dc dn, let u := s.pass dc dn
      (u.sys.commitAt.toNat + 2000000 ≤ u.nsec.toNat → exec .commitPoint u = .next (s.elapse dc dn)) ∧
      (u.nsec.toNat < u.sys.commitAt.toNat + 2000000 → s.elapse dc dn = u)) ∧
  (∀ (s : State) (k : Nat), let gives (r : Reply) : Prop := Next (exec (.getMeasurements k) s) fun t => t.replies = s.replies ++ [r] ∧ { t with replies := s.replies, free := s.free } = s
    let pending := decide (s.sys.mactState = 1#2)
    let sign := Config.spdmSignature s.free
    (s.sys.mactState = 2#2 → gives (.notReady 11)) ∧
    (s.sys.mactState ≠ 2#2 →
      (k = 1 → gives (.measurement k (digestWords Config.romMeasurement) pending sign)) ∧
      (2 ≤ k → k ≤ 5 → gives (.measurement k (digestWords (s.stageMeas.getD (k - 2) 0)) pending sign)) ∧
      (6 ≤ k → k ≤ 0x0F → gives (.measurement k (List.replicate 6 0#64) pending sign)) ∧
      (∀ p < 32, k = 0x20 + p → gives (.measurement k (digestWords (if (s.part p).mccfg.getLsbD 0 then (s.part p).cmr else 0)) pending sign)) ∧
      (∀ o < 64, k = 0x40 + o → gives (.measurement k (BitVec.ofNat 64 (o + if pending then 2 ^ 8 else 0) :: s.nsec :: (s.owner o).meters) pending sign)) ∧
      (k = 0 ∨ (0x10 ≤ k ∧ k < 0x20) ∨ 0x80 ≤ k → gives .refused))) ∧
  (∀ s : State, (Next (exec (.managementRequest .getVersion) s) fun t => t.replies = s.replies ++ [.version] ∧ { t with replies := s.replies } = s) ∧
    ∀ code, (s.sys.mboot.toNat / 2 ^ 4 % 16 ≠ 0 → Next (exec (.managementRequest (.other code)) s) fun t => t.replies = s.replies ++ [.refused] ∧
        { t with replies := s.replies } = s) ∧
      (s.sys.mboot.toNat / 2 ^ 4 % 16 = 0 → Next (exec (.managementRequest (.other code)) s) fun t => t.sys.mevent.getLsbD 1 = true ∧
        t.replies.length = s.replies.length + 1 ∧ t.mem = s.mem ∧ t.insts = s.insts))
end

