-- ==== Sys2Proof/Laws/State.lean ====
section
/-!
SUPPORT. What each named update of State does to each field: one equation per field, so that no proof unfolds a record
update.
-/

namespace Sys2Proof.Machine

/-! ### State.modInst -/

@[simp] theorem State.modInst_turns (s : State) (n : Nat) (f : Inst → Inst) : (s.modInst n f).turns = s.turns := rfl
@[simp] theorem State.modInst_cur (s : State) (n : Nat) (f : Inst → Inst) : (s.modInst n f).cur = s.cur := rfl
@[simp] theorem State.modInst_free (s : State) (n : Nat) (f : Inst → Inst) : (s.modInst n f).free = s.free := rfl
@[simp] theorem State.modInst_blocked (s : State) (n : Nat) (f : Inst → Inst) : (s.modInst n f).blocked = s.blocked := rfl
@[simp] theorem State.modInst_cycle (s : State) (n : Nat) (f : Inst → Inst) : (s.modInst n f).cycle = s.cycle := rfl
@[simp] theorem State.modInst_nsec (s : State) (n : Nat) (f : Inst → Inst) : (s.modInst n f).nsec = s.nsec := rfl
@[simp] theorem State.modInst_frozen (s : State) (n : Nat) (f : Inst → Inst) : (s.modInst n f).frozen = s.frozen := rfl
@[simp] theorem State.modInst_insts (s : State) (n : Nat) (f : Inst → Inst) : (s.modInst n f).insts = updWhere (fun i => i.serial == n) f s.insts := rfl
@[simp] theorem State.modInst_sups (s : State) (n : Nat) (f : Inst → Inst) : (s.modInst n f).sups = s.sups := rfl
@[simp] theorem State.modInst_quires (s : State) (n : Nat) (f : Inst → Inst) : (s.modInst n f).quires = s.quires := rfl
@[simp] theorem State.modInst_cores (s : State) (n : Nat) (f : Inst → Inst) : (s.modInst n f).cores = s.cores := rfl
@[simp] theorem State.modInst_mem (s : State) (n : Nat) (f : Inst → Inst) : (s.modInst n f).mem = s.mem := rfl
@[simp] theorem State.modInst_poison (s : State) (n : Nat) (f : Inst → Inst) : (s.modInst n f).poison = s.poison := rfl
@[simp] theorem State.modInst_seals (s : State) (n : Nat) (f : Inst → Inst) : (s.modInst n f).seals = s.seals := rfl
@[simp] theorem State.modInst_tlb (s : State) (n : Nat) (f : Inst → Inst) : (s.modInst n f).tlb = s.tlb := rfl
@[simp] theorem State.modInst_residents (s : State) (n : Nat) (f : Inst → Inst) : (s.modInst n f).residents = s.residents := rfl
@[simp] theorem State.modInst_units (s : State) (n : Nat) (f : Inst → Inst) : (s.modInst n f).units = s.units := rfl
@[simp] theorem State.modInst_routes (s : State) (n : Nat) (f : Inst → Inst) : (s.modInst n f).routes = s.routes := rfl
@[simp] theorem State.modInst_ports (s : State) (n : Nat) (f : Inst → Inst) : (s.modInst n f).ports = s.ports := rfl
@[simp] theorem State.modInst_mtiles (s : State) (n : Nat) (f : Inst → Inst) : (s.modInst n f).mtiles = s.mtiles := rfl
@[simp] theorem State.modInst_helds (s : State) (n : Nat) (f : Inst → Inst) : (s.modInst n f).helds = s.helds := rfl
@[simp] theorem State.modInst_bankToks (s : State) (n : Nat) (f : Inst → Inst) : (s.modInst n f).bankToks = s.bankToks := rfl
@[simp] theorem State.modInst_confs (s : State) (n : Nat) (f : Inst → Inst) : (s.modInst n f).confs = s.confs := rfl
@[simp] theorem State.modInst_locks (s : State) (n : Nat) (f : Inst → Inst) : (s.modInst n f).locks = s.locks := rfl
@[simp] theorem State.modInst_bars (s : State) (n : Nat) (f : Inst → Inst) : (s.modInst n f).bars = s.bars := rfl
@[simp] theorem State.modInst_waits (s : State) (n : Nat) (f : Inst → Inst) : (s.modInst n f).waits = s.waits := rfl
@[simp] theorem State.modInst_decls (s : State) (n : Nat) (f : Inst → Inst) : (s.modInst n f).decls = s.decls := rfl
@[simp] theorem State.modInst_attns (s : State) (n : Nat) (f : Inst → Inst) : (s.modInst n f).attns = s.attns := rfl
@[simp] theorem State.modInst_tokUnits (s : State) (n : Nat) (f : Inst → Inst) : (s.modInst n f).tokUnits = s.tokUnits := rfl
@[simp] theorem State.modInst_remotes (s : State) (n : Nat) (f : Inst → Inst) : (s.modInst n f).remotes = s.remotes := rfl
@[simp] theorem State.modInst_transits (s : State) (n : Nat) (f : Inst → Inst) : (s.modInst n f).transits = s.transits := rfl
@[simp] theorem State.modInst_posted (s : State) (n : Nat) (f : Inst → Inst) : (s.modInst n f).posted = s.posted := rfl
@[simp] theorem State.modInst_parts (s : State) (n : Nat) (f : Inst → Inst) : (s.modInst n f).parts = s.parts := rfl
@[simp] theorem State.modInst_fns (s : State) (n : Nat) (f : Inst → Inst) : (s.modInst n f).fns = s.fns := rfl
@[simp] theorem State.modInst_owners (s : State) (n : Nat) (f : Inst → Inst) : (s.modInst n f).owners = s.owners := rfl
@[simp] theorem State.modInst_tunnels (s : State) (n : Nat) (f : Inst → Inst) : (s.modInst n f).tunnels = s.tunnels := rfl
@[simp] theorem State.modInst_lends (s : State) (n : Nat) (f : Inst → Inst) : (s.modInst n f).lends = s.lends := rfl
@[simp] theorem State.modInst_sys (s : State) (n : Nat) (f : Inst → Inst) : (s.modInst n f).sys = s.sys := rfl
@[simp] theorem State.modInst_messages (s : State) (n : Nat) (f : Inst → Inst) : (s.modInst n f).messages = s.messages := rfl
@[simp] theorem State.modInst_sentPackets (s : State) (n : Nat) (f : Inst → Inst) : (s.modInst n f).sentPackets = s.sentPackets := rfl
@[simp] theorem State.modInst_portsUp (s : State) (n : Nat) (f : Inst → Inst) : (s.modInst n f).portsUp = s.portsUp := rfl
@[simp] theorem State.modInst_draining (s : State) (n : Nat) (f : Inst → Inst) : (s.modInst n f).draining = s.draining := rfl
@[simp] theorem State.modInst_heldPackets (s : State) (n : Nat) (f : Inst → Inst) : (s.modInst n f).heldPackets = s.heldPackets := rfl
@[simp] theorem State.modInst_replies (s : State) (n : Nat) (f : Inst → Inst) : (s.modInst n f).replies = s.replies := rfl
@[simp] theorem State.modInst_msixSent (s : State) (n : Nat) (f : Inst → Inst) : (s.modInst n f).msixSent = s.msixSent := rfl
@[simp] theorem State.modInst_stageMeas (s : State) (n : Nat) (f : Inst → Inst) : (s.modInst n f).stageMeas = s.stageMeas := rfl
@[simp] theorem State.modInst_staged (s : State) (n : Nat) (f : Inst → Inst) : (s.modInst n f).staged = s.staged := rfl
@[simp] theorem State.modInst_lastOwner (s : State) (n : Nat) (f : Inst → Inst) : (s.modInst n f).lastOwner = s.lastOwner := rfl
@[simp] theorem State.modInst_nextSerial (s : State) (n : Nat) (f : Inst → Inst) : (s.modInst n f).nextSerial = s.nextSerial := rfl
@[simp] theorem State.modInst_nextId (s : State) (n : Nat) (f : Inst → Inst) : (s.modInst n f).nextId = s.nextId := rfl
@[simp] theorem State.modInst_nextKey (s : State) (n : Nat) (f : Inst → Inst) : (s.modInst n f).nextKey = s.nextKey := rfl
@[simp] theorem State.modInst_dlser (s : State) (n : Nat) (f : Inst → Inst) : (s.modInst n f).dlser = s.dlser := rfl
@[simp] theorem State.modInst_fenceRaise (s : State) (n : Nat) (f : Inst → Inst) : (s.modInst n f).fenceRaise = s.fenceRaise := rfl

/-! ### State.modOn -/

@[simp] theorem State.modOn_turns (s : State) (n : Nat) (f : Inst → Inst) : (s.modOn n f).turns = s.turns := rfl
@[simp] theorem State.modOn_cur (s : State) (n : Nat) (f : Inst → Inst) : (s.modOn n f).cur = s.cur := rfl
@[simp] theorem State.modOn_free (s : State) (n : Nat) (f : Inst → Inst) : (s.modOn n f).free = s.free := rfl
@[simp] theorem State.modOn_blocked (s : State) (n : Nat) (f : Inst → Inst) : (s.modOn n f).blocked = s.blocked := rfl
@[simp] theorem State.modOn_cycle (s : State) (n : Nat) (f : Inst → Inst) : (s.modOn n f).cycle = s.cycle := rfl
@[simp] theorem State.modOn_nsec (s : State) (n : Nat) (f : Inst → Inst) : (s.modOn n f).nsec = s.nsec := rfl
@[simp] theorem State.modOn_frozen (s : State) (n : Nat) (f : Inst → Inst) : (s.modOn n f).frozen = s.frozen := rfl
@[simp] theorem State.modOn_insts (s : State) (n : Nat) (f : Inst → Inst) : (s.modOn n f).insts = updWhere (fun i => i.hw == some n) f s.insts := rfl
@[simp] theorem State.modOn_sups (s : State) (n : Nat) (f : Inst → Inst) : (s.modOn n f).sups = s.sups := rfl
@[simp] theorem State.modOn_quires (s : State) (n : Nat) (f : Inst → Inst) : (s.modOn n f).quires = s.quires := rfl
@[simp] theorem State.modOn_cores (s : State) (n : Nat) (f : Inst → Inst) : (s.modOn n f).cores = s.cores := rfl
@[simp] theorem State.modOn_mem (s : State) (n : Nat) (f : Inst → Inst) : (s.modOn n f).mem = s.mem := rfl
@[simp] theorem State.modOn_poison (s : State) (n : Nat) (f : Inst → Inst) : (s.modOn n f).poison = s.poison := rfl
@[simp] theorem State.modOn_seals (s : State) (n : Nat) (f : Inst → Inst) : (s.modOn n f).seals = s.seals := rfl
@[simp] theorem State.modOn_tlb (s : State) (n : Nat) (f : Inst → Inst) : (s.modOn n f).tlb = s.tlb := rfl
@[simp] theorem State.modOn_residents (s : State) (n : Nat) (f : Inst → Inst) : (s.modOn n f).residents = s.residents := rfl
@[simp] theorem State.modOn_units (s : State) (n : Nat) (f : Inst → Inst) : (s.modOn n f).units = s.units := rfl
@[simp] theorem State.modOn_routes (s : State) (n : Nat) (f : Inst → Inst) : (s.modOn n f).routes = s.routes := rfl
@[simp] theorem State.modOn_ports (s : State) (n : Nat) (f : Inst → Inst) : (s.modOn n f).ports = s.ports := rfl
@[simp] theorem State.modOn_mtiles (s : State) (n : Nat) (f : Inst → Inst) : (s.modOn n f).mtiles = s.mtiles := rfl
@[simp] theorem State.modOn_helds (s : State) (n : Nat) (f : Inst → Inst) : (s.modOn n f).helds = s.helds := rfl
@[simp] theorem State.modOn_bankToks (s : State) (n : Nat) (f : Inst → Inst) : (s.modOn n f).bankToks = s.bankToks := rfl
@[simp] theorem State.modOn_confs (s : State) (n : Nat) (f : Inst → Inst) : (s.modOn n f).confs = s.confs := rfl
@[simp] theorem State.modOn_locks (s : State) (n : Nat) (f : Inst → Inst) : (s.modOn n f).locks = s.locks := rfl
@[simp] theorem State.modOn_bars (s : State) (n : Nat) (f : Inst → Inst) : (s.modOn n f).bars = s.bars := rfl
@[simp] theorem State.modOn_waits (s : State) (n : Nat) (f : Inst → Inst) : (s.modOn n f).waits = s.waits := rfl
@[simp] theorem State.modOn_decls (s : State) (n : Nat) (f : Inst → Inst) : (s.modOn n f).decls = s.decls := rfl
@[simp] theorem State.modOn_attns (s : State) (n : Nat) (f : Inst → Inst) : (s.modOn n f).attns = s.attns := rfl
@[simp] theorem State.modOn_tokUnits (s : State) (n : Nat) (f : Inst → Inst) : (s.modOn n f).tokUnits = s.tokUnits := rfl
@[simp] theorem State.modOn_remotes (s : State) (n : Nat) (f : Inst → Inst) : (s.modOn n f).remotes = s.remotes := rfl
@[simp] theorem State.modOn_transits (s : State) (n : Nat) (f : Inst → Inst) : (s.modOn n f).transits = s.transits := rfl
@[simp] theorem State.modOn_posted (s : State) (n : Nat) (f : Inst → Inst) : (s.modOn n f).posted = s.posted := rfl
@[simp] theorem State.modOn_parts (s : State) (n : Nat) (f : Inst → Inst) : (s.modOn n f).parts = s.parts := rfl
@[simp] theorem State.modOn_fns (s : State) (n : Nat) (f : Inst → Inst) : (s.modOn n f).fns = s.fns := rfl
@[simp] theorem State.modOn_owners (s : State) (n : Nat) (f : Inst → Inst) : (s.modOn n f).owners = s.owners := rfl
@[simp] theorem State.modOn_tunnels (s : State) (n : Nat) (f : Inst → Inst) : (s.modOn n f).tunnels = s.tunnels := rfl
@[simp] theorem State.modOn_lends (s : State) (n : Nat) (f : Inst → Inst) : (s.modOn n f).lends = s.lends := rfl
@[simp] theorem State.modOn_sys (s : State) (n : Nat) (f : Inst → Inst) : (s.modOn n f).sys = s.sys := rfl
@[simp] theorem State.modOn_messages (s : State) (n : Nat) (f : Inst → Inst) : (s.modOn n f).messages = s.messages := rfl
@[simp] theorem State.modOn_sentPackets (s : State) (n : Nat) (f : Inst → Inst) : (s.modOn n f).sentPackets = s.sentPackets := rfl
@[simp] theorem State.modOn_portsUp (s : State) (n : Nat) (f : Inst → Inst) : (s.modOn n f).portsUp = s.portsUp := rfl
@[simp] theorem State.modOn_draining (s : State) (n : Nat) (f : Inst → Inst) : (s.modOn n f).draining = s.draining := rfl
@[simp] theorem State.modOn_heldPackets (s : State) (n : Nat) (f : Inst → Inst) : (s.modOn n f).heldPackets = s.heldPackets := rfl
@[simp] theorem State.modOn_replies (s : State) (n : Nat) (f : Inst → Inst) : (s.modOn n f).replies = s.replies := rfl
@[simp] theorem State.modOn_msixSent (s : State) (n : Nat) (f : Inst → Inst) : (s.modOn n f).msixSent = s.msixSent := rfl
@[simp] theorem State.modOn_stageMeas (s : State) (n : Nat) (f : Inst → Inst) : (s.modOn n f).stageMeas = s.stageMeas := rfl
@[simp] theorem State.modOn_staged (s : State) (n : Nat) (f : Inst → Inst) : (s.modOn n f).staged = s.staged := rfl
@[simp] theorem State.modOn_lastOwner (s : State) (n : Nat) (f : Inst → Inst) : (s.modOn n f).lastOwner = s.lastOwner := rfl
@[simp] theorem State.modOn_nextSerial (s : State) (n : Nat) (f : Inst → Inst) : (s.modOn n f).nextSerial = s.nextSerial := rfl
@[simp] theorem State.modOn_nextId (s : State) (n : Nat) (f : Inst → Inst) : (s.modOn n f).nextId = s.nextId := rfl
@[simp] theorem State.modOn_nextKey (s : State) (n : Nat) (f : Inst → Inst) : (s.modOn n f).nextKey = s.nextKey := rfl
@[simp] theorem State.modOn_dlser (s : State) (n : Nat) (f : Inst → Inst) : (s.modOn n f).dlser = s.dlser := rfl
@[simp] theorem State.modOn_fenceRaise (s : State) (n : Nat) (f : Inst → Inst) : (s.modOn n f).fenceRaise = s.fenceRaise := rfl

/-! ### State.modSup -/

@[simp] theorem State.modSup_turns (s : State) (k : Nat) (f : SupBank → SupBank) : (s.modSup k f).turns = s.turns := rfl
@[simp] theorem State.modSup_cur (s : State) (k : Nat) (f : SupBank → SupBank) : (s.modSup k f).cur = s.cur := rfl
@[simp] theorem State.modSup_free (s : State) (k : Nat) (f : SupBank → SupBank) : (s.modSup k f).free = s.free := rfl
@[simp] theorem State.modSup_blocked (s : State) (k : Nat) (f : SupBank → SupBank) : (s.modSup k f).blocked = s.blocked := rfl
@[simp] theorem State.modSup_cycle (s : State) (k : Nat) (f : SupBank → SupBank) : (s.modSup k f).cycle = s.cycle := rfl
@[simp] theorem State.modSup_nsec (s : State) (k : Nat) (f : SupBank → SupBank) : (s.modSup k f).nsec = s.nsec := rfl
@[simp] theorem State.modSup_frozen (s : State) (k : Nat) (f : SupBank → SupBank) : (s.modSup k f).frozen = s.frozen := rfl
@[simp] theorem State.modSup_insts (s : State) (k : Nat) (f : SupBank → SupBank) : (s.modSup k f).insts = s.insts := rfl
@[simp] theorem State.modSup_sups (s : State) (k : Nat) (f : SupBank → SupBank) : (s.modSup k f).sups = updAt s.sups k f := rfl
@[simp] theorem State.modSup_quires (s : State) (k : Nat) (f : SupBank → SupBank) : (s.modSup k f).quires = s.quires := rfl
@[simp] theorem State.modSup_cores (s : State) (k : Nat) (f : SupBank → SupBank) : (s.modSup k f).cores = s.cores := rfl
@[simp] theorem State.modSup_mem (s : State) (k : Nat) (f : SupBank → SupBank) : (s.modSup k f).mem = s.mem := rfl
@[simp] theorem State.modSup_poison (s : State) (k : Nat) (f : SupBank → SupBank) : (s.modSup k f).poison = s.poison := rfl
@[simp] theorem State.modSup_seals (s : State) (k : Nat) (f : SupBank → SupBank) : (s.modSup k f).seals = s.seals := rfl
@[simp] theorem State.modSup_tlb (s : State) (k : Nat) (f : SupBank → SupBank) : (s.modSup k f).tlb = s.tlb := rfl
@[simp] theorem State.modSup_residents (s : State) (k : Nat) (f : SupBank → SupBank) : (s.modSup k f).residents = s.residents := rfl
@[simp] theorem State.modSup_units (s : State) (k : Nat) (f : SupBank → SupBank) : (s.modSup k f).units = s.units := rfl
@[simp] theorem State.modSup_routes (s : State) (k : Nat) (f : SupBank → SupBank) : (s.modSup k f).routes = s.routes := rfl
@[simp] theorem State.modSup_ports (s : State) (k : Nat) (f : SupBank → SupBank) : (s.modSup k f).ports = s.ports := rfl
@[simp] theorem State.modSup_mtiles (s : State) (k : Nat) (f : SupBank → SupBank) : (s.modSup k f).mtiles = s.mtiles := rfl
@[simp] theorem State.modSup_helds (s : State) (k : Nat) (f : SupBank → SupBank) : (s.modSup k f).helds = s.helds := rfl
@[simp] theorem State.modSup_bankToks (s : State) (k : Nat) (f : SupBank → SupBank) : (s.modSup k f).bankToks = s.bankToks := rfl
@[simp] theorem State.modSup_confs (s : State) (k : Nat) (f : SupBank → SupBank) : (s.modSup k f).confs = s.confs := rfl
@[simp] theorem State.modSup_locks (s : State) (k : Nat) (f : SupBank → SupBank) : (s.modSup k f).locks = s.locks := rfl
@[simp] theorem State.modSup_bars (s : State) (k : Nat) (f : SupBank → SupBank) : (s.modSup k f).bars = s.bars := rfl
@[simp] theorem State.modSup_waits (s : State) (k : Nat) (f : SupBank → SupBank) : (s.modSup k f).waits = s.waits := rfl
@[simp] theorem State.modSup_decls (s : State) (k : Nat) (f : SupBank → SupBank) : (s.modSup k f).decls = s.decls := rfl
@[simp] theorem State.modSup_attns (s : State) (k : Nat) (f : SupBank → SupBank) : (s.modSup k f).attns = s.attns := rfl
@[simp] theorem State.modSup_tokUnits (s : State) (k : Nat) (f : SupBank → SupBank) : (s.modSup k f).tokUnits = s.tokUnits := rfl
@[simp] theorem State.modSup_remotes (s : State) (k : Nat) (f : SupBank → SupBank) : (s.modSup k f).remotes = s.remotes := rfl
@[simp] theorem State.modSup_transits (s : State) (k : Nat) (f : SupBank → SupBank) : (s.modSup k f).transits = s.transits := rfl
@[simp] theorem State.modSup_posted (s : State) (k : Nat) (f : SupBank → SupBank) : (s.modSup k f).posted = s.posted := rfl
@[simp] theorem State.modSup_parts (s : State) (k : Nat) (f : SupBank → SupBank) : (s.modSup k f).parts = s.parts := rfl
@[simp] theorem State.modSup_fns (s : State) (k : Nat) (f : SupBank → SupBank) : (s.modSup k f).fns = s.fns := rfl
@[simp] theorem State.modSup_owners (s : State) (k : Nat) (f : SupBank → SupBank) : (s.modSup k f).owners = s.owners := rfl
@[simp] theorem State.modSup_tunnels (s : State) (k : Nat) (f : SupBank → SupBank) : (s.modSup k f).tunnels = s.tunnels := rfl
@[simp] theorem State.modSup_lends (s : State) (k : Nat) (f : SupBank → SupBank) : (s.modSup k f).lends = s.lends := rfl
@[simp] theorem State.modSup_sys (s : State) (k : Nat) (f : SupBank → SupBank) : (s.modSup k f).sys = s.sys := rfl
@[simp] theorem State.modSup_messages (s : State) (k : Nat) (f : SupBank → SupBank) : (s.modSup k f).messages = s.messages := rfl
@[simp] theorem State.modSup_sentPackets (s : State) (k : Nat) (f : SupBank → SupBank) : (s.modSup k f).sentPackets = s.sentPackets := rfl
@[simp] theorem State.modSup_portsUp (s : State) (k : Nat) (f : SupBank → SupBank) : (s.modSup k f).portsUp = s.portsUp := rfl
@[simp] theorem State.modSup_draining (s : State) (k : Nat) (f : SupBank → SupBank) : (s.modSup k f).draining = s.draining := rfl
@[simp] theorem State.modSup_heldPackets (s : State) (k : Nat) (f : SupBank → SupBank) : (s.modSup k f).heldPackets = s.heldPackets := rfl
@[simp] theorem State.modSup_replies (s : State) (k : Nat) (f : SupBank → SupBank) : (s.modSup k f).replies = s.replies := rfl
@[simp] theorem State.modSup_msixSent (s : State) (k : Nat) (f : SupBank → SupBank) : (s.modSup k f).msixSent = s.msixSent := rfl
@[simp] theorem State.modSup_stageMeas (s : State) (k : Nat) (f : SupBank → SupBank) : (s.modSup k f).stageMeas = s.stageMeas := rfl
@[simp] theorem State.modSup_staged (s : State) (k : Nat) (f : SupBank → SupBank) : (s.modSup k f).staged = s.staged := rfl
@[simp] theorem State.modSup_lastOwner (s : State) (k : Nat) (f : SupBank → SupBank) : (s.modSup k f).lastOwner = s.lastOwner := rfl
@[simp] theorem State.modSup_nextSerial (s : State) (k : Nat) (f : SupBank → SupBank) : (s.modSup k f).nextSerial = s.nextSerial := rfl
@[simp] theorem State.modSup_nextId (s : State) (k : Nat) (f : SupBank → SupBank) : (s.modSup k f).nextId = s.nextId := rfl
@[simp] theorem State.modSup_nextKey (s : State) (k : Nat) (f : SupBank → SupBank) : (s.modSup k f).nextKey = s.nextKey := rfl
@[simp] theorem State.modSup_dlser (s : State) (k : Nat) (f : SupBank → SupBank) : (s.modSup k f).dlser = s.dlser := rfl
@[simp] theorem State.modSup_fenceRaise (s : State) (k : Nat) (f : SupBank → SupBank) : (s.modSup k f).fenceRaise = s.fenceRaise := rfl

/-! ### State.modQuire -/

@[simp] theorem State.modQuire_turns (s : State) (q : Nat) (f : QuireRegs → QuireRegs) : (s.modQuire q f).turns = s.turns := rfl
@[simp] theorem State.modQuire_cur (s : State) (q : Nat) (f : QuireRegs → QuireRegs) : (s.modQuire q f).cur = s.cur := rfl
@[simp] theorem State.modQuire_free (s : State) (q : Nat) (f : QuireRegs → QuireRegs) : (s.modQuire q f).free = s.free := rfl
@[simp] theorem State.modQuire_blocked (s : State) (q : Nat) (f : QuireRegs → QuireRegs) : (s.modQuire q f).blocked = s.blocked := rfl
@[simp] theorem State.modQuire_cycle (s : State) (q : Nat) (f : QuireRegs → QuireRegs) : (s.modQuire q f).cycle = s.cycle := rfl
@[simp] theorem State.modQuire_nsec (s : State) (q : Nat) (f : QuireRegs → QuireRegs) : (s.modQuire q f).nsec = s.nsec := rfl
@[simp] theorem State.modQuire_frozen (s : State) (q : Nat) (f : QuireRegs → QuireRegs) : (s.modQuire q f).frozen = s.frozen := rfl
@[simp] theorem State.modQuire_insts (s : State) (q : Nat) (f : QuireRegs → QuireRegs) : (s.modQuire q f).insts = s.insts := rfl
@[simp] theorem State.modQuire_sups (s : State) (q : Nat) (f : QuireRegs → QuireRegs) : (s.modQuire q f).sups = s.sups := rfl
@[simp] theorem State.modQuire_quires (s : State) (q : Nat) (f : QuireRegs → QuireRegs) : (s.modQuire q f).quires = updAt s.quires q f := rfl
@[simp] theorem State.modQuire_cores (s : State) (q : Nat) (f : QuireRegs → QuireRegs) : (s.modQuire q f).cores = s.cores := rfl
@[simp] theorem State.modQuire_mem (s : State) (q : Nat) (f : QuireRegs → QuireRegs) : (s.modQuire q f).mem = s.mem := rfl
@[simp] theorem State.modQuire_poison (s : State) (q : Nat) (f : QuireRegs → QuireRegs) : (s.modQuire q f).poison = s.poison := rfl
@[simp] theorem State.modQuire_seals (s : State) (q : Nat) (f : QuireRegs → QuireRegs) : (s.modQuire q f).seals = s.seals := rfl
@[simp] theorem State.modQuire_tlb (s : State) (q : Nat) (f : QuireRegs → QuireRegs) : (s.modQuire q f).tlb = s.tlb := rfl
@[simp] theorem State.modQuire_residents (s : State) (q : Nat) (f : QuireRegs → QuireRegs) : (s.modQuire q f).residents = s.residents := rfl
@[simp] theorem State.modQuire_units (s : State) (q : Nat) (f : QuireRegs → QuireRegs) : (s.modQuire q f).units = s.units := rfl
@[simp] theorem State.modQuire_routes (s : State) (q : Nat) (f : QuireRegs → QuireRegs) : (s.modQuire q f).routes = s.routes := rfl
@[simp] theorem State.modQuire_ports (s : State) (q : Nat) (f : QuireRegs → QuireRegs) : (s.modQuire q f).ports = s.ports := rfl
@[simp] theorem State.modQuire_mtiles (s : State) (q : Nat) (f : QuireRegs → QuireRegs) : (s.modQuire q f).mtiles = s.mtiles := rfl
@[simp] theorem State.modQuire_helds (s : State) (q : Nat) (f : QuireRegs → QuireRegs) : (s.modQuire q f).helds = s.helds := rfl
@[simp] theorem State.modQuire_bankToks (s : State) (q : Nat) (f : QuireRegs → QuireRegs) : (s.modQuire q f).bankToks = s.bankToks := rfl
@[simp] theorem State.modQuire_confs (s : State) (q : Nat) (f : QuireRegs → QuireRegs) : (s.modQuire q f).confs = s.confs := rfl
@[simp] theorem State.modQuire_locks (s : State) (q : Nat) (f : QuireRegs → QuireRegs) : (s.modQuire q f).locks = s.locks := rfl
@[simp] theorem State.modQuire_bars (s : State) (q : Nat) (f : QuireRegs → QuireRegs) : (s.modQuire q f).bars = s.bars := rfl
@[simp] theorem State.modQuire_waits (s : State) (q : Nat) (f : QuireRegs → QuireRegs) : (s.modQuire q f).waits = s.waits := rfl
@[simp] theorem State.modQuire_decls (s : State) (q : Nat) (f : QuireRegs → QuireRegs) : (s.modQuire q f).decls = s.decls := rfl
@[simp] theorem State.modQuire_attns (s : State) (q : Nat) (f : QuireRegs → QuireRegs) : (s.modQuire q f).attns = s.attns := rfl
@[simp] theorem State.modQuire_tokUnits (s : State) (q : Nat) (f : QuireRegs → QuireRegs) : (s.modQuire q f).tokUnits = s.tokUnits := rfl
@[simp] theorem State.modQuire_remotes (s : State) (q : Nat) (f : QuireRegs → QuireRegs) : (s.modQuire q f).remotes = s.remotes := rfl
@[simp] theorem State.modQuire_transits (s : State) (q : Nat) (f : QuireRegs → QuireRegs) : (s.modQuire q f).transits = s.transits := rfl
@[simp] theorem State.modQuire_posted (s : State) (q : Nat) (f : QuireRegs → QuireRegs) : (s.modQuire q f).posted = s.posted := rfl
@[simp] theorem State.modQuire_parts (s : State) (q : Nat) (f : QuireRegs → QuireRegs) : (s.modQuire q f).parts = s.parts := rfl
@[simp] theorem State.modQuire_fns (s : State) (q : Nat) (f : QuireRegs → QuireRegs) : (s.modQuire q f).fns = s.fns := rfl
@[simp] theorem State.modQuire_owners (s : State) (q : Nat) (f : QuireRegs → QuireRegs) : (s.modQuire q f).owners = s.owners := rfl
@[simp] theorem State.modQuire_tunnels (s : State) (q : Nat) (f : QuireRegs → QuireRegs) : (s.modQuire q f).tunnels = s.tunnels := rfl
@[simp] theorem State.modQuire_lends (s : State) (q : Nat) (f : QuireRegs → QuireRegs) : (s.modQuire q f).lends = s.lends := rfl
@[simp] theorem State.modQuire_sys (s : State) (q : Nat) (f : QuireRegs → QuireRegs) : (s.modQuire q f).sys = s.sys := rfl
@[simp] theorem State.modQuire_messages (s : State) (q : Nat) (f : QuireRegs → QuireRegs) : (s.modQuire q f).messages = s.messages := rfl
@[simp] theorem State.modQuire_sentPackets (s : State) (q : Nat) (f : QuireRegs → QuireRegs) : (s.modQuire q f).sentPackets = s.sentPackets := rfl
@[simp] theorem State.modQuire_portsUp (s : State) (q : Nat) (f : QuireRegs → QuireRegs) : (s.modQuire q f).portsUp = s.portsUp := rfl
@[simp] theorem State.modQuire_draining (s : State) (q : Nat) (f : QuireRegs → QuireRegs) : (s.modQuire q f).draining = s.draining := rfl
@[simp] theorem State.modQuire_heldPackets (s : State) (q : Nat) (f : QuireRegs → QuireRegs) : (s.modQuire q f).heldPackets = s.heldPackets := rfl
@[simp] theorem State.modQuire_replies (s : State) (q : Nat) (f : QuireRegs → QuireRegs) : (s.modQuire q f).replies = s.replies := rfl
@[simp] theorem State.modQuire_msixSent (s : State) (q : Nat) (f : QuireRegs → QuireRegs) : (s.modQuire q f).msixSent = s.msixSent := rfl
@[simp] theorem State.modQuire_stageMeas (s : State) (q : Nat) (f : QuireRegs → QuireRegs) : (s.modQuire q f).stageMeas = s.stageMeas := rfl
@[simp] theorem State.modQuire_staged (s : State) (q : Nat) (f : QuireRegs → QuireRegs) : (s.modQuire q f).staged = s.staged := rfl
@[simp] theorem State.modQuire_lastOwner (s : State) (q : Nat) (f : QuireRegs → QuireRegs) : (s.modQuire q f).lastOwner = s.lastOwner := rfl
@[simp] theorem State.modQuire_nextSerial (s : State) (q : Nat) (f : QuireRegs → QuireRegs) : (s.modQuire q f).nextSerial = s.nextSerial := rfl
@[simp] theorem State.modQuire_nextId (s : State) (q : Nat) (f : QuireRegs → QuireRegs) : (s.modQuire q f).nextId = s.nextId := rfl
@[simp] theorem State.modQuire_nextKey (s : State) (q : Nat) (f : QuireRegs → QuireRegs) : (s.modQuire q f).nextKey = s.nextKey := rfl
@[simp] theorem State.modQuire_dlser (s : State) (q : Nat) (f : QuireRegs → QuireRegs) : (s.modQuire q f).dlser = s.dlser := rfl
@[simp] theorem State.modQuire_fenceRaise (s : State) (q : Nat) (f : QuireRegs → QuireRegs) : (s.modQuire q f).fenceRaise = s.fenceRaise := rfl

/-! ### State.modTcore -/

@[simp] theorem State.modTcore_turns (s : State) (k : Nat) (f : TCore → TCore) : (s.modTcore k f).turns = s.turns := rfl
@[simp] theorem State.modTcore_cur (s : State) (k : Nat) (f : TCore → TCore) : (s.modTcore k f).cur = s.cur := rfl
@[simp] theorem State.modTcore_free (s : State) (k : Nat) (f : TCore → TCore) : (s.modTcore k f).free = s.free := rfl
@[simp] theorem State.modTcore_blocked (s : State) (k : Nat) (f : TCore → TCore) : (s.modTcore k f).blocked = s.blocked := rfl
@[simp] theorem State.modTcore_cycle (s : State) (k : Nat) (f : TCore → TCore) : (s.modTcore k f).cycle = s.cycle := rfl
@[simp] theorem State.modTcore_nsec (s : State) (k : Nat) (f : TCore → TCore) : (s.modTcore k f).nsec = s.nsec := rfl
@[simp] theorem State.modTcore_frozen (s : State) (k : Nat) (f : TCore → TCore) : (s.modTcore k f).frozen = s.frozen := rfl
@[simp] theorem State.modTcore_insts (s : State) (k : Nat) (f : TCore → TCore) : (s.modTcore k f).insts = s.insts := rfl
@[simp] theorem State.modTcore_sups (s : State) (k : Nat) (f : TCore → TCore) : (s.modTcore k f).sups = s.sups := rfl
@[simp] theorem State.modTcore_quires (s : State) (k : Nat) (f : TCore → TCore) : (s.modTcore k f).quires = s.quires := rfl
@[simp] theorem State.modTcore_cores (s : State) (k : Nat) (f : TCore → TCore) : (s.modTcore k f).cores = updAt s.cores k f := rfl
@[simp] theorem State.modTcore_mem (s : State) (k : Nat) (f : TCore → TCore) : (s.modTcore k f).mem = s.mem := rfl
@[simp] theorem State.modTcore_poison (s : State) (k : Nat) (f : TCore → TCore) : (s.modTcore k f).poison = s.poison := rfl
@[simp] theorem State.modTcore_seals (s : State) (k : Nat) (f : TCore → TCore) : (s.modTcore k f).seals = s.seals := rfl
@[simp] theorem State.modTcore_tlb (s : State) (k : Nat) (f : TCore → TCore) : (s.modTcore k f).tlb = s.tlb := rfl
@[simp] theorem State.modTcore_residents (s : State) (k : Nat) (f : TCore → TCore) : (s.modTcore k f).residents = s.residents := rfl
@[simp] theorem State.modTcore_units (s : State) (k : Nat) (f : TCore → TCore) : (s.modTcore k f).units = s.units := rfl
@[simp] theorem State.modTcore_routes (s : State) (k : Nat) (f : TCore → TCore) : (s.modTcore k f).routes = s.routes := rfl
@[simp] theorem State.modTcore_ports (s : State) (k : Nat) (f : TCore → TCore) : (s.modTcore k f).ports = s.ports := rfl
@[simp] theorem State.modTcore_mtiles (s : State) (k : Nat) (f : TCore → TCore) : (s.modTcore k f).mtiles = s.mtiles := rfl
@[simp] theorem State.modTcore_helds (s : State) (k : Nat) (f : TCore → TCore) : (s.modTcore k f).helds = s.helds := rfl
@[simp] theorem State.modTcore_bankToks (s : State) (k : Nat) (f : TCore → TCore) : (s.modTcore k f).bankToks = s.bankToks := rfl
@[simp] theorem State.modTcore_confs (s : State) (k : Nat) (f : TCore → TCore) : (s.modTcore k f).confs = s.confs := rfl
@[simp] theorem State.modTcore_locks (s : State) (k : Nat) (f : TCore → TCore) : (s.modTcore k f).locks = s.locks := rfl
@[simp] theorem State.modTcore_bars (s : State) (k : Nat) (f : TCore → TCore) : (s.modTcore k f).bars = s.bars := rfl
@[simp] theorem State.modTcore_waits (s : State) (k : Nat) (f : TCore → TCore) : (s.modTcore k f).waits = s.waits := rfl
@[simp] theorem State.modTcore_decls (s : State) (k : Nat) (f : TCore → TCore) : (s.modTcore k f).decls = s.decls := rfl
@[simp] theorem State.modTcore_attns (s : State) (k : Nat) (f : TCore → TCore) : (s.modTcore k f).attns = s.attns := rfl
@[simp] theorem State.modTcore_tokUnits (s : State) (k : Nat) (f : TCore → TCore) : (s.modTcore k f).tokUnits = s.tokUnits := rfl
@[simp] theorem State.modTcore_remotes (s : State) (k : Nat) (f : TCore → TCore) : (s.modTcore k f).remotes = s.remotes := rfl
@[simp] theorem State.modTcore_transits (s : State) (k : Nat) (f : TCore → TCore) : (s.modTcore k f).transits = s.transits := rfl
@[simp] theorem State.modTcore_posted (s : State) (k : Nat) (f : TCore → TCore) : (s.modTcore k f).posted = s.posted := rfl
@[simp] theorem State.modTcore_parts (s : State) (k : Nat) (f : TCore → TCore) : (s.modTcore k f).parts = s.parts := rfl
@[simp] theorem State.modTcore_fns (s : State) (k : Nat) (f : TCore → TCore) : (s.modTcore k f).fns = s.fns := rfl
@[simp] theorem State.modTcore_owners (s : State) (k : Nat) (f : TCore → TCore) : (s.modTcore k f).owners = s.owners := rfl
@[simp] theorem State.modTcore_tunnels (s : State) (k : Nat) (f : TCore → TCore) : (s.modTcore k f).tunnels = s.tunnels := rfl
@[simp] theorem State.modTcore_lends (s : State) (k : Nat) (f : TCore → TCore) : (s.modTcore k f).lends = s.lends := rfl
@[simp] theorem State.modTcore_sys (s : State) (k : Nat) (f : TCore → TCore) : (s.modTcore k f).sys = s.sys := rfl
@[simp] theorem State.modTcore_messages (s : State) (k : Nat) (f : TCore → TCore) : (s.modTcore k f).messages = s.messages := rfl
@[simp] theorem State.modTcore_sentPackets (s : State) (k : Nat) (f : TCore → TCore) : (s.modTcore k f).sentPackets = s.sentPackets := rfl
@[simp] theorem State.modTcore_portsUp (s : State) (k : Nat) (f : TCore → TCore) : (s.modTcore k f).portsUp = s.portsUp := rfl
@[simp] theorem State.modTcore_draining (s : State) (k : Nat) (f : TCore → TCore) : (s.modTcore k f).draining = s.draining := rfl
@[simp] theorem State.modTcore_heldPackets (s : State) (k : Nat) (f : TCore → TCore) : (s.modTcore k f).heldPackets = s.heldPackets := rfl
@[simp] theorem State.modTcore_replies (s : State) (k : Nat) (f : TCore → TCore) : (s.modTcore k f).replies = s.replies := rfl
@[simp] theorem State.modTcore_msixSent (s : State) (k : Nat) (f : TCore → TCore) : (s.modTcore k f).msixSent = s.msixSent := rfl
@[simp] theorem State.modTcore_stageMeas (s : State) (k : Nat) (f : TCore → TCore) : (s.modTcore k f).stageMeas = s.stageMeas := rfl
@[simp] theorem State.modTcore_staged (s : State) (k : Nat) (f : TCore → TCore) : (s.modTcore k f).staged = s.staged := rfl
@[simp] theorem State.modTcore_lastOwner (s : State) (k : Nat) (f : TCore → TCore) : (s.modTcore k f).lastOwner = s.lastOwner := rfl
@[simp] theorem State.modTcore_nextSerial (s : State) (k : Nat) (f : TCore → TCore) : (s.modTcore k f).nextSerial = s.nextSerial := rfl
@[simp] theorem State.modTcore_nextId (s : State) (k : Nat) (f : TCore → TCore) : (s.modTcore k f).nextId = s.nextId := rfl
@[simp] theorem State.modTcore_nextKey (s : State) (k : Nat) (f : TCore → TCore) : (s.modTcore k f).nextKey = s.nextKey := rfl
@[simp] theorem State.modTcore_dlser (s : State) (k : Nat) (f : TCore → TCore) : (s.modTcore k f).dlser = s.dlser := rfl
@[simp] theorem State.modTcore_fenceRaise (s : State) (k : Nat) (f : TCore → TCore) : (s.modTcore k f).fenceRaise = s.fenceRaise := rfl

/-! ### State.modPart -/

@[simp] theorem State.modPart_turns (s : State) (p : Nat) (f : Part → Part) : (s.modPart p f).turns = s.turns := rfl
@[simp] theorem State.modPart_cur (s : State) (p : Nat) (f : Part → Part) : (s.modPart p f).cur = s.cur := rfl
@[simp] theorem State.modPart_free (s : State) (p : Nat) (f : Part → Part) : (s.modPart p f).free = s.free := rfl
@[simp] theorem State.modPart_blocked (s : State) (p : Nat) (f : Part → Part) : (s.modPart p f).blocked = s.blocked := rfl
@[simp] theorem State.modPart_cycle (s : State) (p : Nat) (f : Part → Part) : (s.modPart p f).cycle = s.cycle := rfl
@[simp] theorem State.modPart_nsec (s : State) (p : Nat) (f : Part → Part) : (s.modPart p f).nsec = s.nsec := rfl
@[simp] theorem State.modPart_frozen (s : State) (p : Nat) (f : Part → Part) : (s.modPart p f).frozen = s.frozen := rfl
@[simp] theorem State.modPart_insts (s : State) (p : Nat) (f : Part → Part) : (s.modPart p f).insts = s.insts := rfl
@[simp] theorem State.modPart_sups (s : State) (p : Nat) (f : Part → Part) : (s.modPart p f).sups = s.sups := rfl
@[simp] theorem State.modPart_quires (s : State) (p : Nat) (f : Part → Part) : (s.modPart p f).quires = s.quires := rfl
@[simp] theorem State.modPart_cores (s : State) (p : Nat) (f : Part → Part) : (s.modPart p f).cores = s.cores := rfl
@[simp] theorem State.modPart_mem (s : State) (p : Nat) (f : Part → Part) : (s.modPart p f).mem = s.mem := rfl
@[simp] theorem State.modPart_poison (s : State) (p : Nat) (f : Part → Part) : (s.modPart p f).poison = s.poison := rfl
@[simp] theorem State.modPart_seals (s : State) (p : Nat) (f : Part → Part) : (s.modPart p f).seals = s.seals := rfl
@[simp] theorem State.modPart_tlb (s : State) (p : Nat) (f : Part → Part) : (s.modPart p f).tlb = s.tlb := rfl
@[simp] theorem State.modPart_residents (s : State) (p : Nat) (f : Part → Part) : (s.modPart p f).residents = s.residents := rfl
@[simp] theorem State.modPart_units (s : State) (p : Nat) (f : Part → Part) : (s.modPart p f).units = s.units := rfl
@[simp] theorem State.modPart_routes (s : State) (p : Nat) (f : Part → Part) : (s.modPart p f).routes = s.routes := rfl
@[simp] theorem State.modPart_ports (s : State) (p : Nat) (f : Part → Part) : (s.modPart p f).ports = s.ports := rfl
@[simp] theorem State.modPart_mtiles (s : State) (p : Nat) (f : Part → Part) : (s.modPart p f).mtiles = s.mtiles := rfl
@[simp] theorem State.modPart_helds (s : State) (p : Nat) (f : Part → Part) : (s.modPart p f).helds = s.helds := rfl
@[simp] theorem State.modPart_bankToks (s : State) (p : Nat) (f : Part → Part) : (s.modPart p f).bankToks = s.bankToks := rfl
@[simp] theorem State.modPart_confs (s : State) (p : Nat) (f : Part → Part) : (s.modPart p f).confs = s.confs := rfl
@[simp] theorem State.modPart_locks (s : State) (p : Nat) (f : Part → Part) : (s.modPart p f).locks = s.locks := rfl
@[simp] theorem State.modPart_bars (s : State) (p : Nat) (f : Part → Part) : (s.modPart p f).bars = s.bars := rfl
@[simp] theorem State.modPart_waits (s : State) (p : Nat) (f : Part → Part) : (s.modPart p f).waits = s.waits := rfl
@[simp] theorem State.modPart_decls (s : State) (p : Nat) (f : Part → Part) : (s.modPart p f).decls = s.decls := rfl
@[simp] theorem State.modPart_attns (s : State) (p : Nat) (f : Part → Part) : (s.modPart p f).attns = s.attns := rfl
@[simp] theorem State.modPart_tokUnits (s : State) (p : Nat) (f : Part → Part) : (s.modPart p f).tokUnits = s.tokUnits := rfl
@[simp] theorem State.modPart_remotes (s : State) (p : Nat) (f : Part → Part) : (s.modPart p f).remotes = s.remotes := rfl
@[simp] theorem State.modPart_transits (s : State) (p : Nat) (f : Part → Part) : (s.modPart p f).transits = s.transits := rfl
@[simp] theorem State.modPart_posted (s : State) (p : Nat) (f : Part → Part) : (s.modPart p f).posted = s.posted := rfl
@[simp] theorem State.modPart_parts (s : State) (p : Nat) (f : Part → Part) : (s.modPart p f).parts = updAt s.parts p f := rfl
@[simp] theorem State.modPart_fns (s : State) (p : Nat) (f : Part → Part) : (s.modPart p f).fns = s.fns := rfl
@[simp] theorem State.modPart_owners (s : State) (p : Nat) (f : Part → Part) : (s.modPart p f).owners = s.owners := rfl
@[simp] theorem State.modPart_tunnels (s : State) (p : Nat) (f : Part → Part) : (s.modPart p f).tunnels = s.tunnels := rfl
@[simp] theorem State.modPart_lends (s : State) (p : Nat) (f : Part → Part) : (s.modPart p f).lends = s.lends := rfl
@[simp] theorem State.modPart_sys (s : State) (p : Nat) (f : Part → Part) : (s.modPart p f).sys = s.sys := rfl
@[simp] theorem State.modPart_messages (s : State) (p : Nat) (f : Part → Part) : (s.modPart p f).messages = s.messages := rfl
@[simp] theorem State.modPart_sentPackets (s : State) (p : Nat) (f : Part → Part) : (s.modPart p f).sentPackets = s.sentPackets := rfl
@[simp] theorem State.modPart_portsUp (s : State) (p : Nat) (f : Part → Part) : (s.modPart p f).portsUp = s.portsUp := rfl
@[simp] theorem State.modPart_draining (s : State) (p : Nat) (f : Part → Part) : (s.modPart p f).draining = s.draining := rfl
@[simp] theorem State.modPart_heldPackets (s : State) (p : Nat) (f : Part → Part) : (s.modPart p f).heldPackets = s.heldPackets := rfl
@[simp] theorem State.modPart_replies (s : State) (p : Nat) (f : Part → Part) : (s.modPart p f).replies = s.replies := rfl
@[simp] theorem State.modPart_msixSent (s : State) (p : Nat) (f : Part → Part) : (s.modPart p f).msixSent = s.msixSent := rfl
@[simp] theorem State.modPart_stageMeas (s : State) (p : Nat) (f : Part → Part) : (s.modPart p f).stageMeas = s.stageMeas := rfl
@[simp] theorem State.modPart_staged (s : State) (p : Nat) (f : Part → Part) : (s.modPart p f).staged = s.staged := rfl
@[simp] theorem State.modPart_lastOwner (s : State) (p : Nat) (f : Part → Part) : (s.modPart p f).lastOwner = s.lastOwner := rfl
@[simp] theorem State.modPart_nextSerial (s : State) (p : Nat) (f : Part → Part) : (s.modPart p f).nextSerial = s.nextSerial := rfl
@[simp] theorem State.modPart_nextId (s : State) (p : Nat) (f : Part → Part) : (s.modPart p f).nextId = s.nextId := rfl
@[simp] theorem State.modPart_nextKey (s : State) (p : Nat) (f : Part → Part) : (s.modPart p f).nextKey = s.nextKey := rfl
@[simp] theorem State.modPart_dlser (s : State) (p : Nat) (f : Part → Part) : (s.modPart p f).dlser = s.dlser := rfl
@[simp] theorem State.modPart_fenceRaise (s : State) (p : Nat) (f : Part → Part) : (s.modPart p f).fenceRaise = s.fenceRaise := rfl

/-! ### State.modFn -/

@[simp] theorem State.modFn_turns (s : State) (n : Nat) (f : Fn → Fn) : (s.modFn n f).turns = s.turns := rfl
@[simp] theorem State.modFn_cur (s : State) (n : Nat) (f : Fn → Fn) : (s.modFn n f).cur = s.cur := rfl
@[simp] theorem State.modFn_free (s : State) (n : Nat) (f : Fn → Fn) : (s.modFn n f).free = s.free := rfl
@[simp] theorem State.modFn_blocked (s : State) (n : Nat) (f : Fn → Fn) : (s.modFn n f).blocked = s.blocked := rfl
@[simp] theorem State.modFn_cycle (s : State) (n : Nat) (f : Fn → Fn) : (s.modFn n f).cycle = s.cycle := rfl
@[simp] theorem State.modFn_nsec (s : State) (n : Nat) (f : Fn → Fn) : (s.modFn n f).nsec = s.nsec := rfl
@[simp] theorem State.modFn_frozen (s : State) (n : Nat) (f : Fn → Fn) : (s.modFn n f).frozen = s.frozen := rfl
@[simp] theorem State.modFn_insts (s : State) (n : Nat) (f : Fn → Fn) : (s.modFn n f).insts = s.insts := rfl
@[simp] theorem State.modFn_sups (s : State) (n : Nat) (f : Fn → Fn) : (s.modFn n f).sups = s.sups := rfl
@[simp] theorem State.modFn_quires (s : State) (n : Nat) (f : Fn → Fn) : (s.modFn n f).quires = s.quires := rfl
@[simp] theorem State.modFn_cores (s : State) (n : Nat) (f : Fn → Fn) : (s.modFn n f).cores = s.cores := rfl
@[simp] theorem State.modFn_mem (s : State) (n : Nat) (f : Fn → Fn) : (s.modFn n f).mem = s.mem := rfl
@[simp] theorem State.modFn_poison (s : State) (n : Nat) (f : Fn → Fn) : (s.modFn n f).poison = s.poison := rfl
@[simp] theorem State.modFn_seals (s : State) (n : Nat) (f : Fn → Fn) : (s.modFn n f).seals = s.seals := rfl
@[simp] theorem State.modFn_tlb (s : State) (n : Nat) (f : Fn → Fn) : (s.modFn n f).tlb = s.tlb := rfl
@[simp] theorem State.modFn_residents (s : State) (n : Nat) (f : Fn → Fn) : (s.modFn n f).residents = s.residents := rfl
@[simp] theorem State.modFn_units (s : State) (n : Nat) (f : Fn → Fn) : (s.modFn n f).units = s.units := rfl
@[simp] theorem State.modFn_routes (s : State) (n : Nat) (f : Fn → Fn) : (s.modFn n f).routes = s.routes := rfl
@[simp] theorem State.modFn_ports (s : State) (n : Nat) (f : Fn → Fn) : (s.modFn n f).ports = s.ports := rfl
@[simp] theorem State.modFn_mtiles (s : State) (n : Nat) (f : Fn → Fn) : (s.modFn n f).mtiles = s.mtiles := rfl
@[simp] theorem State.modFn_helds (s : State) (n : Nat) (f : Fn → Fn) : (s.modFn n f).helds = s.helds := rfl
@[simp] theorem State.modFn_bankToks (s : State) (n : Nat) (f : Fn → Fn) : (s.modFn n f).bankToks = s.bankToks := rfl
@[simp] theorem State.modFn_confs (s : State) (n : Nat) (f : Fn → Fn) : (s.modFn n f).confs = s.confs := rfl
@[simp] theorem State.modFn_locks (s : State) (n : Nat) (f : Fn → Fn) : (s.modFn n f).locks = s.locks := rfl
@[simp] theorem State.modFn_bars (s : State) (n : Nat) (f : Fn → Fn) : (s.modFn n f).bars = s.bars := rfl
@[simp] theorem State.modFn_waits (s : State) (n : Nat) (f : Fn → Fn) : (s.modFn n f).waits = s.waits := rfl
@[simp] theorem State.modFn_decls (s : State) (n : Nat) (f : Fn → Fn) : (s.modFn n f).decls = s.decls := rfl
@[simp] theorem State.modFn_attns (s : State) (n : Nat) (f : Fn → Fn) : (s.modFn n f).attns = s.attns := rfl
@[simp] theorem State.modFn_tokUnits (s : State) (n : Nat) (f : Fn → Fn) : (s.modFn n f).tokUnits = s.tokUnits := rfl
@[simp] theorem State.modFn_remotes (s : State) (n : Nat) (f : Fn → Fn) : (s.modFn n f).remotes = s.remotes := rfl
@[simp] theorem State.modFn_transits (s : State) (n : Nat) (f : Fn → Fn) : (s.modFn n f).transits = s.transits := rfl
@[simp] theorem State.modFn_posted (s : State) (n : Nat) (f : Fn → Fn) : (s.modFn n f).posted = s.posted := rfl
@[simp] theorem State.modFn_parts (s : State) (n : Nat) (f : Fn → Fn) : (s.modFn n f).parts = s.parts := rfl
@[simp] theorem State.modFn_fns (s : State) (n : Nat) (f : Fn → Fn) : (s.modFn n f).fns = updAt s.fns n f := rfl
@[simp] theorem State.modFn_owners (s : State) (n : Nat) (f : Fn → Fn) : (s.modFn n f).owners = s.owners := rfl
@[simp] theorem State.modFn_tunnels (s : State) (n : Nat) (f : Fn → Fn) : (s.modFn n f).tunnels = s.tunnels := rfl
@[simp] theorem State.modFn_lends (s : State) (n : Nat) (f : Fn → Fn) : (s.modFn n f).lends = s.lends := rfl
@[simp] theorem State.modFn_sys (s : State) (n : Nat) (f : Fn → Fn) : (s.modFn n f).sys = s.sys := rfl
@[simp] theorem State.modFn_messages (s : State) (n : Nat) (f : Fn → Fn) : (s.modFn n f).messages = s.messages := rfl
@[simp] theorem State.modFn_sentPackets (s : State) (n : Nat) (f : Fn → Fn) : (s.modFn n f).sentPackets = s.sentPackets := rfl
@[simp] theorem State.modFn_portsUp (s : State) (n : Nat) (f : Fn → Fn) : (s.modFn n f).portsUp = s.portsUp := rfl
@[simp] theorem State.modFn_draining (s : State) (n : Nat) (f : Fn → Fn) : (s.modFn n f).draining = s.draining := rfl
@[simp] theorem State.modFn_heldPackets (s : State) (n : Nat) (f : Fn → Fn) : (s.modFn n f).heldPackets = s.heldPackets := rfl
@[simp] theorem State.modFn_replies (s : State) (n : Nat) (f : Fn → Fn) : (s.modFn n f).replies = s.replies := rfl
@[simp] theorem State.modFn_msixSent (s : State) (n : Nat) (f : Fn → Fn) : (s.modFn n f).msixSent = s.msixSent := rfl
@[simp] theorem State.modFn_stageMeas (s : State) (n : Nat) (f : Fn → Fn) : (s.modFn n f).stageMeas = s.stageMeas := rfl
@[simp] theorem State.modFn_staged (s : State) (n : Nat) (f : Fn → Fn) : (s.modFn n f).staged = s.staged := rfl
@[simp] theorem State.modFn_lastOwner (s : State) (n : Nat) (f : Fn → Fn) : (s.modFn n f).lastOwner = s.lastOwner := rfl
@[simp] theorem State.modFn_nextSerial (s : State) (n : Nat) (f : Fn → Fn) : (s.modFn n f).nextSerial = s.nextSerial := rfl
@[simp] theorem State.modFn_nextId (s : State) (n : Nat) (f : Fn → Fn) : (s.modFn n f).nextId = s.nextId := rfl
@[simp] theorem State.modFn_nextKey (s : State) (n : Nat) (f : Fn → Fn) : (s.modFn n f).nextKey = s.nextKey := rfl
@[simp] theorem State.modFn_dlser (s : State) (n : Nat) (f : Fn → Fn) : (s.modFn n f).dlser = s.dlser := rfl
@[simp] theorem State.modFn_fenceRaise (s : State) (n : Nat) (f : Fn → Fn) : (s.modFn n f).fenceRaise = s.fenceRaise := rfl

/-! ### State.modOwner -/

@[simp] theorem State.modOwner_turns (s : State) (o : Nat) (f : Owner → Owner) : (s.modOwner o f).turns = s.turns := rfl
@[simp] theorem State.modOwner_cur (s : State) (o : Nat) (f : Owner → Owner) : (s.modOwner o f).cur = s.cur := rfl
@[simp] theorem State.modOwner_free (s : State) (o : Nat) (f : Owner → Owner) : (s.modOwner o f).free = s.free := rfl
@[simp] theorem State.modOwner_blocked (s : State) (o : Nat) (f : Owner → Owner) : (s.modOwner o f).blocked = s.blocked := rfl
@[simp] theorem State.modOwner_cycle (s : State) (o : Nat) (f : Owner → Owner) : (s.modOwner o f).cycle = s.cycle := rfl
@[simp] theorem State.modOwner_nsec (s : State) (o : Nat) (f : Owner → Owner) : (s.modOwner o f).nsec = s.nsec := rfl
@[simp] theorem State.modOwner_frozen (s : State) (o : Nat) (f : Owner → Owner) : (s.modOwner o f).frozen = s.frozen := rfl
@[simp] theorem State.modOwner_insts (s : State) (o : Nat) (f : Owner → Owner) : (s.modOwner o f).insts = s.insts := rfl
@[simp] theorem State.modOwner_sups (s : State) (o : Nat) (f : Owner → Owner) : (s.modOwner o f).sups = s.sups := rfl
@[simp] theorem State.modOwner_quires (s : State) (o : Nat) (f : Owner → Owner) : (s.modOwner o f).quires = s.quires := rfl
@[simp] theorem State.modOwner_cores (s : State) (o : Nat) (f : Owner → Owner) : (s.modOwner o f).cores = s.cores := rfl
@[simp] theorem State.modOwner_mem (s : State) (o : Nat) (f : Owner → Owner) : (s.modOwner o f).mem = s.mem := rfl
@[simp] theorem State.modOwner_poison (s : State) (o : Nat) (f : Owner → Owner) : (s.modOwner o f).poison = s.poison := rfl
@[simp] theorem State.modOwner_seals (s : State) (o : Nat) (f : Owner → Owner) : (s.modOwner o f).seals = s.seals := rfl
@[simp] theorem State.modOwner_tlb (s : State) (o : Nat) (f : Owner → Owner) : (s.modOwner o f).tlb = s.tlb := rfl
@[simp] theorem State.modOwner_residents (s : State) (o : Nat) (f : Owner → Owner) : (s.modOwner o f).residents = s.residents := rfl
@[simp] theorem State.modOwner_units (s : State) (o : Nat) (f : Owner → Owner) : (s.modOwner o f).units = s.units := rfl
@[simp] theorem State.modOwner_routes (s : State) (o : Nat) (f : Owner → Owner) : (s.modOwner o f).routes = s.routes := rfl
@[simp] theorem State.modOwner_ports (s : State) (o : Nat) (f : Owner → Owner) : (s.modOwner o f).ports = s.ports := rfl
@[simp] theorem State.modOwner_mtiles (s : State) (o : Nat) (f : Owner → Owner) : (s.modOwner o f).mtiles = s.mtiles := rfl
@[simp] theorem State.modOwner_helds (s : State) (o : Nat) (f : Owner → Owner) : (s.modOwner o f).helds = s.helds := rfl
@[simp] theorem State.modOwner_bankToks (s : State) (o : Nat) (f : Owner → Owner) : (s.modOwner o f).bankToks = s.bankToks := rfl
@[simp] theorem State.modOwner_confs (s : State) (o : Nat) (f : Owner → Owner) : (s.modOwner o f).confs = s.confs := rfl
@[simp] theorem State.modOwner_locks (s : State) (o : Nat) (f : Owner → Owner) : (s.modOwner o f).locks = s.locks := rfl
@[simp] theorem State.modOwner_bars (s : State) (o : Nat) (f : Owner → Owner) : (s.modOwner o f).bars = s.bars := rfl
@[simp] theorem State.modOwner_waits (s : State) (o : Nat) (f : Owner → Owner) : (s.modOwner o f).waits = s.waits := rfl
@[simp] theorem State.modOwner_decls (s : State) (o : Nat) (f : Owner → Owner) : (s.modOwner o f).decls = s.decls := rfl
@[simp] theorem State.modOwner_attns (s : State) (o : Nat) (f : Owner → Owner) : (s.modOwner o f).attns = s.attns := rfl
@[simp] theorem State.modOwner_tokUnits (s : State) (o : Nat) (f : Owner → Owner) : (s.modOwner o f).tokUnits = s.tokUnits := rfl
@[simp] theorem State.modOwner_remotes (s : State) (o : Nat) (f : Owner → Owner) : (s.modOwner o f).remotes = s.remotes := rfl
@[simp] theorem State.modOwner_transits (s : State) (o : Nat) (f : Owner → Owner) : (s.modOwner o f).transits = s.transits := rfl
@[simp] theorem State.modOwner_posted (s : State) (o : Nat) (f : Owner → Owner) : (s.modOwner o f).posted = s.posted := rfl
@[simp] theorem State.modOwner_parts (s : State) (o : Nat) (f : Owner → Owner) : (s.modOwner o f).parts = s.parts := rfl
@[simp] theorem State.modOwner_fns (s : State) (o : Nat) (f : Owner → Owner) : (s.modOwner o f).fns = s.fns := rfl
@[simp] theorem State.modOwner_owners (s : State) (o : Nat) (f : Owner → Owner) : (s.modOwner o f).owners = updAt s.owners o f := rfl
@[simp] theorem State.modOwner_tunnels (s : State) (o : Nat) (f : Owner → Owner) : (s.modOwner o f).tunnels = s.tunnels := rfl
@[simp] theorem State.modOwner_lends (s : State) (o : Nat) (f : Owner → Owner) : (s.modOwner o f).lends = s.lends := rfl
@[simp] theorem State.modOwner_sys (s : State) (o : Nat) (f : Owner → Owner) : (s.modOwner o f).sys = s.sys := rfl
@[simp] theorem State.modOwner_messages (s : State) (o : Nat) (f : Owner → Owner) : (s.modOwner o f).messages = s.messages := rfl
@[simp] theorem State.modOwner_sentPackets (s : State) (o : Nat) (f : Owner → Owner) : (s.modOwner o f).sentPackets = s.sentPackets := rfl
@[simp] theorem State.modOwner_portsUp (s : State) (o : Nat) (f : Owner → Owner) : (s.modOwner o f).portsUp = s.portsUp := rfl
@[simp] theorem State.modOwner_draining (s : State) (o : Nat) (f : Owner → Owner) : (s.modOwner o f).draining = s.draining := rfl
@[simp] theorem State.modOwner_heldPackets (s : State) (o : Nat) (f : Owner → Owner) : (s.modOwner o f).heldPackets = s.heldPackets := rfl
@[simp] theorem State.modOwner_replies (s : State) (o : Nat) (f : Owner → Owner) : (s.modOwner o f).replies = s.replies := rfl
@[simp] theorem State.modOwner_msixSent (s : State) (o : Nat) (f : Owner → Owner) : (s.modOwner o f).msixSent = s.msixSent := rfl
@[simp] theorem State.modOwner_stageMeas (s : State) (o : Nat) (f : Owner → Owner) : (s.modOwner o f).stageMeas = s.stageMeas := rfl
@[simp] theorem State.modOwner_staged (s : State) (o : Nat) (f : Owner → Owner) : (s.modOwner o f).staged = s.staged := rfl
@[simp] theorem State.modOwner_lastOwner (s : State) (o : Nat) (f : Owner → Owner) : (s.modOwner o f).lastOwner = s.lastOwner := rfl
@[simp] theorem State.modOwner_nextSerial (s : State) (o : Nat) (f : Owner → Owner) : (s.modOwner o f).nextSerial = s.nextSerial := rfl
@[simp] theorem State.modOwner_nextId (s : State) (o : Nat) (f : Owner → Owner) : (s.modOwner o f).nextId = s.nextId := rfl
@[simp] theorem State.modOwner_nextKey (s : State) (o : Nat) (f : Owner → Owner) : (s.modOwner o f).nextKey = s.nextKey := rfl
@[simp] theorem State.modOwner_dlser (s : State) (o : Nat) (f : Owner → Owner) : (s.modOwner o f).dlser = s.dlser := rfl
@[simp] theorem State.modOwner_fenceRaise (s : State) (o : Nat) (f : Owner → Owner) : (s.modOwner o f).fenceRaise = s.fenceRaise := rfl

/-! ### State.put -/

@[simp] theorem State.put_turns (s : State) (a : Nat) (l : List Byte) : (s.put a l).turns = s.turns := rfl
@[simp] theorem State.put_cur (s : State) (a : Nat) (l : List Byte) : (s.put a l).cur = s.cur := rfl
@[simp] theorem State.put_free (s : State) (a : Nat) (l : List Byte) : (s.put a l).free = s.free := rfl
@[simp] theorem State.put_blocked (s : State) (a : Nat) (l : List Byte) : (s.put a l).blocked = s.blocked := rfl
@[simp] theorem State.put_cycle (s : State) (a : Nat) (l : List Byte) : (s.put a l).cycle = s.cycle := rfl
@[simp] theorem State.put_nsec (s : State) (a : Nat) (l : List Byte) : (s.put a l).nsec = s.nsec := rfl
@[simp] theorem State.put_frozen (s : State) (a : Nat) (l : List Byte) : (s.put a l).frozen = s.frozen := rfl
@[simp] theorem State.put_insts (s : State) (a : Nat) (l : List Byte) : (s.put a l).insts = s.insts := rfl
@[simp] theorem State.put_sups (s : State) (a : Nat) (l : List Byte) : (s.put a l).sups = s.sups := rfl
@[simp] theorem State.put_quires (s : State) (a : Nat) (l : List Byte) : (s.put a l).quires = s.quires := rfl
@[simp] theorem State.put_cores (s : State) (a : Nat) (l : List Byte) : (s.put a l).cores = s.cores := rfl
@[simp] theorem State.put_mem (s : State) (a : Nat) (l : List Byte) : (s.put a l).mem = memPut s.mem a l := rfl
@[simp] theorem State.put_poison (s : State) (a : Nat) (l : List Byte) : (s.put a l).poison = s.poison.filter fun k => k < a || a + l.length ≤ k := rfl
@[simp] theorem State.put_seals (s : State) (a : Nat) (l : List Byte) : (s.put a l).seals = s.seals := rfl
@[simp] theorem State.put_tlb (s : State) (a : Nat) (l : List Byte) : (s.put a l).tlb = s.tlb := rfl
@[simp] theorem State.put_residents (s : State) (a : Nat) (l : List Byte) : (s.put a l).residents = s.residents := rfl
@[simp] theorem State.put_units (s : State) (a : Nat) (l : List Byte) : (s.put a l).units = s.units := rfl
@[simp] theorem State.put_routes (s : State) (a : Nat) (l : List Byte) : (s.put a l).routes = s.routes := rfl
@[simp] theorem State.put_ports (s : State) (a : Nat) (l : List Byte) : (s.put a l).ports = s.ports := rfl
@[simp] theorem State.put_mtiles (s : State) (a : Nat) (l : List Byte) : (s.put a l).mtiles = s.mtiles := rfl
@[simp] theorem State.put_helds (s : State) (a : Nat) (l : List Byte) : (s.put a l).helds = s.helds := rfl
@[simp] theorem State.put_bankToks (s : State) (a : Nat) (l : List Byte) : (s.put a l).bankToks = s.bankToks := rfl
@[simp] theorem State.put_confs (s : State) (a : Nat) (l : List Byte) : (s.put a l).confs = s.confs := rfl
@[simp] theorem State.put_locks (s : State) (a : Nat) (l : List Byte) : (s.put a l).locks = s.locks := rfl
@[simp] theorem State.put_bars (s : State) (a : Nat) (l : List Byte) : (s.put a l).bars = s.bars := rfl
@[simp] theorem State.put_waits (s : State) (a : Nat) (l : List Byte) : (s.put a l).waits = s.waits := rfl
@[simp] theorem State.put_decls (s : State) (a : Nat) (l : List Byte) : (s.put a l).decls = s.decls := rfl
@[simp] theorem State.put_attns (s : State) (a : Nat) (l : List Byte) : (s.put a l).attns = s.attns := rfl
@[simp] theorem State.put_tokUnits (s : State) (a : Nat) (l : List Byte) : (s.put a l).tokUnits = s.tokUnits := rfl
@[simp] theorem State.put_remotes (s : State) (a : Nat) (l : List Byte) : (s.put a l).remotes = s.remotes := rfl
@[simp] theorem State.put_transits (s : State) (a : Nat) (l : List Byte) : (s.put a l).transits = s.transits := rfl
@[simp] theorem State.put_posted (s : State) (a : Nat) (l : List Byte) : (s.put a l).posted = s.posted := rfl
@[simp] theorem State.put_parts (s : State) (a : Nat) (l : List Byte) : (s.put a l).parts = s.parts := rfl
@[simp] theorem State.put_fns (s : State) (a : Nat) (l : List Byte) : (s.put a l).fns = s.fns := rfl
@[simp] theorem State.put_owners (s : State) (a : Nat) (l : List Byte) : (s.put a l).owners = s.owners := rfl
@[simp] theorem State.put_tunnels (s : State) (a : Nat) (l : List Byte) : (s.put a l).tunnels = s.tunnels := rfl
@[simp] theorem State.put_lends (s : State) (a : Nat) (l : List Byte) : (s.put a l).lends = s.lends := rfl
@[simp] theorem State.put_sys (s : State) (a : Nat) (l : List Byte) : (s.put a l).sys = s.sys := rfl
@[simp] theorem State.put_messages (s : State) (a : Nat) (l : List Byte) : (s.put a l).messages = s.messages := rfl
@[simp] theorem State.put_sentPackets (s : State) (a : Nat) (l : List Byte) : (s.put a l).sentPackets = s.sentPackets := rfl
@[simp] theorem State.put_portsUp (s : State) (a : Nat) (l : List Byte) : (s.put a l).portsUp = s.portsUp := rfl
@[simp] theorem State.put_draining (s : State) (a : Nat) (l : List Byte) : (s.put a l).draining = s.draining := rfl
@[simp] theorem State.put_heldPackets (s : State) (a : Nat) (l : List Byte) : (s.put a l).heldPackets = s.heldPackets := rfl
@[simp] theorem State.put_replies (s : State) (a : Nat) (l : List Byte) : (s.put a l).replies = s.replies := rfl
@[simp] theorem State.put_msixSent (s : State) (a : Nat) (l : List Byte) : (s.put a l).msixSent = s.msixSent := rfl
@[simp] theorem State.put_stageMeas (s : State) (a : Nat) (l : List Byte) : (s.put a l).stageMeas = s.stageMeas := rfl
@[simp] theorem State.put_staged (s : State) (a : Nat) (l : List Byte) : (s.put a l).staged = s.staged := rfl
@[simp] theorem State.put_lastOwner (s : State) (a : Nat) (l : List Byte) : (s.put a l).lastOwner = s.lastOwner := rfl
@[simp] theorem State.put_nextSerial (s : State) (a : Nat) (l : List Byte) : (s.put a l).nextSerial = s.nextSerial := rfl
@[simp] theorem State.put_nextId (s : State) (a : Nat) (l : List Byte) : (s.put a l).nextId = s.nextId := rfl
@[simp] theorem State.put_nextKey (s : State) (a : Nat) (l : List Byte) : (s.put a l).nextKey = s.nextKey := rfl
@[simp] theorem State.put_dlser (s : State) (a : Nat) (l : List Byte) : (s.put a l).dlser = s.dlser := rfl
@[simp] theorem State.put_fenceRaise (s : State) (a : Nat) (l : List Byte) : (s.put a l).fenceRaise = s.fenceRaise := rfl

/-! ### State.zero -/

@[simp] theorem State.zero_turns (s : State) (a n : Nat) : (s.zero a n).turns = s.turns := rfl
@[simp] theorem State.zero_cur (s : State) (a n : Nat) : (s.zero a n).cur = s.cur := rfl
@[simp] theorem State.zero_free (s : State) (a n : Nat) : (s.zero a n).free = s.free := rfl
@[simp] theorem State.zero_blocked (s : State) (a n : Nat) : (s.zero a n).blocked = s.blocked := rfl
@[simp] theorem State.zero_cycle (s : State) (a n : Nat) : (s.zero a n).cycle = s.cycle := rfl
@[simp] theorem State.zero_nsec (s : State) (a n : Nat) : (s.zero a n).nsec = s.nsec := rfl
@[simp] theorem State.zero_frozen (s : State) (a n : Nat) : (s.zero a n).frozen = s.frozen := rfl
@[simp] theorem State.zero_insts (s : State) (a n : Nat) : (s.zero a n).insts = s.insts := rfl
@[simp] theorem State.zero_sups (s : State) (a n : Nat) : (s.zero a n).sups = s.sups := rfl
@[simp] theorem State.zero_quires (s : State) (a n : Nat) : (s.zero a n).quires = s.quires := rfl
@[simp] theorem State.zero_cores (s : State) (a n : Nat) : (s.zero a n).cores = s.cores := rfl
@[simp] theorem State.zero_mem (s : State) (a n : Nat) : (s.zero a n).mem = memZero s.mem a n := rfl
@[simp] theorem State.zero_poison (s : State) (a n : Nat) : (s.zero a n).poison = s.poison.filter fun k => k < a || a + n ≤ k := rfl
@[simp] theorem State.zero_seals (s : State) (a n : Nat) : (s.zero a n).seals = s.seals := rfl
@[simp] theorem State.zero_tlb (s : State) (a n : Nat) : (s.zero a n).tlb = s.tlb := rfl
@[simp] theorem State.zero_residents (s : State) (a n : Nat) : (s.zero a n).residents = s.residents := rfl
@[simp] theorem State.zero_units (s : State) (a n : Nat) : (s.zero a n).units = s.units := rfl
@[simp] theorem State.zero_routes (s : State) (a n : Nat) : (s.zero a n).routes = s.routes := rfl
@[simp] theorem State.zero_ports (s : State) (a n : Nat) : (s.zero a n).ports = s.ports := rfl
@[simp] theorem State.zero_mtiles (s : State) (a n : Nat) : (s.zero a n).mtiles = s.mtiles := rfl
@[simp] theorem State.zero_helds (s : State) (a n : Nat) : (s.zero a n).helds = s.helds := rfl
@[simp] theorem State.zero_bankToks (s : State) (a n : Nat) : (s.zero a n).bankToks = s.bankToks := rfl
@[simp] theorem State.zero_confs (s : State) (a n : Nat) : (s.zero a n).confs = s.confs := rfl
@[simp] theorem State.zero_locks (s : State) (a n : Nat) : (s.zero a n).locks = s.locks := rfl
@[simp] theorem State.zero_bars (s : State) (a n : Nat) : (s.zero a n).bars = s.bars := rfl
@[simp] theorem State.zero_waits (s : State) (a n : Nat) : (s.zero a n).waits = s.waits := rfl
@[simp] theorem State.zero_decls (s : State) (a n : Nat) : (s.zero a n).decls = s.decls := rfl
@[simp] theorem State.zero_attns (s : State) (a n : Nat) : (s.zero a n).attns = s.attns := rfl
@[simp] theorem State.zero_tokUnits (s : State) (a n : Nat) : (s.zero a n).tokUnits = s.tokUnits := rfl
@[simp] theorem State.zero_remotes (s : State) (a n : Nat) : (s.zero a n).remotes = s.remotes := rfl
@[simp] theorem State.zero_transits (s : State) (a n : Nat) : (s.zero a n).transits = s.transits := rfl
@[simp] theorem State.zero_posted (s : State) (a n : Nat) : (s.zero a n).posted = s.posted := rfl
@[simp] theorem State.zero_parts (s : State) (a n : Nat) : (s.zero a n).parts = s.parts := rfl
@[simp] theorem State.zero_fns (s : State) (a n : Nat) : (s.zero a n).fns = s.fns := rfl
@[simp] theorem State.zero_owners (s : State) (a n : Nat) : (s.zero a n).owners = s.owners := rfl
@[simp] theorem State.zero_tunnels (s : State) (a n : Nat) : (s.zero a n).tunnels = s.tunnels := rfl
@[simp] theorem State.zero_lends (s : State) (a n : Nat) : (s.zero a n).lends = s.lends := rfl
@[simp] theorem State.zero_sys (s : State) (a n : Nat) : (s.zero a n).sys = s.sys := rfl
@[simp] theorem State.zero_messages (s : State) (a n : Nat) : (s.zero a n).messages = s.messages := rfl
@[simp] theorem State.zero_sentPackets (s : State) (a n : Nat) : (s.zero a n).sentPackets = s.sentPackets := rfl
@[simp] theorem State.zero_portsUp (s : State) (a n : Nat) : (s.zero a n).portsUp = s.portsUp := rfl
@[simp] theorem State.zero_draining (s : State) (a n : Nat) : (s.zero a n).draining = s.draining := rfl
@[simp] theorem State.zero_heldPackets (s : State) (a n : Nat) : (s.zero a n).heldPackets = s.heldPackets := rfl
@[simp] theorem State.zero_replies (s : State) (a n : Nat) : (s.zero a n).replies = s.replies := rfl
@[simp] theorem State.zero_msixSent (s : State) (a n : Nat) : (s.zero a n).msixSent = s.msixSent := rfl
@[simp] theorem State.zero_stageMeas (s : State) (a n : Nat) : (s.zero a n).stageMeas = s.stageMeas := rfl
@[simp] theorem State.zero_staged (s : State) (a n : Nat) : (s.zero a n).staged = s.staged := rfl
@[simp] theorem State.zero_lastOwner (s : State) (a n : Nat) : (s.zero a n).lastOwner = s.lastOwner := rfl
@[simp] theorem State.zero_nextSerial (s : State) (a n : Nat) : (s.zero a n).nextSerial = s.nextSerial := rfl
@[simp] theorem State.zero_nextId (s : State) (a n : Nat) : (s.zero a n).nextId = s.nextId := rfl
@[simp] theorem State.zero_nextKey (s : State) (a n : Nat) : (s.zero a n).nextKey = s.nextKey := rfl
@[simp] theorem State.zero_dlser (s : State) (a n : Nat) : (s.zero a n).dlser = s.dlser := rfl
@[simp] theorem State.zero_fenceRaise (s : State) (a n : Nat) : (s.zero a n).fenceRaise = s.fenceRaise := rfl

end Sys2Proof.Machine
end

