-- ==== Sys2Proof/Laws/Words.lean ====
section
/-!
SUPPORT. What the shared operations of a control-thread word do: the executing context (`modCtx`), the end of a stall, a
word that completes (`retire`), and the frame of every word (`runWord`, `runPlain`).
-/

namespace Sys2Proof.Machine

/-! ### Updates of lists -/

@[simp] theorem updAt_length {α : Type} (l : List α) (n : Nat) (f : α → α) : (updAt l n f).length = l.length := by
  induction l generalizing n with
  | nil => rfl
  | cons a l ih => cases n <;> simp [updAt, ih]

theorem updAt_getElem? {α : Type} (l : List α) (n k : Nat) (f : α → α) :
    (updAt l n f)[k]? = if k = n then (l[k]?).map f else l[k]? := by
  induction l generalizing n k with
  | nil => simp [updAt]
  | cons a l ih =>
    cases n with
    | zero => cases k <;> simp [updAt]
    | succ n => cases k <;> simp [updAt, ih]

/-- An update that a projection does not see. -/
theorem map_updAt {α β : Type} (p : α → β) (l : List α) (n : Nat) (f : α → α) (h : ∀ a, p (f a) = p a) :
    (updAt l n f).map p = l.map p := by
  induction l generalizing n with
  | nil => rfl
  | cons a l ih => cases n <;> simp [updAt, ih, h]

theorem map_updWhere {α β : Type} (p : α → β) (q : α → Bool) (f : α → α) (l : List α) (h : ∀ a, p (f a) = p a) :
    (updWhere q f l).map p = l.map p := by
  simp only [updWhere, List.map_map]
  refine List.map_congr_left fun a _ => ?_
  simp only [Function.comp_apply]
  split <;> simp [h]

/-- The first element that satisfies r, after an update that r does not see. -/
theorem find?_updWhere {α : Type} (q r : α → Bool) (f : α → α) (l : List α) (h : ∀ a, r (f a) = r a) :
    (updWhere q f l).find? r = (l.find? r).map fun a => if q a then f a else a := by
  induction l with
  | nil => rfl
  | cons a l ih =>
    simp only [updWhere, List.map_cons, List.find?_cons] at ih ⊢
    have hr : r (if q a then f a else a) = r a := by split <;> simp [h]
    rw [hr]
    cases hra : r a <;> simp [ih]

/-! ### The executing context -/

@[simp] theorem State.modCtx_turns (s : State) (f : Ctx → Ctx) : (s.modCtx f).turns = s.turns := by
  unfold State.modCtx; split <;> [split; skip] <;> rfl
@[simp] theorem State.modCtx_cur (s : State) (f : Ctx → Ctx) : (s.modCtx f).cur = s.cur := by
  unfold State.modCtx; split <;> [split; skip] <;> rfl
@[simp] theorem State.modCtx_free (s : State) (f : Ctx → Ctx) : (s.modCtx f).free = s.free := by
  unfold State.modCtx; split <;> [split; skip] <;> rfl
@[simp] theorem State.modCtx_blocked (s : State) (f : Ctx → Ctx) : (s.modCtx f).blocked = s.blocked := by
  unfold State.modCtx; split <;> [split; skip] <;> rfl
@[simp] theorem State.modCtx_cycle (s : State) (f : Ctx → Ctx) : (s.modCtx f).cycle = s.cycle := by
  unfold State.modCtx; split <;> [split; skip] <;> rfl
@[simp] theorem State.modCtx_nsec (s : State) (f : Ctx → Ctx) : (s.modCtx f).nsec = s.nsec := by
  unfold State.modCtx; split <;> [split; skip] <;> rfl
@[simp] theorem State.modCtx_frozen (s : State) (f : Ctx → Ctx) : (s.modCtx f).frozen = s.frozen := by
  unfold State.modCtx; split <;> [split; skip] <;> rfl
@[simp] theorem State.modCtx_quires (s : State) (f : Ctx → Ctx) : (s.modCtx f).quires = s.quires := by
  unfold State.modCtx; split <;> [split; skip] <;> rfl
@[simp] theorem State.modCtx_mem (s : State) (f : Ctx → Ctx) : (s.modCtx f).mem = s.mem := by
  unfold State.modCtx; split <;> [split; skip] <;> rfl
@[simp] theorem State.modCtx_poison (s : State) (f : Ctx → Ctx) : (s.modCtx f).poison = s.poison := by
  unfold State.modCtx; split <;> [split; skip] <;> rfl
@[simp] theorem State.modCtx_seals (s : State) (f : Ctx → Ctx) : (s.modCtx f).seals = s.seals := by
  unfold State.modCtx; split <;> [split; skip] <;> rfl
@[simp] theorem State.modCtx_tlb (s : State) (f : Ctx → Ctx) : (s.modCtx f).tlb = s.tlb := by
  unfold State.modCtx; split <;> [split; skip] <;> rfl
@[simp] theorem State.modCtx_residents (s : State) (f : Ctx → Ctx) : (s.modCtx f).residents = s.residents := by
  unfold State.modCtx; split <;> [split; skip] <;> rfl
@[simp] theorem State.modCtx_units (s : State) (f : Ctx → Ctx) : (s.modCtx f).units = s.units := by
  unfold State.modCtx; split <;> [split; skip] <;> rfl
@[simp] theorem State.modCtx_routes (s : State) (f : Ctx → Ctx) : (s.modCtx f).routes = s.routes := by
  unfold State.modCtx; split <;> [split; skip] <;> rfl
@[simp] theorem State.modCtx_ports (s : State) (f : Ctx → Ctx) : (s.modCtx f).ports = s.ports := by
  unfold State.modCtx; split <;> [split; skip] <;> rfl
@[simp] theorem State.modCtx_mtiles (s : State) (f : Ctx → Ctx) : (s.modCtx f).mtiles = s.mtiles := by
  unfold State.modCtx; split <;> [split; skip] <;> rfl
@[simp] theorem State.modCtx_helds (s : State) (f : Ctx → Ctx) : (s.modCtx f).helds = s.helds := by
  unfold State.modCtx; split <;> [split; skip] <;> rfl
@[simp] theorem State.modCtx_bankToks (s : State) (f : Ctx → Ctx) : (s.modCtx f).bankToks = s.bankToks := by
  unfold State.modCtx; split <;> [split; skip] <;> rfl
@[simp] theorem State.modCtx_confs (s : State) (f : Ctx → Ctx) : (s.modCtx f).confs = s.confs := by
  unfold State.modCtx; split <;> [split; skip] <;> rfl
@[simp] theorem State.modCtx_locks (s : State) (f : Ctx → Ctx) : (s.modCtx f).locks = s.locks := by
  unfold State.modCtx; split <;> [split; skip] <;> rfl
@[simp] theorem State.modCtx_bars (s : State) (f : Ctx → Ctx) : (s.modCtx f).bars = s.bars := by
  unfold State.modCtx; split <;> [split; skip] <;> rfl
@[simp] theorem State.modCtx_waits (s : State) (f : Ctx → Ctx) : (s.modCtx f).waits = s.waits := by
  unfold State.modCtx; split <;> [split; skip] <;> rfl
@[simp] theorem State.modCtx_decls (s : State) (f : Ctx → Ctx) : (s.modCtx f).decls = s.decls := by
  unfold State.modCtx; split <;> [split; skip] <;> rfl
@[simp] theorem State.modCtx_attns (s : State) (f : Ctx → Ctx) : (s.modCtx f).attns = s.attns := by
  unfold State.modCtx; split <;> [split; skip] <;> rfl
@[simp] theorem State.modCtx_tokUnits (s : State) (f : Ctx → Ctx) : (s.modCtx f).tokUnits = s.tokUnits := by
  unfold State.modCtx; split <;> [split; skip] <;> rfl
@[simp] theorem State.modCtx_remotes (s : State) (f : Ctx → Ctx) : (s.modCtx f).remotes = s.remotes := by
  unfold State.modCtx; split <;> [split; skip] <;> rfl
@[simp] theorem State.modCtx_transits (s : State) (f : Ctx → Ctx) : (s.modCtx f).transits = s.transits := by
  unfold State.modCtx; split <;> [split; skip] <;> rfl
@[simp] theorem State.modCtx_posted (s : State) (f : Ctx → Ctx) : (s.modCtx f).posted = s.posted := by
  unfold State.modCtx; split <;> [split; skip] <;> rfl
@[simp] theorem State.modCtx_parts (s : State) (f : Ctx → Ctx) : (s.modCtx f).parts = s.parts := by
  unfold State.modCtx; split <;> [split; skip] <;> rfl
@[simp] theorem State.modCtx_fns (s : State) (f : Ctx → Ctx) : (s.modCtx f).fns = s.fns := by
  unfold State.modCtx; split <;> [split; skip] <;> rfl
@[simp] theorem State.modCtx_owners (s : State) (f : Ctx → Ctx) : (s.modCtx f).owners = s.owners := by
  unfold State.modCtx; split <;> [split; skip] <;> rfl
@[simp] theorem State.modCtx_tunnels (s : State) (f : Ctx → Ctx) : (s.modCtx f).tunnels = s.tunnels := by
  unfold State.modCtx; split <;> [split; skip] <;> rfl
@[simp] theorem State.modCtx_lends (s : State) (f : Ctx → Ctx) : (s.modCtx f).lends = s.lends := by
  unfold State.modCtx; split <;> [split; skip] <;> rfl
@[simp] theorem State.modCtx_sys (s : State) (f : Ctx → Ctx) : (s.modCtx f).sys = s.sys := by
  unfold State.modCtx; split <;> [split; skip] <;> rfl
@[simp] theorem State.modCtx_messages (s : State) (f : Ctx → Ctx) : (s.modCtx f).messages = s.messages := by
  unfold State.modCtx; split <;> [split; skip] <;> rfl
@[simp] theorem State.modCtx_sentPackets (s : State) (f : Ctx → Ctx) : (s.modCtx f).sentPackets = s.sentPackets := by
  unfold State.modCtx; split <;> [split; skip] <;> rfl
@[simp] theorem State.modCtx_portsUp (s : State) (f : Ctx → Ctx) : (s.modCtx f).portsUp = s.portsUp := by
  unfold State.modCtx; split <;> [split; skip] <;> rfl
@[simp] theorem State.modCtx_draining (s : State) (f : Ctx → Ctx) : (s.modCtx f).draining = s.draining := by
  unfold State.modCtx; split <;> [split; skip] <;> rfl
@[simp] theorem State.modCtx_heldPackets (s : State) (f : Ctx → Ctx) : (s.modCtx f).heldPackets = s.heldPackets := by
  unfold State.modCtx; split <;> [split; skip] <;> rfl
@[simp] theorem State.modCtx_replies (s : State) (f : Ctx → Ctx) : (s.modCtx f).replies = s.replies := by
  unfold State.modCtx; split <;> [split; skip] <;> rfl
@[simp] theorem State.modCtx_msixSent (s : State) (f : Ctx → Ctx) : (s.modCtx f).msixSent = s.msixSent := by
  unfold State.modCtx; split <;> [split; skip] <;> rfl
@[simp] theorem State.modCtx_stageMeas (s : State) (f : Ctx → Ctx) : (s.modCtx f).stageMeas = s.stageMeas := by
  unfold State.modCtx; split <;> [split; skip] <;> rfl
@[simp] theorem State.modCtx_staged (s : State) (f : Ctx → Ctx) : (s.modCtx f).staged = s.staged := by
  unfold State.modCtx; split <;> [split; skip] <;> rfl
@[simp] theorem State.modCtx_lastOwner (s : State) (f : Ctx → Ctx) : (s.modCtx f).lastOwner = s.lastOwner := by
  unfold State.modCtx; split <;> [split; skip] <;> rfl
@[simp] theorem State.modCtx_nextSerial (s : State) (f : Ctx → Ctx) : (s.modCtx f).nextSerial = s.nextSerial := by
  unfold State.modCtx; split <;> [split; skip] <;> rfl
@[simp] theorem State.modCtx_nextId (s : State) (f : Ctx → Ctx) : (s.modCtx f).nextId = s.nextId := by
  unfold State.modCtx; split <;> [split; skip] <;> rfl
@[simp] theorem State.modCtx_nextKey (s : State) (f : Ctx → Ctx) : (s.modCtx f).nextKey = s.nextKey := by
  unfold State.modCtx; split <;> [split; skip] <;> rfl
@[simp] theorem State.modCtx_dlser (s : State) (f : Ctx → Ctx) : (s.modCtx f).dlser = s.dlser := by
  unfold State.modCtx; split <;> [split; skip] <;> rfl
@[simp] theorem State.modCtx_fenceRaise (s : State) (f : Ctx → Ctx) : (s.modCtx f).fenceRaise = s.fenceRaise := by
  unfold State.modCtx; split <;> [split; skip] <;> rfl

/-! ### The instance whose thread executes -/

@[simp] theorem State.modMe_turns (s : State) (f : Inst → Inst) : (s.modMe f).turns = s.turns := by
  unfold State.modMe; split <;> rfl
@[simp] theorem State.modMe_cur (s : State) (f : Inst → Inst) : (s.modMe f).cur = s.cur := by
  unfold State.modMe; split <;> rfl
@[simp] theorem State.modMe_free (s : State) (f : Inst → Inst) : (s.modMe f).free = s.free := by
  unfold State.modMe; split <;> rfl
@[simp] theorem State.modMe_blocked (s : State) (f : Inst → Inst) : (s.modMe f).blocked = s.blocked := by
  unfold State.modMe; split <;> rfl
@[simp] theorem State.modMe_cycle (s : State) (f : Inst → Inst) : (s.modMe f).cycle = s.cycle := by
  unfold State.modMe; split <;> rfl
@[simp] theorem State.modMe_nsec (s : State) (f : Inst → Inst) : (s.modMe f).nsec = s.nsec := by
  unfold State.modMe; split <;> rfl
@[simp] theorem State.modMe_frozen (s : State) (f : Inst → Inst) : (s.modMe f).frozen = s.frozen := by
  unfold State.modMe; split <;> rfl
@[simp] theorem State.modMe_sups (s : State) (f : Inst → Inst) : (s.modMe f).sups = s.sups := by
  unfold State.modMe; split <;> rfl
@[simp] theorem State.modMe_quires (s : State) (f : Inst → Inst) : (s.modMe f).quires = s.quires := by
  unfold State.modMe; split <;> rfl
@[simp] theorem State.modMe_cores (s : State) (f : Inst → Inst) : (s.modMe f).cores = s.cores := by
  unfold State.modMe; split <;> rfl
@[simp] theorem State.modMe_mem (s : State) (f : Inst → Inst) : (s.modMe f).mem = s.mem := by
  unfold State.modMe; split <;> rfl
@[simp] theorem State.modMe_poison (s : State) (f : Inst → Inst) : (s.modMe f).poison = s.poison := by
  unfold State.modMe; split <;> rfl
@[simp] theorem State.modMe_seals (s : State) (f : Inst → Inst) : (s.modMe f).seals = s.seals := by
  unfold State.modMe; split <;> rfl
@[simp] theorem State.modMe_tlb (s : State) (f : Inst → Inst) : (s.modMe f).tlb = s.tlb := by
  unfold State.modMe; split <;> rfl
@[simp] theorem State.modMe_residents (s : State) (f : Inst → Inst) : (s.modMe f).residents = s.residents := by
  unfold State.modMe; split <;> rfl
@[simp] theorem State.modMe_units (s : State) (f : Inst → Inst) : (s.modMe f).units = s.units := by
  unfold State.modMe; split <;> rfl
@[simp] theorem State.modMe_routes (s : State) (f : Inst → Inst) : (s.modMe f).routes = s.routes := by
  unfold State.modMe; split <;> rfl
@[simp] theorem State.modMe_ports (s : State) (f : Inst → Inst) : (s.modMe f).ports = s.ports := by
  unfold State.modMe; split <;> rfl
@[simp] theorem State.modMe_mtiles (s : State) (f : Inst → Inst) : (s.modMe f).mtiles = s.mtiles := by
  unfold State.modMe; split <;> rfl
@[simp] theorem State.modMe_helds (s : State) (f : Inst → Inst) : (s.modMe f).helds = s.helds := by
  unfold State.modMe; split <;> rfl
@[simp] theorem State.modMe_bankToks (s : State) (f : Inst → Inst) : (s.modMe f).bankToks = s.bankToks := by
  unfold State.modMe; split <;> rfl
@[simp] theorem State.modMe_confs (s : State) (f : Inst → Inst) : (s.modMe f).confs = s.confs := by
  unfold State.modMe; split <;> rfl
@[simp] theorem State.modMe_locks (s : State) (f : Inst → Inst) : (s.modMe f).locks = s.locks := by
  unfold State.modMe; split <;> rfl
@[simp] theorem State.modMe_bars (s : State) (f : Inst → Inst) : (s.modMe f).bars = s.bars := by
  unfold State.modMe; split <;> rfl
@[simp] theorem State.modMe_waits (s : State) (f : Inst → Inst) : (s.modMe f).waits = s.waits := by
  unfold State.modMe; split <;> rfl
@[simp] theorem State.modMe_decls (s : State) (f : Inst → Inst) : (s.modMe f).decls = s.decls := by
  unfold State.modMe; split <;> rfl
@[simp] theorem State.modMe_attns (s : State) (f : Inst → Inst) : (s.modMe f).attns = s.attns := by
  unfold State.modMe; split <;> rfl
@[simp] theorem State.modMe_tokUnits (s : State) (f : Inst → Inst) : (s.modMe f).tokUnits = s.tokUnits := by
  unfold State.modMe; split <;> rfl
@[simp] theorem State.modMe_remotes (s : State) (f : Inst → Inst) : (s.modMe f).remotes = s.remotes := by
  unfold State.modMe; split <;> rfl
@[simp] theorem State.modMe_transits (s : State) (f : Inst → Inst) : (s.modMe f).transits = s.transits := by
  unfold State.modMe; split <;> rfl
@[simp] theorem State.modMe_posted (s : State) (f : Inst → Inst) : (s.modMe f).posted = s.posted := by
  unfold State.modMe; split <;> rfl
@[simp] theorem State.modMe_parts (s : State) (f : Inst → Inst) : (s.modMe f).parts = s.parts := by
  unfold State.modMe; split <;> rfl
@[simp] theorem State.modMe_fns (s : State) (f : Inst → Inst) : (s.modMe f).fns = s.fns := by
  unfold State.modMe; split <;> rfl
@[simp] theorem State.modMe_owners (s : State) (f : Inst → Inst) : (s.modMe f).owners = s.owners := by
  unfold State.modMe; split <;> rfl
@[simp] theorem State.modMe_tunnels (s : State) (f : Inst → Inst) : (s.modMe f).tunnels = s.tunnels := by
  unfold State.modMe; split <;> rfl
@[simp] theorem State.modMe_lends (s : State) (f : Inst → Inst) : (s.modMe f).lends = s.lends := by
  unfold State.modMe; split <;> rfl
@[simp] theorem State.modMe_sys (s : State) (f : Inst → Inst) : (s.modMe f).sys = s.sys := by
  unfold State.modMe; split <;> rfl
@[simp] theorem State.modMe_messages (s : State) (f : Inst → Inst) : (s.modMe f).messages = s.messages := by
  unfold State.modMe; split <;> rfl
@[simp] theorem State.modMe_sentPackets (s : State) (f : Inst → Inst) : (s.modMe f).sentPackets = s.sentPackets := by
  unfold State.modMe; split <;> rfl
@[simp] theorem State.modMe_portsUp (s : State) (f : Inst → Inst) : (s.modMe f).portsUp = s.portsUp := by
  unfold State.modMe; split <;> rfl
@[simp] theorem State.modMe_draining (s : State) (f : Inst → Inst) : (s.modMe f).draining = s.draining := by
  unfold State.modMe; split <;> rfl
@[simp] theorem State.modMe_heldPackets (s : State) (f : Inst → Inst) : (s.modMe f).heldPackets = s.heldPackets := by
  unfold State.modMe; split <;> rfl
@[simp] theorem State.modMe_replies (s : State) (f : Inst → Inst) : (s.modMe f).replies = s.replies := by
  unfold State.modMe; split <;> rfl
@[simp] theorem State.modMe_msixSent (s : State) (f : Inst → Inst) : (s.modMe f).msixSent = s.msixSent := by
  unfold State.modMe; split <;> rfl
@[simp] theorem State.modMe_stageMeas (s : State) (f : Inst → Inst) : (s.modMe f).stageMeas = s.stageMeas := by
  unfold State.modMe; split <;> rfl
@[simp] theorem State.modMe_staged (s : State) (f : Inst → Inst) : (s.modMe f).staged = s.staged := by
  unfold State.modMe; split <;> rfl
@[simp] theorem State.modMe_lastOwner (s : State) (f : Inst → Inst) : (s.modMe f).lastOwner = s.lastOwner := by
  unfold State.modMe; split <;> rfl
@[simp] theorem State.modMe_nextSerial (s : State) (f : Inst → Inst) : (s.modMe f).nextSerial = s.nextSerial := by
  unfold State.modMe; split <;> rfl
@[simp] theorem State.modMe_nextId (s : State) (f : Inst → Inst) : (s.modMe f).nextId = s.nextId := by
  unfold State.modMe; split <;> rfl
@[simp] theorem State.modMe_nextKey (s : State) (f : Inst → Inst) : (s.modMe f).nextKey = s.nextKey := by
  unfold State.modMe; split <;> rfl
@[simp] theorem State.modMe_dlser (s : State) (f : Inst → Inst) : (s.modMe f).dlser = s.dlser := by
  unfold State.modMe; split <;> rfl
@[simp] theorem State.modMe_fenceRaise (s : State) (f : Inst → Inst) : (s.modMe f).fenceRaise = s.fenceRaise := by
  unfold State.modMe; split <;> rfl

/-! ### The end of a stall -/

@[simp] theorem State.endStall_turns (s : State) : s.endStall.turns = s.turns := by
  unfold State.endStall; split <;> [(split <;> [split; skip]); skip] <;> rfl
@[simp] theorem State.endStall_cur (s : State) : s.endStall.cur = s.cur := by
  unfold State.endStall; split <;> [(split <;> [split; skip]); skip] <;> rfl
@[simp] theorem State.endStall_free (s : State) : s.endStall.free = s.free := by
  unfold State.endStall; split <;> [(split <;> [split; skip]); skip] <;> rfl
@[simp] theorem State.endStall_cycle (s : State) : s.endStall.cycle = s.cycle := by
  unfold State.endStall; split <;> [(split <;> [split; skip]); skip] <;> rfl
@[simp] theorem State.endStall_nsec (s : State) : s.endStall.nsec = s.nsec := by
  unfold State.endStall; split <;> [(split <;> [split; skip]); skip] <;> rfl
@[simp] theorem State.endStall_frozen (s : State) : s.endStall.frozen = s.frozen := by
  unfold State.endStall; split <;> [(split <;> [split; skip]); skip] <;> rfl
@[simp] theorem State.endStall_quires (s : State) : s.endStall.quires = s.quires := by
  unfold State.endStall; split <;> [(split <;> [split; skip]); skip] <;> rfl
@[simp] theorem State.endStall_cores (s : State) : s.endStall.cores = s.cores := by
  unfold State.endStall; split <;> [(split <;> [split; skip]); skip] <;> rfl
@[simp] theorem State.endStall_mem (s : State) : s.endStall.mem = s.mem := by
  unfold State.endStall; split <;> [(split <;> [split; skip]); skip] <;> rfl
@[simp] theorem State.endStall_poison (s : State) : s.endStall.poison = s.poison := by
  unfold State.endStall; split <;> [(split <;> [split; skip]); skip] <;> rfl
@[simp] theorem State.endStall_seals (s : State) : s.endStall.seals = s.seals := by
  unfold State.endStall; split <;> [(split <;> [split; skip]); skip] <;> rfl
@[simp] theorem State.endStall_tlb (s : State) : s.endStall.tlb = s.tlb := by
  unfold State.endStall; split <;> [(split <;> [split; skip]); skip] <;> rfl
@[simp] theorem State.endStall_residents (s : State) : s.endStall.residents = s.residents := by
  unfold State.endStall; split <;> [(split <;> [split; skip]); skip] <;> rfl
@[simp] theorem State.endStall_units (s : State) : s.endStall.units = s.units := by
  unfold State.endStall; split <;> [(split <;> [split; skip]); skip] <;> rfl
@[simp] theorem State.endStall_routes (s : State) : s.endStall.routes = s.routes := by
  unfold State.endStall; split <;> [(split <;> [split; skip]); skip] <;> rfl
@[simp] theorem State.endStall_ports (s : State) : s.endStall.ports = s.ports := by
  unfold State.endStall; split <;> [(split <;> [split; skip]); skip] <;> rfl
@[simp] theorem State.endStall_mtiles (s : State) : s.endStall.mtiles = s.mtiles := by
  unfold State.endStall; split <;> [(split <;> [split; skip]); skip] <;> rfl
@[simp] theorem State.endStall_helds (s : State) : s.endStall.helds = s.helds := by
  unfold State.endStall; split <;> [(split <;> [split; skip]); skip] <;> rfl
@[simp] theorem State.endStall_bankToks (s : State) : s.endStall.bankToks = s.bankToks := by
  unfold State.endStall; split <;> [(split <;> [split; skip]); skip] <;> rfl
@[simp] theorem State.endStall_confs (s : State) : s.endStall.confs = s.confs := by
  unfold State.endStall; split <;> [(split <;> [split; skip]); skip] <;> rfl
@[simp] theorem State.endStall_locks (s : State) : s.endStall.locks = s.locks := by
  unfold State.endStall; split <;> [(split <;> [split; skip]); skip] <;> rfl
@[simp] theorem State.endStall_bars (s : State) : s.endStall.bars = s.bars := by
  unfold State.endStall; split <;> [(split <;> [split; skip]); skip] <;> rfl
@[simp] theorem State.endStall_decls (s : State) : s.endStall.decls = s.decls := by
  unfold State.endStall; split <;> [(split <;> [split; skip]); skip] <;> rfl
@[simp] theorem State.endStall_attns (s : State) : s.endStall.attns = s.attns := by
  unfold State.endStall; split <;> [(split <;> [split; skip]); skip] <;> rfl
@[simp] theorem State.endStall_tokUnits (s : State) : s.endStall.tokUnits = s.tokUnits := by
  unfold State.endStall; split <;> [(split <;> [split; skip]); skip] <;> rfl
@[simp] theorem State.endStall_transits (s : State) : s.endStall.transits = s.transits := by
  unfold State.endStall; split <;> [(split <;> [split; skip]); skip] <;> rfl
@[simp] theorem State.endStall_posted (s : State) : s.endStall.posted = s.posted := by
  unfold State.endStall; split <;> [(split <;> [split; skip]); skip] <;> rfl
@[simp] theorem State.endStall_parts (s : State) : s.endStall.parts = s.parts := by
  unfold State.endStall; split <;> [(split <;> [split; skip]); skip] <;> rfl
@[simp] theorem State.endStall_fns (s : State) : s.endStall.fns = s.fns := by
  unfold State.endStall; split <;> [(split <;> [split; skip]); skip] <;> rfl
@[simp] theorem State.endStall_owners (s : State) : s.endStall.owners = s.owners := by
  unfold State.endStall; split <;> [(split <;> [split; skip]); skip] <;> rfl
@[simp] theorem State.endStall_tunnels (s : State) : s.endStall.tunnels = s.tunnels := by
  unfold State.endStall; split <;> [(split <;> [split; skip]); skip] <;> rfl
@[simp] theorem State.endStall_lends (s : State) : s.endStall.lends = s.lends := by
  unfold State.endStall; split <;> [(split <;> [split; skip]); skip] <;> rfl
@[simp] theorem State.endStall_sys (s : State) : s.endStall.sys = s.sys := by
  unfold State.endStall; split <;> [(split <;> [split; skip]); skip] <;> rfl
@[simp] theorem State.endStall_messages (s : State) : s.endStall.messages = s.messages := by
  unfold State.endStall; split <;> [(split <;> [split; skip]); skip] <;> rfl
@[simp] theorem State.endStall_sentPackets (s : State) : s.endStall.sentPackets = s.sentPackets := by
  unfold State.endStall; split <;> [(split <;> [split; skip]); skip] <;> rfl
@[simp] theorem State.endStall_portsUp (s : State) : s.endStall.portsUp = s.portsUp := by
  unfold State.endStall; split <;> [(split <;> [split; skip]); skip] <;> rfl
@[simp] theorem State.endStall_draining (s : State) : s.endStall.draining = s.draining := by
  unfold State.endStall; split <;> [(split <;> [split; skip]); skip] <;> rfl
@[simp] theorem State.endStall_heldPackets (s : State) : s.endStall.heldPackets = s.heldPackets := by
  unfold State.endStall; split <;> [(split <;> [split; skip]); skip] <;> rfl
@[simp] theorem State.endStall_replies (s : State) : s.endStall.replies = s.replies := by
  unfold State.endStall; split <;> [(split <;> [split; skip]); skip] <;> rfl
@[simp] theorem State.endStall_msixSent (s : State) : s.endStall.msixSent = s.msixSent := by
  unfold State.endStall; split <;> [(split <;> [split; skip]); skip] <;> rfl
@[simp] theorem State.endStall_stageMeas (s : State) : s.endStall.stageMeas = s.stageMeas := by
  unfold State.endStall; split <;> [(split <;> [split; skip]); skip] <;> rfl
@[simp] theorem State.endStall_staged (s : State) : s.endStall.staged = s.staged := by
  unfold State.endStall; split <;> [(split <;> [split; skip]); skip] <;> rfl
@[simp] theorem State.endStall_lastOwner (s : State) : s.endStall.lastOwner = s.lastOwner := by
  unfold State.endStall; split <;> [(split <;> [split; skip]); skip] <;> rfl
@[simp] theorem State.endStall_nextSerial (s : State) : s.endStall.nextSerial = s.nextSerial := by
  unfold State.endStall; split <;> [(split <;> [split; skip]); skip] <;> rfl
@[simp] theorem State.endStall_nextId (s : State) : s.endStall.nextId = s.nextId := by
  unfold State.endStall; split <;> [(split <;> [split; skip]); skip] <;> rfl
@[simp] theorem State.endStall_nextKey (s : State) : s.endStall.nextKey = s.nextKey := by
  unfold State.endStall; split <;> [(split <;> [split; skip]); skip] <;> rfl
@[simp] theorem State.endStall_dlser (s : State) : s.endStall.dlser = s.dlser := by
  unfold State.endStall; split <;> [(split <;> [split; skip]); skip] <;> rfl
@[simp] theorem State.endStall_fenceRaise (s : State) : s.endStall.fenceRaise = s.fenceRaise := by
  unfold State.endStall; split <;> [(split <;> [split; skip]); skip] <;> rfl

/-! ### A word that completes -/

@[simp] theorem State.retire_turns (s : State) (f : Flow) : (s.retire f).turns = s.turns := by
  cases f <;> simp [State.retire, State.setPc]
@[simp] theorem State.retire_cur (s : State) (f : Flow) : (s.retire f).cur = s.cur := by
  cases f <;> simp [State.retire, State.setPc]
@[simp] theorem State.retire_free (s : State) (f : Flow) : (s.retire f).free = s.free := by
  cases f <;> simp [State.retire, State.setPc]
@[simp] theorem State.retire_cycle (s : State) (f : Flow) : (s.retire f).cycle = s.cycle := by
  cases f <;> simp [State.retire, State.setPc]
@[simp] theorem State.retire_nsec (s : State) (f : Flow) : (s.retire f).nsec = s.nsec := by
  cases f <;> simp [State.retire, State.setPc]
@[simp] theorem State.retire_frozen (s : State) (f : Flow) : (s.retire f).frozen = s.frozen := by
  cases f <;> simp [State.retire, State.setPc]
@[simp] theorem State.retire_quires (s : State) (f : Flow) : (s.retire f).quires = s.quires := by
  cases f <;> simp [State.retire, State.setPc]
@[simp] theorem State.retire_mem (s : State) (f : Flow) : (s.retire f).mem = s.mem := by
  cases f <;> simp [State.retire, State.setPc]
@[simp] theorem State.retire_poison (s : State) (f : Flow) : (s.retire f).poison = s.poison := by
  cases f <;> simp [State.retire, State.setPc]
@[simp] theorem State.retire_seals (s : State) (f : Flow) : (s.retire f).seals = s.seals := by
  cases f <;> simp [State.retire, State.setPc]
@[simp] theorem State.retire_tlb (s : State) (f : Flow) : (s.retire f).tlb = s.tlb := by
  cases f <;> simp [State.retire, State.setPc]
@[simp] theorem State.retire_residents (s : State) (f : Flow) : (s.retire f).residents = s.residents := by
  cases f <;> simp [State.retire, State.setPc]
@[simp] theorem State.retire_units (s : State) (f : Flow) : (s.retire f).units = s.units := by
  cases f <;> simp [State.retire, State.setPc]
@[simp] theorem State.retire_routes (s : State) (f : Flow) : (s.retire f).routes = s.routes := by
  cases f <;> simp [State.retire, State.setPc]
@[simp] theorem State.retire_ports (s : State) (f : Flow) : (s.retire f).ports = s.ports := by
  cases f <;> simp [State.retire, State.setPc]
@[simp] theorem State.retire_mtiles (s : State) (f : Flow) : (s.retire f).mtiles = s.mtiles := by
  cases f <;> simp [State.retire, State.setPc]
@[simp] theorem State.retire_helds (s : State) (f : Flow) : (s.retire f).helds = s.helds := by
  cases f <;> simp [State.retire, State.setPc]
@[simp] theorem State.retire_bankToks (s : State) (f : Flow) : (s.retire f).bankToks = s.bankToks := by
  cases f <;> simp [State.retire, State.setPc]
@[simp] theorem State.retire_confs (s : State) (f : Flow) : (s.retire f).confs = s.confs := by
  cases f <;> simp [State.retire, State.setPc]
@[simp] theorem State.retire_locks (s : State) (f : Flow) : (s.retire f).locks = s.locks := by
  cases f <;> simp [State.retire, State.setPc]
@[simp] theorem State.retire_bars (s : State) (f : Flow) : (s.retire f).bars = s.bars := by
  cases f <;> simp [State.retire, State.setPc]
@[simp] theorem State.retire_decls (s : State) (f : Flow) : (s.retire f).decls = s.decls := by
  cases f <;> simp [State.retire, State.setPc]
@[simp] theorem State.retire_attns (s : State) (f : Flow) : (s.retire f).attns = s.attns := by
  cases f <;> simp [State.retire, State.setPc]
@[simp] theorem State.retire_tokUnits (s : State) (f : Flow) : (s.retire f).tokUnits = s.tokUnits := by
  cases f <;> simp [State.retire, State.setPc]
@[simp] theorem State.retire_transits (s : State) (f : Flow) : (s.retire f).transits = s.transits := by
  cases f <;> simp [State.retire, State.setPc]
@[simp] theorem State.retire_posted (s : State) (f : Flow) : (s.retire f).posted = s.posted := by
  cases f <;> simp [State.retire, State.setPc]
@[simp] theorem State.retire_parts (s : State) (f : Flow) : (s.retire f).parts = s.parts := by
  cases f <;> simp [State.retire, State.setPc]
@[simp] theorem State.retire_fns (s : State) (f : Flow) : (s.retire f).fns = s.fns := by
  cases f <;> simp [State.retire, State.setPc]
@[simp] theorem State.retire_owners (s : State) (f : Flow) : (s.retire f).owners = s.owners := by
  cases f <;> simp [State.retire, State.setPc]
@[simp] theorem State.retire_tunnels (s : State) (f : Flow) : (s.retire f).tunnels = s.tunnels := by
  cases f <;> simp [State.retire, State.setPc]
@[simp] theorem State.retire_lends (s : State) (f : Flow) : (s.retire f).lends = s.lends := by
  cases f <;> simp [State.retire, State.setPc]
@[simp] theorem State.retire_sys (s : State) (f : Flow) : (s.retire f).sys = s.sys := by
  cases f <;> simp [State.retire, State.setPc]
@[simp] theorem State.retire_messages (s : State) (f : Flow) : (s.retire f).messages = s.messages := by
  cases f <;> simp [State.retire, State.setPc]
@[simp] theorem State.retire_sentPackets (s : State) (f : Flow) : (s.retire f).sentPackets = s.sentPackets := by
  cases f <;> simp [State.retire, State.setPc]
@[simp] theorem State.retire_portsUp (s : State) (f : Flow) : (s.retire f).portsUp = s.portsUp := by
  cases f <;> simp [State.retire, State.setPc]
@[simp] theorem State.retire_draining (s : State) (f : Flow) : (s.retire f).draining = s.draining := by
  cases f <;> simp [State.retire, State.setPc]
@[simp] theorem State.retire_heldPackets (s : State) (f : Flow) : (s.retire f).heldPackets = s.heldPackets := by
  cases f <;> simp [State.retire, State.setPc]
@[simp] theorem State.retire_replies (s : State) (f : Flow) : (s.retire f).replies = s.replies := by
  cases f <;> simp [State.retire, State.setPc]
@[simp] theorem State.retire_msixSent (s : State) (f : Flow) : (s.retire f).msixSent = s.msixSent := by
  cases f <;> simp [State.retire, State.setPc]
@[simp] theorem State.retire_stageMeas (s : State) (f : Flow) : (s.retire f).stageMeas = s.stageMeas := by
  cases f <;> simp [State.retire, State.setPc]
@[simp] theorem State.retire_staged (s : State) (f : Flow) : (s.retire f).staged = s.staged := by
  cases f <;> simp [State.retire, State.setPc]
@[simp] theorem State.retire_lastOwner (s : State) (f : Flow) : (s.retire f).lastOwner = s.lastOwner := by
  cases f <;> simp [State.retire, State.setPc]
@[simp] theorem State.retire_nextSerial (s : State) (f : Flow) : (s.retire f).nextSerial = s.nextSerial := by
  cases f <;> simp [State.retire, State.setPc]
@[simp] theorem State.retire_nextId (s : State) (f : Flow) : (s.retire f).nextId = s.nextId := by
  cases f <;> simp [State.retire, State.setPc]
@[simp] theorem State.retire_nextKey (s : State) (f : Flow) : (s.retire f).nextKey = s.nextKey := by
  cases f <;> simp [State.retire, State.setPc]
@[simp] theorem State.retire_dlser (s : State) (f : Flow) : (s.retire f).dlser = s.dlser := by
  cases f <;> simp [State.retire, State.setPc]
@[simp] theorem State.retire_fenceRaise (s : State) (f : Flow) : (s.retire f).fenceRaise = s.fenceRaise := by
  cases f <;> simp [State.retire, State.setPc]

/-! ### Contexts after the shared operations -/

/-- The supervisor bank of a core in use is in the list. -/
theorem State.sup_active (s : State) (k n : Nat) (h : (s.sup k).active = some n) : k < s.sups.length := by
  by_contra hk
  have : s.sups[k]? = none := List.getElem?_eq_none (by omega)
  simp [State.sup, this, SupBank.reset] at h

theorem State.sup_modSup (s : State) (k j : Nat) (f : SupBank → SupBank) :
    (s.modSup k f).sup j = if j = k ∧ k < s.sups.length then f (s.sup j) else s.sup j := by
  simp only [State.sup, State.modSup_sups, updAt_getElem?]
  by_cases hj : j = k
  · subst hj
    by_cases hk : j < s.sups.length
    · simp [hk]
    · have : s.sups[j]? = none := List.getElem?_eq_none (by omega)
      simp [this]
      intro h; exact absurd h hk
  · simp [hj]

theorem State.tcore_modTcore (s : State) (k j : Nat) (f : TCore → TCore) :
    (s.modTcore k f).tcore j = if j = k ∧ k < s.cores.length then f (s.tcore j) else s.tcore j := by
  simp only [State.tcore, State.modTcore_cores, updAt_getElem?]
  by_cases hj : j = k
  · subst hj
    by_cases hk : j < s.cores.length
    · simp [hk]
    · have : s.cores[j]? = none := List.getElem?_eq_none (by omega)
      simp [this]
      intro h; exact absurd h hk
  · simp [hj]

/-- The instance on a control thread after an update of instances that keeps their threads. -/
theorem State.instOn_modOn (s : State) (k : Nat) (f : Inst → Inst) (n : Nat) (h : ∀ i, (f i).hw = i.hw) :
    (s.modOn k f).instOn n = (s.instOn n).map fun i => if i.hw == some k then f i else i :=
  find?_updWhere _ (fun i : Inst => i.hw == some n) f s.insts fun i => by simp [h]

theorem State.instOn_modInst (s : State) (k : Nat) (f : Inst → Inst) (n : Nat) (h : ∀ i, (f i).hw = i.hw) :
    (s.modInst k f).instOn n = (s.instOn n).map fun i => if i.serial == k then f i else i :=
  find?_updWhere _ (fun i : Inst => i.hw == some n) f s.insts fun i => by simp [h]

theorem State.instOn_hw {s : State} {n : Nat} {i : Inst} (h : s.instOn n = some i) : i.hw = some n := by
  simpa using List.find?_some h

@[simp] theorem State.instOn_modSup (s : State) (k : Nat) (f : SupBank → SupBank) (n : Nat) :
    (s.modSup k f).instOn n = s.instOn n := rfl

@[simp] theorem State.instOn_modTcore (s : State) (k : Nat) (f : TCore → TCore) (n : Nat) :
    (s.modTcore k f).instOn n = s.instOn n := rfl

@[simp] theorem State.sup_modTcore (s : State) (k : Nat) (f : TCore → TCore) (n : Nat) :
    (s.modTcore k f).sup n = s.sup n := rfl

@[simp] theorem State.sup_modOn (s : State) (k : Nat) (f : Inst → Inst) (n : Nat) : (s.modOn k f).sup n = s.sup n := rfl

@[simp] theorem State.tcore_modSup (s : State) (k : Nat) (f : SupBank → SupBank) (n : Nat) :
    (s.modSup k f).tcore n = s.tcore n := rfl

@[simp] theorem State.tcore_modOn (s : State) (k : Nat) (f : Inst → Inst) (n : Nat) :
    (s.modOn k f).tcore n = s.tcore n := rfl

/-- The context of the thread that executes, after it goes through `f`. -/
theorem State.ctx?_modCtx (s : State) (f : Ctx → Ctx) (h : s.threaded) : (s.modCtx f).ctx? = s.ctx?.map f := by
  unfold State.threaded at h
  simp only [State.ctx?, State.modCtx_cur]
  cases hc : s.cur with
  | ctl n =>
    simp only [State.modCtx, hc, State.ctxOf]
    by_cases ha : (s.sup (htCore n)).active = some n
    · have hk := s.sup_active _ _ ha
      simp [ha, State.sup_modSup, hk]
    · simp only [if_neg ha, State.sup_modOn]
      rw [State.instOn_modOn s n (Inst.mapCtx f) n fun _ => rfl]
      cases hi : s.instOn n with
      | none => rfl
      | some i => simp [State.instOn_hw hi, Inst.mapCtx]
  | trearo k =>
    rw [hc] at h
    simp only [State.modCtx, hc, State.ctxOf, State.tcore_modTcore, h, and_self, if_true]
    by_cases h0 : (s.tcore k).level = 0
    · simp [h0]
    · by_cases h1 : (s.tcore k).level = 1
      · simp [h1]
      · simp [h0, h1]

/-- The contexts of the other threads do not change with it. -/
theorem State.ctxOf_modCtx (s : State) (f : Ctx → Ctx) (k : Hart) (h : k ≠ s.cur) : (s.modCtx f).ctxOf k = s.ctxOf k := by
  cases hc : s.cur with
  | ctl n =>
    rw [hc] at h
    simp only [State.modCtx, hc]
    by_cases ha : (s.sup (htCore n)).active = some n
    · rw [if_pos ha]
      cases k with
      | ctl m =>
        have hm : m ≠ n := fun e => h (by rw [e])
        simp only [State.ctxOf, State.sup_modSup, State.instOn_modSup]
        by_cases hk : htCore m = htCore n
        · rw [hk]
          have : ¬ (s.sup (htCore n)).active = some m := by rw [ha]; simpa using fun e => hm e.symm
          by_cases hl : htCore n < s.sups.length <;> simp [this, hl]
        · simp [hk]
      | trearo j => rfl
    · rw [if_neg ha]
      cases k with
      | ctl m =>
        have hm : m ≠ n := fun e => h (by rw [e])
        show (if (s.sup (htCore m)).active = some m then some (s.sup (htCore m)).ctx
          else ((s.modOn n (Inst.mapCtx f)).instOn m).map Inst.ctx) = s.ctxOf (.ctl m)
        rw [State.instOn_modOn s n (Inst.mapCtx f) m fun _ => rfl]
        simp only [State.ctxOf]
        cases hi : s.instOn m with
        | none => rfl
        | some i => simp [State.instOn_hw hi, hm]
      | trearo j => rfl
  | trearo j =>
    rw [hc] at h
    simp only [State.modCtx, hc]
    cases k with
    | ctl m => rfl
    | trearo i =>
      have hm : i ≠ j := fun e => h (by rw [e])
      simp [State.ctxOf, State.tcore_modTcore, hm]

theorem State.active_waits (s : State) (k n : Nat) (w : Bool) (j : Nat) :
    ((s.modSup k (SupBank.waits n w)).sup j).active = (s.sup j).active := by
  rw [State.sup_modSup]; unfold SupBank.waits; split <;> [split; skip] <;> rfl

theorem State.ctx_waits (s : State) (k n : Nat) (w : Bool) (j : Nat) :
    ((s.modSup k (SupBank.waits n w)).sup j).ctx = (s.sup j).ctx := by
  rw [State.sup_modSup]; unfold SupBank.waits; split <;> [split; skip] <;> rfl

/-- Marking a supervisor as waiting or not leaves every context. -/
theorem State.ctxOf_waits (s : State) (j n : Nat) (w : Bool) (k : Hart) :
    (s.modSup j (SupBank.waits n w)).ctxOf k = s.ctxOf k := by
  cases k with
  | ctl m => simp only [State.ctxOf, State.active_waits, State.ctx_waits, State.instOn_modSup]
  | trearo i => rfl

/-- An update of instances that keeps their threads and contexts leaves every context. -/
theorem State.ctxOf_modInst (s : State) (n : Nat) (f : Inst → Inst) (hf : ∀ i, (f i).hw = i.hw ∧ (f i).ctx = i.ctx) (k : Hart) :
    (s.modInst n f).ctxOf k = s.ctxOf k := by
  cases k with
  | trearo j => rfl
  | ctl m =>
    have hs : (s.modInst n f).sup (htCore m) = s.sup (htCore m) := rfl
    simp only [State.ctxOf, hs, State.instOn_modInst _ _ _ _ fun i => (hf i).1]
    split
    · rfl
    · cases s.instOn m with
      | none => rfl
      | some j => simp only [Option.map_some]; split <;> simp [hf]

/-- The end of a stall leaves every context. -/
theorem State.ctxOf_endStall (s : State) (k : Hart) : s.endStall.ctxOf k = s.ctxOf k := by
  have hd : s.dropAsks.ctxOf k = s.ctxOf k := by cases k <;> rfl
  unfold State.endStall
  split
  · split
    · split
      · have hx : ∀ (t : State) (q : Nat), (t.dropAuto q).ctxOf k = t.ctxOf k := fun t q => by cases k <;> rfl
        rw [hx, State.ctxOf_modInst _ _ Inst.resume fun _ => ⟨rfl, rfl⟩, State.ctxOf_waits, hd]
      · rw [State.ctxOf_waits, hd]
    · rw [State.ctxOf_waits, hd]
  · exact hd

theorem State.ctxOf_modMe (s : State) (f : Inst → Inst) (hf : ∀ i, (f i).hw = i.hw ∧ (f i).ctx = i.ctx) (k : Hart) :
    (s.modMe f).ctxOf k = s.ctxOf k := by
  unfold State.modMe
  cases hc : s.cur with
  | trearo j => rfl
  | ctl n =>
    cases k with
    | trearo j => rfl
    | ctl m =>
      simp only [State.ctxOf, State.sup_modOn, State.instOn_modOn _ _ _ _ fun i => (hf i).1]
      split
      · rfl
      · cases s.instOn m with
        | none => rfl
        | some j => simp only [Option.map_some]; split <;> simp [hf]

@[simp] theorem State.length_modCtx (s : State) (f : Ctx → Ctx) : (s.modCtx f).cores.length = s.cores.length := by
  unfold State.modCtx; split <;> [split; skip] <;> simp

theorem State.threaded_modCtx (s : State) (f : Ctx → Ctx) (h : s.threaded) : (s.modCtx f).threaded := by
  have hx := s.ctx?_modCtx f h
  unfold State.threaded at *
  rw [State.modCtx_cur]
  cases hc : s.cur with
  | ctl n => rw [hc] at h; simpa [hx] using h
  | trearo k => rw [hc] at h; simpa using h

/-- Every thread's context after the stall ends and the instance has made progress: as before. -/
theorem State.ctxOf_settle (s : State) (v : W64) (k : Hart) : (s.endStall.modMe (Inst.progressed v)).ctxOf k = s.ctxOf k := by
  rw [State.ctxOf_modMe _ (Inst.progressed v) fun _ => ⟨rfl, rfl⟩, State.ctxOf_endStall]

theorem State.threaded_settle (s : State) (v : W64) (h : s.threaded) : (s.endStall.modMe (Inst.progressed v)).threaded := by
  have hx := s.ctxOf_settle v s.cur
  unfold State.threaded at *
  simp only [State.ctx?, State.modMe_cur, State.endStall_cur] at *
  cases hc : s.cur with
  | ctl n => rw [hc] at h hx; simp only at h ⊢; rw [hx]; exact h
  | trearo k => rw [hc] at h; simpa using h

/-- How a word that completes leaves the context of its thread. -/
def Flow.apply (f : Flow) (c : Ctx) : Ctx :=
  match f with
  | .next => c.at (c.pc + 4#64)
  | .to pc => c.at pc
  | .stay => c

theorem State.retire_stay (s : State) : s.retire .stay = s.endStall.modMe (Inst.progressed s.nsec) := by
  simp [State.retire]

theorem State.retire_eq (s : State) (f : Flow) (h : f ≠ .stay) : s.retire f = (s.retire .stay).modCtx f.apply := by
  cases f <;> simp_all [State.retire, State.setPc] <;> rfl

/-- The context of the thread that executes, after its word completes. -/
theorem State.ctx?_retire (s : State) (f : Flow) (h : s.threaded) : (s.retire f).ctx? = s.ctx?.map f.apply := by
  have ht : (s.retire .stay).threaded := by rw [State.retire_stay]; exact s.threaded_settle _ h
  have hs : (s.retire .stay).ctx? = s.ctx? := by
    rw [State.retire_stay]; simpa [State.ctx?] using s.ctxOf_settle s.nsec s.cur
  by_cases hf : f = .stay
  · subst hf; rw [hs]; cases s.ctx? <;> rfl
  · rw [State.retire_eq s f hf, State.ctx?_modCtx _ _ ht, hs]

/-- The contexts of the other threads, after a word completes: as before. -/
theorem State.ctxOf_retire (s : State) (f : Flow) (k : Hart) (h : k ≠ s.cur) : (s.retire f).ctxOf k = s.ctxOf k := by
  have hs : (s.retire .stay).ctxOf k = s.ctxOf k := by rw [State.retire_stay, State.ctxOf_settle]
  by_cases hf : f = .stay
  · subst hf; exact hs
  · rw [State.retire_eq s f hf, State.ctxOf_modCtx _ _ _ (by simpa using h), hs]

/-! ### The frame of a word -/

/-- A word that passes the checks of R140 runs its body, and ends as the body's answer says. -/
theorem runWord_next {s : State} {ill : Bool} {need : Nat} {regs : List (BitVec 5)} {g : BitVec 3} {body : State → Ans Flow}
    (hi : ill = false) (hx : s.ctx?.isSome = true) (hl : need ≤ s.level)
    (hr : ∀ r ∈ regs, r ≠ 0#5 → r.toNat < s.regLimit) (hg : s.pr g = true) :
    runWord s ill need regs g body = .next (finish (body s)) := by
  obtain ⟨c, hc⟩ := Option.isSome_iff_exists.mp hx
  have hany : (regs.any fun r => r != 0#5 && decide (s.regLimit ≤ r.toNat)) = false := by
    simp only [List.any_eq_false, Bool.and_eq_true, bne_iff_ne, decide_eq_true_eq, not_and, not_le]
    exact hr
  simp only [runWord, hc, wordAns, hi, hany, hg, Bool.false_eq_true, if_false, Bool.not_true, if_neg (Nat.not_lt.mpr hl)]

/-- A computing word that passes the checks of R140 completes. -/
theorem runPlain_next {s : State} {regs : List (BitVec 5)} {g : BitVec 3} {f : State → State} (hx : s.ctx?.isSome = true)
    (hr : ∀ r ∈ regs, r ≠ 0#5 → r.toNat < s.regLimit) (hg : s.pr g = true) :
    runPlain s regs g f = .next ((f s).retire .next) :=
  runWord_next rfl hx (Nat.zero_le _) hr hg

/-- A word whose guard reads 0 retires with no effect, once the first three checks of R140 pass. -/
theorem runWord_guarded {s : State} {ill : Bool} {need : Nat} {regs : List (BitVec 5)} {g : BitVec 3} {body : State → Ans Flow}
    (hi : ill = false) (hx : s.ctx?.isSome = true) (hl : need ≤ s.level)
    (hr : ∀ r ∈ regs, r ≠ 0#5 → r.toNat < s.regLimit) (hg : s.pr g = false) :
    runWord s ill need regs g body = .next (s.retire .next) := by
  obtain ⟨c, hc⟩ := Option.isSome_iff_exists.mp hx
  have hany : (regs.any fun r => r != 0#5 && decide (s.regLimit ≤ r.toNat)) = false := by
    simp only [List.any_eq_false, Bool.and_eq_true, bne_iff_ne, decide_eq_true_eq, not_and, not_le]
    exact hr
  simp only [runWord, hc, wordAns, hi, hany, hg, Bool.false_eq_true, if_false, Bool.not_false, if_true,
    if_neg (Nat.not_lt.mpr hl), finish]

/-- Every control-thread word answers a next state. -/
theorem runWord_total (s : State) (ill : Bool) (need : Nat) (regs : List (BitVec 5)) (g : BitVec 3) (body : State → Ans Flow) :
    ∃ t, runWord s ill need regs g body = .next t := by
  unfold runWord
  split <;> exact ⟨_, rfl⟩

/-! ### Registers -/

theorem Ctx.rd_wr (c : Ctx) (d r : BitVec 5) (v : W64) :
    (c.wr d v).rd r = if r = 0#5 then 0#64 else if r = d then v else c.rd r := by
  unfold Ctx.rd Ctx.wr
  by_cases hr : r = 0#5
  · simp [hr]
  · simp only [if_neg hr]
    by_cases hd : d = 0#5
    · have : r ≠ d := fun e => hr (e.trans hd)
      simp [hd, hr]
    · simp only [if_neg hd]
      by_cases h : r = d
      · subst h; simp
      · have : d.toNat ≠ r.toNat := fun e => h (BitVec.eq_of_toNat_eq e.symm)
        simp [h, this]

theorem Ctx.pr_wr (c : Ctx) (d : BitVec 5) (v : W64) (k : BitVec 3) : (c.wr d v).pr k = c.pr k := by
  unfold Ctx.wr; split <;> rfl

theorem Ctx.pc_wr (c : Ctx) (d : BitVec 5) (v : W64) : (c.wr d v).pc = c.pc := by
  unfold Ctx.wr; split <;> rfl

theorem Ctx.pr_pw (c : Ctx) (p k : BitVec 3) (b : Bool) :
    (c.pw p b).pr k = if k = 0#3 then true else if k = p then b else c.pr k := by
  unfold Ctx.pr Ctx.pw
  by_cases hk : k = 0#3
  · simp [hk]
  · simp only [if_neg hk]
    by_cases hp : p = 0#3
    · simp [hp, hk]
    · simp only [if_neg hp]
      by_cases h : k = p
      · subst h; simp
      · have : p.toNat ≠ k.toNat := fun e => h (BitVec.eq_of_toNat_eq e.symm)
        simp [h, this]

theorem Ctx.rd_pw (c : Ctx) (p : BitVec 3) (b : Bool) (r : BitVec 5) : (c.pw p b).rd r = c.rd r := by
  unfold Ctx.pw; split <;> rfl

theorem Ctx.pc_pw (c : Ctx) (p : BitVec 3) (b : Bool) : (c.pw p b).pc = c.pc := by
  unfold Ctx.pw; split <;> rfl

end Sys2Proof.Machine
end

