-- ==== Sys2Proof/Laws/Accesses.lean ====
section
/-!
SUPPORT. What an access of an engine, a pipeline or a token unit does at a window, and what a strip of packed values holds.
-/

set_option exponentiation.threshold 8192

namespace Sys2Proof.Machine

/-! ### Accesses at a window (R203, R407, R416, R417) -/

theorem State.engRead_win {s u : State} {i : Inst} {va : W64} {pool : Pool} {o : Nat} (ver n : Nat)
    (h : s.resolve i.who .load va = .ok (.win pool o) u) :
    s.engRead i ver va n = if u.keyHeld i.who pool then (.hold, u)
      else if u.poisoned (pool.mem o) n then (.bad 0x12 0x03, u.noteEcc 0x12)
      else (.bytes (u.bytes (pool.mem o) n), u.sealedTo i.who pool) := by
  simp only [State.engRead, h, State.keyWait]; rfl

theorem State.engWrite_win {s u : State} {i : Inst} {va : W64} {pool : Pool} {o : Nat} (ver : Nat) (l : List Byte)
    (h : s.resolve i.who .store va = .ok (.win pool o) u) :
    s.engWrite i ver va l = if u.keyHeld i.who pool then (.hold, u) else (.bytes [], (u.put (pool.mem o) l).sealedTo i.who pool) := by
  simp only [State.engWrite, h, State.keyWait]; rfl

theorem State.nowRead_held {s u : State} {i : Inst} {va : W64} {pool : Pool} {o : Nat} (ver n : Nat)
    (h : s.resolve i.who .load va = .ok (.win pool o) u) (hk : u.keyHeld i.who pool = true) :
    s.nowRead i ver va n = (.error keyHeldErr, u) := by
  simp [State.nowRead, State.engRead_win ver n h, hk]

theorem State.nowWrite_held {s u : State} {i : Inst} {va : W64} {pool : Pool} {o : Nat} (ver : Nat) (l : List Byte)
    (h : s.resolve i.who .store va = .ok (.win pool o) u) (hk : u.keyHeld i.who pool = true) :
    s.nowWrite i ver va l = (some keyHeldErr, u) := by
  simp [State.nowWrite, State.engWrite_win ver l h, hk]

/-- A read whose first unit is held is held as a whole. -/
theorem State.spanRead_held {s u : State} {i : Inst} {va : W64} {pool : Pool} {o : Nat} (ver fuel n : Nat) (hn : n ≠ 0)
    (h : s.resolve i.who .load va = .ok (.win pool o) u) (hk : u.keyHeld i.who pool = true) :
    s.spanRead i ver (fuel + 1) va n = (.error keyHeldErr, u) := by
  simp [State.spanRead, hn, State.nowRead_held ver _ h hk]

theorem State.spanWrite_held {s u : State} {i : Inst} {va : W64} {pool : Pool} {o : Nat} (ver fuel : Nat) (l : List Byte)
    (hn : l.isEmpty = false) (h : s.resolve i.who .store va = .ok (.win pool o) u) (hk : u.keyHeld i.who pool = true) :
    s.spanWrite i ver (fuel + 1) va l = (some keyHeldErr, u) := by
  simp [State.spanWrite, hn, State.nowWrite_held ver _ h hk]

/-! ### Packed strips (R13, R55) -/

theorem joinBits_field (w : Nat) : ∀ (l : List Nat) (k : Nat), joinBits w l / 2 ^ (w * k) % 2 ^ w = ((l[k]?).getD 0) % 2 ^ w := by
  intro l
  induction l with
  | nil => intro k; simp [joinBits]
  | cons v l ih =>
    intro k
    cases k with
    | zero => simp [joinBits, Nat.add_mul_mod_self_left]
    | succ k =>
      have : joinBits w (v :: l) / 2 ^ (w * (k + 1)) = joinBits w l / 2 ^ (w * k) := by
        rw [Nat.mul_succ, Nat.add_comm, Nat.pow_add, ← Nat.div_div_eq_div_mul]
        simp only [joinBits]
        rw [Nat.add_mul_div_left _ _ (by positivity), Nat.div_eq_of_lt (Nat.mod_lt _ (by positivity)), Nat.zero_add]
      rw [this, ih]; simp

/-- Value k of a strip of packed values, when it lies in the strip whole. -/
theorem stripVal_packVals (w : Nat) (l : List Nat) (k : Nat) (h : w * k + w ≤ 4096) :
    stripVal (packVals w l) w k = ((l[k]?).getD 0) % 2 ^ w := by
  rw [← joinBits_field]
  simp only [stripVal, packVals, fieldN, bitsN, BitVec.toNat_ofNat]
  obtain ⟨c, hc⟩ := Nat.exists_eq_add_of_le h
  have : (2 : Nat) ^ 4096 = 2 ^ (w * k) * (2 ^ w * 2 ^ c) := by rw [← Nat.pow_add, ← Nat.pow_add]; congr 1; omega
  rw [this, Nat.mod_mul_right_div_self, Nat.mod_mul_right_mod]

end Sys2Proof.Machine
end

