-- ==== Sys2Proof/Laws/Memory.lean ====
section
/-!
SUPPORT. Memory: its canonical form and that every operation keeps it, what a read finds after a write, and the numbers
that bytes stand for.
-/

namespace Sys2Proof.Machine

/-! ### The canonical form -/

/-- The canonical form as a list property: keys strictly rising, no entry equal to what an unlisted byte reads as. -/
theorem Memory.wf_iff (m : List Host.Cell) :
    Memory.wf m = true ↔ m.Pairwise (fun c d => c.1 < d.1) ∧ ∀ c ∈ m, c.2 ≠ 0#8 := by
  induction m with
  | nil => simp [Memory.wf]
  | cons c m ih =>
    obtain ⟨k, b⟩ := c
    cases m with
    | nil => simp [Memory.wf]
    | cons d m =>
      obtain ⟨k', b'⟩ := d
      simp only [Memory.wf, Bool.and_eq_true, ih, bne_iff_ne, ne_eq, decide_eq_true_eq, List.pairwise_cons, List.mem_cons,
        forall_eq_or_imp]
      constructor
      · rintro ⟨⟨hb, hk⟩, ⟨h1, h2⟩, hb', h3⟩
        exact ⟨⟨⟨hk, fun c hc => lt_trans hk (h1 c hc)⟩, h1, h2⟩, hb, hb', h3⟩
      · rintro ⟨⟨⟨hk, -⟩, h1, h2⟩, hb, hb', h3⟩
        exact ⟨⟨hb, hk⟩, ⟨h1, h2⟩, hb', h3⟩

/-- A part of a memory in canonical form is in canonical form. -/
theorem Memory.wf_sublist {m m' : List Host.Cell} (hs : m'.Sublist m) (h : Memory.wf m = true) : Memory.wf m' = true := by
  rw [Memory.wf_iff] at *
  exact ⟨h.1.sublist hs, fun c hc => h.2 c (hs.subset hc)⟩

theorem Memory.wf_filter (m : List Host.Cell) (p : Host.Cell → Bool) (h : Memory.wf m = true) :
    Memory.wf (m.filter p) = true := Memory.wf_sublist List.filter_sublist h

theorem Memory.wf_tail {c : Host.Cell} {m : List Host.Cell} (h : Memory.wf (c :: m) = true) : Memory.wf m = true :=
  Memory.wf_sublist (List.sublist_cons_self c m) h

/-- The keys of a memory after a write: those it had, and the key written. -/
theorem memWrite_keys (m : List Host.Cell) (a : Nat) (v : Byte) (c : Host.Cell) (h : c ∈ memWrite m a v) :
    c ∈ m ∨ c = (a, v) ∧ v ≠ 0#8 := by
  induction m with
  | nil =>
    simp only [memWrite] at h
    split at h <;> simp_all
  | cons d m ih =>
    obtain ⟨k, b⟩ := d
    simp only [memWrite] at h
    split at h
    · split at h
      · exact .inl h
      · rcases List.mem_cons.mp h with h | h
        · exact .inr ⟨h, by assumption⟩
        · exact .inl h
    · split at h
      · split at h
        · exact .inl (List.mem_cons_of_mem _ h)
        · rcases List.mem_cons.mp h with h | h
          · exact .inr ⟨h, by assumption⟩
          · exact .inl (List.mem_cons_of_mem _ h)
      · rcases List.mem_cons.mp h with h | h
        · simp [h]
        · rcases ih h with h | h
          · simp [h]
          · exact .inr h

/-- A write keeps the canonical form. -/
theorem memWrite_wf (m : List Host.Cell) (a : Nat) (v : Byte) (h : Memory.wf m = true) : Memory.wf (memWrite m a v) = true := by
  induction m with
  | nil => simp only [memWrite]; split <;> simp_all [Memory.wf]
  | cons d m ih =>
    obtain ⟨k, b⟩ := d
    have hm := ih (Memory.wf_tail h)
    rw [Memory.wf_iff] at h hm ⊢
    obtain ⟨h1, h2⟩ := h
    rw [List.pairwise_cons] at h1
    simp only [memWrite]
    split
    · rename_i hlt
      split
      · exact ⟨List.pairwise_cons.mpr h1, h2⟩
      · rename_i hv
        refine ⟨List.pairwise_cons.mpr ⟨?_, List.pairwise_cons.mpr h1⟩, ?_⟩
        · intro c hc
          rcases List.mem_cons.mp hc with rfl | hc
          · exact hlt
          · exact lt_trans hlt (h1.1 c hc)
        · intro c hc
          rcases List.mem_cons.mp hc with rfl | hc
          · exact hv
          · exact h2 c hc
    · rename_i hlt
      split
      · rename_i hak
        subst hak
        split
        · exact ⟨h1.2, fun c hc => h2 c (List.mem_cons_of_mem _ hc)⟩
        · rename_i hv
          refine ⟨List.pairwise_cons.mpr ⟨h1.1, h1.2⟩, ?_⟩
          intro c hc
          rcases List.mem_cons.mp hc with rfl | hc
          · exact hv
          · exact h2 c (List.mem_cons_of_mem _ hc)
      · rename_i hne
        refine ⟨List.pairwise_cons.mpr ⟨?_, hm.1⟩, ?_⟩
        · intro c hc
          rcases memWrite_keys m a v c hc with hc | ⟨rfl, -⟩
          · exact h1.1 c hc
          · exact lt_of_le_of_ne (Nat.le_of_not_lt hlt) (Ne.symm hne)
        · intro c hc
          rcases List.mem_cons.mp hc with rfl | hc
          · exact h2 _ List.mem_cons_self
          · exact hm.2 c hc

theorem memPut_wf (l : List Byte) : ∀ (m : List Host.Cell) (a : Nat), Memory.wf m = true → Memory.wf (memPut m a l) = true := by
  induction l with
  | nil => intro m a h; exact h
  | cons b l ih => intro m a h; exact ih _ _ (memWrite_wf m a b h)

theorem memZero_wf (m : List Host.Cell) (a n : Nat) (h : Memory.wf m = true) : Memory.wf (memZero m a n) = true :=
  Memory.wf_filter m _ h

theorem memSlice_wf (m : List Host.Cell) (a n : Nat) (h : Memory.wf m = true) : Memory.wf (memSlice m a n) = true :=
  Memory.wf_filter m _ h

theorem memCells_wf (cs : List Host.Cell) : ∀ m : List Host.Cell, Memory.wf m = true → Memory.wf (memCells m cs) = true := by
  induction cs with
  | nil => intro m h; exact h
  | cons c cs ih => intro m h; exact ih _ (memWrite_wf m c.1 c.2 h)

theorem State.put_wf (s : State) (a : Nat) (l : List Byte) (h : Memory.wf s.mem = true) : Memory.wf (s.put a l).mem = true :=
  memPut_wf l s.mem a h

theorem State.putNum_wf (s : State) (a n v : Nat) (h : Memory.wf s.mem = true) : Memory.wf (s.putNum a n v).mem = true :=
  State.put_wf s a _ h

theorem State.zero_wf (s : State) (a n : Nat) (h : Memory.wf s.mem = true) : Memory.wf (s.zero a n).mem = true :=
  memZero_wf s.mem a n h

theorem State.reset_wf : Memory.wf State.reset.mem = true := rfl

/-! ### A read after a write -/

/-- A key below every key of the list is not listed. -/
theorem memRead_of_lt (m : List Host.Cell) (a : Nat) (h : ∀ c ∈ m, a < c.1) : memRead m a = 0#8 := by
  induction m with
  | nil => rfl
  | cons d m ih =>
    obtain ⟨k, b⟩ := d
    have hk := h (k, b) List.mem_cons_self
    rw [memRead, if_neg (Nat.ne_of_lt hk)]
    exact ih fun c hc => h c (List.mem_cons_of_mem _ hc)

/-- The byte written is the byte read. -/
theorem memRead_memWrite_self (m : List Host.Cell) (a : Nat) (v : Byte) (h : Memory.wf m = true) :
    memRead (memWrite m a v) a = v := by
  induction m with
  | nil => simp only [memWrite]; split <;> simp_all [memRead]
  | cons d m ih =>
    obtain ⟨k, b⟩ := d
    have hm := ih (Memory.wf_tail h)
    have h1 := (Memory.wf_iff _).mp h
    simp only [List.pairwise_cons] at h1
    simp only [memWrite]
    split
    · rename_i hlt
      split
      · rename_i hv
        rw [hv]
        refine memRead_of_lt _ _ fun c hc => ?_
        rcases List.mem_cons.mp hc with rfl | hc
        · exact hlt
        · exact lt_trans hlt (h1.1.1 c hc)
      · simp [memRead]
    · split
      · rename_i hak
        split
        · rename_i hv
          rw [hv]
          exact memRead_of_lt _ _ fun c hc => hak ▸ h1.1.1 c hc
        · simp [memRead]
      · rename_i hne
        rw [memRead, if_neg hne]
        exact hm

/-- A write leaves every other byte alone. -/
theorem memRead_memWrite_ne (m : List Host.Cell) (a a' : Nat) (v : Byte) (hne : a' ≠ a) :
    memRead (memWrite m a v) a' = memRead m a' := by
  induction m with
  | nil => simp only [memWrite]; split <;> simp [memRead, hne]
  | cons d m ih =>
    obtain ⟨k, b⟩ := d
    simp only [memWrite]
    split
    · split <;> simp [memRead, hne]
    · split
      · rename_i hak
        subst hak
        split <;> simp [memRead, hne]
      · simp only [memRead, ih]

/-- Bytes outside a put are as they were. -/
theorem memRead_memPut_outside (l : List Byte) :
    ∀ (m : List Host.Cell) (a a' : Nat), a' < a ∨ a + l.length ≤ a' → memRead (memPut m a l) a' = memRead m a' := by
  induction l with
  | nil => intro m a a' _; rfl
  | cons b l ih =>
    intro m a a' h
    simp only [List.length_cons] at h
    rw [memPut, ih _ _ _ (by omega), memRead_memWrite_ne _ _ _ _ (by omega)]

/-- The bytes of a put are what a read there finds. -/
theorem memBytes_memPut (l : List Byte) :
    ∀ (m : List Host.Cell) (a : Nat), Memory.wf m = true → memBytes (memPut m a l) a l.length = l := by
  induction l with
  | nil => intro m a _; rfl
  | cons b l ih =>
    intro m a h
    have hw := memWrite_wf m a b h
    rw [List.length_cons, memBytes, memPut, ih _ _ hw, memRead_memPut_outside l _ _ _ (.inl (Nat.lt_succ_self a)),
      memRead_memWrite_self m a b h]

/-- Cleared bytes read 0; the others are as they were. -/
theorem memRead_memZero (m : List Host.Cell) (a n a' : Nat) :
    memRead (memZero m a n) a' = if a ≤ a' ∧ a' < a + n then 0#8 else memRead m a' := by
  induction m with
  | nil => simp [memZero, memRead]
  | cons d m ih =>
    obtain ⟨k, b⟩ := d
    simp only [memZero] at ih ⊢
    rw [List.filter_cons]
    split
    · rename_i hk
      simp only [Bool.or_eq_true, decide_eq_true_eq] at hk
      simp only [memRead, ih]
      split <;> split <;> first | rfl | omega
    · rename_i hk
      simp only [Bool.or_eq_true, decide_eq_true_eq, not_or, not_lt, not_le] at hk
      rw [ih]
      simp only [memRead]
      split
      · rfl
      · split
        · omega
        · rfl

/-! ### Numbers and bytes -/

theorem natBytes_length (n : Nat) : ∀ v, (natBytes n v).length = n := by
  induction n with
  | zero => intro v; rfl
  | succ n ih => intro v; simp [natBytes, ih]

/-- n bytes hold a number modulo 256^n. -/
theorem bytesNat_natBytes (n : Nat) : ∀ v, bytesNat (natBytes n v) = v % 256 ^ n := by
  induction n with
  | zero => intro v; simp [natBytes, bytesNat, Nat.mod_one]
  | succ n ih =>
    intro v
    simp only [natBytes, bytesNat, ih, BitVec.toNat_ofNat]
    rw [show 256 ^ (n + 1) = 256 * 256 ^ n by ring, Nat.mod_mul]

/-- A number that is stored reads back, modulo the bytes of its width. -/
theorem State.num_putNum (s : State) (a n v : Nat) (h : Memory.wf s.mem = true) : (s.putNum a n v).num a n = v % 256 ^ n := by
  have hb := memBytes_memPut (natBytes n v) s.mem a h
  rw [natBytes_length] at hb
  simp only [State.num, State.bytes, State.putNum, State.put, hb, bytesNat_natBytes]

end Sys2Proof.Machine
end

