-- ==== Sys2Proof/Safety.lean ====
section
/-!
DEFINITION. What counts as a safe run: every step answers a next state, until the clocks stop.
-/

namespace Sys2Proof

/-- The state after n steps, if each of them answered a next state. -/
def after : Nat → Machine.State → Option Machine.State
  | 0, s => some s
  | n + 1, s => match Machine.step s with
    | .next t => after n t
    | _ => none

/-- A run of n steps is safe: no step refuses, and none faults but for stopped clocks (R443, R444). -/
def SafeRun (n : Nat) (s : Machine.State) : Prop :=
  ∀ k, k < n → ∀ t, after k s = some t →
    (∃ u, Machine.step t = .next u) ∨ (t.frozen = true ∧ Machine.step t = .fault .clocksStopped)

end Sys2Proof
end

