-- ==== Sys2Proof/Tests/Slice0.lean ====
section
/-!
SUPPORT. Small tests: words as the spec's encodings give them, ill-formed terms that WellFormed refuses, and for every
obligation with hypotheses a state and operands that meet them. Expected values are worked out from the rule that the test
names.
-/

namespace Sys2Proof.Tests

set_option exponentiation.threshold 8192
set_option Elab.async false

open Sys2Proof.Machine Sys2Proof.Claims

/-! ### Well-formedness (R138, R140, R176, R222) -/

theorem test_wf_refuses_ld : (Instr.ld 1 2 0 1 3 0).wf = false := by decide
theorem test_wf_refuses_wreg : (Instr.wreg 1 1 0 0).wf = false ∧ (Instr.wreg 1 1 2 0).wf = false := by decide
theorem test_wf_refuses_whold : (Instr.whold 1 1 3 0).wf = false := by decide
theorem test_wf_refuses_wrel : (Instr.wrel 1 5 0).wf = false := by decide
theorem test_wf_refuses_brT : (Instr.brT 0 4).wf = false := by decide
theorem test_wf_refuses_callT : (Instr.callT 0 4).wf = false := by decide
theorem test_wf_admits : (Instr.ld 1 2 0 1 2 0).wf = true ∧ (Instr.wreg 1 1 7 0).wf = true ∧ (Instr.brT 1 4).wf = true := by decide

/-! ### Words of every family, from the match values and the fields of R136 to R139 -/

theorem test_decode_arithmetic_1 :
    decode 0x057F2804#32 = .ok (.add 11 31 5 4) ∧
    decode 0x06A2180F#32 = .ok (.sub 21 2 3 7) ∧
    decode 0x06446015#32 = .ok (.mul 18 4 12 5) ∧
    decode 0x045E881A#32 = .ok (.mulh 2 30 17 2) ∧
    decode 0x04437024#32 = .ok (.mulhu 2 3 14 4) ∧
    decode 0x0468182D#32 = .ok (.div 3 8 3 5) ∧
    decode 0x05C2D835#32 = .ok (.divu 14 2 27 5) ∧
    decode 0x049F403E#32 = .ok (.rem 4 31 8 6) ∧
    decode 0x06B3F841#32 = .ok (.remu 21 19 31 1) ∧
    decode 0x06736849#32 = .ok (.and 19 19 13 1) ∧
    decode 0x05029057#32 = .ok (.or 8 2 18 7) ∧
    decode 0x04AA705A#32 = .ok (.xor 5 10 14 2) := by
  refine ⟨rfl, rfl, rfl, rfl, rfl, rfl, rfl, rfl, rfl, rfl, rfl, rfl⟩

theorem test_decode_arithmetic_2 :
    decode 0x06449863#32 = .ok (.shl 18 4 19 3) ∧
    decode 0x065BB06A#32 = .ok (.shr 18 27 22 2) ∧
    decode 0x04939876#32 = .ok (.sra 4 19 19 6) ∧
    decode 0x04EC207D#32 = .ok (.min 7 12 4 5) ∧
    decode 0x06E39881#32 = .ok (.max 23 3 19 1) ∧
    decode 0x0687808E#32 = .ok (.minu 20 7 16 6) ∧
    decode 0x064EC893#32 = .ok (.maxu 18 14 25 3) := by
  refine ⟨rfl, rfl, rfl, rfl, rfl, rfl, rfl⟩

theorem test_decode_immediates :
    decode 0x09F3EC6C#32 = .ok (.addi 15 19 7565 4) ∧
    decode 0x0D8A3FA7#32 = .ok (.andi 12 10 2036 7) ∧
    decode 0x10D7C7AA#32 = .ok (.ori 6 23 6389 2) ∧
    decode 0x14734CE5#32 = .ok (.xori 3 19 2460 5) ∧
    decode 0x1A1D00B6#32 = .ok (.shli 16 29 22 6) ∧
    decode 0x19EA0339#32 = .ok (.shri 15 10 39 1) ∧
    decode 0x189104DA#32 = .ok (.srai 4 17 27 2) ∧
    decode 0x1CEB5DE4#32 = .ok (.cmpi 7 11 2 956 4) ∧
    decode 0x21C14136#32 = .ok (.movi 14 10278 6) ∧
    decode 0x247C9597#32 = .ok (.movhi 3 3 37554 7) := by
  refine ⟨rfl, rfl, rfl, rfl, rfl, rfl, rfl, rfl, rfl, rfl⟩

theorem test_decode_predicates :
    decode 0x28EB5833#32 = .ok (.cmp 7 11 11 6 3) ∧
    decode 0x2CA42807#32 = .ok (.pand 5 4 5 7) ∧
    decode 0x2C813809#32 = .ok (.por 4 1 7 1) ∧
    decode 0x2C643016#32 = .ok (.pxor 3 4 6 6) ∧
    decode 0x2C21001E#32 = .ok (.pnot 1 1 6) ∧
    decode 0x3C3F781A#32 = .ok (.sel 1 31 15 3 2) := by
  refine ⟨rfl, rfl, rfl, rfl, rfl, rfl⟩

theorem test_decode_branches :
    decode 0x302CE53F#32 = .ok (.br 2942271) ∧
    decode 0x32A96A90#32 = .ok (.brT 5 2714256) ∧
    decode 0x32FF8EE3#32 = .ok (.brF 5 4165347) ∧
    decode 0x342B9964#32 = .ok (.call 2857316) ∧
    decode 0x369C8561#32 = .ok (.callT 5 1869153) ∧
    decode 0x35EDDD3B#32 = .ok (.callF 3 3005755) ∧
    decode 0x380D0006#32 = .ok (.jr 13 6) ∧
    decode 0x3800000B#32 = .ok (.ret 3) := by
  refine ⟨rfl, rfl, rfl, rfl, rfl, rfl, rfl, rfl⟩

theorem test_decode_accesses :
    decode 0x42847EB2#32 = .ok (.ld 20 4 506 1 2 2) ∧
    decode 0x472A213A#32 = .ok (.st 25 10 265 3 2) ∧
    decode 0x49ADEAD1#32 = .ok (.lea 13 13 1878 2 1) := by
  refine ⟨rfl, rfl, rfl⟩

theorem test_decode_streams_phases_launches_1 :
    decode 0x50DED005#32 = .ok (.spushP 3 15 13 5) ∧
    decode 0x517A0042#32 = .ok (.spushB 5 29 2) ∧
    decode 0x539DC14B#32 = .ok (.spop 14 14 28 5 3) ∧
    decode 0x531CC38C#32 = .ok (.spopK 12 14 12 6 4) ∧
    decode 0x503E8091#32 = .ok (.sbound 31 8 2 1) ∧
    decode 0x50C0001A#32 = .ok (.seos 3 2) ∧
    decode 0x540001E6#32 = .ok (.cfg 60 6) ∧
    decode 0x54081024#32 = .ok (.cfgPin 8 4 4) ∧
    decode 0x57602005#32 = .ok (.go 27 5) ∧
    decode 0x54004002#32 = .ok (.drain 2) ∧
    decode 0x55206003#32 = .ok (.yieldpt 9 3) ∧
    decode 0x58250004#32 = .ok (.launch 1 5 4) := by
  refine ⟨rfl, rfl, rfl, rfl, rfl, rfl, rfl, rfl, rfl, rfl, rfl, rfl⟩

theorem test_decode_streams_phases_launches : decode 0x5A4C000D#32 = .ok (.join 18 12 5) := rfl

theorem test_decode_commands_1 :
    decode 0x5E97F022#32 = .ok (.copy 10 11 31 1 2) ∧
    decode 0x5F39102D#32 = .ok (.gather 12 28 17 1 5) ∧
    decode 0x5EED8031#32 = .ok (.scatter 11 22 24 1 1) ∧
    decode 0x5E3BC03F#32 = .ok (.fill 8 29 28 1 7) ∧
    decode 0x63ADA025#32 = .ok (.coll 14 22 26 1 5) ∧
    decode 0x61DAD02C#32 = .ok (.zsend 7 13 13 1 4) ∧
    decode 0x60A15034#32 = .ok (.zrecv 2 16 21 1 4) ∧
    decode 0x64470001#32 = .ok (.abind 2 7 1) ∧
    decode 0x64EF000A#32 = .ok (.aunbind 7 15 2) ∧
    decode 0x68974021#32 = .ok (.samp 2 11 20 1 1) ∧
    decode 0x6883302A#32 = .ok (.gram 2 1 19 1 2) ∧
    decode 0x6A49F033#32 = .ok (.accept 9 4 31 1 3) := by
  refine ⟨rfl, rfl, rfl, rfl, rfl, rfl, rfl, rfl, rfl, rfl, rfl, rfl⟩

theorem test_decode_commands : decode 0x6A82303F#32 = .ok (.commit 10 1 3 1 7) := rfl

theorem test_decode_atomics_1 :
    decode 0x70F46882#32 = .ok (.aadd 7 20 13 1 2) ∧
    decode 0x72A9F88B#32 = .ok (.asub 21 9 31 1 3) ∧
    decode 0x728C8091#32 = .ok (.aand 20 12 16 1 1) ∧
    decode 0x709C809C#32 = .ok (.aor 4 28 16 1 4) ∧
    decode 0x721050A1#32 = .ok (.axor 16 16 10 1 1) ∧
    decode 0x70A4C0AB#32 = .ok (.amin 5 4 24 1 3) ∧
    decode 0x730980B7#32 = .ok (.amax 24 9 16 1 7) ∧
    decode 0x72E688B9#32 = .ok (.axchg 23 6 17 1 1) ∧
    decode 0x70FFFDC3#32 = .ok (.acas 7 31 31 5 1 3) ∧
    decode 0x70B790C9#32 = .ok (.aincw 5 23 18 1 1) ∧
    decode 0x733156D7#32 = .ok (.aaddb 25 17 10 6 1 7) ∧
    decode 0x7077E0DB#32 = .ok (.aminu 3 23 28 1 3) := by
  refine ⟨rfl, rfl, rfl, rfl, rfl, rfl, rfl, rfl, rfl, rfl, rfl, rfl⟩

theorem test_decode_atomics : decode 0x722CF0E2#32 = .ok (.amaxu 17 12 30 1 2) := rfl

theorem test_decode_waits_and_locks :
    decode 0x740C0F85#32 = .ok (.wreg 12 7 6 5) ∧
    decode 0x7400000D#32 = .ok (.wunreg 5) ∧
    decode 0x74190B96#32 = .ok (.whold 25 5 6 6) ∧
    decode 0x7408019F#32 = .ok (.wrel 8 6 7) ∧
    decode 0x77590027#32 = .ok (.prio 26 25 7) ∧
    decode 0x78070007#32 = .ok (.lock 7 7) ∧
    decode 0x7808000F#32 = .ok (.unlock 8 7) ∧
    decode 0x79B80017#32 = .ok (.barinit 13 24 7) ∧
    decode 0x7907001D#32 = .ok (.barrive 8 7 5) ∧
    decode 0x7A0C0026#32 = .ok (.barwait 16 12 6) ∧
    decode 0x7C000009#32 = .ok (.fence 1 1) := by
  refine ⟨rfl, rfl, rfl, rfl, rfl, rfl, rfl, rfl, rfl, rfl, rfl⟩

theorem test_decode_system :
    decode 0xF34023CC#32 = .ok (.srd 26 1145 4) ∧
    decode 0xF00998D6#32 = .ok (.swr 9 794 6) ∧
    decode 0xF40026C3#32 = .ok (.trap 1240 3) ∧
    decode 0xF5FA7C06#32 = .ok (.sys 15 26 1920 6) ∧
    decode 0xF8000003#32 = .ok (.eret 3) ∧
    decode 0xFBEC0009#32 = .ok (.halt 31 12 1) ∧
    decode 0xF8000012#32 = .ok (.idle 2) ∧
    decode 0xF8000019#32 = .ok (.tlbinvAll 1) ∧
    decode 0xF808005C#32 = .ok (.tlbinvPart 8 4) ∧
    decode 0xF8EB009A#32 = .ok (.tlbinvPage 7 11 2) := by
  refine ⟨rfl, rfl, rfl, rfl, rfl, rfl, rfl, rfl, rfl, rfl⟩

/-! ### A small machine -/

/-- What an instruction's next state answers to a question; false for a fault or a refusal. -/
def after (o : Host.Outcome State Fault Refusal) (p : State → Bool) : Bool :=
  match o with
  | .next t => p t
  | _ => false

/-- An answer is ok with this value in this state. -/
def gives {α : Type} [DecidableEq α] (a : Ans α) (v : α) (t : State) : Bool :=
  match a with
  | .ok w u => decide (w = v) && decide (u = t)
  | _ => false

theorem gives_ok {α : Type} [DecidableEq α] {a : Ans α} {v : α} {t : State} (h : gives a v t = true) : a = .ok v t := by
  cases a with
  | ok w u => simp only [gives, Bool.and_eq_true, decide_eq_true_eq] at h; rw [h.1, h.2]
  | _ => cases h

/-- An answer of the image is this value. -/
def reads {ε α : Type} [DecidableEq α] (a : Except ε α) (v : α) : Bool :=
  match a with
  | .ok w => decide (w = v)
  | _ => false

theorem reads_ok {ε α : Type} [DecidableEq α] {a : Except ε α} {v : α} (h : reads a v = true) : a = .ok v := by
  cases a with
  | ok w => simp only [reads, decide_eq_true_eq] at h; rw [h]
  | _ => cases h

/-- The thread of instance 5 on control thread 0, with 32 registers and one slot: x1 a window address, x2 = 3. -/
def thread : Inst :=
  { Inst.blank with
    serial := 5, state := .run, hw := some 0, region := [(0, 0)], header := 0x20000000000000#4096, ceil := 7,
    ctx := ⟨((Vector.replicate 32 0#64).set 1 0x00F0000000000010#64).set 2 3#64, Vector.replicate 8 false, 0x1000#64⟩,
    handles := List.replicate 16 Handle.free }

/-- The package with that instance; its thread executes. -/
def base : State := { State.reset with cur := .ctl 0, insts := [thread] }

/-- The memory tile of its slot that the first window tile names. -/
def tile : Pool := .tile ⟨0, 1, 1⟩

/-- The same with its core at supervisor level for the thread. -/
def kernel : State := { base with sups := ⟨{ Ctx.zero with pc := 0x2000#64 }, TrapRegs.reset, some 0, 0, false⟩ :: List.replicate 127 SupBank.reset }

/-- The package as reset leaves it: Trearo core 0 executes at machine level. -/
def hub : State := State.reset

theorem base_regLimit : base.regLimit = 32 := by decide +kernel
theorem kernel_regLimit : kernel.regLimit = 32 := by decide +kernel

theorem ready (g : BitVec 3) (h : base.pr g = true) (regs : List (BitVec 5)) : Ready base regs g :=
  ⟨rfl, fun r _ _ => by rw [base_regLimit]; exact r.isLt, h⟩

theorem kernel_ready (regs : List (BitVec 5)) : Ready kernel regs 0 :=
  ⟨rfl, fun r _ _ => by rw [kernel_regLimit]; exact r.isLt, rfl⟩

theorem hub_ready (regs : List (BitVec 5)) : Ready hub regs 0 := ⟨(by decide : 0 < 2), fun r _ _ => r.isLt, rfl⟩

/-! ### Words -/

theorem test_add_wraps : after (exec (.addi 3 2 0x1FFC 0) base) (fun t => t.rd 3 == BitVec.allOnes 64 && t.pc == 0x1004#64) = true := by decide +kernel
theorem test_x0_discards : after (exec (.add 0 2 2 0) base) (fun t => t.rd 0 == 0#64) = true := by decide +kernel
theorem test_div_by_zero : after (exec (.div 3 2 0 0) base) (fun t => t.rd 3 == BitVec.allOnes 64) = true := by decide +kernel
theorem test_guard_false : after (exec (.add 3 2 2 1) base) (fun t => t.rd 3 == 0#64 && t.pc == 0x1004#64) = true := by decide +kernel
theorem test_store_load :
    after (exec (.st 2 1 0 0 0) base) (fun t => after (exec (.ld 4 1 0 0 0 0) t) fun v => v.rd 4 == 3#64) = true := by decide +kernel
theorem test_movhi : after (exec (.movhi 2 3 0x8000 0) base) (fun t => t.rd 2 == 0x8000000000000003#64) = true := by decide +kernel
theorem test_branch_back : after (exec (.br 0x3FFFFF) base) (fun t => t.pc == 0xFFC#64) = true := by decide +kernel
theorem test_privileged_word : after (exec (.eret 0) base) (fun t => t.level == 1 && (supRegs t 0).cause == 2#64) = true := by decide +kernel
theorem test_trap_code : after (exec (.trap 5 0) base) (fun t => (supRegs t 0).info == 0x500000005#64 && (supRegs t 0).epc == 0x1000#64) = true := by
  decide +kernel
theorem test_sys_resume : after (exec (.sys 0 0 1 0) base) (fun t => (supRegs t 0).epc == 0x1004#64) = true := by decide +kernel
theorem test_eret : after (exec (.eret 0) kernel) (fun t => t.level == 0 && t.pc == 0#64) = true := by decide +kernel
theorem test_srd_unassigned : after (exec (.srd 3 0x0FE 0) base) (fun t => (supRegs t 0).cause == 1#64) = true := by decide +kernel
theorem test_aadd : after (exec (.aadd 3 1 2 1 0) base) (fun t => t.num (tile.mem 0x10) 8 == 3 && t.rd 3 == 0#64) = true := by decide +kernel

/-! ### Hypotheses met: memory and encodings -/

theorem witness_StepKeepsMemoryCanonical : Memory.wf base.mem = true ∧ ∃ t, step base = .next t := ⟨rfl, _, rfl⟩
theorem witness_DecodeEncode : (Instr.ld 31 0 0x3FF 1 2 7).wf = true ∧ encode (.ld 31 0 0x3FF 1 2 7) = some 0x43E0FFF7#32 := by decide
theorem witness_EncodeDecode : decode 0x43E0FFF7#32 = .ok (.ld 31 0 0x3FF 1 2 7) := rfl

/-- `movi x5, -1` at 0x1000, behind the tables of R380 and R381: two pointers and a leaf of 1 GiB with V, LEAF, R, W, X
and U. Partition 0 owns quire 0 and the first 2 MiB. -/
def mapped : State :=
  { base with
    parts := { Part.reset with en := true, quires := 1, root := 0x4001#64, ranges := [1#64] } :: List.replicate 31 Part.reset,
    mem := memPut (memPut (memPut (memPut [] 0x6000 [0x7B#8]) 0x5000 (natBytes 2 0x6001)) 0x4000 (natBytes 2 0x5001)) 0x1000 (natBytes 4 0x20BFFFF8) }

/-- The same with a turn of its core to come. -/
def fetching : State := { mapped with turns := [⟨1, 1, .core 0 0⟩] }

theorem witness_StepRunsWord :
    fetching.frozen = false ∧ (({ fetching with turns := [] } : State).elapse 1 1).issueOrder 0 = [.ctl 0] ∧
    (({ fetching with turns := [] } : State).elapse 1 1).stalled (.ctl 0) = false ∧
    ((({ fetching with turns := [] } : State).elapse 1 1).issue (.ctl 0)).boundary = none ∧
    ∃ u, ((({ fetching with turns := [] } : State).elapse 1 1).issue (.ctl 0)).fetch = .ok 0x20BFFFF8#32 u :=
  ⟨rfl, by decide +kernel, by decide +kernel, by decide +kernel, _, rfl⟩

theorem test_step_runs_word : after (step fetching) (fun t => t.rd 5 == BitVec.allOnes 64 && t.pc == 0x1004#64) = true := by decide +kernel

/-! ### Hypotheses met: the words -/

/-- The thread has eight registers. -/
def narrow : State := { base with insts := [{ thread with header := 0#4096 }] }

theorem witness_DecodeOrder :
    (shape (.eret 0) = some (1, [], 0) ∧ base.threaded ∧ base.level < 1) ∧
    (shape (.add 8 2 2 1) = some (0, [8, 2, 2], 1) ∧ narrow.threaded ∧ ∃ r ∈ [8#5, 2, 2], r ≠ 0#5 ∧ narrow.regLimit ≤ r.toNat) ∧
    (shape (.jr 7 1) = some (0, [7], 1) ∧ (∀ r ∈ [7#5], r ≠ 0#5 → r.toNat < narrow.regLimit) ∧ narrow.pr 1 = false) :=
  ⟨⟨rfl, rfl, by decide +kernel⟩, ⟨rfl, rfl, by decide +kernel⟩, rfl, by decide +kernel, rfl⟩
theorem test_register_before_guard : after (exec (.add 8 2 2 1) narrow) (fun t => (supRegs t 0).cause == 1#64) = true := by decide +kernel
theorem test_register_within : after (exec (.add 7 2 2 0) narrow) (fun t => t.rd 7 == 6#64) = true := by decide +kernel

theorem witness_ArithmeticResults : Ready base [31, 1, 2] 0 := ready 0 rfl _
theorem witness_ImmediateResults : Ready base [31] 0 ∧ Ready base [31, 1] 0 := ⟨ready 0 rfl _, ready 0 rfl _⟩
theorem witness_PredicateResults : Ready base [1, 2] 0 ∧ Ready base [] 0 := ⟨ready 0 rfl _, ready 0 rfl _⟩
theorem test_cmp_signed :
    after (exec (.cmpi 1 2 2 0x3FF 0) base) (fun t => !t.pr 1) = true ∧ after (exec (.cmpi 1 2 6 0x3FF 0) base) (fun t => t.pr 1) = true := by
  decide +kernel

theorem witness_SelectWord :
    (1#5 ≠ 0#5 ∧ Ready base [31, 1, 2] 0 ∧ base.pr 0 = true ∧ base.pr 1 = false) ∧
    narrow.threaded ∧ ∃ r ∈ [1#5, 2, 8], r ≠ 0#5 ∧ narrow.regLimit ≤ r.toNat :=
  ⟨⟨by decide, ready 0 rfl _, rfl, rfl⟩, rfl, by decide +kernel⟩
theorem test_sel_checks_both : after (exec (.sel 1 2 8 0 0) narrow) (fun t => (supRegs t 0).cause == 1#64) = true := by decide +kernel

theorem witness_CallWord :
    (Ready base [31] 0 ∧ base.pr 0 = true ∧ base.pr 1 = false) ∧ narrow.threaded ∧ narrow.regLimit < 32 :=
  ⟨⟨ready 0 rfl _, rfl, rfl⟩, rfl, by decide +kernel⟩
theorem test_call_not_taken_checks_ln : after (exec (.callT 1 4) narrow) (fun t => (supRegs t 0).cause == 1#64) = true := by decide +kernel

theorem witness_BranchTargets :
    base.threaded ∧ Ready base [31] 0 ∧ base.pr 0 = true ∧ base.pr 1 = false ∧ (base.rd 1).toNat % 4 = 0 ∧ (base.rd 2).toNat % 4 ≠ 0 ∧
    (base.rd 31).toNat % 4 = 0 := ⟨rfl, ready 0 rfl _, rfl, rfl, by decide +kernel, by decide +kernel, by decide +kernel⟩

/-- A confidential partition of two parts, quires 0 and 1, the window tunnel between them; a key switch is BUSY and every channel of the
current generation used up, or neither. -/
def halves (b : Bool) : Part :=
  { Part.reset with
    quires := 3, mccfg := 0x801#64, retiring := if b then some 0#16 else none,
    chans := if b then (List.range 36).map fun k => ⟨k / 3, k % 3, 0, 0xFFFFFFFF, 0⟩ else [] }
def parted (b : Bool) : List Part := halves b :: List.replicate 31 Part.reset

theorem not_held {s : State} {w : Who} {pool : Pool} (h : s.crossesTo w pool = false) : ¬ Held s w pool := by
  rintro ⟨q, hq, hc, -⟩
  simp [State.crossesTo, hq, hc] at h

theorem halves_source (b : Bool) (r : Nat) : (halves b).source 0 r < 12 := by
  have h : ((upTo Config.quires).filter fun x =>
      (rectangle (halves b).mccfg 1).contains x == (rectangle (halves b).mccfg 1).contains 0 && bitAt (halves b).quires x) = [0] := by cases b <;> decide +kernel
  simp only [Part.source, h, Config.fencePerQuire, List.length_singleton, Nat.mod_one, List.getElem?_cons_zero, Option.getD_some]
  omega

theorem halves_used : ∀ n < 12, ∀ kind < 3, 2 ^ 32 - 1 ≤ ((halves true).chan n kind 0).sent := by decide +kernel

theorem is_held {s : State} {w : Who} {x y : Nat} (hp : s.part w.part = halves true) (hw : w.quire = 0) : Held s w (.tile ⟨1, x, y⟩) := by
  refine ⟨1, rfl, ?_, ?_, ?_⟩
  · rw [hp, hw]; decide +kernel
  · rw [hp]; rfl
  · rw [hp, hw]; exact .inl (halves_used _ (halves_source _ _) 1 (by decide))

theorem key_held {s : State} {w : Who} {x y : Nat} (hp : s.part w.part = halves true) (hw : w.quire = 0) : s.keyHeld w (.tile ⟨1, x, y⟩) = true := by
  have hc : (halves true).crosses 0 1 = true := by decide +kernel
  have hs : (halves true).spent ((halves true).source 0 1) 1 = true := by
    simp only [Part.spent, show (halves true).retiring.isSome = true from rfl, Bool.true_and, decide_eq_true_eq]
    exact halves_used _ (halves_source _ _) 1 (by decide)
  simp [State.keyHeld, Pool.quire?, hp, hw, hc, hs]

/-- The thread has a second tile, in the other part of its partition, and x1 names it. -/
def split (b : Bool) : State :=
  { base with parts := parted b, insts := [{ thread with region := [(0, 0), (1, 0)], ctx := { thread.ctx with x := thread.ctx.x.set 1 0x00F0000001000800#64 } }] }

theorem split_ready (b : Bool) (regs : List (BitVec 5)) : Ready (split b) regs 0 :=
  ⟨rfl, fun r _ _ => by rw [show (split b).regLimit = 32 from by cases b <;> decide +kernel]; exact r.isLt, rfl⟩

theorem witness_LoadResults :
    (Ready (split true) [31, 1] 0 ∧ ((split true).rd 1 + (0#10).signExtend 64 * BitVec.ofNat 64 8).toNat % 8 = 0 ∧
      (split true).locate .load ((split true).rd 1 + (0#10).signExtend 64 * BitVec.ofNat 64 8) = .ok (.win (.tile ⟨1, 1, 1⟩) 0x800) (split true) ∧
      (split true).poisoned (Pool.mem (.tile ⟨1, 1, 1⟩) 0x800) 8 = false ∧ (split true).postedLeft none = false ∧
      Held (split true) (split true).who (.tile ⟨1, 1, 1⟩)) ∧
    ¬ Held base base.who tile ∧
    Ready base [31, 1] 0 ∧ (base.rd 1 + (0#10).signExtend 64 * BitVec.ofNat 64 8).toNat % 8 = 0 ∧
    base.locate .load (base.rd 1 + (0#10).signExtend 64 * BitVec.ofNat 64 8) = .ok (.win tile 0x10) base ∧ base.poisoned (tile.mem 0x10) 8 = false ∧
    base.postedLeft none = false ∧ base.crossesTo base.who tile = false ∧
    base.load (base.rd 1 + (0#10).signExtend 64 * BitVec.ofNat 64 8) 8 = .ok 0 base ∧ (base.rd 2 + (0#10).signExtend 64 * BitVec.ofNat 64 2).toNat % 2 ≠ 0 :=
  ⟨⟨split_ready _ _, by decide +kernel, rfl, by decide +kernel, rfl, is_held rfl rfl⟩, not_held rfl,
    ready 0 rfl _, by decide +kernel, rfl, by decide +kernel, rfl, rfl, rfl, by decide +kernel⟩

/-- The page of `mapped` leads to host memory. -/
def hosted : State := { mapped with mem := memPut mapped.mem 0x6000 [0xFB#8] }

theorem mapped_ready (regs : List (BitVec 5)) : Ready mapped regs 0 :=
  ⟨rfl, fun r _ _ => by rw [show mapped.regLimit = 32 from by decide +kernel]; exact r.isLt, rfl⟩

theorem witness_StoreResults :
    (Ready (split true) [2, 1] 0 ∧ Memory.wf (split true).mem = true ∧
      (split true).locate .store ((split true).rd 1 + (0#11).signExtend 64 * BitVec.ofNat 64 8) = .ok (.win (.tile ⟨1, 1, 1⟩) 0x800) (split true) ∧
      (split true).postedLeft none = false ∧ Held (split true) (split true).who (.tile ⟨1, 1, 1⟩)) ∧
    ¬ Held base base.who tile ∧
    Ready base [2, 1] 0 ∧ Memory.wf base.mem = true ∧ (base.rd 1 + (0#11).signExtend 64 * BitVec.ofNat 64 8).toNat % 8 = 0 ∧
    base.locate .store (base.rd 1 + (0#11).signExtend 64 * BitVec.ofNat 64 8) = .ok (.win tile 0x10) base ∧ base.postedLeft none = false ∧
    (Memory.wf mapped.mem = true ∧ ∃ u, mapped.locate .store (mapped.rd 0 + (0x3FF#11).signExtend 64 * BitVec.ofNat 64 8) = .ok (.hbm 0x1FF8 false) u ∧
      u.mayReach 0x1FF8 = true ∧ u.sealAt (0x1FF8 / 4096 * 4096) = none ∧ u.postedLeft none = false) ∧
    (Memory.wf hosted.mem = true ∧ ∃ u, hosted.locate .store (hosted.rd 0 + (0x3FF#11).signExtend 64 * BitVec.ofNat 64 8) = .ok (.host 0x1FF8) u ∧
      u.postedLeft (some none) = false) :=
  ⟨⟨split_ready _ _, rfl, rfl, rfl, is_held rfl rfl⟩, not_held rfl,
    ready 0 rfl _, rfl, by decide +kernel, rfl, rfl, ⟨by decide +kernel, _, rfl, by decide +kernel, rfl, rfl⟩, by decide +kernel, _, rfl, rfl⟩

theorem witness_AccessTraps :
    base.cur = .ctl 0 ∧ base.level = 0 ∧ Acc.load.x = false ∧ Acc.store.x = false ∧ (1#64).toNat % 2 ≠ 0 ∧ canonical 0x0100000000000000#64 = false ∧
    (canonical 0xFF00000000000000#64 = true ∧ (0xFF00000000000000#64).getLsbD 56 = true) ∧
    (0x00F0000001000000#64 : W64).toNat / 2 ^ 31 = 0x1E00000 ∧ 4 * base.who.region.length ≤ (0x00F0000001000000#64 : W64).toNat / 2 ^ 22 % 2 ^ 9 ∧
    (0x00F1000000000000#64 : W64).toNat / 2 ^ 30 = 0x3C40000 ∧ (base.scratch base.who.part).length ≤ (0x00F1000000000000#64 : W64).toNat / 2 ^ 24 % 2 ^ 6 ∧
    (0x00F0000080000000#64 : W64).toNat / 2 ^ 48 = 0xF0 ∧ (0x00F0000080000000#64 : W64).toNat / 2 ^ 31 ≠ 0x1E00000 ∧
    (0x00F0000080000000#64 : W64).toNat / 2 ^ 30 ≠ 0x3C40000 := by
  refine ⟨rfl, by decide +kernel, rfl, rfl, by decide +kernel, by decide +kernel, ⟨by decide +kernel, by decide +kernel⟩, by decide +kernel,
    by decide +kernel, by decide +kernel, by decide +kernel, by decide +kernel, by decide +kernel, by decide +kernel⟩
theorem test_last_window_tile :
    base.locate .load 0x00F0000000FFFFF8#64 = .ok (.win (.tile ⟨0, 3, 3⟩) 0x3FFFF8) base := rfl

/-! Traps -/

/-- The thread's own handler may take BRK. -/
def handler (inside : Bool) : Inst := { thread with utmask := 0x400#32, utvec := 0x8000#64, uepc := 0x3000#64, usave := 0x41#7, uinh := inside }
def handled (inside : Bool) : State := { base with insts := [handler inside] }

/-- The thread's fault record is taken. -/
def faulty : State := { base with insts := [{ thread with fault := { FaultRec.reset with v := true, more := 0xFFFF#16 } }] }

theorem thread_regs : thread.regs = 32 := by decide +kernel

theorem of_level0 {s : State} (n : Nat) (i : Inst) (hc : s.cur = .ctl n) (ha : (s.sup (htCore n)).active = none) (hi : s.instOn n = some i)
    (hr : fieldN i.header 48 8 = fieldN thread.header 48 8) (regs : List (BitVec 5)) : Ready s regs 0 := by
  refine ⟨?_, fun r _ _ => ?_, ?_⟩
  · simp [State.threaded, hc, State.ctx?, State.ctxOf, ha, hi]
  · have : s.regLimit = thread.regs := by simp [State.regLimit, hc, State.level, State.levelOf, ha, hi, Inst.regs, hr]
    rw [this, thread_regs]; exact r.isLt
  · simp [State.pr, hc, State.ctx?, State.ctxOf, ha, hi, Ctx.pr]

theorem of_level1 {s : State} (n : Nat) (hc : s.cur = .ctl n) (ha : (s.sup (htCore n)).active = some n) (regs : List (BitVec 5)) : Ready s regs 0 := by
  refine ⟨?_, fun r _ _ => ?_, ?_⟩
  · simp [State.threaded, hc, State.ctx?, State.ctxOf, ha]
  · have : s.regLimit = 32 := by simp [State.regLimit, hc, State.level, State.levelOf, ha]
    rw [this]; exact r.isLt
  · simp [State.pr, hc, State.ctx?, State.ctxOf, ha, Ctx.pr]

theorem witness_TrapEntry :
    (base.cur = .ctl 0 ∧ base.instOn 0 = some thread ∧ (base.sup (htCore 0)).active = none ∧ (supRegs base 0).inh = false ∧ htCore 0 < base.sups.length ∧
      Ready base [] 0 ∧ (bitAt thread.utmask 0x0A && !thread.uinh) = false ∧ thread.fault.v = false ∧ Ready base [3, 1] 0) ∧
    ∃ i, faulty.instOn 0 = some i ∧ i.fault.v = true ∧ Ready faulty [] 0 :=
  ⟨⟨rfl, rfl, rfl, rfl, by decide +kernel, ready 0 rfl _, rfl, rfl, ready 0 rfl _⟩, _, rfl, rfl, of_level0 0 { thread with fault := { FaultRec.reset with v := true, more := 0xFFFF#16 } } rfl rfl rfl rfl _⟩
theorem test_second_fault : after (exec (.trap 0 0) faulty) (fun t => (t.insts.map fun i => i.fault.more) == [0xFFFF#16]) = true := by decide +kernel

theorem witness_UserHandler :
    (∃ i, (handled false).instOn 0 = some i ∧ (handled false).level = 0 ∧ Ready (handled false) [] 0 ∧ bitAt i.utmask 0x0A = true ∧ i.uinh = false) ∧
    ∃ i, (handled true).instOn 0 = some i ∧ (handled true).level = 0 ∧ Ready (handled true) [] 0 ∧ i.uinh = true :=
  ⟨⟨_, rfl, by decide +kernel, of_level0 0 (handler false) rfl rfl rfl rfl _, by decide +kernel, rfl⟩,
    _, rfl, by decide +kernel, of_level0 0 (handler true) rfl rfl rfl rfl _, rfl⟩
theorem test_user_return :
    after (exec (.swr 0 0x0A3 0) (handled true)) (fun t => t.pc == 0x3000#64 && t.pr 1 && !t.pr 2 && t.pr 7) = true := by decide +kernel

/-- The supervisor of the core took a trap from supervisor level; Trearo core 0 one from supervisor level. -/
def nested : State :=
  { base with sups := ⟨{ Ctx.zero with pc := 0x2000#64 }, { TrapRegs.reset with pl := 1 }, some 0, 0, false⟩ :: List.replicate 127 SupBank.reset }
def monitor : State := { hub with cores := [{ TCore.reset with m := { TrapRegs.reset with pl := 1, inh := true, epc := 0x400#64 } }] }

theorem witness_TrapReturn :
    (kernel.cur = .ctl 0 ∧ kernel.instOn 0 = some thread ∧ (kernel.sup (htCore 0)).active = some 0 ∧ Ready kernel [] 0 ∧ (supRegs kernel 0).pl = 0#2) ∧
    (nested.instOn 0 = some thread ∧ (nested.sup (htCore 0)).active = some 0 ∧ Ready nested [] 0 ∧ (supRegs nested 0).pl ≠ 0#2) ∧
    (monitor.cur = .trearo 0 ∧ 0 < monitor.cores.length ∧ (monitor.tcore 0).level = 2 ∧ (monitor.tcore 0).m.pl ≠ 3#2 ∧ Ready monitor [] 0) :=
  ⟨⟨rfl, rfl, rfl, kernel_ready _, rfl⟩, ⟨rfl, rfl, of_level1 0 rfl rfl _, by decide +kernel⟩,
    rfl, by decide +kernel, rfl, by decide +kernel, ⟨(by decide : 0 < 1), fun r _ _ => r.isLt, rfl⟩⟩

/-! Atomics, locks, barriers, the wait-for table -/

theorem witness_AtomicResults :
    Ready base [3, 1, 2] 0 ∧ Memory.wf base.mem = true ∧ (base.rd 1).toNat % 8 = 0 ∧ base.locate .both (base.rd 1) = .ok (.win tile 0x10) base ∧
    base.postedLeft none = false ∧ base.canCross (.win tile 0x10) = true ∧ base.poisoned (tile.mem 0x10) 8 = false ∧ (∀ o ∈ base.bars, ¬ (tile.mem 0x10 ≤ o.addr ∧ o.addr + 4 ≤ tile.mem 0x10 + 8)) ∧
    (Ready mapped [3, 0, 2] 0 ∧ Memory.wf mapped.mem = true ∧ (mapped.rd 0).toNat % 8 = 0 ∧ mapped.postedLeft none = false ∧
      ∃ u, mapped.locate .both (mapped.rd 0) = .ok (.hbm 0 false) u ∧ u.mayReach 0 = true ∧ (∀ k < 8, u.sealAt (0 + k) = none) ∧
        u.poisoned (hbmKey 0) 8 = false ∧ ∀ o ∈ mapped.bars, ¬ (hbmKey 0 ≤ o.addr ∧ o.addr + 4 ≤ hbmKey 0 + 8)) :=
  ⟨ready 0 rfl _, rfl, by decide +kernel, rfl, rfl, rfl, by decide +kernel, by decide +kernel,
    mapped_ready _, by decide +kernel, by decide +kernel, rfl, _, rfl, by decide +kernel, by decide +kernel, by decide +kernel, by decide +kernel⟩
theorem test_acas_fails :
    after (exec (.acas 2 1 2 1 0 0) base) (fun t => t.rd 2 == 0#64 && !t.pr 1 && t.num (tile.mem 0x10) 4 == 0) = true := by decide +kernel
theorem test_aaddb_bound :
    after (exec (.aaddb 2 1 2 1 0 0) base) (fun t => !t.pr 1 && t.num (tile.mem 0x10) 4 == 3) = true ∧
    after (exec (.aaddb 3 1 2 1 0 0) base) (fun t => t.pr 1 && t.num (tile.mem 0x10) 4 == 0) = true := by decide +kernel

/-- Sixteen tokens are held by the thread; and one, that of x1's address, by it or by another. -/
def locked (l : List LockTok) : State := { base with locks := l }
def sixteen : List LockTok := (upTo 16).map fun k => ⟨tile, 32 + k, .thread 5⟩

theorem witness_LockAndUnlock :
    (Ready base [1] 0 ∧ (base.rd 1).toNat % 8 = 0 ∧ base.locate .load (base.rd 1) = .ok (.win tile 0x10) base ∧ base.holderOf (tile, 2) = none ∧
      (base.locks.filter fun l => l.holder == base.meParty).length < 16 ∧ base.canCross (.win tile 0x10) = true) ∧
    ((locked sixteen).holderOf (tile, 2) = none ∧ 16 ≤ ((locked sixteen).locks.filter fun l => l.holder == (locked sixteen).meParty).length ∧
      (locked sixteen).canCross (.win tile 0x10) = true) ∧
    ((locked [⟨tile, 2, .thread 5⟩]).holderOf (tile, 2) = some (locked [⟨tile, 2, .thread 5⟩]).meParty ∧
      (locked [⟨tile, 2, .thread 5⟩]).tokWaiters (tile, 2) = [] ∧ (locked [⟨tile, 2, .thread 5⟩]).postedLeft none = false) ∧
    (locked [⟨tile, 2, .thread 6⟩]).holderOf (tile, 2) ≠ some (locked [⟨tile, 2, .thread 6⟩]).meParty ∧
    ∃ u, Ready mapped [0] 0 ∧ mapped.locate .load (mapped.rd 0) = .ok (.hbm 0 false) u ∧ mapped.holderOf (mapped.cachePool mapped.who.part 0, 0) = none ∧
      (mapped.locks.filter fun l => l.holder == mapped.meParty).length < 16 :=
  ⟨⟨ready 0 rfl _, by decide +kernel, rfl, rfl, by decide +kernel, rfl⟩, ⟨by decide +kernel, by decide +kernel, rfl⟩, ⟨rfl, rfl, rfl⟩, by decide +kernel,
    _, mapped_ready _, rfl, rfl, by decide +kernel⟩
theorem test_lock_then_unlock :
    after (exec (.lock 1 0) base) (fun t => t.locks == [⟨tile, 2, .thread 5⟩] && after (exec (.unlock 1 0) t) fun v => v.locks.isEmpty) = true := by
  decide +kernel

/-- A barrier at x1's address with so many arrivals, of as many as named. -/
def barrierOf (target count : Nat) : State :=
  { base with bars := [⟨tile, tile.mem 0x10, 5⟩], mem := memPut [] (tile.mem 0x10) (natBytes 4 count ++ natBytes 4 target ++ natBytes 4 7) }
def barrier : Nat → State := barrierOf 3

/-- Eight barriers stand in the tile's watch. -/
def crowded : State := { base with bars := (upTo 8).map fun k => ⟨tile, tile.mem (0x100 + 16 * k), 5⟩ }

theorem barrier_ready (n : Nat) (regs : List (BitVec 5)) : Ready (barrier n) regs 0 := of_level0 0 thread rfl rfl rfl rfl _

theorem witness_BarrierResults :
    (Ready base [2, 1] 0 ∧ Ready base [0, 1] 0 ∧ (base.rd 1).toNat % 16 = 0 ∧ base.poisoned (tile.mem 0x10) 16 = false ∧
      base.locate .store (base.rd 1) = .ok (.win tile 0x10) base ∧ base.postedLeft none = false ∧ base.canCross (.win tile 0x10) = true ∧ (base.rd 0).toNat % 2 ^ 32 = 0 ∧ (base.rd 2).toNat % 2 ^ 32 ≠ 0 ∧
      (base.bars.any fun b => b.addr == tile.mem 0x10) = false ∧ (base.bars.filter fun b => b.pool == tile).length < 8) ∧
    ((crowded.bars.any fun b => b.addr == tile.mem 0x10) = false ∧ 8 ≤ (crowded.bars.filter fun b => b.pool == tile).length) ∧
    (Ready (barrier 1) [3, 1] 0 ∧ (barrier 1).locate .both ((barrier 1).rd 1) = .ok (.win tile 0x10) (barrier 1) ∧
      ((barrier 1).bars.any fun b => b.addr == tile.mem 0x10) = true ∧ (barrier 1).num (tile.mem 0x10) 4 + 1 < (barrier 1).num (tile.mem 0x10 + 4) 4) ∧
    ((barrier 2).num (tile.mem 0x10) 4 + 1 = (barrier 2).num (tile.mem 0x10 + 4) 4 ∧ Ready (barrier 2) [4, 1, 2] 0) ∧
    ((barrier 2).num (tile.mem 0x10 + 8) 4 ≠ ((barrier 2).rd 3).toNat % 2 ^ 32) ∧
    (Ready (barrierOf 4 3) [4, 1, 2] 0 ∧ ((barrierOf 4 3).rd 2).toNat % 2 ^ 32 = (barrierOf 4 3).num (tile.mem 0x10) 4 ∧
      (barrierOf 4 3).num (tile.mem 0x10) 4 + 1 = (barrierOf 4 3).num (tile.mem 0x10 + 4) 4) ∧
    (Ready mapped [2, 0] 0 ∧ Memory.wf mapped.mem = true ∧ (mapped.rd 0).toNat % 16 = 0 ∧ mapped.postedLeft none = false ∧
      ∀ a ∈ [Acc.store, .both, .load], ∃ u, mapped.locate a (mapped.rd 0) = .ok (.hbm 0 false) u ∧ u.mayReach 0 = true ∧
        (∀ k < 16, u.sealAt (0 + k) = none) ∧ u.poisoned (hbmKey 0) 16 = false) :=
  ⟨⟨ready 0 rfl _, ready 0 rfl _, by decide +kernel, by decide +kernel, rfl, rfl, rfl, by decide +kernel, by decide +kernel, rfl, by decide +kernel⟩,
    ⟨by decide +kernel, by decide +kernel⟩, ⟨barrier_ready _ _, rfl, by decide +kernel, by decide +kernel⟩, ⟨by decide +kernel, barrier_ready _ _⟩,
    by decide +kernel, ⟨of_level0 0 thread rfl rfl rfl rfl _, by decide +kernel, by decide +kernel⟩,
    mapped_ready _, by decide +kernel, by decide +kernel, rfl, by
      simp only [List.forall_mem_cons, List.not_mem_nil, false_imp_iff, implies_true, and_true]
      exact ⟨⟨_, rfl, by decide +kernel, by decide +kernel, by decide +kernel⟩, ⟨_, rfl, by decide +kernel, by decide +kernel, by decide +kernel⟩,
        ⟨_, rfl, by decide +kernel, by decide +kernel, by decide +kernel⟩⟩⟩
theorem test_last_arrival :
    after (exec (.barrive 3 1 0) (barrier 2)) (fun t => t.rd 3 == 7#64 && t.num (tile.mem 0x10) 4 == 0 && t.num (tile.mem 0x18) 4 == 8) = true := by
  decide +kernel

theorem witness_PriorityWord :
    base.cur = .ctl 0 ∧ base.instOn 0 = some thread ∧ (∀ j ∈ base.insts, j.serial = thread.serial → j = thread) ∧ Ready base [3, 2] 0 :=
  ⟨rfl, rfl, by decide +kernel, ready 0 rfl _⟩

/-- Four declarations of the thread; STRICT or not. -/
def declared (strict : Bool) : State :=
  { base with insts := [{ thread with strict := strict }], decls := (upTo 4).map fun k => ⟨5, 1, 64 * k⟩ }

theorem witness_WaitTableWords :
    (base.instOn 0 = some thread ∧ Ready base [1] 0 ∧
      ((upTo Config.waitBank).any fun e => !(base.waits.filter fun w => !(w.waiter == Party.thread 5 && w.sw)).any fun w => w.bank == htQuire 0 && w.idx == e) = true ∧
      (⟨5, 1, (base.rd 1).toNat % 2 ^ 57⟩ : Decl) ∉ base.decls ∧ (base.decls.filter fun e => e.serial == 5).length < 4) ∧
    ∀ b, Ready (declared b) [1] 0 ∧ (⟨5, 1, ((declared b).rd 1).toNat % 2 ^ 57⟩ : Decl) ∉ (declared b).decls ∧
      4 ≤ ((declared b).decls.filter fun e => e.serial == 5).length :=
  ⟨⟨rfl, ready 0 rfl _, by decide +kernel, by decide +kernel, by decide +kernel⟩,
    fun b => ⟨of_level0 0 { thread with strict := b } rfl rfl rfl rfl _, by cases b <;> decide +kernel, by cases b <;> decide +kernel⟩⟩

/-- An unmasked event is pending and STIMECMP is 0, at supervisor level. -/
def signalled : State :=
  { base with
    quires := [{ QuireRegs.reset with sevent := 8#64, sevmask := 8#64 }],
    sups := [⟨Ctx.zero, { TrapRegs.reset with timecmp := 0#64 }, some 0, 0, false⟩] }

theorem witness_FenceAndEvents :
    (Ready base [] 0 ∧ (∀ i, base.me = some i → i.answered = true) ∧ ∀ r ∈ base.remotes, r.posted = true → r.serial ≠ base.meId) ∧
    (Ready signalled [] 0 ∧ 1 ≤ signalled.level ∧ signalled.woken = true) ∧ (0 < 128 ∧ (signalled.sup 0).regs.timecmp.toNat ≤ signalled.nsec.toNat) := by
  refine ⟨⟨ready 0 rfl _, ?_, by decide +kernel⟩, ⟨of_level1 0 rfl rfl _, by decide +kernel, by decide +kernel⟩, by decide +kernel⟩
  intro i h
  obtain rfl : thread = i := Option.some.inj ((show base.me = some thread from rfl).symm.trans h)
  decide +kernel

theorem witness_SpecialRegisterAccess :
    base.threaded ∧ base.assigned 0x0FE = false ∧ readOnly 0x000 = true ∧
    (base.assigned 0x106 = true ∧ 0x100 ≤ 0x106 ∧ base.level = 0) ∧ (kernel.assigned 0x400 = true ∧ 0x400 ≤ 0x400 ∧ kernel.level < 2 ∧ readOnly 0x400 = false) ∧
    (Ready base [3] 0 ∧ base.assigned 0x000 = true) ∧ (Ready kernel [3] 0 ∧ kernel.assigned 0x106 = true ∧ 1 ≤ kernel.level) ∧
    (Ready hub [3] 0 ∧ hub.assigned 0x410 = true ∧ hub.level = 2) ∧ (kernel.sup (htCore 0)).active = some 0 ∧
    (base.cur = .ctl 0 ∧ base.instOn 0 = some thread ∧ Ready base [0] 0) :=
  ⟨rfl, by decide +kernel, by decide +kernel, by decide +kernel, by decide +kernel, ⟨ready 0 rfl _, by decide +kernel⟩,
    ⟨kernel_ready _, by decide +kernel⟩, ⟨hub_ready _, by decide +kernel⟩, rfl, rfl, rfl, ready 0 rfl _⟩
theorem test_istate_reads :
    after (exec (.srd 3 0x003 0) { base with insts := [{ thread with active := true, phaseNo := 0x35 }] }) (fun t => t.rd 3 == 0x5A#64) = true := by decide +kernel
theorem test_stvec_low_bits :
    after (exec (.swr 1 0x101 0) { kernel with sups := ⟨{ Ctx.zero with x := Ctx.zero.x.set 1 (BitVec.allOnes 64) }, TrapRegs.reset, some 0, 0, false⟩ :: [] })
      (fun t => (supRegs t 0).tvec == 0xFFFFFFFFFFFFFFC0#64) = true := by decide +kernel

/-- The supervisor names partition 31. -/
def foreign : State := { base with sups := [⟨{ Ctx.zero with x := Ctx.zero.x.set 1 31#64 }, TrapRegs.reset, some 0, 0, false⟩] }

theorem witness_TranslationDrops :
    (1 ≤ hub.level ∧ Ready hub [] 0 ∧ hub.onCtl = false) ∧ (1 ≤ kernel.level ∧ Ready kernel [] 0 ∧ kernel.onCtl = true ∧ kernel.who.part = (kernel.rd 0).toNat % 32) ∧
    (Ready foreign [1] 0 ∧ foreign.onCtl = true ∧ foreign.who.part ≠ (foreign.rd 1).toNat % 32) :=
  ⟨⟨by decide +kernel, hub_ready _, rfl⟩, ⟨by decide +kernel, kernel_ready _, rfl, by decide +kernel⟩, ⟨of_level1 0 rfl rfl _, rfl, by decide +kernel⟩⟩

/-- The supervisor names instance 5, in one condition or another. -/
def halting (f : Inst → Inst) : State :=
  { base with
    insts := [f thread],
    sups := ⟨{ Ctx.zero with x := Ctx.zero.x.set 1 5#64 }, TrapRegs.reset, some 0, 0, false⟩ :: [] }

theorem witness_HaltWord :
    (∀ f, Ready (halting f) [3, 1] 0 ∧ 1 ≤ (halting f).level) ∧ (halting fun i => { i with state := .done }).reachable 5 = none ∧
    (halting fun i => { i with state := .queued }).reachable 5 = some { thread with state := .queued } ∧
    (halting fun i => { i with active := true }).reachable 5 = some { thread with active := true } ∧
    ((halting id).reachable 5 = some thread ∧ (halting id).settled thread = true ∧ thread.cut = none ∧ thread.kill = none ∧
      ∀ j ∈ (halting id).insts, j.hw.map Hart.ctl = some (halting id).cur → j.stall = none) := by
  refine ⟨fun f => ⟨of_level1 0 rfl rfl _, ?_⟩, rfl, rfl, rfl, rfl, by decide +kernel, rfl, rfl, by decide +kernel⟩
  simp [halting, State.level, State.levelOf, htCore, State.sup, base]
theorem test_halt_done : after (exec (.halt 3 1 0) (halting id)) (fun t => (t.insts.map Inst.state) == [.done] && t.rd 3 == 0#64) = true := by
  decide +kernel

/-! Streams, phases, engines, attention -/

/-- The thread with one handle, handle 0, in some state. -/
def handle (h : Handle) : State := { base with insts := [{ thread with handles := h :: List.replicate 15 Handle.free }] }

theorem handle_ready (h : Handle) (regs : List (BitVec 5)) : Ready (handle h) regs 0 := of_level0 0 { thread with handles := h :: List.replicate 15 Handle.free } rfl rfl rfl rfl _

def pushing (n : Nat) : Handle := { Handle.free with bind := .push 0 0, q := List.replicate n .eos }

theorem witness_StreamPushes :
    (∀ h, (handle h).cur = .ctl 0 ∧ ∃ i, (handle h).instOn 0 = some i ∧ i.handles[(0#4).toNat]? = some h ∧ Ready (handle h) [1, 2] 0) ∧
    (∀ h, (handle h).fencedIn = false) ∧ ((pushing 15).bind.isPush = true ∧ (pushing 15).q.length < 16) ∧ (16 ≤ (pushing 16).q.length) ∧ Handle.free.bind.isPush = false :=
  ⟨fun h => ⟨rfl, _, rfl, rfl, handle_ready h _⟩, fun _ => rfl, by decide, by decide, rfl⟩
theorem test_spush_lanes :
    after (exec (.spushP 0 1 2 0) (handle (pushing 0))) (fun t => (t.insts.map fun i => (i.handles.headD Handle.free).q) ==
      [[.data (ofLanes [0x10#32, 0x00F00000#32, 3#32, 0#32])]]) = true := by decide +kernel

def popping (r : List Token) : Handle := { Handle.free with bind := .pop 0 0, q := r }

theorem witness_StreamPops :
    (∀ r : List Token, ∃ i, (handle (popping r)).instOn 0 = some i ∧ i.handles[(0#4).toNat]? = some (popping r) ∧ (popping r).bind.isPop = true ∧
      Ready (handle (popping r)) [3, 2] 0) ∧
    (popping [.data 5#4096]).oldest = some (.data 5#4096) ∧ (popping [.eos]).oldest = some .eos ∧ (popping []).oldest = none :=
  ⟨fun _ => ⟨_, rfl, rfl, rfl, handle_ready _ _⟩, rfl, rfl, rfl⟩
theorem test_spop_pair :
    after (exec (.spop 0 3 2 1 0) (handle (popping [.data (ofLanes ((upTo 128).map w32))]))) (fun t => t.rd 3 == 0x0000000700000006#64 && t.pr 1) = true ∧
    after (exec (.spopK 0 3 2 1 0) (handle (popping [.eos]))) (fun t => t.rd 3 == 0#64 && !t.pr 1) = true := by decide +kernel

/-- Frames of the kinds of R146: header (R148), node (R150), controller or counter (R154). -/
def node (x slot op a dst : Nat) : List Byte :=
  natBytes 32 (2 ^ 252 + x * 2 ^ 249 + slot * 2 ^ 240 + (op * 2 ^ 56 + a * 2 ^ 44 + 31 * 2 ^ 39 + 31 * 2 ^ 34 + dst * 2 ^ 29))
def control (x slot pay : Nat) : List Byte := natBytes 32 (6 * 2 ^ 252 + x * 2 ^ 249 + slot * 2 ^ 240 + pay)

/-- A folio of five frames: a `seq` with ROOT at (1, 0) slot 8, a counter of one level at slot 9. -/
def rooted : List Byte := natBytes 32 (5 * 2 ^ 10) ++ node 1 8 0x88 31 31 ++ control 1 8 (2 ^ 157) ++ node 1 9 0x87 31 24 ++ control 1 9 (2 ^ 224)

/-- The thread's image at 0x400 of its tile: one folio at 0x200 of the image, one stage record at 0x300 (R134, R158). -/
def imager : Inst := { thread with image := 0x00F0000000000400#64, header := 0x20000000000000#4096 ||| 1#4096 <<< 160 ||| 0x200#4096 <<< 640 ||| 0xA0#4096 <<< 672 }
def imaged (f : Inst → Inst) : State := { base with insts := [f imager], mem := memPut [] (tile.mem 0x600) rooted }
def namer (i : Inst) : Inst := { i with named := [(0, none)], ctx := { i.ctx with x := i.ctx.x.set 4 0x64100#64 } }

theorem imager_regs : fieldN imager.header 48 8 = fieldN thread.header 48 8 := by decide +kernel
theorem test_folio_is_legal : folioFault (folioOf rooted) 0 0 = none := by decide +kernel

theorem imaged_ready (f : Inst → Inst) (h : (f imager).hw = some 0) (hr : fieldN (f imager).header 48 8 = fieldN thread.header 48 8) (regs : List (BitVec 5)) : Ready (imaged f) regs 0 := by
  refine of_level0 0 (f imager) rfl rfl ?_ hr _
  simp [State.instOn, imaged, h]

theorem witness_PhaseCommands :
    ((imaged id).instOn 0 = some imager ∧ Ready (imaged id) [1, 2] 0 ∧ (imaged id).boundOk imager ((imaged id).rd 1) ((imaged id).rd 2) = false ∧ (imaged id).fencedIn = false) ∧
    ((imaged namer).boundOk (namer imager) ((imaged namer).rd 4) ((imaged namer).rd 2) = true ∧
      (imaged namer).boundCount (namer imager) (ctrRef ((imaged namer).rd 4)) < 4 ∧ (imaged namer).ctrUnit 5 (ctrRef ((imaged namer).rd 4)) = none ∧
      Ready (imaged namer) [4, 2] 0 ∧ (imaged namer).fencedIn = false ∧ (imaged namer).postedLeft none = false) ∧
    ((0#8).toNat < imager.nfolio ∧ imager.nfolio ≤ (1#8).toNat ∧ (imaged id).folio imager 0 = .ok (folioOf rooted) ∧
      legalSlot imager.region (Folio.shape (folioOf rooted)) ((imaged id).rd 0).toNat = true ∧
      legalSlot imager.region (Folio.shape (folioOf rooted)) ((imaged id).rd 1).toNat = false) ∧
    ((imaged fun i => { i with active := true }).instOn 0 = some { imager with active := true }) ∧
    (imager.active = false ∧ (imaged id).goStatus imager ≠ 0 ∧ (imaged namer).goStatus (namer imager) = 0) := by
  refine ⟨⟨rfl, imaged_ready id rfl imager_regs _, by decide +kernel, rfl⟩,
    ⟨by decide +kernel, by decide +kernel, rfl, imaged_ready namer rfl (by decide +kernel) _, rfl, rfl⟩,
    ⟨by decide +kernel, by decide +kernel, reads_ok (by decide +kernel), by decide +kernel, by decide +kernel⟩, rfl, rfl, by decide +kernel, by decide +kernel⟩
theorem test_go_starts : after (exec (.go 3 0) (imaged namer)) (fun t => t.rd 3 == 0#64 && (t.insts.map Inst.active) == [true]) = true := by decide +kernel

/-- A yield is asked of the thread. -/
def yielding : State := { base with insts := [{ thread with yieldReq := true }] }

theorem witness_YieldPoint :
    (base.instOn 0 = some thread ∧ Ready base [3] 0 ∧ thread.yieldReq = false) ∧
    (yielding.instOn 0 = some { thread with yieldReq := true } ∧ Ready yielding [3] 0 ∧ thread.active = false ∧ yielding.level = 0 ∧
      yielding.rowsStopped 5 = true ∧ yielding.arrivedAll 5 = true ∧ yielding.inst? 5 = some { thread with yieldReq := true }) :=
  ⟨⟨rfl, ready 0 rfl _, rfl⟩, rfl, of_level0 0 { thread with yieldReq := true } rfl rfl rfl rfl _, rfl, by decide +kernel, by decide +kernel, rfl, rfl⟩

/-- x1 names the descriptor at 0x40 of the tile. -/
def asking (h : Handle) (desc : Nat) : State :=
  { base with
    insts := [{ thread with ctx := { thread.ctx with x := thread.ctx.x.set 1 0x00F0000000000040#64 }, handles := h :: List.replicate 15 Handle.free }],
    mem := memPut [] (tile.mem 0x40) (natBytes 64 desc) }

theorem asking_ready (h : Handle) (d : Nat) (regs : List (BitVec 5)) : Ready (asking h d) regs 0 :=
  of_level0 0 { thread with ctx := { thread.ctx with x := thread.ctx.x.set 1 0x00F0000000000040#64 }, handles := h :: List.replicate 15 Handle.free }
    rfl rfl rfl rfl _

def commanded (n : Nat) : Handle := { Handle.free with bind := .engine 0, reqs := List.replicate n (Request.new 0 0 0#512 0#64 false false false) }

theorem witness_EngineCommands :
    (∀ h, ∃ i, (asking h 1).instOn 0 = some i ∧ (asking h 1).inst? i.serial = some i ∧ i.handles[(0#4).toNat]? = some h ∧ Ready (asking h 1) [1, 2] 0) ∧
    (∃ u, (asking (commanded 31) 1).loadDesc ((asking (commanded 31) 1).rd 1) = .ok 1#512 u ∧ u = asking (commanded 31) 1) ∧
    ((commanded 31).bind = .engine 0 ∧ (commanded 31).reqs.length < 32) ∧ 32 ≤ (commanded 32).reqs.length ∧ (∀ k, Handle.free.bind ≠ .engine k) :=
  ⟨fun h => ⟨_, rfl, rfl, rfl, asking_ready h 1 _⟩, ⟨_, rfl, rfl⟩, by decide, by decide, fun _ h => nomatch h⟩

/-- The thread has the slots 0 and 1 of quire 0, a folio with an out port and an in port to the north, chained, and the
blend program of five outputs; its descriptor names them, or another folio, or is malformed (R290, R291). -/
def binder : Inst :=
  { thread with
    region := [(0, 0), (0, 1)], image := 0x00F0000000000400#64, chains := [(0, 0, 0, 1)],
    header := 0x20000000000000#4096 ||| 1#4096 <<< 160 ||| 1#4096 <<< 176 ||| 0x300#4096 <<< 576 ||| 0x200#4096 <<< 640,
    ctx := { thread.ctx with x := thread.ctx.x.set 1 0x00F0000000000040#64 } }
def ported : List Byte := natBytes 32 (2 ^ 10 + 2 * 2 ^ 19 + 2 ^ 5 * 2 ^ 48 + 1 * 2 ^ 54)
def blend : List Byte :=
  natBytes 32 (2 + 2 ^ 2 + 5 * 2 ^ 3 + 1 * 2 ^ 15 + 3 * 2 ^ 21) ++
    [1, 2, 3, 4, 5].flatMap fun k => natBytes 8 (0xA8 * 2 ^ 56 + 28 * 2 ^ 44 + 31 * 2 ^ 39 + 31 * 2 ^ 34 + 31 * 2 ^ 29 + k)
def bindDesc (folio nseq : Nat) : Nat := 0xFFFFFFFF + folio * 2 ^ 48 + 1 * 2 ^ 64 + nseq * 2 ^ 192
def binding (f : Inst → Inst) (d : Nat) : State :=
  { base with
    insts := [f binder],
    mem := memPut (memPut (memPut [] (tile.mem 0x700) blend) (tile.mem 0x600) ported) (tile.mem 0x40) (natBytes 64 d) }

theorem binding_ready (f : Inst → Inst) (d : Nat) (h : (f binder).hw = some 0) (hr : fieldN (f binder).header 48 8 = fieldN thread.header 48 8) (regs : List (BitVec 5)) :
    Ready (binding f d) regs 0 := of_level0 0 (f binder) rfl rfl (by simp [State.instOn, binding, h]) hr _

theorem witness_AttentionBinding :
    (∃ u, (binding (fun i => { i with active := true }) 1).loadDesc 0x00F0000000000040#64 = .ok 1#512 u ∧
      u.instOn 0 = some { binder with active := true } ∧ Ready (binding (fun i => { i with active := true }) 1) [3, 1] 0) ∧
    (binder.active = false ∧ bdOk binder (BitVec.ofNat 512 (bindDesc 0 0)) = false) ∧
    (bdOk binder (BitVec.ofNat 512 (bindDesc 1 1)) = true ∧ binder.nfolio ≤ bdFolio (BitVec.ofNat 512 (bindDesc 1 1))) ∧
    (Ready (binding id (bindDesc 0 1)) [3, 1] 0 ∧ (binding id (bindDesc 0 1)).rd 1 = 0x00F0000000000040#64 ∧
      ∃ u, (binding id (bindDesc 0 1)).loadDesc 0x00F0000000000040#64 = .ok (BitVec.ofNat 512 (bindDesc 0 1)) u ∧ u.instOn 0 = some binder ∧
      bdOk binder (BitVec.ofNat 512 (bindDesc 0 1)) = true ∧ u.folio binder 0 = .ok (folioOf ported) ∧
      bdPort binder (BitVec.ofNat 512 (bindDesc 0 1)) (folioOf ported) = true ∧ u.attns = [] ∧ u.residents = [] ∧
      u.bindStages binder (BitVec.ofNat 512 (bindDesc 0 1)) = .ok [(2, stageRec (blend.take 32) (blend.drop 32))] ∧
      bindCheck [(2, stageRec (blend.take 32) (blend.drop 32))] = none) := by
  refine ⟨⟨_, gives_ok (t := binding (fun i => { i with active := true }) 1) (by decide +kernel), rfl, binding_ready _ _ rfl (by decide +kernel) _⟩,
    ⟨rfl, by decide +kernel⟩, by decide +kernel, binding_ready _ _ rfl (by decide +kernel) _, rfl, _,
    gives_ok (t := binding id (bindDesc 0 1)) (by decide +kernel), rfl, by decide +kernel, reads_ok (by decide +kernel), by decide +kernel, rfl, rfl,
    reads_ok (by decide +kernel), by decide +kernel⟩
theorem test_abind_binds : after (exec (.abind 3 1 0) (binding id (bindDesc 0 1))) (fun t => t.rd 3 == 0x3F0300#64 && t.attns.length == 1) = true := by
  decide +kernel

/-- Slot 0 is bound. -/
def bound (i : Inst) : Inst := { i with bindings := [⟨0, 0#512, none, none, ⟨2, true, [], 0, 0, 0, [], 0⟩⟩] }

theorem witness_AttentionUnbinding :
    ((binding bound 0).instOn 0 = some (bound binder) ∧ Ready (binding bound 0) [3, 0] 0 ∧ (bound binder).active = false ∧
      ((binding bound 0).rd 0).toNat < 128 ∧ ((bound binder).bindings.any fun b => b.rslot == ((binding bound 0).rd 0).toNat % 128) = true) ∧
    128 ≤ ((binding bound 0).rd 1).toNat ∧ (binder.bindings.any fun b => b.rslot == ((binding id 0).rd 0).toNat % 128) = false :=
  ⟨⟨rfl, binding_ready _ _ rfl (by decide +kernel) _, rfl, by decide +kernel, by decide +kernel⟩, by decide +kernel, rfl⟩

/-! Elements, routers and streams -/

/-- The place of the unit under test: slot 0 of tile (1, 1) of quire 0. -/
def place : UKey := ⟨0, 1, 1, 0⟩

/-- A unit of folio 0 of the thread's instance: opcode, sources and auxiliary bits, payload frame, latches, free slots. -/
def unit (op low : Nat) (frame : Payload) (ins : List (Option Token)) (st : NodeSt) : FabUnit :=
  ⟨place, 5, 0, 1, 1, BitVec.ofNat 64 (op * 2 ^ 56 + low), 1#32, frame, ins, List.replicate 4 ⟨none, []⟩, false, ins.map fun _ => false, false,
    false, false, 0, 0, 0, [], [], 0, false, [], [], st⟩

/-- Sources A, B and C of a word: 24 + k is latch k, 31 none (R141). -/
def srcs (a b c : Nat) : Nat := a * 2 ^ 44 + b * 2 ^ 39 + c * 2 ^ 34

/-- The running phase of the instance, with these units. -/
def fabric (fs : List FabUnit) : State := { base with insts := [{ thread with active := true, folios := [(0, none)] }], units := fs }

/-- The unit with output p full. -/
def jam (p : Nat) (f : FabUnit) : FabUnit := { f with outs := updAt f.outs p fun _ => ⟨some .eos, [0]⟩ }

/-- `Turn`, computed. -/
def turns (s : State) (u : UKey) (op : Nat) (f : FabUnit) : Bool :=
  decide (s.unit? u = some f) && f.op == op && s.inPhase f.serial f.folio && decide (f.marker = none) && !(f.dead || f.halted || f.cfgBad || f.eccBad)

theorem turn_of {s : State} {u : UKey} {op : Nat} {f : FabUnit} (h : turns s u op f = true) : Turn s u op f := by
  simp [turns] at h
  obtain ⟨⟨⟨⟨h1, h2⟩, h3⟩, h4⟩, ⟨⟨h5, h6⟩, h7⟩, h8⟩ := h
  exact ⟨h1, h2, h5, h6, h3, h4, h7, h8⟩

/-- A strip whose lane 0 is n. -/
def strip (n : Nat) : Strip := BitVec.ofNat 4096 n
def tok (n : Nat) : Option Token := some (.data (strip n))

/-- Every element with three full operands, with a free and a full slot, and with a half-matched operand. -/
def element (op : Nat) : FabUnit := unit op (6 * 2 ^ 52 + srcs 24 25 26) 0 [tok 1, tok 2, tok 3] .plain
def half (op : Nat) : FabUnit := unit op (6 * 2 ^ 52 + srcs 24 25 26) 0 [tok 1, none, tok 3] .plain

theorem witness_ElementFirings : ∀ e ∈ elements,
    (Turn (fabric [element e.1]) place e.1 (element e.1) ∧ (element e.1).operand (element e.1).srcA = some (strip 1) ∧
      (element e.1).operand (element e.1).srcB = some (strip 2) ∧ (element e.1).operand (element e.1).srcC = some (strip 3) ∧ (element e.1).outFree 0 = true) ∧
    (Turn (fabric [half e.1]) place e.1 (half e.1) ∧ (half e.1).operand (half e.1).srcB = none) ∧
    (Turn (fabric [jam 0 (element e.1)]) place e.1 (jam 0 (element e.1)) ∧ (jam 0 (element e.1)).outFree 0 = false) := by
  have h : elements.all (fun e => turns (fabric [element e.1]) place e.1 (element e.1) && (element e.1).operand (element e.1).srcA == some (strip 1) &&
      (element e.1).operand (element e.1).srcB == some (strip 2) && (element e.1).operand (element e.1).srcC == some (strip 3) && (element e.1).outFree 0 &&
      (turns (fabric [half e.1]) place e.1 (half e.1) && (half e.1).operand (half e.1).srcB == none) &&
      (turns (fabric [jam 0 (element e.1)]) place e.1 (jam 0 (element e.1)) && !(jam 0 (element e.1)).outFree 0)) = true := by decide +kernel
  intro e he
  have := List.all_eq_true.mp h e he
  simp only [Bool.and_eq_true, beq_iff_eq, Bool.not_eq_true'] at this
  exact ⟨⟨turn_of this.1.1.1.1.1.1, this.1.1.1.1.1.2, this.1.1.1.1.2, this.1.1.1.2, this.1.1.2⟩, ⟨turn_of this.1.2.1, this.1.2.2⟩, turn_of this.2.1, this.2.2⟩

/-- An operation on three strips, its lane type and auxiliary bits given; the channel is int8 of scale 1. -/
def elem (op ty aux : Nat) (a : Strip) : ElemIn := ⟨op, ty, 0, aux, a, strip 2, strip 3, fun _ => ⟨10, .fin false (.dyadic 1 0), none⟩, fun _ => 0⟩

theorem witness_FloatResults :
    (∀ ty < 3, (elem 1 ty 0 (strip 1)).ty ≤ 2 ∧ 127 < 4096 / laneBits ty) ∧
    fp32.decode 0x7FC00000 = .nan ∧ fp32.decode 0xFF800000 = .inf true ∧ (∃ m, fp32.decode 0x3F800000 = .fin false m) ∧
    (∀ e ∈ [(0, 0), (0, 6), (6, 0)], laneBits ((elem 0x0F e.1 e.2 (strip 1)).aux % 16) = laneBits e.1) ∧
    (∀ op ∈ [0x63, 0x64], ∀ e ∈ [(0, 1, 0), (0, 1, 255), (6, 7, 0)], e.2.2 < 4096 / laneBits ((elem op e.1 e.2.1 (strip 1)).aux % 16)) ∧
    (300 < stripCount (codeFmt ((elem 0x65 0 0 (strip 1)).chan 0).code).w ∧ 127 < 128) ∧
    (∀ op ∈ [0x67, 0x68], 127 < 4096 / laneBits 0 ∧ (elem op 0 0x7F00 (strip 1)).aux / 2 ^ 8 % 1024 + 1 ≤ 4096 / laneBits 0) := by
  refine ⟨by decide +kernel, by decide +kernel, by decide +kernel, ⟨_, rfl⟩, by decide +kernel, by decide +kernel, by decide +kernel, by decide +kernel⟩
theorem test_frcp_of_one : lane (ElemIn.result (elem 0x0B 0 0 (strip 0x3F800000))) 0 = 0x3F7F0000#32 := by decide +kernel
/-- The four lanes of R246's table. -/
def four : Strip := ofLanes [0x4B800000#32, 0x3F800000#32, 0x3F800000#32, 0xCB800000#32]
theorem test_lred_tree : lane (ElemIn.result (elem 0x67 0 0x300 four)) 77 = 0x3F800000#32 := by decide +kernel
theorem test_scan_prefixes :
    (upTo 5).map (lane (ElemIn.result (elem 0x68 0 0x300 four))) = [0x4B800000#32, 0x4B800000#32, 0x4B800000#32, 0#32, 0#32] := by decide +kernel

/-- What unit `place` has sent on output p after an event. -/
def sent (o : Host.Outcome State Fault Refusal) (p : Nat) : Option Token :=
  match o with
  | .next t => (t.unit? place).bind fun f => (f.slot p).tok
  | _ => none

/-- A route from output p of `place` to another tile. -/
def route (id p : Nat) : Route := ⟨id, 5, 0, .unit place p, p, .unit ⟨0, 2, 1, 0⟩ 0, [[]], [[]], none⟩
def routed (fs : List FabUnit) : State := { fabric fs with routes := [route 1 0, route 2 1, route 3 2, route 4 3] }

theorem test_iadd : sent (exec (.iadd place) (routed [unit 0x40 (6 * 2 ^ 52 + srcs 24 25 31) 0 [tok 0xFFFFFFFF, tok 2] .plain])) 0 = some (.data (strip 1)) := by
  decide +kernel
theorem test_iadd_saturates :
    sent (exec (.iadd place) (routed [unit 0x40 (6 * 2 ^ 52 + 2 ^ 49 + srcs 24 25 31) 0 [tok 0x7FFFFFFF, tok 2] .plain])) 0 = some (.data (strip 0x7FFFFFFF)) := by
  decide +kernel
theorem test_fadd_f32 :
    sent (exec (.fadd place) (routed [unit 0x01 (srcs 24 25 31) 0 [tok 0x3F800000, tok 0x40000000] .plain])) 0 = some (.data (strip 0x40400000)) := by
  decide +kernel

theorem witness_IntegerLanes : (⟨0x40, 6, 0, 0, strip 1, strip 2, strip 3, fun _ => ⟨0, .nan, none⟩, fun _ => 0⟩ : ElemIn).ty = 6 ∧ 127 < 128 := by decide

/-- Routers, each in its turn on the tokens that a clause asks for. -/
def steer (p : Nat) : FabUnit := unit 0x80 (srcs 24 25 31) 0 [tok p, tok 7] .plain
def merge (p : Nat) (x : Option Token) : FabUnit := unit 0x81 (srcs 24 25 26) 0 [tok p, tok 7, x] .plain
def gate (kind : Nat) (c : Token) : FabUnit := unit 0x83 (srcs 24 25 31 + kind) 0 [tok 7, some c] .plain
def const (aux n : Nat) (x : Option Token) : FabUnit := unit 0x84 aux 0 [x] (.const (strip 9) n)
def delay (x : Option Token) : FabUnit := unit 0x85 (srcs 24 31 31 + 1) 0 [x] (.delay [.data (strip 4), .data (strip 5)])
def carry (ins : List (Option Token)) (loop : List Nat) (retired : List (Nat × Token)) : FabUnit :=
  unit 0x82 (srcs 24 25 26 + 1) 0 ins (.carry loop retired 2 0 false false)

theorem witness_RouterFirings :
    (Turn (fabric [steer 0]) place 0x80 (steer 0) ∧ Turn (fabric [steer 1]) place 0x80 (steer 1) ∧ (steer 1).strip? 0 = some (strip 1) ∧
      (steer 1).strip? 1 = some (strip 7) ∧ (steer 1).outFree 0 = true ∧
      Turn (fabric [jam 0 (steer 1)]) place 0x80 (jam 0 (steer 1)) ∧ (jam 0 (steer 1)).outFree 0 = false) ∧
    (Turn (fabric [merge 0 none]) place 0x81 (merge 0 none) ∧ (merge 0 none).strip? 0 = some (strip 0) ∧ (merge 0 none).strip? 1 = some (strip 7) ∧
      Turn (fabric [merge 1 none]) place 0x81 (merge 1 none) ∧ (merge 1 none).strip? 2 = none ∧ (merge 1 none).outFree 0 = true) ∧
    (Turn (fabric [gate 1 (.permit 0)]) place 0x83 (gate 1 (.permit 0)) ∧ (gate 1 (.permit 0)).ended = false ∧
      (gate 1 (.permit 0)).latch 1 = some (.permit 0) ∧
      (Token.permit 0).qualifies ((gate 1 (.permit 0)).auxBits 0 3) = false ∧ Turn (fabric [gate 0 (.endTok 1 0)]) place 0x83 (gate 0 (.endTok 1 0)) ∧
      (Token.endTok 1 0).qualifies ((gate 0 (.endTok 1 0)).auxBits 0 3) = true ∧
      (gate 0 (.endTok 1 0)).strip? 0 = some (strip 7) ∧ (gate 0 (.endTok 1 0)).outFree 0 = true) ∧
    (Turn (fabric [const 0 0 (tok 1)]) place 0x84 (const 0 0 (tok 1)) ∧ (const 0 0 (tok 1)).auxBits 0 1 = 0 ∧
      Turn (fabric [const 1 1 none]) place 0x84 (const 1 1 none) ∧ (const 1 1 none).auxBits 0 1 = 1 ∧
      Turn (fabric [const 1 0 none]) place 0x84 (const 1 0 none) ∧ (const 1 0 none).outFree 0 = true) ∧
    (Turn (fabric [unit 0x86 (srcs 24 25 31) 0 [tok 7, tok 0] .plain]) place 0x86 (unit 0x86 (srcs 24 25 31) 0 [tok 7, tok 0] .plain)) ∧
    (Turn (fabric [delay (tok 6)]) place 0x85 (delay (tok 6)) ∧ [Token.data (strip 5)].length ≤ (delay (tok 6)).auxBits 0 4 ∧
      (delay (tok 6)).outFree 0 = true ∧ Turn (fabric [delay none]) place 0x85 (delay none) ∧ (delay none).latch 0 = none ∧
      Turn (fabric [jam 0 (delay none)]) place 0x85 (jam 0 (delay none)) ∧ (jam 0 (delay none)).outFree 0 = false) ∧
    (Turn (fabric [carry [none, none, none] [1] [(0, .data (strip 3))]]) place 0x82 (carry [none, none, none] [1] [(0, .data (strip 3))]) ∧
      (∀ k, (carry [none, none, none] [1] [(0, .data (strip 3))]).strip? k = none) ∧
      (∀ p ∈ [0, 1], Turn (fabric [carry [tok 6, tok 7, tok p] [0, 1] []]) place 0x82 (carry [tok 6, tok 7, tok p] [0, 1] []) ∧
        (carry [tok 6, tok 7, tok p] [0, 1] []).strip? 2 = some (strip p)) ∧
      Turn (fabric [jam 0 (carry [none, tok 7, tok 1] [0, 1] [])]) place 0x82 (jam 0 (carry [none, tok 7, tok 1] [0, 1] [])) ∧
      Turn (fabric [carry [tok 6, none, none] [1] []]) place 0x82 (carry [tok 6, none, none] [1] []) ∧
      [1].length ≤ (carry [tok 6, none, none] [1] []).auxBits 0 4 ∧ (carry [tok 6, none, none] [1] []).strip? 1 = none) := by
  refine ⟨⟨turn_of (by decide +kernel), turn_of (by decide +kernel), by decide +kernel, by decide +kernel, by decide +kernel, turn_of (by decide +kernel), by decide +kernel⟩,
    ⟨turn_of (by decide +kernel), by decide +kernel, by decide +kernel, turn_of (by decide +kernel), by decide +kernel, by decide +kernel⟩,
    ⟨turn_of (by decide +kernel), by decide +kernel, by decide +kernel, by decide +kernel, turn_of (by decide +kernel), by decide +kernel, by decide +kernel, by decide +kernel⟩,
    ⟨turn_of (by decide +kernel), by decide +kernel, turn_of (by decide +kernel), by decide +kernel, turn_of (by decide +kernel), by decide +kernel⟩,
    turn_of (by decide +kernel),
    ⟨turn_of (by decide +kernel), by decide +kernel, by decide +kernel, turn_of (by decide +kernel), by decide +kernel, turn_of (by decide +kernel), by decide +kernel⟩,
    turn_of (by decide +kernel), ?_, ?_, turn_of (by decide +kernel), turn_of (by decide +kernel), by decide +kernel, by decide +kernel⟩
  · intro k
    match k with
    | 0 | 1 | 2 => rfl
    | k + 3 => rfl
  · simp only [List.forall_mem_cons, List.not_mem_nil, false_imp_iff, implies_true, and_true]
    exact ⟨⟨turn_of (by decide +kernel), by decide +kernel⟩, turn_of (by decide +kernel), by decide +kernel⟩
theorem test_steer_sides :
    sent (exec (.steer place) (routed [steer 1])) 0 = some (.data (strip 7)) ∧ sent (exec (.steer place) (routed [steer 0])) 1 = some (.data (strip 7)) := by
  decide +kernel
theorem test_delay_order : sent (exec (.delay place) (routed [delay (tok 6)])) 0 = some (.data (strip 4)) := by decide +kernel

/-- EOS in every latch. -/
def ending (op low n : Nat) (st : NodeSt) : FabUnit := unit op low 0 (List.replicate n (some .eos)) st
def leaving (loop : List Nat) (a b : Bool) : FabUnit := ending 0x82 (srcs 24 25 26 + 1) 3 (.carry loop [] 2 2 a b)
def controlled : State := { fabric [ending 0x83 (srcs 24 25 31) 1 .plain] with routes := [⟨1, 5, 0, .unit ⟨0, 2, 1, 0⟩ 3, 3, .unit place 1, [[]], [[]], none⟩] }

/-- A unit whose latch 0 a delay line feeds, with EOS in its other latches. -/
def trailing (op n : Nat) : FabUnit := unit op (srcs 24 25 31) 0 (none :: List.replicate n (some .eos)) .plain
def lineFed (op n : Nat) : State :=
  { fabric [trailing op n, { delay none with key := ⟨0, 2, 1, 0⟩ }] with
    routes := [⟨1, 5, 0, .unit ⟨0, 2, 1, 0⟩ 0, 0, .unit place 0, [[]], [[]], none⟩] }

theorem witness_StreamEnds :
    (Turn (fabric [ending 0x40 (srcs 24 25 31) 2 .plain]) place 0x40 (ending 0x40 (srcs 24 25 31) 2 .plain) ∧
      (∀ k ∈ (ending 0x40 (srcs 24 25 31) 2 .plain).reads, (fabric [ending 0x40 (srcs 24 25 31) 2 .plain]).fedByDelay place k = false ∧
        (ending 0x40 (srcs 24 25 31) 2 .plain).latch k = some .eos)) ∧
    (∀ e ∈ [(0x80, 2), (0x81, 3), (0x86, 2), (0x84, 1), (0x83, 2)], turns (fabric [ending e.1 0 e.2 .plain]) place e.1 (ending e.1 0 e.2 .plain) = true ∧
      ∀ k < e.2, (ending e.1 0 e.2 .plain).latch k = some .eos) ∧
    (∀ e ∈ [(0x40, 1), (0x80, 1), (0x81, 2), (0x86, 1), (0x83, 1)], turns (lineFed e.1 e.2) place e.1 (trailing e.1 e.2) = true ∧
      (trailing e.1 e.2).reads ⊆ [0, 1] ∧ (lineFed e.1 e.2).fedByDelay place 0 = true ∧ (trailing e.1 e.2).outFree 0 = true ∧
      (trailing e.1 e.2).outFree 1 = true ∧ ∀ k < e.2, (lineFed e.1 e.2).fedByDelay place (k + 1) = false ∧ (trailing e.1 e.2).latch (k + 1) = some .eos) ∧
    (turns controlled place 0x83 (ending 0x83 (srcs 24 25 31) 1 .plain) = true ∧ controlled.fedByControl place 1 = true ∧
      controlled.fedByDelay place 0 = false) ∧
    (∀ e ∈ [([], false, false), ([0], false, false), ([], true, false), ([], true, true)],
      turns (fabric [leaving e.1 e.2.1 e.2.2]) place 0x82 (leaving e.1 e.2.1 e.2.2) = true) ∧
    (unit 0x40 0 0 [some .bubble] .plain).latch 0 = some .bubble :=
  ⟨⟨turn_of (by decide +kernel), by decide +kernel⟩, by decide +kernel, by decide +kernel, by decide +kernel, by decide +kernel, rfl⟩

/-- A route of one hop from output 0 of `place` to latch 0 of another unit; tokens at its source and in its buffer. -/
def target (ins : List (Option Token)) : FabUnit := { unit 0x40 (srcs 24 25 31) 0 ins .plain with key := ⟨0, 2, 1, 0⟩ }
def hopping (l : List Token) (ins : List (Option Token)) : State :=
  { fabric [{ unit 0x40 0 0 [] .plain with outs := [⟨some (.data (strip 8)), [1]⟩] }, target ins] with routes := [{ route 1 0 with hops := [l], saved := [[]] }] }

theorem witness_TokenHops :
    (∀ l ∈ [[], [Token.eos], [.eos, .eos]],
      (hopping l []).routes.find? (fun r => r.id == 1) = some { route 1 0 with hops := [l], saved := [[]] } ∧
      (hopping l []).loopToken { route 1 0 with hops := [l], saved := [[]] } 0 = none ∧
      (hopping l []).hopToken { route 1 0 with hops := [l], saved := [[]] } 0 = some (.data (strip 8))) ∧
    (∀ ins ∈ [[none, none], [none, some .eos], [tok 1, none]],
      (hopping [.data (strip 2)] ins).hopToken { route 1 0 with hops := [[.data (strip 2)]], saved := [[]] } 1 = some (.data (strip 2)) ∧
      (hopping [.data (strip 2)] ins).unit? ⟨0, 2, 1, 0⟩ = some (target ins) ∧ (target ins).cut[0]? = some false ∧ (target ins).left = false ∧
      0 < (target ins).ins.length) ∧
    (target [none, none]).latch 0 = none ∧ (target [tok 1, none]).latch 0 = tok 1 ∧
    (hopping [.data (strip 2)] [none, some .eos]).mismatch { target [none, some .eos] with ins := [tok 2, some .eos] } = true := by
  decide +kernel

/-! Counters, controllers, memory nodes, locks, the matrix tile -/

theorem witness_CounterOrder :
    ([1, 0, 0, 0, 0, 0, 1].length = (List.replicate 7 2#32).length ∧ (∀ b ∈ List.replicate 7 2#32, 0 < b.toNat) ∧
      mixed (List.replicate 7 2#32) [1, 0, 0, 0, 0, 0, 1] + 1 < product (List.replicate 7 2#32)) ∧
    mixed (List.replicate 7 2#32) (List.replicate 7 1) + 1 = product (List.replicate 7 2#32) := by
  simp [mixed, product, List.replicate]
theorem test_counter_carries : Nest.advance ⟨[2#32, 3#32], [1, 1], []⟩ = (⟨[2#32, 3#32], [0, 2], []⟩, 1, false) := by decide

def counter (use : Nat) (ready on : Bool) (runs want : Nat) (ends : List (Nat × Nat)) (marks : List Nat) (fin : Bool) : FabUnit :=
  unit 0x87 0 0 [] (.ctr use [2#32, 3#32] [1, 0] [] 1 0 ready on runs want ends marks fin)

/-- A controller at `place` with two children, slots 1 and 2 of its tile, its counter in slot 3, and ROOT (R154). -/
def controller (op : Nat) (st : NodeSt) : FabUnit :=
  unit op 0 (BitVec.ofNat _ (1 + 2 ^ 16 + (2 + 2 ^ 16) * 2 ^ 17 + (3 + 2 ^ 16) * 2 ^ 136 + 2 ^ 153 + 2 ^ 157)) [] st
def child (k : Nat) : FabUnit := { unit 0x88 0 0 [] (.ctl 0 false 0 [] [] 0 false false) with key := ⟨0, 1, 1, k⟩ }
def counting (ready on : Bool) : FabUnit := { counter 1 ready on 0 0 [] [] false with key := ⟨0, 1, 1, 3⟩ }
def nest (c f : FabUnit) : State := fabric [f, child 1, child 2, c]
/-- A controller in slot 4 whose one child is `place`. -/
def above : FabUnit := { unit 0x88 0 (BitVec.ofNat _ (2 ^ 16 + 2 ^ 153)) [] (.ctl 0 true 1 [1] [0] 0 false false) with key := ⟨0, 1, 1, 4⟩ }

/-- The child that `f` next sends its permit, whether it starts an iteration, and whether it has none left. -/
def next (s : State) (f : FabUnit) : Option Nat × Bool × Bool :=
  match f.st with
  | .ctl _ _ iter sent dones _ _ _ =>
    ((List.range sent.length).find? fun j => j != 0 && f.mayPermit iter sent dones j, (s.iterState f iter).1 && f.mayStart iter dones, (s.iterState f iter).2)
  | _ => (none, false, false)

theorem witness_CounterTurns :
    (∀ f ∈ [counter 0 true true 0 0 [(1, 1)] [] false, counter 2 false false 0 0 [] [0] false, counter 0 true true 0 0 [] [] false,
        counter 1 true true 0 1 [] [] false, counter 1 true true 0 0 [] [] false, counter 0 false false 1 0 [] [] false,
        counter 0 false false 0 0 [] [] true],
      turns (fabric [f]) place 0x87 f = true ∧ f.outFree 0 = true ∧ f.outFree 3 = true ∧ f.ended = false) ∧
    (∀ op ∈ [0x88, 0x89, 0x8A], ∀ e ∈ [(true, NodeSt.ctl 1 false 0 [0, 0] [0, 0] 0 false false), (true, .ctl 0 true 0 [0, 0] [0, 0] 0 false false),
        (true, .ctl 0 true 1 [1, 0] [1, 0] 0 false false), (false, .ctl 0 true 1 [1, 1] [1, 1] 0 true false), (false, .ctl 0 false 0 [] [] 0 true false)],
      let f := controller op e.2
      let s := nest (counting e.1 e.1) f
      turns s place op f = true ∧ f.bound = some ⟨0, 1, 1, 3⟩ ∧ f.kids = [⟨0, 1, 1, 1⟩, ⟨0, 1, 1, 2⟩] ∧ f.kids.Nodup ∧ f.outFree 3 = true ∧
      s.parentOf place = none ∧ fieldN f.frame 157 1 = 1 ∧ s.inst? 5 ≠ none) ∧
    (∀ op ∈ [0x88, 0x89], (next (nest (counting true true) (controller op (.ctl 0 true 1 [1, 0] [1, 0] 0 false false)))
      (controller op (.ctl 0 true 1 [1, 0] [1, 0] 0 false false))).1 = some 1) ∧
    (∀ op ∈ [0x88, 0x89, 0x8A], let f := controller op (.ctl 0 true 0 [0, 0] [0, 0] 0 false false)
      (next (nest (counting true true) f) f).1 = none ∧ (next (nest (counting true true) f) f).2.1 = true ∧
      let g := controller op (.ctl 0 true 1 [1, 1] [1, 1] 0 true false)
      let s := fabric [g, child 1, child 2, counting false false, above]
      next s g = (none, false, true) ∧ next (nest (counting false false) g) g = (none, false, true) ∧
      turns s place op g = true ∧ s.parentOf place = some above ∧ s.unit? above.key = some above) := by
  decide +kernel
theorem test_index_token :
    sent (exec (.ctr place) (routed [counter 0 true true 0 0 [] [] false])) 0 =
      some (.data (ofLanes [1#32, 0#32, 0#32, 0#32, 0#32, 0#32, 0#32, 1#32, 1#32])) := by decide +kernel

/-- An address program of two offsets, 0 and 512 (R276), at its first and its last. -/
def program : Payload := BitVec.ofNat _ (2 * 2 ^ 40 + 512 * 2 ^ 56)
def walking (op low : Nat) (i : Nat) (q : Nat) (us : List RefUnit) (rs : List Nat) (ins : List (Option Token)) : FabUnit :=
  unit op low program ins (.prog ⟨decide (i < 2), i % 2, 0, 0, 0⟩ us 0 rs q false false false)
def loader (low q : Nat) (us : List RefUnit) (rs : List Nat) (ins : List (Option Token)) : FabUnit := walking 0xC1 low 0 q us rs ins
def banked (s : State) : State := { s with bankToks := [⟨tile, 5, 0, 1, false⟩, ⟨tile, 5, 1, 1, false⟩] }
def poisonAt (s : State) : State := { s with poison := [tile.mem 0] }

theorem witness_AddressAndLoads :
    (∀ i < 2, turns (fabric [walking 0xC0 4 i 0 [] [] [none]]) place 0xC0 (walking 0xC0 4 i 0 [] [] [none]) = true ∧
      (fabric []).mayIssue (walking 0xC0 4 i 0 [] [] [none]) tile (512 * i) = true ∧
      progOffset program 22 ⟨true, i, 0, 0, 0⟩ = 512 * i) ∧
    (∀ f ∈ [loader 4 0 [] [] [none, none], loader 0 0 [] [] [tok 512, none], loader 0 0 [] [] [tok 8, none], loader 4 1 [] [] [none, none],
        loader 4 0 [⟨[0, 512], [0, 0], true⟩] [] [none, some (.doneTok 0x40000000#32)], loader 4 0 [] [] [none, some (.doneTok 0x40000000#32)],
        loader 4 0 [⟨[0, 512], [0, 0], false⟩] [] [none, some (.doneTok 0x40000000#32)], loader 4 0 [⟨[0, 512], [0, 0], true⟩] [0, 512] [none, none],
        loader 4 0 [⟨[0, 512], [0, 0], true⟩] [] [none, some (.doneTok 0#32)], loader 0x1004 0 [⟨[0, 512], [0, 0], true⟩] [] [none, some (.doneTok 0#32)],
        loader 0x14 0 [⟨[0, 512], [0, 0], true⟩] [] [none, some .eos], loader 0x14 0 [⟨[0, 512], [0, 0], false⟩] [] [none, some .eos]],
      (∀ s ∈ [fabric [f], banked (fabric [f]), poisonAt (fabric [f])], turns s place 0xC1 f = true) ∧ f.outFree 0 = true ∧ f.outFree 2 = true ∧
      (fabric [f]).bankGone ((fabric [f]).ldPool f) 5 0 0 = false ∧ (banked (fabric [f])).bankGone ((banked (fabric [f])).ldPool f) 5 0 0 = true ∧
      (fabric [f]).poisoned (tile.mem 0) 512 = false ∧ (poisonAt (fabric [f])).poisoned (tile.mem 0) 512 = true ∧
      (fabric [f]).bubbleDue f.sent = false ∧ (fabric [f]).helds = []) ∧
    (FabUnit.unitOffs (loader 4 0 [] [] []) ⟨false, 0, 0, 0, 0⟩ [] = [] ∧ FabUnit.unitOffs (loader 4 0 [] [] []) ⟨true, 0, 0, 0, 0⟩ [] = [0, 512] ∧
      ((loader 4 0 [] [] []).agv && (⟨true, 0, 0, 0, 0⟩ : Walk).running) = true ∧ ((loader 4 0 [] [] []).agv && (⟨false, 0, 0, 0, 0⟩ : Walk).running) = false) ∧
    (∀ b, (fabric []).tooLong (loader 4 0 [] [] []) ⟨[0, 512], [0, 0], b⟩ = !b) ∧ (fabric []).loadFault (loader 4 0 [] [] []) tile 0 = none ∧
    (loader 0x14 0 [] [] []).ref = true ∧ (loader 4 0 [] [] []).agv = true ∧ (loader 0x1004 0 [] [] []).pps = 2 ∧
    (progTotal program = 2 ∧ ∀ j < 4, [1, 0, 0, 0].getD j 0 < progIters program j) := by
  decide +kernel
theorem test_ldn_reads_tile :
    sent (exec (.ldn place) { routed [loader 0 0 [] [] [tok 512, none]] with mem := memPut [] (tile.mem 512) [0xA5#8] }) 0 = some (.data (strip 0xA5)) := by
  decide +kernel

/-- Stores: a strip and its offset, or a program; the head of a leaf at slot 1 that sends to the store. -/
def storing (low i : Nat) (a : Nat) : FabUnit := walking 0xC2 low i 0 [] [] [tok a, tok 7]
def head : FabUnit := { counter 2 true true 0 0 [] [] false with key := ⟨0, 1, 1, 1⟩ }
def leafed (f : FabUnit) (n run : Nat) : State :=
  { fabric [f, head] with
    routes := [⟨1, 5, 0, .unit ⟨0, 1, 1, 1⟩ 0, 0, .unit place 1, [[]], [[]], none⟩],
    helds := List.replicate n ⟨place.tile, 5, ⟨0, 1, 1, 1⟩, run, place, 0, strip 0⟩ }
def ring (count : Nat) (v : Option Token) : FabUnit := unit 0xC2 8 program [none, v] (.ring 0 count false)
def updating (low : Nat) (v : Option Token) : FabUnit := unit 0xC3 low 0 [tok 12, tok 3, v] .plain

theorem witness_MemoryStores :
    (∀ f ∈ [storing 4 0 0, storing 4 1 0, storing 4 2 0, storing 0 0 512, storing 0 0 8],
      (∀ s ∈ [fabric [f], banked (fabric [f])], turns s place 0xC2 f = true) ∧ f.elastic = false ∧ f.outFree 2 = true ∧ f.strip? 1 = some (strip 7) ∧
      (fabric [f]).leafOf f = none) ∧
    (∀ e ∈ [(0, 0), (255, 0), (256, 0), (256, 1)], turns (leafed (storing 0 0 512) e.1 e.2) place 0xC2 (storing 0 0 512) = true ∧
      (leafed (storing 0 0 512) e.1 e.2).leafOf (storing 0 0 512) = some ⟨0, 1, 1, 1⟩) ∧
    (∀ f ∈ [ring 1 none, ring 0 (tok 7), ring 1 (tok 7), jam 0 (ring 2 none)], turns (fabric [f]) place 0xC2 f = true ∧ progTotal f.frame = 2 ∧
      (fabric [f]).mayIssue f tile 512 = true) ∧
    (∀ f ∈ [updating 0 none, updating 0x18 (tok 4)], ∀ s ∈ [fabric [f], banked (fabric [f]), poisonAt (poisonAt (fabric [f]))],
      turns s place 0xC3 f = true ∧ f.outFree 0 = true ∧ f.outFree 2 = true) := by
  decide +kernel
theorem test_stn_stores : after (exec (.stn place) (fabric [storing 0 0 512])) (fun t => t.num (tile.mem 512) 1 == 7 && t.num (tile.mem 513) 1 == 0) = true := by
  decide +kernel

/-- A bankpass of banks 0 and 1; the second bank has gone on, or none has. -/
def passing : FabUnit := unit 0xC4 3 0 [tok 0] .plain
def placed (pos : Nat) : State :=
  { fabric [passing] with bankToks := [⟨tile, 5, 1, pos, true⟩], confs := [⟨tile, 5, [0, 1]⟩] }
def awaiting : State := { placed 0 with bankToks := [⟨tile, 5, 1, 0, false⟩] }
def keeper (held : List Nat) (a b : Option Token) : FabUnit := unit 0xC5 0 0 [a, b] (.lk held none)
def latched (f : FabUnit) (p : List LockTok) : State := { fabric [f] with locks := p }

theorem witness_BanksAndLocks :
    (turns (placed 0) place 0xC4 passing = true ∧ passing.latch 0 = tok 0 ∧ (placed 0).poolOf passing (passing.auxBits 16 1 == 1) (passing.auxBits 17 6) = tile ∧
      (∀ b < 2, (placed 0).bankDrained passing tile b = true ∧ (placed 0).bankHere tile 5 0 b = true) ∧
      turns (placed 1) place 0xC4 passing = true ∧ (placed 1).bankHere tile 5 0 1 = false ∧ (placed 1).bankGone tile 5 0 1 = true ∧
      (∀ b < 2, (placed 1).bankDrained passing tile b = true) ∧
      turns awaiting place 0xC4 passing = true ∧ awaiting.bankHere tile 5 0 1 = false ∧ awaiting.bankGone tile 5 0 1 = false) ∧
    (∀ s ∈ [latched (keeper [] (tok 8) none) [], latched (keeper [] (tok 8) none) [⟨tile, 1, .thread 9⟩], latched (keeper [1] (tok 8) none) [⟨tile, 1, .sub 5 place⟩],
        latched (keeper ((List.range 16).map (· + 2)) (tok 8) none) [],
        latched (keeper [1] none (tok 8)) [⟨tile, 1, .sub 5 place⟩], latched (keeper [] none (tok 8)) []],
      ∀ f, s.units.head? = some f → turns s place 0xC5 f = true ∧ f.outFree 0 = true ∧ s.waits = []) ∧
    lockHash (offsetOf (strip 8)) = 1 := by
  refine ⟨by decide +kernel, ?_, by decide +kernel⟩
  simp only [List.forall_mem_cons, List.not_mem_nil, false_imp_iff, implies_true, and_true]
  refine ⟨?_, ?_, ?_, ?_, ?_, ?_⟩ <;> (intro f hf; cases hf; decide +kernel)
theorem test_lkpool_releases :
    after (exec (.lkpoolRelease place) (latched (keeper [1] none (tok 8)) [⟨tile, 1, .sub 5 place⟩])) (fun t => t.locks == []) = true := by decide +kernel

/-- A matrix tile: its mmac with `rungs` rungs of bf16 channels, another unit of it, and what the tile holds. -/
def mmac (rungs : Nat) (n : Nat) (ends : List (Nat × Nat)) (e : Option Token) : FabUnit :=
  { unit 0xB2 0 (BitVec.ofNat _ rungs) [none, e, none] (.mmac n 0 0 false false ends false) with key := ⟨0, 1, 1, 2⟩ }
def blankTile : MTile := ⟨place.tile, 5, 0, .empty, .empty, [], [], [], .opened, false, [], [], false, false, false, false, []⟩
def matrix (us : List FabUnit) (m : MTile) : State :=
  { fabric us with mtiles := [m], residents := [⟨5, 0, 0, 0, 0, false, [1#16], [0x3F800000#32], [], [], [], 0⟩] }
def mloading (st : NodeSt) (a b : Option Token) : FabUnit := unit 0xB0 0 0 [a, b] st
def mswapping (low n : Nat) (ends : List (Nat × Nat)) (a b : Option Token) : FabUnit := unit 0xB1 low 0 [a, b] (.mswap n false ends)
def slab : BReg := ⟨List.replicate 64 (strip 0), 0, true⟩

/-- An mswap to which a counter has an end token of position 3 still to send. -/
def marked : State :=
  { matrix [mswapping 0 3 [] (tok 1) none, { counter 0 true true 0 0 [(1, 3)] [] false with key := ⟨0, 1, 1, 5⟩ }] blankTile with
    routes := [⟨1, 5, 0, .unit ⟨0, 1, 1, 5⟩ 3, 3, .unit place 1, [[]], [[]], none⟩] }

theorem slab_size : ((matrix [mmac 1 0 [] none] blankTile).geom (mmac 1 0 [] none)).slabStrips = 64 := by decide +kernel

theorem witness_MatrixFeeding :
    (∀ e ∈ [(mloading (.mload false false 0) (tok 1) none, BReg.empty), (mloading (.mload false false 0) (tok 1) none, ⟨List.replicate 63 (strip 0), 0, false⟩),
        (mloading (.mload false false 0) (tok 1) none, slab), (mloading (.mload false false 0) none (tok 1), .empty),
        (mloading (.mload false false 0) (some .eos) none, ⟨[strip 0], 0, false⟩), (mloading (.mload false false 0) (some .eos) none, .empty)],
      turns (matrix [e.1, mmac 1 0 [] none] { blankTile with loading := e.2 }) place 0xB0 e.1 = true ∧
      (matrix [e.1, mmac 1 0 [] none] blankTile).fed place 1 = false) ∧
    ((matrix [mloading (.mload false false 0) (tok 1) none, mmac 1 0 [] none] blankTile).geom (mloading (.mload false false 0) (tok 1) none)).badGroup [] = none ∧
    (turns (matrix [mloading (.mload false false 0) (tok 1) none, mmac (1 + 2 ^ 85) 0 [] none] { blankTile with loading := ⟨List.replicate 35 (strip 0), 0, false⟩ })
        place 0xB0 (mloading (.mload false false 0) (tok 1) none) = true ∧
      let g := (matrix [mloading (.mload false false 0) (tok 1) none, mmac (1 + 2 ^ 85) 0 [] none] blankTile).geom (mloading (.mload false false 0) (tok 1) none)
      g.slabStrips = 36 ∧ g.badGroup (List.replicate 35 (strip 0) ++ [strip 1]) ≠ none) ∧
    (let l := mloading (.mload false false 0) none (tok 1)
      let m : MTile := { blankTile with pass := .replay 0 0 0 0 true 0 [] [] Counts.zero, refetch := List.replicate 35 (strip 0) }
      let s := matrix [l, mmac (1 + 2 ^ 85) 0 [] none] m
      turns s place 0xB0 l = true ∧ m.awaits (s.geom l).slabStrips false = true ∧ (s.geom l).badGroup (m.refetch ++ [strip 1]) ≠ none) ∧
    (turns marked place 0xB1 (mswapping 0 3 [] (tok 1) none) = true ∧ marked.endLate place 1 3 = true ∧
      ({ blankTile with pass := .replay 0 0 0 0 true 0 [] [] Counts.zero } : MTile).awaits 64 false = true ∧ blankTile.awaits 64 false = false) ∧
    (∀ e ∈ [(mswapping 8 0 [] none none, []), (mswapping 0 3 [(1, 3)] none none, []), (mswapping 0 3 [] (tok 1) none, []), (mswapping 0 3 [] (some .eos) none, []),
        (mswapping 0 3 [] none (some (.endTok 1 3)), [PathItem.mark, .mark])],
      turns (matrix [e.1] { blankTile with path := e.2 }) place 0xB1 e.1 = true ∧ e.1.ended = false) ∧
    (∀ e ∈ [({ blankTile with path := [.mark], loading := slab }, none), ({ blankTile with path := [.mark] }, none),
        ({ blankTile with path := [.mark], aStrips := [strip 0] }, none), ({ blankTile with path := [.strip (strip 1)] }, none), ({ blankTile with path := [.eos] }, none),
        ({ blankTile with path := [.strip (strip 1)], active := slab, aStrips := List.replicate 63 (strip 0) }, none),
        ({ blankTile with path := [.strip (strip 1)], active := slab, aStrips := List.replicate 64 (strip 0) }, none),
        ({ blankTile with path := [.strip (strip 1)], active := slab, aStrips := List.replicate 64 (strip 0), lost := true }, none), (blankTile, some (Token.endTok 1 3))],
      turns (matrix [mmac 1 0 [] e.2, mloading (.mload true false 0) none none] e.1) ⟨0, 1, 1, 2⟩ 0xB2 (mmac 1 0 [] e.2) = true ∧
      (matrix [mmac 1 0 [] e.2, mloading (.mload true false 0) none none] e.1).mtile? ⟨0, 1, 1⟩ = some e.1) ∧
    ((matrix [mmac 1 0 [] none] blankTile).geom (mmac 1 0 [] none)).rowsIn 64 ≤ 64 ∧ 64 < ((matrix [mmac 1 0 [] none] blankTile).geom (mmac 1 0 [] none)).rowsIn 129 := by
  decide +kernel

/-! Passes, phases, the binder, engines, attention, cuts and kills -/

def accumulator (op aux : Nat) (a : Nat) : FabUnit := unit op aux 0 [tok a, tok 0x3F800000] .plain
def replaying (sent : Bool) : MTile := { blankTile with pass := .replay 0 0 0 0 sent 0 [] [] Counts.zero, refetch := List.replicate 64 (strip 0) }

/-- A tile whose first rung is e4m3 and whose second is bf16, A in bf16; its row holds a value that e4m3 saturates (R76,
R78). -/
def ladder : FabUnit :=
  { unit 0xB2 (2 ^ 11) (BitVec.ofNat _ (2 + 2 ^ 12 + 2 ^ 17)) [none, none, none] (.mmac 2 0 0 false false [(1, 2)] false) with key := ⟨0, 1, 1, 2⟩ }
def laddered : State :=
  { fabric [ladder] with
    mtiles := [{ blankTile with aStrips := [strip 0x7F7F, strip 0], active := slab }],
    residents := [⟨5, 0, 0, 0, 0, false, [3#16, 1#16], [0x3F800000#32], [], [], [], 0⟩] }

theorem witness_MatrixReplays :
    turns laddered ⟨0, 1, 1, 2⟩ 0xB2 ladder = true ∧ ladder.commitReady = true ∧ (laddered.geom ladder).rowsIn 2 = 1 ∧
      let zeros : List (List W32) := List.replicate 1 (List.replicate (laddered.geom ladder).ns 0#32)
      let x := (laddered.geom ladder).subPass 0 0 0 1 [strip 0x7F7F, strip 0] slab.strips zeros zeros
      (laddered.geom ladder).overBudget 0 { x.2.2 with canc := (laddered.geom ladder).cancellations x.1 x.2.1 } = true := by
  decide +kernel

/-- The second rung's slab has come again whole. -/
def refetched : State :=
  { laddered with mtiles := [{ blankTile with pass := .replay 1 1 0 0 true 1 [] [] Counts.zero, refetch := List.replicate (laddered.geom ladder).slabStrips (strip 0) }] }

/-- A pass with rows that a fault has discarded, and one of a leaf whose head has faulted in its run. -/
def discarded : State := matrix [mmac 1 1 [(1, 1)] none] { blankTile with aStrips := [strip 0x3F80], active := slab, lost := true }
def inLeaf : State :=
  { matrix [mmac 1 1 [(1, 1)] none, { head with dead := true }] { blankTile with aStrips := [strip 0x3F80], active := slab } with
    routes := [⟨1, 5, 0, .unit ⟨0, 1, 1, 1⟩ 0, 0, .unit ⟨0, 1, 1, 2⟩ 0, [[]], [[]], none⟩] }

theorem witness_MatrixPasses :
    (turns discarded ⟨0, 1, 1, 2⟩ 0xB2 (mmac 1 1 [(1, 1)] none) = true ∧ turns inLeaf ⟨0, 1, 1, 2⟩ 0xB2 (mmac 1 1 [(1, 1)] none) = true ∧
      inLeaf.runLost (mmac 1 1 [(1, 1)] none) = true ∧
      ∀ m, (matrix [mmac 1 1 [(1, 1)] none] m).runLost (mmac 1 1 [(1, 1)] none) = false) ∧
    (∀ l ∈ [[], [strip 0x3F80]],
      turns (matrix [mmac 1 1 [(1, 1)] none] { blankTile with aStrips := l, active := slab }) ⟨0, 1, 1, 2⟩ 0xB2 (mmac 1 1 [(1, 1)] none) = true ∧
      ((matrix [mmac 1 1 [(1, 1)] none] blankTile).geom (mmac 1 1 [(1, 1)] none)).rowsIn l.length = l.length) ∧
    ((mmac 1 1 [(1, 1)] none).commitReady = true ∧ slab.full = true ∧
      ∀ c : Counts, ((matrix [mmac 1 1 [(1, 1)] none] blankTile).geom (mmac 1 1 [(1, 1)] none)).overBudget 0 c = false) ∧
    (∀ b, turns (matrix [mmac 1 1 [] none] (replaying b)) ⟨0, 1, 1, 2⟩ 0xB2 (mmac 1 1 [] none) = true ∧ (mmac 1 1 [] none).arep = false ∧
      (mmac 1 1 [] none).outFree 3 = true) ∧
    (∀ e ∈ [(false, slab), (true, slab), (false, BReg.empty)], turns (matrix [mmac 1 1 [(1, 1)] none] { blankTile with aStrips := [strip 0x3F80], active := e.2, badActive := e.1 })
      ⟨0, 1, 1, 2⟩ 0xB2 (mmac 1 1 [(1, 1)] none) = true ∧ ({ blankTile with badActive := e.1 } : MTile).slotBad false 0 = false) ∧
    (turns refetched ⟨0, 1, 1, 2⟩ 0xB2 ladder = true ∧ ladder.arep = false ∧ ladder.commitReady = true ∧ 0 + 1 < (refetched.geom ladder).nK 1 ∧
      (refetched.geom ladder).badGroup (List.replicate (refetched.geom ladder).slabStrips (strip 0)) = none) ∧
    (∀ op ∈ [0xB3, 0xB4], ∀ e ∈ [(0, 63), (64, 63), (16, 63)],
      turns (matrix [accumulator op e.1 e.2] { blankTile with badSlots := [0] }) place op (accumulator op e.1 e.2) = true ∧
      ({ blankTile with badSlots := [0] } : MTile).slotBad (e.1 == 16) 0 = true) ∧
    (∀ op ∈ [0xB3, 0xB4, 0xB5], ∀ e ∈ [(0, 63), (16, 64 + 63), (16 + 32 + 64, 2 ^ 32 + 1)],
      turns (matrix [accumulator op e.1 e.2] blankTile) place op (accumulator op e.1 e.2) = true ∧ (accumulator op e.1 e.2).outFree 0 = true ∧
      (matrix [accumulator op e.1 e.2] blankTile).slotsWait (accumulator op e.1 e.2) = false ∧
      (matrix [accumulator op e.1 e.2, mmac 1 1 [] none] (replaying false)).slotsWait (accumulator op e.1 e.2) = true) := by
  refine ⟨⟨by decide +kernel, by decide +kernel, by decide +kernel, fun _ => rfl⟩, by decide +kernel, ⟨by decide +kernel, by decide +kernel, fun c => ?_⟩, by decide +kernel, by decide +kernel, by decide +kernel, by decide +kernel, by decide +kernel⟩
  have h : ((matrix [mmac 1 1 [(1, 1)] none] blankTile).geom (mmac 1 1 [(1, 1)] none)).rungs = 1 := by decide +kernel
  simp [Geom.overBudget, h]
theorem test_accwr_adds :
    after (exec (.accwr place) (matrix [accumulator 0xB4 64 63] { blankTile with slots := [(4032, 0x3F800000#32)] })) (fun t =>
      (t.mtiles.map fun m => m.slots) == [[(4032, 0x40000000#32)]]) = true := by decide +kernel

def port (q : List Token) (eos : Bool) : InPort := ⟨5, 0, 0, q, [], ⟨none, []⟩, 0, eos, false, []⟩
def phase (f : Inst → Inst) (us : List FabUnit) (ps : List InPort) (hs : List Held) : State :=
  { fabric us with insts := [f { thread with active := true, folios := [(0, none)], rootDone := true }], ports := ps, helds := hs }
def pusher (i : Inst) : Inst := { i with handles := { pushing 1 with q := [.data (strip 1)] } :: List.replicate 15 Handle.free }

/-- A leaf head alone in its leaf, with run 0 over and its marker sent and passed. -/
def doneHead (passed : Nat) : FabUnit := { unit 0x87 0 0 [] (.ctr 2 [] [] [] 0 1 false false 0 0 [] [] false) with passed := passed }
def sink (ended : Bool) : FabUnit := { unit 0x40 0 0 [] .plain with ended := ended }

/-- Its quires as `q` says and MCCFG `c`; its folio stands at quire r. -/
def onQuires (q : Nat) (c : Nat) (r : Nat) : State :=
  { phase pusher [] [port [] false] [] with
    parts := { Part.reset with quires := BitVec.ofNat 32 q, mccfg := BitVec.ofNat 64 c } :: List.replicate 31 Part.reset,
    residents := [⟨5, 0, r, 0, 0, false, [], [], [], [], [], 0⟩] }

theorem witness_PhasesAndLeaves :
    (∀ e ∈ [(0, false), (63, false), (64, false), (0, true)],
      (phase pusher [] [port (List.replicate e.1 .eos) e.2] []).inst? 5 = some (pusher { thread with active := true, folios := [(0, none)], rootDone := true }) ∧
      (phase pusher [] [port (List.replicate e.1 .eos) e.2] []).port? 5 0 0 = some (port (List.replicate e.1 .eos) e.2) ∧
      (phase pusher [] [port (List.replicate e.1 .eos) e.2] []).inPhase 5 0 = true) ∧
    (∀ e ∈ [(1, 0, 0), (1, 0, 1), (3, 1 + 2 ^ 11, 1)], (onQuires e.1 e.2.1 e.2.2).folioQuire 5 0 = e.2.2 ∧ (onQuires e.1 e.2.1 e.2.2).inPhase 5 0 = true ∧
      (onQuires e.1 e.2.1 e.2.2).transits = [] ∧ (onQuires e.1 e.2.1 e.2.2).pathOpen 0 0 e.2.2 = (e.1 != 1 || e.2.2 == 0) ∧
      ((onQuires e.1 e.2.1 e.2.2).part 0).crosses 0 e.2.2 = (e.1 == 3) ∧
      ((onQuires e.1 e.2.1 e.2.2).part 0).spent (((onQuires e.1 e.2.1 e.2.2).part 0).source 0 e.2.2) 0 = false) ∧
    ((halves true).crosses 0 1 = true ∧ (halves true).spent ((halves true).source 0 1) 0 = true) ∧
    ((fabric [doneHead 0]).unit? place = some (doneHead 0) ∧ (doneHead 0).isHead = true ∧
      (doneHead 0).halted = false ∧ (doneHead 0).markSent 0 = true ∧ (fabric [doneHead 0]).leafSinks place = [] ∧ (fabric [doneHead 0]).leafSet place ⊆ [place] ∧
      (doneHead 1).markSent 1 = false) ∧
    (∀ b, ((phase id [sink b] [] []).inst? 5).map (fun i => (i.active, i.rootDone, i.folios)) = some (true, true, [(0, none)]) ∧
      (phase id [sink b] [] []).isSink (sink b) = true) := by
  refine ⟨by decide +kernel, by decide +kernel, ⟨by decide +kernel, ?_⟩, by decide +kernel, fun b => ?_⟩
  · simp only [Part.spent, show (halves true).retiring.isSome = true from rfl, Bool.true_and, decide_eq_true_eq]
    exact halves_used _ (halves_source _ _) 0 (by decide)
  cases b <;> decide +kernel
theorem test_leaf_stores_at_done :
    after (exec (.leafDone place) (phase id [doneHead 0] [] [⟨⟨0, 2, 1⟩, 5, place, 0, place, 0, strip 9⟩]))
      (fun t => t.helds == [] && t.mem == [(tileMem ⟨0, 2, 1⟩ 0, 9#8)]) = true := by
  decide +kernel

/-- The image's folio is named and not resident; its header may be wrong. -/
def named (i : Inst) : Inst := { i with named := [(0, none)] }
def broken : State := { imaged named with mem := memPut [] (tile.mem 0x600) (rooted.set 0 1#8) }
def misshapen : List Byte := rooted.set 6 0xC0#8

/-- A sixth frame that no folio header announces. -/
def longer (i : Inst) : Inst := { i with named := [(0, none)], header := i.header ||| 0x60#4096 <<< 672 }
def overlong : State := { imaged longer with mem := memPut [] (tile.mem 0x600) (rooted ++ node 1 9 0x87 31 24) }

theorem witness_BinderLoads :
    ((imaged named).inst? 5 = some (named imager) ∧ (imaged named).resident? 5 0 = none ∧ (named imager).state = .run ∧ (named imager).active = false ∧
      (named imager).namedPin 0 = some none ∧ reads ((imaged named).folio (named imager) 0) (folioOf rooted) = true ∧ (folioOf rooted).id = 0 ∧
      (imaged named).plan (named imager) (folioOf rooted) none false = some ([], [(0, 0)]) ∧ (named imager).region[0]? = some (0, 0) ∧
      ((imaged named).part (named imager).part).conf = false ∧ folioFault (folioOf rooted) 0 ((imaged named).scratch (named imager).part).length = none ∧
      (named imager).foldSaves = []) ∧
    ((imaged named).framesMatch (named imager).device (named imager).image (named imager).header 0 = true ∧
      overlong.framesMatch (longer imager).device (longer imager).image (longer imager).header 0 = false ∧
      reads (overlong.folio (longer imager) 0) (folioOf rooted) = true ∧
      overlong.plan (longer imager) (folioOf rooted) none false = some ([], [(0, 0)])) ∧
    ((folioOf misshapen).id = 0 ∧ (folioFault (folioOf misshapen) 0 0).isSome = true) ∧
    ((imaged id).inPhase 5 0 = false ∧ imager.named = []) ∧
    ({ imaged named with residents := [⟨5, 0, 0, 0, 0, false, [], [], [], [], [], 0⟩] } : State).resident? 5 0 ≠ none := by
  decide +kernel

/-- A stream of requests on handle 0, in an active phase: a copy, a fill, a bad copy, one that does not translate. -/
def request (member : Nat) (desc pos : Nat) (started : Bool) : Request :=
  { Request.new 3 member (BitVec.ofNat 512 desc) 7#64 false false true with pos := pos, started := started }
def engine (rs : List Request) : State :=
  { base with insts := [{ thread with active := true, handles := { Handle.free with bind := .engine 0, reqs := rs } :: List.replicate 15 Handle.free }] }
def copyDesc (src len : Nat) : Nat := 0x00F0000000000400 + src * 2 ^ 64 + len * 2 ^ 128

/-- A copy from a tile in the other part of its partition (`halves`), whose channels are used up. -/
def stretched (rs : List Request) : Inst :=
  { thread with region := [(0, 0), (1, 0)], active := true, handles := { Handle.free with bind := .engine 0, reqs := rs } :: List.replicate 15 Handle.free }
def acrossInst : Inst := stretched [request 0 (copyDesc 0x00F0000001000800 512) 0 true]
def across : State := { base with parts := parted true, insts := [acrossInst] }
/-- A request token at an in port of the folio, an engine stream with n requests. -/
def requesting (n : Nat) : State :=
  { base with
    insts := [{ thread with active := true, handles := { Handle.free with bind := .engine 0, reqs := List.replicate n (request 0 0 0 true) } :: List.replicate 15 Handle.free }],
    routes := [{ route 1 0 with dst := .port 0 0, hops := [[.data (strip 1)]] }] }

theorem witness_EngineSteps :
    (∀ r ∈ [request 0 (copyDesc 0x00F0000000000800 1024) 0 false, request 0 (copyDesc 0x00F0000000000800 1023) 0 false,
        request 0 (copyDesc 0x00F0000000000800 0) 0 false, request 0 (copyDesc 0x00F0000000000800 1024) 512 true,
        request 0 (copyDesc 0x00F0000000000800 1024) 1024 true,
        request 3 (copyDesc 0x1122334455667788 512) 0 true, request 0 (copyDesc 0x00F0000040000800 512) 0 true],
      ∃ i, (engine [r]).inst? 5 = some i ∧ i.region ≠ [] ∧ (∃ a, i.handles[0]? = some a ∧ a.reqs[0]? = some r ∧ a.mayStart r = true ∧
        ∀ x ∈ a.reqs, x.told = false ∧ x.resp = none)) ∧
    ((engine [request 0 (copyDesc 0x00F0000000000800 1024) 0 false]).requestOk thread (request 0 (copyDesc 0x00F0000000000800 1024) 0 false) = true ∧
      (engine [request 0 (copyDesc 0x00F0000000000800 1023) 0 false]).requestOk thread (request 0 (copyDesc 0x00F0000000000800 1023) 0 false) = false ∧
      (engine [request 0 (copyDesc 0x00F0000000000800 0) 0 false]).requestOk thread (request 0 (copyDesc 0x00F0000000000800 0) 0 false) = true ∧
      (request 0 (copyDesc 0x00F0000000000800 0) 0 false).total = 0) ∧
    (∀ l, (engine l).resolve thread.who .load 0x00F0000000000A00#64 = .ok (.win tile 0xA00) (engine l) ∧
      (engine l).resolve thread.who .store 0x00F0000000000600#64 = .ok (.win tile 0x600) (engine l) ∧
      ∃ x, (engine l).resolve thread.who .load 0x00F0000040000800#64 = .trap x (engine l)) ∧
    (∀ l, (engine l).poisoned (tile.mem 0xA00) 512 = false ∧
      ({ engine l with poison := [tile.mem 0xA00] } : State).poisoned (tile.mem 0xA00) 512 = true) ∧
    (¬ Held (engine [request 0 (copyDesc 0x00F0000000000800 1024) 512 true]) thread.who tile ∧
      ¬ Held ((engine [request 0 (copyDesc 0x00F0000000000800 1024) 512 true]).sealedTo thread.who tile) thread.who tile) ∧
    (across.inst? 5 = some acrossInst ∧ across.resolve acrossInst.who .load 0x00F0000001000800#64 = .ok (.win (.tile ⟨1, 1, 1⟩) 0x800) across ∧
      across.resolve acrossInst.who .store 0x00F0000000000400#64 = .ok (.win tile 0x400) across ∧ Held across acrossInst.who (.tile ⟨1, 1, 1⟩)) ∧
    (∀ n, (requesting n).routes.find? (fun r => r.id == 1) = some { route 1 0 with dst := .port 0 0, hops := [[.data (strip 1)]] } ∧
      (requesting n).hopToken { route 1 0 with dst := .port 0 0, hops := [[.data (strip 1)]] } 1 = some (.data (strip 1)) ∧
      (requesting n).attns = [] ∧
      ∃ i q, (requesting n).inst? 5 = some i ∧ i.popHandle 0 0 = none ∧ i.chains = [] ∧ i.handles[0]? = some q ∧ q.bind = .engine 0 ∧ q.reqs.length = n) := by
  refine ⟨?_, by decide +kernel, fun l => ⟨rfl, rfl, _, rfl⟩, fun l => ⟨rfl, rfl⟩, ⟨not_held rfl, not_held rfl⟩, ⟨rfl, rfl, rfl, is_held rfl rfl⟩,
    fun n => ⟨rfl, rfl, rfl, _, _, rfl, rfl, rfl, rfl, rfl, by simp⟩⟩
  · simp only [List.forall_mem_cons, List.not_mem_nil, false_imp_iff, implies_true, and_true]
    exact ⟨⟨_, rfl, by decide +kernel, _, rfl, rfl, by decide +kernel, by decide +kernel⟩, ⟨_, rfl, by decide +kernel, _, rfl, rfl, by decide +kernel, by decide +kernel⟩,
      ⟨_, rfl, by decide +kernel, _, rfl, rfl, by decide +kernel, by decide +kernel⟩, ⟨_, rfl, by decide +kernel, _, rfl, rfl, by decide +kernel, by decide +kernel⟩,
      ⟨_, rfl, by decide +kernel, _, rfl, rfl, by decide +kernel, by decide +kernel⟩, ⟨_, rfl, by decide +kernel, _, rfl, rfl, by decide +kernel, by decide +kernel⟩,
      ⟨_, rfl, by decide +kernel, _, rfl, rfl, by decide +kernel, by decide +kernel⟩⟩

/-- A request of a token unit: malformed, of another partition's unit, fair, with its only row in progress or done. -/
def sampling (desc pos : Nat) (started : Bool) : Request := { request 7 desc pos started with inPhase := false }
def unitOf (r : Request) (lap : Option RowLap) (part : Bool) (leaving : Bool) : State :=
  { base with
    parts := { Part.reset with en := true, quires := if part then 1 else 0 } :: List.replicate 31 Part.reset,
    insts := [{ thread with
      kill := if leaving then some ⟨1, 1, true, 0, 0, 0, 0⟩ else none,
      handles := { Handle.free with bind := .engine 7, reqs := [r] } :: List.replicate 15 Handle.free }],
    tokUnits := ⟨[(5, 0, 3)], lap⟩ :: List.replicate 15 ⟨[], none⟩ }

theorem witness_TokenSteps :
    ∀ e ∈ [(sampling (2 ^ 430) 0 false, none, true, false), (sampling 0 0 false, none, false, false), (sampling 0 0 true, none, true, true),
        (sampling 0 1 true, none, true, false), (sampling 0 0 true, some ⟨0, 1, none, 0, 0, 0, 0, 0, [], none, false⟩, true, false)],
      ∃ i a, (unitOf e.1 e.2.1 e.2.2.1 e.2.2.2).tokRequest 0 = some (i, 0, a, e.1) ∧ i.leaving = e.2.2.2 ∧ a.mayStart e.1 = true ∧
        (unitOf e.1 e.2.1 e.2.2.1 e.2.2.2).inst? i.serial = some i := by
  simp only [List.forall_mem_cons, List.not_mem_nil, false_imp_iff, implies_true, and_true]
  exact ⟨⟨_, _, rfl, rfl, by decide +kernel, rfl⟩, ⟨_, _, rfl, rfl, by decide +kernel, rfl⟩, ⟨_, _, rfl, rfl, by decide +kernel, rfl⟩,
    ⟨_, _, rfl, rfl, by decide +kernel, rfl⟩, ⟨_, _, rfl, rfl, by decide +kernel, rfl⟩⟩

/-- A record at 0x1100 of the tile, greedy, PEN and TOPP 1.0; the table at 0x1000; one logit at 0x1400. -/
def sampler : Request :=
  sampling (0x00F0000000001000 + 0x00F0000000001400 * 2 ^ 64 + 512 * 2 ^ 448) 0 true
def sampled : State :=
  { unitOf sampler none true false with
    mem := memPut (memPut [] (tile.mem 0x1000) (natBytes 8 0x00F0000000001100))
      (tile.mem 0x1100) (natBytes 256 (0x3F800000 * 2 ^ 160 + 0x3F800000 * 2 ^ 192 + 0x00F0000000001800 * 2 ^ 448)) }
/-- An entry whose stream's earlier request has not responded. -/
def orderly : State :=
  { unitOf (sampling 0 0 false) none true false with
    insts := [{ thread with handles := { Handle.free with bind := .engine 7, reqs := [{ sampling 0 0 true with id := 2 }, { sampling 0 0 false with ord := true }] } :: List.replicate 15 Handle.free }] }

/-- The same unit where the table, or the result, stands in a tile of the other part, whose channels are used up. -/
def sampler' (tab out : Nat) : Request := sampling (tab + 0x00F0000000001400 * 2 ^ 64 + out * 2 ^ 256 + 512 * 2 ^ 448) 0 true
def tabAway : Request := sampler' 0x00F0000001001000 0
def outAway : Request := sampler' 0 0x00F0000001002000
def serving (r : Request) : Inst := { thread with region := [(0, 0), (1, 0)], handles := { Handle.free with bind := .engine 7, reqs := [r] } :: List.replicate 15 Handle.free }
def heldUnit (r : Request) (lap : Option RowLap) : State := { unitOf r lap true false with parts := parted true, insts := [serving r] }
def lastLap : RowLap := ⟨1, 1, none, 0, 0, 0, 0, 0, [], none, false⟩

theorem row_stops {α β : Type} {m : RowM α} {f : α → RowM β} {e : Nat × Nat} {s t : State × Nat} (h : m.run s = (.error e, t)) :
    (m >>= f).run s = (.error e, t) := by
  show (match m.run s with | (r, t) => (ExceptT.bindCont f r) t) = _
  rw [h]; rfl

theorem held_row :
    let l := ((heldUnit tabAway none).beginRow (serving tabAway) tabAway 0).1
    (l.rstat, l.sub) = keyHeldErr := by
  have h := State.spanRead_held (s := heldUnit tabAway none) (i := serving tabAway) (va := tabAway.seqtab + w64 (8 * 0))
    (pool := .tile ⟨1, 1, 1⟩) (o := 0x1000) 0 1 8 (by decide) rfl (key_held rfl rfl)
  have h1 : (rowBytes8 (serving tabAway) (tabAway.seqtab + w64 (8 * 0)) 8).run (heldUnit tabAway none, 0) =
      (.error keyHeldErr, heldUnit tabAway none, 0) := by
    simp only [rowBytes8, ExceptT.run, ExceptT.mk]; rw [h]
  simp only [State.beginRow]
  rw [show (rowBody (serving tabAway) tabAway 0).run (heldUnit tabAway none, 0) = _ from row_stops (row_stops (row_stops h1))]
  rfl

theorem held_report :
    ((heldUnit outAway (some lastLap)).report (serving outAway) outAway 0 lastLap).1 =
      some (0x00F0000001002000#64, keyHeldErr) := by
  have h := State.spanWrite_held (s := heldUnit outAway (some lastLap)) (i := serving outAway)
    (va := outAway.out + w64 (16 * 0)) (pool := .tile ⟨1, 1, 1⟩) (o := 0x2000) 0 1
    (natBytes 16 (RowLap.entry lastLap)) rfl rfl (key_held rfl rfl)
  have h1 : (rowPutNum (serving outAway) (outAway.out + w64 (16 * 0)) 16 (RowLap.entry lastLap)).run
      (heldUnit outAway (some lastLap), 0) = (.error keyHeldErr, heldUnit outAway (some lastLap), 0) := by
    simp only [rowPutNum, rowPut, ExceptT.run, ExceptT.mk, natBytes_length]; rw [h]
  simp only [State.report]
  rw [if_neg (by decide +kernel), h1]
  exact congrArg (fun v => some (v, keyHeldErr)) (by decide +kernel)

theorem witness_TokenRows :
    (∃ x, orderly.tokEntry (5, 0, 3) = some x ∧ x.2.2.2.started = false ∧ x.2.2.1.mayStart x.2.2.2 = false) ∧
    ((unitOf sampler none true false).partOfQuire (4 * sampler.tunit) = some thread.part ∧
      (sampler.pos < sampler.nb ∧ sampler.started = true)) ∧
    ((sampling (2 ^ 430) 0 false).tokenOk = false ∧ { sampling (0x00F0000000001400 * 2 ^ 64 + 512 * 2 ^ 448) 0 false with member := 7 }.tokenOk = true) ∧
    (sampled.report thread sampler 0 lastLap).1 = none ∧
    (sampler.pos < sampler.nb ∧ 0 < (sampled.beginRow thread sampler 0).1.need ∧ (sampled.beginRow thread sampler 0).1.rstat ≠ keyHeldErr.1) ∧
    (∃ a, (heldUnit tabAway none).tokRequest 0 = some (serving tabAway, 0, a, tabAway) ∧ (serving tabAway).leaving = false ∧ tabAway.started = true ∧
      tabAway.pos < tabAway.nb ∧ let l := ((heldUnit tabAway none).beginRow (serving tabAway) tabAway 0).1; (l.rstat, l.sub) = keyHeldErr) ∧
    (∃ a, (heldUnit outAway (some lastLap)).tokRequest 0 = some (serving outAway, 0, a, outAway) ∧ lastLap.need ≤ lastLap.run ∧ lastLap.record = none ∧
      ((heldUnit outAway (some lastLap)).report (serving outAway) outAway 0 lastLap).1 = some (0x00F0000001002000#64, keyHeldErr)) ∧
    (∀ a ∈ [Acc.load, .store], ∃ u, mapped.resolve thread.who a 0 = .ok (.hbm 0 false) u) := by
  refine ⟨⟨_, rfl, rfl, by decide +kernel⟩, by decide +kernel, by decide +kernel, by decide +kernel, by decide +kernel,
    ⟨_, rfl, rfl, rfl, by decide +kernel, held_row⟩, ⟨_, rfl, by decide, rfl, held_report⟩, ?_⟩
  simp only [List.forall_mem_cons, List.not_mem_nil, false_imp_iff, implies_true, and_true]
  exact ⟨⟨_, rfl⟩, _, rfl⟩

/-- A pipeline bound with blocks of four queries by four keys, in ordered mode (R291), on quire 0. -/
def bind (mask : Option StageProg) : Binding := ⟨0, BitVec.ofNat 512 (2 ^ 86 + 2 ^ 192), none, mask, ⟨2, true, [], 0, 0, 0, [], 0⟩⟩
def stageMask : StageProg := ⟨1, true, [], 0, 0, 0, [], 0xFFFFFF81#128⟩
def pipe (f : Attn → Attn) : Attn := f ⟨0, 5, bind (some stageMask), 0, 0, 0, [], none, [], [], false, false, false⟩
def attending (a : Attn) : State := { phase id [] [port [] false] [] with attns := [a] }
def query (seq : Nat) : Query := ⟨BitVec.ofNat 4096 (seq * 2 ^ 32), some (strip 0)⟩
def keyBlock (scores : Option (List (List W32))) (kept : Option (List (List Bool))) : KeyBlock := ⟨0, 1, [[]], [[]], [0], false, false, scores, kept⟩
def queryBlock (bs : List KeyBlock) (w : QueryWork) : QBlock := ⟨[query 0], some ⟨0#64, 1, 0, 0#64⟩, 0, none, bs, [w], (0, 0), (0, 0)⟩
def weightless : QueryWork := ⟨[], [], false⟩

/-- The pages of sequence 0 are at 0x2000 of the tile, its one page at 0x3000. -/
def walked (b : QBlock) : State :=
  { attending (pipe fun a => { a with blocks := [b] }) with
    mem := memPut [] (tile.mem 0x2000) (natBytes 8 0x00F0000000003000) }
def fits {ε α : Type} (a : Except ε α × State) : Bool := match a.1 with | .ok _ => true | .error _ => false
def freeMode (a : Attn) : Attn := { a with bind := ⟨0, BitVec.ofNat 512 (2 ^ 192), none, none, ⟨2, true, [], 0, 0, 0, [], 0⟩⟩ }

/-- A walk whose directory stands in a tile of the other part, whose channels are used up. -/
def farWalker : Inst := { thread with region := [(0, 0), (1, 0)] }
def farDesc : BitVec 512 := BitVec.ofNat 512 (2 ^ 86 + 0x00F0000001002000 * 2 ^ 128 + 2 ^ 192)
def farWalk : State := { base with parts := parted true, insts := [farWalker], attns := [pipe fun a => { a with bind := { a.bind with desc := farDesc }, blocks := [{ queryBlock [] weightless with entry := none }] }] }

theorem held_walk : farWalk.inst? 5 = some farWalker ∧ (farWalk.readEntry farWalker farDesc { queryBlock [] weightless with entry := none }).1.err = some keyHeldErr := by
  refine ⟨rfl, ?_⟩
  have h := State.spanRead_held (s := farWalk) (i := farWalker) (va := bdDir farDesc + w64 (32 * 0)) (pool := .tile ⟨1, 1, 1⟩) (o := 0x2000) 0 1 32 (by decide) rfl
    (key_held rfl rfl)
  have hq : ¬ bdNseq farDesc ≤ 0 := by decide +kernel
  have h0 : (query 0).seq = 0 := by decide +kernel
  simp only [State.readEntry, queryBlock, List.head?_cons, Option.map_some, Option.getD_some, h0, if_neg hq, h]

theorem witness_AttentionWalk :
    (let b : QBlock := { queryBlock [] weightless with queries := [query 1], entry := none };
      (walked b).inst? 5 ≠ none ∧ [b].findIdx? (fun b => !b.walked (bind none).desc) = some 0 ∧
      (bind none).desc.toNat / 2 ^ 192 % 2 ^ 32 ≤ (query 1).seq) ∧
    (let b : QBlock := { queryBlock [] weightless with entry := some ⟨0x00F0000000002000#64, 1, 0, 0#64⟩ };
      let i : Inst := { thread with active := true, folios := [(0, none)], rootDone := true };
      (walked b).inst? 5 = some i ∧ reads ((walked b).spanRead i 0 2 (0x00F0000000002000#64 + w64 (8 * (0 / 64))) 8).1 (natBytes 8 0x00F0000000003000) = true ∧
      fits ((walked b).rows i 0 (rowBytes (bind none).desc) 0x00F0000000003000#64 0 1) = true ∧
      fits ((walked b).rows i 0 (rowBytes (bind none).desc) 0x00F0000000003000#64 64 1) = true) ∧
    (∀ w ∈ [weightless, ⟨[(1, ⟨[], []⟩)], [], false⟩, ⟨[(2, ⟨[], []⟩)], [], false⟩], ∀ k ∈ [keyBlock (some [[0#32]]) (some [[true]]), keyBlock (some [[0#32]]) (some [[false]]), keyBlock none none],
      findQuery [queryBlock [k] w] 0 = some (0, 0) ∧ (queryBlock [k] w).queries[0]? = some (query 0) ∧ (queryBlock [k] w).work[0]? = some w ∧
      (query 0).strip.isSome = true ∧ (queryBlock [k] w).blocks.find? (fun k => k.b == 0) = some k) ∧
    ((queryBlock [keyBlock (some [[0#32]]) (some [[true]])] weightless).below ⟨[(2, ⟨[], []⟩)], [], false⟩ 0 1 = false ∧
      (queryBlock [keyBlock (some [[0#32]]) (some [[false]])] weightless).below ⟨[(2, ⟨[], []⟩)], [], false⟩ 0 1 = true ∧
      bdOrdered (pipe freeMode).bind.desc = false) ∧
    ((attending (pipe id)).portRoom 5 0 0 = true ∧ (phase id [] [port (List.replicate 64 .eos) false] []).portRoom 5 0 0 = false ∧
      (phase id [] [port (List.replicate 64 .eos) false] []).portRoomFor 5 0 0 1 = false) := by
  decide +kernel

theorem witness_AttentionStages :
    (∀ a : Attn, a.q = 0 → (attending a).attn? 0 = some a) ∧
    ((pipe fun a => { a with inq := [.data (strip 0)] }).head = none ∧ (pipe fun a => { a with inq := [.data (strip 0)] }).held < 256 ∧
      256 ≤ (pipe fun a => { a with inq := [.data (strip 0)], opened := List.replicate 256 (query 0) }).held ∧
      (∀ o ∈ List.replicate 2 (query 3), o.seq = (BitVec.ofNat 4096 (3 * 2 ^ 32)).toNat / 2 ^ 32 % 2 ^ 32) ∧
      2 ^ ((bind none).desc.toNat / 2 ^ 80 % 8 + 2) = 4 ∧ (query 1).seq ≠ (query 2).seq) ∧
    ([queryBlock [] weightless].findIdx? (fun b => !b.walked (bind none).desc) = some 0 ∧ (bind none).desc.toNat / 2 ^ 192 % 2 ^ 32 = 1 ∧
      cullNever stageMask.cull ⟨(0, 0), (0, 0), (0, 0), span (List.replicate 1 0)⟩ = true) ∧
    ([queryBlock [keyBlock none none] weightless].findIdx? (fun x => x.err.isNone && x.blocks.any fun k => k.b == 0 && (!k.removed && k.scores.isNone)) = some 0) ∧
    ([queryBlock [keyBlock (some [[0#32]]) none] weightless].findIdx?
      (fun x => x.err.isNone && x.blocks.any fun k => k.b == 0 && (!k.removed && k.scores.isSome && k.kept.isNone)) = some 0) ∧
    ((keyBlock (some [[0#32]]) (some [[true]])).survives 0 = true ∧ (keyBlock (some [[0#32]]) (some [[false]])).survives 0 = false) ∧
    (bdOrdered (bind none).desc = true ∧ (queryBlock [] ⟨[(0, ⟨[], []⟩), (1, ⟨[], []⟩)], [], false⟩).below ⟨[(0, ⟨[], []⟩), (1, ⟨[], []⟩)], [], false⟩ 0 0 = true) ∧
    ((pipe id).held = 0 ∧ (attending (pipe id)).portRoom 5 0 0 = true ∧
      (pipe fun a => { a with blocks := [queryBlock [] weightless] }).ready = none ∧
      ∃ ts, (pipe fun a => { a with blocks := [{ queryBlock [] weightless with err := some (0x06, 0x11) }] }).ready = some ts ∧
        (attending (pipe id)).portRoomFor 5 0 0 ts.length = true) := by
  refine ⟨fun a h => by simp [State.attn?, attending, h], by decide +kernel, by decide +kernel, by decide +kernel, by decide +kernel, by decide +kernel,
    by decide +kernel, by decide +kernel, by decide +kernel, by decide +kernel, _, rfl, by decide +kernel⟩

/-- The thread is asked to be cut, or to be killed. -/
def cutting (st : IState) (stage : Nat) : Inst := { thread with state := st, cut := some ⟨1, false, stage⟩ }
def alone (i : Inst) : State := { base with insts := [i] }
def killing (started : Bool) : Inst := { thread with kill := some ⟨0x10, 0, started, 0, 0, 0, 0⟩ }
def marking (m : Option Nat) : State :=
  { fabric [target [none, none]] with routes := [{ route 1 0 with hops := [[.eos, .bubble]], mark := m }] }

/-- A cut whose markers have passed everything; its save area is not mapped. -/
def saver : Inst := { cutting .run 2 with saveSize := 4096, saveBase := 0x40000000#64 }
def saving : State := { mapped with insts := [saver] }

theorem witness_CutSaves :
    saving.inst? 5 = some saver ∧ saving.cutDone saver ⟨1, false, 2⟩ = true ∧ saver.fault.v = false ∧ saving.mtiles = [] ∧
    let l := saving.saveEntries saver (saving.capture saver)
    saveUsed l ≤ saver.saveSize.toNat ∧ (saving.writeSave saver 1 l).1 ≠ none ∧ (saving.writeSave saver 1 l).2.insts = saving.insts := by
  decide +kernel

theorem witness_CutsAndKills :
    (∀ e ∈ [(IState.faulted, 0), (.run, 0), (.run, 1), (.run, 2)], (alone (cutting e.1 e.2)).inst? 5 = some (cutting e.1 e.2) ∧
      (cutting e.1 e.2).cut = some ⟨1, false, e.2⟩ ∧ (cutting e.1 e.2).kill = none) ∧
    ((cutting .run 1).enginesDone = true ∧ (alone (cutting .run 1)).cutDone (cutting .run 1) ⟨1, false, 1⟩ = false ∧
      (alone (cutting .run 2)).cutDone (cutting .run 2) ⟨1, false, 2⟩ = true ∧
      (cutting .run 2).saveSize.toNat < saveUsed ((alone (cutting .run 2)).saveEntries (cutting .run 2) ((alone (cutting .run 2)).capture (cutting .run 2)))) ∧
    (∀ m ∈ [none, some 0, some 1], (marking m).routes.find? (fun r => r.id == 1) = some { route 1 0 with hops := [[.eos, .bubble]], mark := m } ∧
      (marking m).unit? ⟨0, 2, 1, 0⟩ = some (target [none, none]) ∧ 0 < (target [none, none]).cut.length ∧ (target [none, none]).left = false) ∧
    (∀ b ∈ [false, true], (alone (killing b)).inst? 5 = some (killing b) ∧ (alone (killing b)).quietOutside (killing b) = true) := by
  refine ⟨by decide +kernel, by decide +kernel, by decide +kernel, by decide +kernel⟩

/-! Launches: an image whose measurement is the digest of no byte (LEN = 0) -/

theorem bytesNat_append (a b : List Byte) : bytesNat (a ++ b) = bytesNat a + 256 ^ a.length * bytesNat b := by
  induction a with
  | nil => simp [bytesNat]
  | cons x l ih => simp only [List.cons_append, bytesNat, ih, List.length_cons, Nat.pow_succ]; ring

/-- Content of a colophon with ALG 0, LEN 0 and MEAS d, in five kind 9 frames (R157). -/
def content (d : BitVec 384) : Nat := d.toNat * 2 ^ 48
def framed (k p : Nat) : List Byte := natBytes 30 p ++ natBytes 2 (0x9000 + k)
def measured (d : BitVec 384) : List Byte :=
  framed 0 (content d) ++ framed 1 (content d / 256 ^ 30) ++ framed 2 0 ++ framed 3 0 ++ framed 4 0

theorem measured_content (d : BitVec 384) : colophonOf (measured d) = content d := by
  have h : ((upTo 5).map fun k => ((measured d).drop (32 * k)).take 30).flatMap id =
      natBytes 30 (content d) ++ (natBytes 30 (content d / 256 ^ 30) ++ natBytes 90 0) := rfl
  have hd : content d < 256 ^ 54 := by have := d.isLt; simp only [content]; omega
  simp only [colophonOf, h, bytesNat_append, natBytes_length, bytesNat_natBytes]
  omega

theorem measured_colophon (d : BitVec 384) : colophonMeas (colophonOf (measured d)) = d := by
  rw [measured_content]
  apply BitVec.eq_of_toNat_eq
  have := d.isLt
  simp only [colophonMeas, bitsN, content, BitVec.toNat_ofNat]
  omega

theorem measured_ok (d : BitVec 384) : colophonOk (colophonOf (measured d)) = true ∧ bitsN (colophonOf (measured d)) 16 32 = 0 := by
  rw [measured_content]
  have hd : content d < 2 ^ 432 := by have := d.isLt; simp only [content]; omega
  have h0 : bitsN (content d) 0 8 = 0 ∧ bitsN (content d) 16 32 = 0 := by simp only [bitsN, content]; omega
  refine ⟨?_, h0.2⟩
  have h1 : content d / 2 ^ 432 = 0 := Nat.div_eq_of_lt hd
  simp only [colophonOk, h0.1, h1]
  rfl

theorem frameOf_framed (k p : Nat) (hk : k < 5) :
    (frameOf (framed k p)).kind = 9 ∧ (frameOf (framed k p)).x = 0 ∧ (frameOf (framed k p)).y = 0 ∧ (frameOf (framed k p)).slot = k := by
  have hp : p % 256 ^ 30 < 256 ^ 30 := Nat.mod_lt _ (by decide)
  simp only [frameOf, framed, bytesNat_append, natBytes_length, bytesNat_natBytes, fieldN, bitsN, BitVec.toNat_ofNat]
  omega

theorem measured_frames (d : BitVec 384) : colophonFrames (measured d) = true := by
  have h : framesOf 5 (measured d) = [frameOf (framed 0 (content d)), frameOf (framed 1 (content d / 256 ^ 30)), frameOf (framed 2 0),
      frameOf (framed 3 0), frameOf (framed 4 0)] := rfl
  have hl : (measured d).length = 160 := rfl
  simp only [colophonFrames, h, hl, List.zipIdx_cons, List.zipIdx_nil, List.all_cons, List.all_nil]
  simp only [frameOf_framed, Nat.reduceLT, Nat.reduceAdd]
  rfl

/-- The header of an image: MAGIC, ARCHGEN, ARCHREV, REGS 32, one slot, KITTY 1, text of 4 bytes at 512, colophon of 160 at
1024 (R158). -/
def imageHead (paramsz : Nat) : Nat :=
  0x42495848 + 2 * 2 ^ 32 + 2 ^ 40 + 32 * 2 ^ 48 + 2 ^ 64 + 2 ^ 80 + paramsz * 2 ^ 128 + 512 * 2 ^ 512 + 4 * 2 ^ 544 + 1024 * 2 ^ 832 + 160 * 2 ^ 864

def cellsAt (a : Nat) (l : List Byte) : List Host.Cell := l.zipIdx.map fun c => (a + c.2, c.1)

/-- The thread's descriptor at 0x40 names the image at 0x400 and no parameters (R201). -/
def launcher (children kitty : List Nat) : Inst :=
  { thread with
    header := thread.header ||| 1#4096 <<< 80, children := children, kitty := kitty,
    ctx := { thread.ctx with x := thread.ctx.x.set 1 0x00F0000000000040#64 } }
def launching (i : Inst) (queue : List Nat) (desc head : Nat) : State :=
  { base with
    parts := { Part.reset with en := true, queue := queue } :: List.replicate 31 Part.reset, insts := [i],
    mem := memPut (memPut [] (tile.mem 0x400) (natBytes 512 head)) (tile.mem 0x40) (natBytes 64 desc) ++ cellsAt (tile.mem 0x800) (measured (Config.sha384 [])) }
def launchDesc (psize : Nat) : Nat := 0x00F0000000000400 + 0x00F0000000000000 * 2 ^ 64 + psize * 2 ^ 128

theorem launcher_header (l k : List Nat) : fieldN (launcher l k).header 48 8 = fieldN thread.header 48 8 := by
  have : fieldN (thread.header ||| 1#4096 <<< 80) 48 8 = fieldN thread.header 48 8 := by decide +kernel
  exact this

/-- A launch that passes every check, with these children, this kitty and this partition queue. -/
def passing' (l k q : List Nat) : State := launching (launcher l k) q (launchDesc 0) (imageHead 0)
def imageAt : W64 := 0x00F0000000000400#64

theorem launching_bytes (i : Inst) (q : List Nat) (d h : Nat) :
    (launching i q d h).mem = memPut (memPut [] (tile.mem 0x400) (natBytes 512 h)) (tile.mem 0x40) (natBytes 64 d) ++ cellsAt (tile.mem 0x800) (measured (Config.sha384 [])) := rfl

/-- An access of a partition that is not confidential is not sealed. -/
theorem unsealed {s : State} {w : Who} {p : Pool} (h : (s.part w.part).mccfg = 0#64) :
    s.crossesTo w p = false ∧ s.keyHeld w p = false ∧ s.sealedTo w p = s := by
  have hc : (s.part w.part).conf = false := by rw [Part.conf, h]; decide
  refine ⟨?_, by cases p <;> simp [State.keyHeld, Pool.quire?, Part.crosses, hc], ?_⟩
  · unfold State.crossesTo
    cases p <;> simp [Pool.quire?, Part.crosses, hc]
  · unfold State.sealedTo
    cases p <;> simp [Pool.quire?, State.crossing, Part.crosses, hc]

theorem readAt_tile {s : State} {va : W64} {o n : Nat} (hl : s.locate .load va = .ok (.win tile o) s) (hm : (s.part s.who.part).mccfg = 0#64)
    (hp : s.poisoned (tile.mem o) n = false) : s.readAt .load va n = .ok (s.bytes (tile.mem o) n) s := by
  simp [State.readAt, hl, Ans.bind, unsealed hm, hp]

theorem launching_parts (i : Inst) (q : List Nat) (d h p : Nat) : ((launching i q d h).part p).mccfg = 0#64 := by
  cases p with
  | zero => rfl
  | succ n =>
    simp only [launching, State.part, List.getElem?_cons_succ, List.getElem?_replicate]
    split <;> rfl

theorem launching_desc (l k q : List Nat) : ∀ psize ∈ [0, 8], ∀ h ∈ [imageHead 0],
    (launching (launcher l k) q (launchDesc psize) h).loadDesc 0x00F0000000000040#64 =
      .ok (BitVec.ofNat 512 (launchDesc psize)) (launching (launcher l k) q (launchDesc psize) h) := by
  intro psize hp h hh
  have hb : ∀ psize ∈ [0, 8], ∀ h ∈ [imageHead 0],
      memBytes (launching (launcher [] []) [] (launchDesc psize) h).mem (tile.mem 0x40) 64 = natBytes 64 (launchDesc psize) := by decide +kernel
  have hr : (launching (launcher l k) q (launchDesc psize) h).readAt .load 0x00F0000000000040#64 64 =
      .ok (natBytes 64 (launchDesc psize)) (launching (launcher l k) q (launchDesc psize) h) := by
    rw [readAt_tile (o := 0x40) rfl (launching_parts _ _ _ _ _) rfl, ← hb psize hp h hh]
    rfl
  have ho : (launching (launcher l k) q (launchDesc psize) h).inOrder (some (remoteWait 0x00F0000000000040#64)) =
      .ok () (launching (launcher l k) q (launchDesc psize) h) := rfl
  have ha : (0x00F0000000000040#64).toNat % 64 != 0 ↔ False := by decide
  simp only [State.loadDesc, ha, ho, hr, Ans.bind, if_false, bytesNat_natBytes]
  congr 1
  apply BitVec.eq_of_toNat_eq
  simp only [BitVec.toNat_ofNat]
  omega

/-- The header's bytes and the colophon's. -/
theorem launching_head (i : Inst) (q : List Nat) : ∀ psize ∈ [0, 8], ∀ h ∈ [imageHead 0],
    memBytes (launching i q (launchDesc psize) h).mem (tile.mem 0x400) 512 = natBytes 512 h := by
  have hb : ∀ psize ∈ [0, 8], ∀ h ∈ [imageHead 0],
      memBytes (launching (launcher [] []) [] (launchDesc psize) h).mem (tile.mem 0x400) 512 = natBytes 512 h := by decide +kernel
  exact hb

theorem memRead_past (m r : List Host.Cell) (a : Nat) (hm : ∀ c ∈ m, c.1 < a) : memRead (m ++ r) a = memRead r a := by
  induction m with
  | nil => rfl
  | cons c m ih =>
    have h1 : a ≠ c.1 := by have := hm c (by simp); omega
    simp only [List.cons_append, memRead, h1, if_false]
    exact ih fun d hd => hm d (by simp [hd])

theorem memBytes_past (m r : List Host.Cell) (n : Nat) : ∀ a, (∀ c ∈ m, c.1 < a) → memBytes (m ++ r) a n = memBytes r a n := by
  induction n with
  | zero => intro a _; rfl
  | succ n ih => intro a hm; simp only [memBytes, memRead_past m r a hm, ih (a + 1) fun c hc => by have := hm c hc; omega]

theorem cells_bytes (l : List Byte) : ∀ k a, memBytes ((l.zipIdx k).map fun c => (a + c.2, c.1)) (a + k) l.length = l := by
  induction l with
  | nil => intro k a; rfl
  | cons x l ih =>
    intro k a
    have hp := memBytes_past [(a + k, x)] ((l.zipIdx (k + 1)).map fun c => (a + c.2, c.1)) l.length (a + (k + 1)) (by simp)
    simp only [List.singleton_append] at hp
    simp only [List.zipIdx_cons, List.map_cons, List.length_cons, memBytes, memRead, if_true]
    exact congrArg _ (hp.trans (ih (k + 1) a))

theorem devRead_window {s : State} {w : Who} {va : W64} {p : Pool} {o n : Nat} (hl : s.resolve w .load va = .ok (.win p o) s)
    (hp : s.poisoned (p.mem o) n = false) (hn : pageRun va n = n) (h0 : n ≠ 0) :
    s.devRead w va n = .ok (s.bytes (p.mem o) n) ∧ s.devTouch w va n = s := by
  simp [State.devRead, State.devTouch, State.devReadVer, State.devReadGo, State.devReadPage, hl, hp, hn, h0, Except.map]

theorem launching_colophon (i : Inst) (q : List Nat) : ∀ h ∈ [imageHead 0],
    memBytes (launching i q (launchDesc 0) h).mem (tile.mem 0x800) 160 = measured (Config.sha384 []) := by
  intro h hh
  have hlow : ∀ h ∈ [imageHead 0], ∀ c ∈ memPut (memPut [] (tile.mem 0x400) (natBytes 512 h)) (tile.mem 0x40) (natBytes 64 (launchDesc 0)), c.1 < tile.mem 0x800 := by
    decide +kernel
  rw [launching_bytes, memBytes_past _ _ _ _ (hlow h hh)]
  exact cells_bytes (measured (Config.sha384 [])) 0 (tile.mem 0x800)

theorem head_of (h : Nat) (hh : h < 2 ^ 4096) : BitVec.ofNat 4096 (bytesNat (natBytes 512 h)) = BitVec.ofNat 4096 h := by
  rw [bytesNat_natBytes, Nat.mod_eq_of_lt (by rw [show (256 : Nat) ^ 512 = 2 ^ 4096 by rw [show (256 : Nat) = 2 ^ 8 by rfl, ← Nat.pow_mul]]; exact hh)]

theorem head_bits : headerBitsOk (BitVec.ofNat 4096 (imageHead 0)) = true ∧ fieldN (BitVec.ofNat 4096 (imageHead 0)) 160 16 = 0 ∧
    partSize (BitVec.ofNat 4096 (imageHead 0)) 3 = 0 ∧ partOff (BitVec.ofNat 4096 (imageHead 0)) 5 = 1024 ∧
    partSize (BitVec.ofNat 4096 (imageHead 0)) 5 = 160 := by decide +kernel

theorem measured_fit : partsFit (BitVec.ofNat 4096 (imageHead 0)) [] (chainRecs (0 / 8) []) (measured (Config.sha384 [])) = true := by
  simp only [partsFit, measured_frames, measured_ok, Bool.and_true, Bool.true_and]
  rfl

/-- The header's checks pass where MEAS is the digest of no byte (R158). -/
theorem headerOk_of {s : State} {w : Who} {image : W64} (hcol : s.imageBytes w image 1024 160 = .ok (measured (Config.sha384 []))) :
    s.headerOk w image (BitVec.ofNat 4096 (imageHead 0)) = true := by
  have hfold : s.folioHeads w image (partOff (BitVec.ofNat 4096 (imageHead 0)) 2) 0 = .ok [] := rfl
  have hnone : ∀ o, s.imageBytes w image o 0 = .ok [] := fun _ => rfl
  simp only [State.headerOk, head_bits, State.partsGood, hfold, State.chainPart, hnone, hcol, Except.map, measured_fit, measured_ok,
    measured_colophon, beq_self_eq_true, Bool.and_true]

/-- The reads of the checks do nothing beside where no read of the colophon or of no byte does. -/
theorem checkTouch_of {s : State} {w : Who} {image : W64} (hcol : s.imageBytes w image 1024 160 = .ok (measured (Config.sha384 [])))
    (ht : s.devTouch w (image + w64 1024) 160 = s) (hz : ∀ va, s.devTouch w va 0 = s) :
    s.checkTouch w image (BitVec.ofNat 4096 (imageHead 0)) = s := by
  have hfold : s.folioHeads w image (partOff (BitVec.ofNat 4096 (imageHead 0)) 2) 0 = .ok [] := rfl
  have hnone : ∀ o, s.imageBytes w image o 0 = .ok [] := fun _ => rfl
  simp only [State.checkTouch, State.headsTouch, head_bits, hfold, State.chainPart, hnone, hcol, Except.map, measured_fit, measured_ok, ht, hz, Bool.not_true,
    Bool.false_eq_true, if_false, if_true]

theorem launching_headerOk (i : Inst) (q : List Nat) (w : Who) (hw : w.region = [(0, 0)]) :
    (launching i q (launchDesc 0) (imageHead 0)).headerOk w imageAt (BitVec.ofNat 4096 (imageHead 0)) = true := by
  refine headerOk_of ?_
  rw [← launching_colophon i q (imageHead 0) (by simp)]
  obtain ⟨a, b, c, d, e⟩ := w
  simp only at hw
  subst hw
  exact (devRead_window (by cases b <;> rfl) rfl (by decide) (by decide)).1

theorem launching_touch (i : Inst) (q : List Nat) (w : Who) (hw : w.region = [(0, 0)]) :
    (launching i q (launchDesc 0) (imageHead 0)).checkTouch w imageAt (BitVec.ofNat 4096 (imageHead 0)) = launching i q (launchDesc 0) (imageHead 0) := by
  obtain ⟨a, b, c, d, e⟩ := w
  simp only at hw
  subst hw
  have h := devRead_window (s := launching i q (launchDesc 0) (imageHead 0)) (w := ⟨a, b, [(0, 0)], d, e⟩) (va := imageAt + w64 1024) (p := tile) (o := 0x800) (n := 160)
    (by cases b <;> rfl) rfl (by decide) (by decide)
  refine checkTouch_of ?_ h.2 fun _ => rfl
  rw [← launching_colophon i q (imageHead 0) (by simp)]
  exact h.1

theorem witness_LaunchAndJoin :
    (∀ l k q, (passing' l k q).cur = .ctl 0 ∧ (passing' l k q).instOn 0 = some (launcher l k) ∧ Ready (passing' l k q) [3, 1] 0 ∧
      (passing' l k q).loadDesc ((passing' l k q).rd 1) = .ok (BitVec.ofNat 512 (launchDesc 0)) (passing' l k q) ∧
      (passing' l k q).readSpan 8 ((BitVec.ofNat 512 (launchDesc 0)).extractLsb' 0 64) 512 = .ok (natBytes 512 (imageHead 0)) (passing' l k q) ∧
      (passing' l k q).headerOk { (launcher l k).who with user := (passing' l k q).level == 0 } ((BitVec.ofNat 512 (launchDesc 0)).extractLsb' 0 64)
        (BitVec.ofNat 4096 (bytesNat (natBytes 512 (imageHead 0)))) = true ∧
      ((passing' l k q).checkTouch { (launcher l k).who with user := (passing' l k q).level == 0 } ((BitVec.ofNat 512 (launchDesc 0)).extractLsb' 0 64)
        (BitVec.ofNat 4096 (bytesNat (natBytes 512 (imageHead 0))))).readSpan 32 ((BitVec.ofNat 512 (launchDesc 0)).extractLsb' 64 64) 0 = .ok [] (passing' l k q) ∧
      (launcher l k).live = true ∧ (passing' l k q).insts.any (fun j => j.serial == (passing' l k q).nextSerial % 2 ^ 32 && j.live) = false ∧
      (launcher l k).part < (passing' l k q).parts.length ∧ ((passing' l k q).part (launcher l k).part).queue = q ∧
      ((passing' l k q).part (launcher l k).part).en = true) ∧
    (base.part 0).en = false ∧
    (fieldN (BitVec.ofNat 512 (launchDesc 0)) 164 348 = 0 ∧ fieldN (BitVec.ofNat 512 (launchDesc 0)) 0 64 % 512 = 0 ∧
      fieldN (BitVec.ofNat 512 (launchDesc 0)) 64 64 % 8 = 0 ∧ fieldN (BitVec.ofNat 512 (launchDesc 0)) 128 32 ≤ 65536) ∧
    ([0].length < 256 ∧ 256 ≤ (List.replicate 256 0).length ∧ (List.replicate 63 0).length < 64 ∧ 64 ≤ (List.replicate 64 0).length ∧
      fieldN (launcher [] []).header 80 16 = 1) ∧
    (fieldN (BitVec.ofNat 512 (1 : Nat)) 0 64 % 512 ≠ 0 ∧ headerBitsOk (BitVec.ofNat 4096 (bytesNat (natBytes 512 0))) = false ∧
      fieldN (BitVec.ofNat 4096 (imageHead 0)) 128 32 < fieldN (BitVec.ofNat 512 (launchDesc 8)) 128 32) := by
  refine ⟨fun l k q => ⟨rfl, rfl, of_level0 0 (launcher l k) rfl rfl rfl (launcher_header l k) _, launching_desc l k q 0 (by simp) _ (by simp), ?_, ?_, ?_, rfl, ?_, ?_, rfl, rfl⟩,
    by decide +kernel, by decide +kernel, by decide +kernel, by decide +kernel⟩
  · have h : (passing' l k q).readSpan 8 imageAt 512 = .ok (memBytes (passing' l k q).mem (tile.mem 0x400) 512) (passing' l k q) := by
      have hr : (passing' l k q).readAt .load imageAt 512 = .ok ((passing' l k q).bytes (tile.mem 0x400) 512) (passing' l k q) :=
        readAt_tile rfl (launching_parts _ _ _ _ _) rfl
      have hn : min 512 (4096 - imageAt.toNat % 4096) = 512 := by decide
      simp [State.readSpan, hn, hr, Ans.bind, State.bytes]
    have hi : (BitVec.ofNat 512 (launchDesc 0)).extractLsb' 0 64 = imageAt := by decide +kernel
    rw [hi, h, passing', launching_head _ _ 0 (by simp) _ (by simp)]
  · have hi : (BitVec.ofNat 512 (launchDesc 0)).extractLsb' 0 64 = imageAt := by decide +kernel
    rw [hi, head_of _ (by decide +kernel)]
    exact launching_headerOk _ _ _ rfl
  · have hi : (BitVec.ofNat 512 (launchDesc 0)).extractLsb' 0 64 = imageAt := by decide +kernel
    rw [hi, head_of _ (by decide +kernel), passing', launching_touch _ _ _ rfl]
    rfl
  · rfl
  · show 0 < 32
    decide

def joined (st : IState) : State := { base with insts := [{ thread with children := [3] }, { Inst.blank with serial := 3, state := st }] }
theorem witness_JoinWords :
    ∀ st, (joined st).cur = .ctl 0 ∧ (joined st).instOn 0 = some { thread with children := [3] } ∧ (∀ regs, Ready (joined st) regs 0) ∧
      ((joined st).rd 2).toNat % 2 ^ 32 = 3 ∧ ((joined st).rd 1 = 0x00F0000000000010#64 ∧ (0x00F0000000000010#64).toNat % 2 ^ 32 = 0x10) ∧ (joined st).inst? 3 = some { Inst.blank with serial := 3, state := st } :=
  fun _ => ⟨rfl, rfl, fun _ => of_level0 0 { thread with children := [3] } rfl rfl rfl rfl _, rfl, ⟨rfl, by decide⟩, rfl⟩

/-! Quire registers, the scheduler, lending, partitions -/

/-- A quire's view of an instance on it. -/
def onQuire (f : Inst → Inst) : State := { base with insts := [f thread] }

theorem witness_QuireControls :
    (∀ f ∈ [fun i : Inst => i, fun i => { i with state := .placed, cut := some ⟨1, false, 0⟩ }, fun i => { i with state := .cut, debugHeld := true },
        fun i => { i with state := .yielded }, fun i => { i with state := .faulted }],
      (onQuire f).inst? 5 = some (f thread) ∧ (f thread).named455 (some 0) = true ∧ (f thread).ofQuire (some 0) = true ∧ (f thread).kill = none) ∧
    (0 < base.quires.length ∧ mapped.partOfQuire 0 = some thread.part ∧ base.inst? 6 = none) ∧
    (let s : State := base.modQuire 0 fun a => { a with shung := 0x81#8 }
     (s.quire 0).shung.getLsbD 7 = true ∧ htCore 7 < s.sups.length ∧ (s.sup (htCore 7)).active = none) ∧
    (BitVec.ofNat 64 (2 ^ 19)).getLsbD 19 = true ∧
    (thread.regs = 32 ∧ (base.part thread.part).conf = false) ∧
    (thread.region.head? = some (0, 0) ∧ thread.lastProgress.toNat + (base.quire 0).swdog.toNat * 1000 = 1000000000 ∧ (base.quire 0).swdog ≠ 0#32 ∧
      base.waits = []) := by
  refine ⟨?_, by decide +kernel, by decide +kernel, by decide +kernel, by decide +kernel, by decide +kernel⟩
  simp only [List.forall_mem_cons, List.not_mem_nil, false_imp_iff, implies_true, and_true]
  exact ⟨by decide +kernel, by decide +kernel, by decide +kernel, by decide +kernel, by decide +kernel⟩

/-- Waits of the instance for a lock that instance 9 holds; a record of a cut instance. -/
def waitOf (sw : Bool) : Wait := ⟨0, 0, .thread 5, 3, 0x40, sw, [.thread 9], none, 0, 0, 0#64⟩
def inspected : Inst := { thread with state := .cut, recVA := 0x1000#64, saveBase := 0x1000#64, saveSize := 4096, debugHeld := true }

def hungCore (c : Option Nat) : State := { base with sups := List.replicate 128 ⟨Ctx.zero, TrapRegs.reset, c, 0, false⟩ }

theorem witness_QuireNames :
    (∀ i ∈ [{ thread with state := .queued, region := [] }, { thread with state := .done, region := [] }, { thread with region := [(1, 0)] }],
      i.named455 (some 0) = false) ∧
    mapped.partOfQuire 1 ≠ some thread.part ∧
    (∀ c ∈ [none, some 7, some 3], ((hungCore c).sup (htCore 7)).active = c ∧ htCore 7 < (hungCore c).sups.length) ∧
    (({ base with sys := { base.sys with mboot := 0x20#64 } } : State).bootFailed = true ∧ base.bootFailed = false) ∧
    (inspected.state = .cut ∧ 0 + 8 ≤ inspected.saveSize.toNat ∧ fits (mapped.debugRead inspected (8 / 4096 + 2) (inspected.recVA + BitVec.ofNat 64 0) 8) = true ∧
      fits (mapped.debugRead inspected (8 / 4096 + 2) (inspected.saveBase + BitVec.ofNat 64 0) 8) = true) ∧
    (∀ b, let s : State := { base with waits := [waitOf b] }
      s.forced (waitOf b) = true ∧ (waitOf b).waiter.serial? = some 5 ∧ ∀ x ∈ s.waits, x.kind ≠ 5) := by
  decide +kernel

/-- A queued instance that asks for `slots` slots of partition 0, which has quire 0. -/
def queued (slots : Nat) : Inst :=
  { Inst.blank with serial := 5, state := .queued, header := BitVec.ofNat 4096 (2 ^ 64 * slots) }
def scheduling (weight : Nat) (i : Inst) : State :=
  { mapped with
    insts := [i], sys := { base.sys with schctl := 1#64 ||| 3#64 <<< 32 },
    owners := { Owner.reset with weight := weight } :: List.replicate 63 Owner.reset }

/-- Function 0 of partition 0, open; the image of a launch in the partition's scratch slice (R89, R365). -/
def slice : Pool := .slice 0
def tables : List Host.Cell := memPut [] (slice.mem 0x8000) (natBytes 512 (imageHead 0))
def hosting (n : Nat) : State :=
  { base with
    parts := { Part.reset with en := true, quires := 1, slices := 1 } :: List.replicate 31 Part.reset,
    insts := [], mem := tables ++ cellsAt (slice.mem 0x8400) (measured (Config.sha384 [])), sys := { base.sys with mboot := 5#64, srole := 0#64 },
    fns := { Fn.reset with pv := true, qen := 9#4, maxprio := 3, queues := [List.replicate n 9, [], [], List.replicate n 9] } :: List.replicate 256 Fn.reset }
def deviceOf : Who := ⟨0, false, [], 0, some 0⟩
def imageVA : W64 := 0x00F1000000008000#64
def entry : BitVec 512 := 0x00F1000000008000#512

theorem hosting_resolve (n : Nat) : ∀ e ∈ [(imageVA, 0x8000), (imageVA + w64 1024, 0x8400)],
    (hosting n).resolve deviceOf .load e.1 = .ok (.win slice e.2) (hosting n) := by
  have hs : (hosting n).scratch 0 = [0] := by
    show ((upTo 64).filter fun k => bitAt (1#64) k && !bitAt (0#64) k) = [0]
    decide +kernel
  have h (va : W64) (hv : va = imageVA ∨ va = imageVA + w64 1024) : (hosting n).resolve deviceOf .load va =
      match ((hosting n).scratch 0)[0]? with
      | some k => .ok (.win (.slice k) (fieldN va 0 24)) (hosting n)
      | none => .trap (trapAt 0x06 0x04 va) (hosting n) := by
    rcases hv with rfl | rfl <;> rfl
  simp only [List.forall_mem_cons, List.not_mem_nil, false_imp_iff, implies_true, and_true]
  constructor
  · rw [h _ (.inl rfl), hs]; rfl
  · rw [h _ (.inr rfl), hs]; rfl

theorem hosting_check (n : Nat) (hn : n ∈ [0, 63]) : (hosting n).launchCheck deviceOf entry = (.ok (BitVec.ofNat 4096 (imageHead 0), []), hosting n) := by
  have hone : ∀ n ∈ [0, 63], 4 * ((upTo Config.quires).filter fun q => bitAt ((hosting n).part 0).quires q).length = 4 := by decide +kernel
  have hbytes : memBytes (hosting n).mem (slice.mem 0x8000) 512 = natBytes 512 (imageHead 0) := by
    have h : memBytes (hosting 0).mem (slice.mem 0x8000) 512 = natBytes 512 (imageHead 0) := by decide +kernel
    exact h
  have hread := devRead_window (s := hosting n) (w := deviceOf) (va := imageVA) (p := slice) (o := 0x8000) (n := 512)
    (hosting_resolve n (imageVA, 0x8000) (by simp)) rfl (by decide) (by decide)
  have hboth := devRead_window (s := hosting n) (w := deviceOf) (va := imageVA + w64 1024) (p := slice) (o := 0x8400) (n := 160)
    (hosting_resolve n (imageVA + w64 1024, 0x8400) (by simp)) rfl (by decide) (by decide)
  have hcol := hboth.1
  have hlow : ∀ c ∈ tables, c.1 < slice.mem 0x8400 := by decide +kernel
  have hm : memBytes (hosting n).mem (slice.mem 0x8400) 160 = measured (Config.sha384 []) := by
    show memBytes (tables ++ cellsAt (slice.mem 0x8400) (measured (Config.sha384 []))) (slice.mem 0x8400) 160 = _
    rw [memBytes_past _ _ _ _ hlow]
    exact cells_bytes (measured (Config.sha384 [])) 0 (slice.mem 0x8400)
  rw [State.bytes, hm] at hcol
  rw [State.bytes, hbytes] at hread
  have hok := headerOk_of (image := imageVA) hcol
  have htouch := checkTouch_of (image := imageVA) hcol hboth.2 fun _ => rfl
  have hfields : (!descOk entry [(165, 27), (320, 192)] || fieldN entry 192 64 % 16 != 0) = false ∧ entry.extractLsb' 0 64 = imageVA ∧
      fieldN (BitVec.ofNat 4096 (imageHead 0)) 128 32 = 0 ∧ fieldN entry 128 32 = 0 ∧ fieldN (BitVec.ofNat 4096 (imageHead 0)) 64 16 = 1 := by
    decide +kernel
  have hnone : ∀ va, (hosting n).devRead deviceOf va 0 = .ok [] ∧ (hosting n).devTouch deviceOf va 0 = hosting n := fun _ => ⟨rfl, rfl⟩
  have hh := head_of (imageHead 0) (by decide +kernel)
  have hpart : deviceOf.part = 0 := rfl
  simp only [State.launchCheck, hfields, Bool.false_eq_true, if_false, hread.1, hread.2, hh, hok, htouch, hnone, hpart, hone n hn, Bool.not_true]
  rfl

/-- The thread's slice is over; a candidate that finds no slots, or none. -/
def sliced (is : List Inst) : State := { scheduling 1 (queued 4) with insts := thread :: is }
/-- Partition 0 has the quires 0 (prefill) and 1 (decode), and a prefill candidate. -/
def roles (on : Nat) (l : LendSt) : State :=
  { scheduling 1 (queued 1) with
    parts := { Part.reset with en := true, quires := 3 } :: List.replicate 31 Part.reset,
    sys := { base.sys with role := BitVec.ofNat _ (on * 2 ^ 15), rolemask := 2 }, lends := LendSt.reset :: l :: List.replicate 30 LendSt.reset }
def refuses {ε α β : Type} [DecidableEq ε] (a : Except ε α × β) (k : ε) : Bool := match a.1 with | .error e => decide (e = k) | .ok _ => false

theorem witness_SchedulerRoles :
    ((base.sys.schctl.getLsbD 0 = false ∨ { base with sys := { base.sys with mactState := 2#2 } }.sys.mactState = 2#2) ∧
      refuses ((hosting 0).launchCheck deviceOf 1#512) 1 = true) ∧
    (∀ is ∈ [[], [{ queued 4 with serial := 6 }]], (sliced is).inst? 5 = some thread ∧ thread.region ≠ [] ∧ thread.yieldReq = false ∧
      0 < (sliced is).sys.schctl.toNat / 2 ^ 32 ∧ thread.sliceEnd.toNat ≤ (sliced is).nsec.toNat ∧
      ∀ c ∈ is, c.candidate = true ∧ c.part = thread.part ∧ (sliced is).slotsFor c = none) ∧
    ((roles 1 LendSt.reset).sys.role.getLsbD 15 = true ∧ (roles 0 LendSt.reset).sys.role.getLsbD 15 = false ∧ (roles 1 LendSt.reset).roleMove = some true ∧
      1 ∈ (roles 1 LendSt.reset).roleQuires true ∧ (∀ l ∈ (roles 1 LendSt.reset).lends, l.leaving = false) ∧
      ((roles 1 { LendSt.reset with leaving := true }).lendOf 1).leaving = true ∧ ((roles 1 { LendSt.reset with leaving := true }).lendOf 1).busy = false ∧
      ∀ j ∈ (roles 1 { LendSt.reset with leaving := true }).insts, ∀ x ∈ j.region, x.1 ≠ 1) := by
  decide +kernel

theorem witness_SchedulerDecisions :
    (∀ e ∈ [(1, queued 1), (1, queued 2), (128, queued 4)], (scheduling e.1 e.2).inst? 5 = some e.2 ∧ e.2.candidate = true ∧
      (scheduling e.1 e.2).sys.mactState ≠ 2#2 ∧ ((scheduling e.1 e.2).fitOf e.2).isSome = true ∧
      ((scheduling e.1 e.2).owner 0).weight = e.1) ∧
    ((queued 1).slots ≤ min (0 + 1) (1 + 128) ∧ min (0 + 1) (1 + 128) < (queued 2).slots) ∧
    (∀ n ∈ [0, 63], (hosting n).launchCheck deviceOf entry = (.ok (BitVec.ofNat 4096 (imageHead 0), []), hosting n) ∧
      ((hosting n).fn 0).who = deviceOf) ∧
    (∀ n ∈ [0, 63, 64], (hosting n).booted = true ∧ ((hosting n).fn 0).qen.getLsbD 3 = true ∧
      ((hosting n).fn 0).pv = true ∧ ((hosting n).part 0).en = true ∧
      ((hosting n).fn 0).queues[3]? = some (List.replicate n 9) ∧ ((hosting n).fn 0).acc[3]? = some 0#32) :=
  ⟨by decide +kernel, by decide +kernel, fun n hn => ⟨hosting_check n hn, rfl⟩, by decide +kernel⟩

/-- The partitions 0 and 1 with the quires 0 and 1, and 5; quire 1 in some state of lending. -/
def lending (l : LendSt) (is : List Inst) (nsec : Nat) : State :=
  { base with
    parts := { Part.reset with en := true, quires := 3 } :: { Part.reset with en := true, quires := 32 } :: List.replicate 30 Part.reset,
    lends := LendSt.reset :: l :: List.replicate 30 LendSt.reset, insts := is, nsec := BitVec.ofNat 64 nsec }
/-- The same with other quires. -/
def lendingOf (a b : W32) (l : LendSt) (is : List Inst) : State :=
  { lending l is 0 with parts := { Part.reset with quires := a } :: { Part.reset with quires := b } :: List.replicate 30 Part.reset }
def lent : LendSt := { LendSt.reset with lent := some 0 }
def recalling : LendSt := { lent with busy := true, affected := [(5, 1)] }
def op (n q dst : Nat) : W64 := BitVec.ofNat 64 (q + dst * 2 ^ 5 + n * 2 ^ 10)
def resetting (b : Bool) : State :=
  { base with fns := { Fn.reset with busy := b } :: List.replicate 256 Fn.reset, insts := [{ thread with src := { thread.src with fn := 0 } }] }
/-- Function 0 with a page of arena that its partition maps. -/
def arena : State :=
  { mapped with fns := { Fn.reset with busy := true, abase := 0x10000#64, asize := 4096#64 } :: List.replicate 256 Fn.reset }
def storesTo (a : Ans Place) (p pa : Nat) : Bool :=
  match a with
  | .ok (.hbm k false) u => k == pa && u.fencePass p pa
  | _ => false

/-- Two quires that are not neighbours (R405). -/
theorem apart_not_connected (a b : Nat) (h : adjacent a b = false) (n : a ≠ b) : connected [a, b] = false := by
  have hs : ∀ k, spread [a, b] k [a] = [a] := by
    intro k
    induction k with
    | zero => rfl
    | succ k ih =>
      have ha : adjacent a a = false := by simp [adjacent]
      have hab : adjacent b a = false := by
        simp only [adjacent, Bool.or_eq_false_iff, Bool.and_eq_false_iff, beq_eq_false_iff_ne] at h ⊢
        omega
      simpa [spread, ha, h, hab, n.symm] using ih
  simp [connected, hs]

theorem witness_LendingAndResets :
    ((op 1 1 1).toNat % 32 = 1 ∧ (op 1 1 1).toNat / 2 ^ 5 % 32 = 1 ∧ (op 2 1 1).toNat / 2 ^ 10 % 4 = 2 ∧ (op 0 1 1).toNat / 2 ^ 10 % 4 = 0) ∧
    ((lending LendSt.reset [] 0).partOfQuire 1 = some 0 ∧ (lending LendSt.reset [] 0).attns = [] ∧
      (((lending LendSt.reset [] 0).part 1).quires.getLsbD 5 = true ∧ adjacent 5 1 = true) ∧ (lending LendSt.reset [] 0).splits 1 0 1 = false) ∧
    ((lendingOf 7 32 LendSt.reset []).partOfQuire 1 = some 0 ∧ (lendingOf 7 32 LendSt.reset []).splits 1 0 1 = true) ∧
    ((lending LendSt.reset [{ thread with region := [(1, 0)] }] 0).insts ≠ [] ∧ (lending recalling [] 0).lendOf 1 = recalling ∧
      (lending LendSt.reset [] 0).part 0 ≠ (lending LendSt.reset [] 0).part 1) ∧
    (let s := lendingOf 1 0x22 lent [{ thread with region := [(1, 0)] }]
     s.partOfQuire 1 = some 1 ∧ s.splits 1 1 0 = false ∧ s.inst? 5 = some { thread with region := [(1, 0)] } ∧ thread.cut = none ∧ thread.state = .run) ∧
    (let i : Inst := { thread with region := [(1, 0)], cut := some ⟨1, false, 1⟩ }
     (lending recalling [i] 250000).inst? 5 = some i ∧ (lending recalling [i] 250000).cutDone i ⟨1, false, 1⟩ = false ∧ i.live = true ∧ i.kill = none ∧
      250000 ≤ (lending recalling [i] 250000).nsec.toNat ∧ (lending recalling [] 1000000).nsec.toNat = 1000000 ∧
      (lending recalling [] 1000000).partOfQuire 1 = some 0 ∧ { lendingOf 1 0x22 recalling [] with nsec := 1000000 }.partOfQuire 1 = some 1) ∧
    (let s : State := { lendingOf 32 7 recalling [] with nsec := 1000000 }
     s.partOfQuire 1 = some 1 ∧ (s.lendOf 1).lent = some 0 ∧ (s.lendOf 1).busy = true ∧ s.splits 1 1 0 = true ∧ 1000000 ≤ s.nsec.toNat) ∧
    (∀ b, ((resetting b).fn 0).busy = b ∧ (resetting b).fns.length = 257 ∧ (resetting b).owes ((resetting b).fn 0).rstAt = false ∧
      (∃ i, (resetting b).inst? 5 = some i ∧ i.live = true ∧ i.src.fn = 0 ∧ i.kill = none)) ∧
    ((arena.fn 0).busy = true ∧ arena.owes (arena.fn 0).rstAt = false ∧ arena.attns = [] ∧ (arena.fn 0).asize = 4096#64 ∧ Memory.wf arena.mem = true ∧
      storesTo (arena.resolve { (arena.fn 0).who with owner := none } .store (arena.fn 0).abase) (arena.fn 0).part 0x10000 = true) ∧
    { base with sys := { base.sys with vfsel := 3#9 } }.sys.vfsel = BitVec.ofNat 9 3 := by
  refine ⟨by decide +kernel, by decide +kernel, ⟨by decide +kernel, ?_⟩, by decide +kernel, by decide +kernel, by decide +kernel,
    ⟨by decide +kernel, rfl, rfl, ?_, by decide +kernel⟩, fun b => ?_, by decide +kernel, rfl⟩
  · have h : quireList (setBitTo ((lendingOf 7 32 LendSt.reset []).part 0).quires 1 false) = [0, 2] := by decide +kernel
    rw [State.splits, h, apart_not_connected 0 2 (by decide) (by decide)]
    rfl
  · have h : quireList (setBitTo (({ lendingOf 32 7 recalling [] with nsec := 1000000 } : State).part 1).quires 1 false) = [0, 2] := by decide +kernel
    rw [State.splits, h, apart_not_connected 0 2 (by decide) (by decide)]
    rfl
  · refine ⟨rfl, by cases b <;> decide +kernel, by cases b <;> decide +kernel, _, rfl, by decide +kernel, rfl, rfl⟩

/-- Partition 0 with quire 0, cache slices 0 and 1, its first range; partition 1 with quire 5 and slice 2; some registers. -/
def owning (a : Part → Part) (is : List Inst) : State :=
  { base with
    parts := a { Part.reset with en := true, quires := 1, slices := 3, ranges := 1#64 :: List.replicate 7 0#64 } ::
      { Part.reset with quires := 32, slices := 4, ranges := (1#64 ||| 2#64 <<< 1 ||| 3#64 <<< 32) :: List.replicate 7 0#64 } :: List.replicate 30 Part.reset,
    sys := { base.sys with srole := 1#64 }, insts := is }
def confidential (a : Part) : Part := { a with mccfg := 1#64, key := some 7 }
/-- A rectangle of the one quire 0 (R423), and two rectangles of the quires 0 and 2 with the second's mark. -/
def enable : W64 := 1#64
def twoParts : W64 := 0x801#64 ||| 2#64 <<< 18 ||| 2#64 <<< 20
/-- The partition of two parts, its quires 0 and 2, and the PATH tunnel that joins them (R409). -/
def joining (a : Part → Part) : State :=
  { owning (fun p => a { p with quires := 5, mccfg := twoParts }) [] with tunnels := [⟨3#64, 0#64⟩] }
/-- The generation 1 is current and 0 retires, or none. -/
def turned (r : Option (BitVec 16)) (a : Part) : Part := { confidential a with gen := 1, retiring := r, tkey := 8, tkeyOld := 6 }
/-- A token under way to handle 0 of the thread, number 0 of the channel of router 4 under generation 1, its tag changed by x. -/
def under (x : BitVec 128) : Transit := ⟨0, 5, 4, 1, 0, transitTag 8 (transitIv 0 4 0 1 0) .eos ^^^ x, .eos, .pop 0⟩
def sealing (ts : List Transit) : State := { owning (turned (some 0#16)) [thread] with transits := ts }
/-- The same to entry port 0 of folio 0, with no route from it. -/
def porting : State :=
  { sealing [{ under 0 with dst := .port 0 0 }] with ports := [⟨5, 0, 0, [], [], ⟨none, []⟩, 0, false, false, []⟩] }
/-- A FENCE is due at Trearo core 0, at some level, with some delegation. -/
def fencing (l : Nat) (d : W64) : State := { base with fenceRaise := true, cores := [{ TCore.reset with level := l, deleg := d }, TCore.reset] }

theorem witness_PartitionRegisters :
    ((owning id []).sys.psel.toNat = 0 ∧ (owning id []).sys.mpselP.toNat = 0 ∧ (owning id []).parts.length = 32 ∧
      ((owning id []).part 0).slices &&& 3#64 ≠ 0#64 ∧ connected (quireList 0x1#32) = true ∧ quireList 0x5#32 = [0, 2] ∧
      3#64 &&& (owning id []).sys.srole ≠ 0#64 ∧ 2#64 &&& (owning id []).sys.srole = 0#64 ∧
      rangeHas (1#64 ||| 2#64 <<< 1 ||| 3#64 <<< 32) (3 * 2 ^ 21) = true ∧ rangeHas (1#64 ||| 3#64 <<< 1 ||| 4#64 <<< 32) (3 * 2 ^ 21) = true) ∧
    (let s := joining id
     (s.part 0).mccfg.getLsbD 11 = true ∧ (∃ x ∈ s.tunnels, x.joins 1 0 = true) ∧ quireList 0x5#32 = rectangles (s.part 0).mccfg ∧
      rectangles twoParts = quireList (s.part 0).quires ∧ twoParts.getLsbD 11 = true ∧ s.joined 0 twoParts = true) ∧
    ([(0, 0)] = thread.region ∧ thread.part = 0 ∧ thread.state = .run) ∧
    ((rectangles enable = quireList ((owning id []).part 0).quires) ∧ enable.getLsbD 0 = true ∧ enable.getLsbD 11 = false ∧ enable.getLsbD 38 = false ∧
      ((owning id []).part 0).mccfg.getLsbD 0 = false ∧ ((owning confidential []).part 0).mccfg.getLsbD 0 = true ∧
      (1#64 ||| 1#64 <<< 38).getLsbD 38 = true ∧ (1#64 ||| 1#64 <<< 38) &&& 0x3FFFFF#64 = ((owning confidential []).part 0).mccfg &&& 0x3FFFFF#64) ∧
    (∀ r ∈ [none, some 0#16], ((owning (turned r) []).part 0).mccfg.getLsbD 0 = true ∧ ((owning (turned r) []).part 0).retiring = r ∧
      (owning (turned r) []).transits = []) ∧
    (∃ x ∈ ({ sealing [] with transits := [{ under 0 with gen := 0 }] } : State).transits, x.part = 0 ∧ x.gen = (0#16).toNat) ∧
    (let s := owning (fun a => { turned none a with chans := [⟨4, 0, 1, 2 ^ 31 - 1, 0⟩] }) []
     ((s.part 0).chan 4 0 (s.part 0).gen.toNat).sent + 1 = 2 ^ 31 ∧ (s.part 0).mccfg.getLsbD 0 = true ∧ (s.part 0).retiring = none) ∧
    (let a := turned (some 0#16) { Part.reset with chans := [⟨4, 0, 1, 2 ^ 31, 0⟩] }
     a.retiring = some 0#16 ∧ a.mccfg.getLsbD 0 = true ∧ ∃ c ∈ a.chans, c.gen ≠ (0#16).toNat ∧ c.gen = a.gen.toNat ∧ 2 ^ 31 ≤ c.sent) ∧
    (∀ ts, (sealing ts).inst? 5 = some thread ∧ thread.live = true ∧ thread.kill = none ∧ ((sealing ts).part thread.part).mccfg.getLsbD 0 = true ∧
      ((sealing ts).part thread.part).transitKey 2 = none ∧ ((sealing ts).part thread.part).transitKey 1 = some 8 ∧
      ((sealing ts).part thread.part).transitKey 0 = some 6 ∧ (((sealing ts).part thread.part).chan 4 0 1).seq = 0) ∧
    ((under 0).tag = transitTag 8 (transitIv thread.part 4 0 1 0) (under 0).tok ∧ (under 1).tag ≠ transitTag 8 (transitIv thread.part 4 0 1 0) (under 1).tok ∧
      thread.handles[0]? = some Handle.free) ∧
    (∃ p, porting.port? 5 0 0 = some p ∧ porting.portRoutes 5 0 0 = [] ∧ porting.transits = [{ under 0 with dst := .port 0 0 }]) ∧
    (∀ l d, (fencing l d).fenceRaise = true ∧ ((fencing l d).tcore 0).hung = false ∧ ((fencing l d).tcore 0).m.inh = false ∧
      ((fencing l d).tcore 0).s.inh = false ∧ ((fencing l d).tcore 0).level = l ∧ ((fencing l d).tcore 0).deleg = d) ∧ (0x1000#64).getLsbD 0x0C = true := by
  refine ⟨by decide +kernel, by decide +kernel, by decide +kernel, by decide +kernel, ?_, ⟨_, List.mem_singleton.mpr rfl, rfl, rfl⟩, by decide +kernel, by decide +kernel,
    fun ts => ⟨rfl, by decide +kernel, rfl, (by decide : (1#64).getLsbD 0 = true), rfl, rfl, rfl, rfl⟩, ⟨?_, ?_, rfl⟩, ⟨_, rfl, rfl, rfl⟩,
    fun _ _ => ⟨rfl, rfl, rfl, rfl, rfl, rfl⟩, by decide⟩
  · simp only [List.forall_mem_cons, List.not_mem_nil, false_imp_iff, implies_true, and_true]
    exact ⟨by decide +kernel, by decide +kernel⟩
  · simp [under, thread, Inst.blank]
  · have h (a : BitVec 128) : a ^^^ 1#128 ≠ a := by
      intro e
      have := congrArg (a ^^^ ·) e
      simp at this
    exact h _

/-- A request outside of some kind that has left, and ports. -/
def asked (kind : Nat) (peer : Option Nat) (posted : Bool) (ans : Option (Nat × List Byte)) : Remote :=
  ⟨3, 5, 0x100, peer, kind, 0x1000, 0x1000#64, 8, natBytes 8 1, 0#64, 0, posted, 0#64, true, ans, peer.map fun _ => 0⟩
def outside (r : Remote) (nsec : Nat) : State :=
  { owning id [] with remotes := [r], nsec := BitVec.ofNat 64 nsec, portsUp := true :: List.replicate 17 false, sys := { base.sys with mpkg := 9#12, mpkgSet := true } }
/-- A header flit: type, destination 9, source 2, tag 3, status, address, member (R429). -/
def flit (type status addr member : Nat) : BitVec 512 :=
  BitVec.ofNat 512 (type + 9 * 2 ^ 4 + 2 * 2 ^ 16 + 3 * 2 ^ 39 + status * 2 ^ 66 + addr * 2 ^ 72 + member * 2 ^ 124)
/-- A coll of 8 bytes in group 3 that waits for its result; the same, its result at hand, in a phase. -/
def reducing : Request :=
  { Request.new 9 4 (BitVec.ofNat 512 (0x00F0000000000400 + 0x00F0000000000600 * 2 ^ 64 + 8 * 2 ^ 128 + 3 * 2 ^ 256)) 7#64 false false true with started := true }
def member (r : Remote) (q : Request) : State :=
  { outside r 0 with insts := [{ thread with active := true, handles := { Handle.free with bind := .engine 0, reqs := [q] } :: List.replicate 15 Handle.free }] }

theorem outside_port (r : Remote) (n : Nat) : (outside r n).portFor 2 = some 0 ∧ (outside r n).upPorts = [0] := by
  have hu : (outside r n).upPorts = [0] := rfl
  refine ⟨?_, hu⟩
  rw [State.portFor, hu]
  simp [Nat.mod_one]

theorem outside_carries : (outside (asked 0 (some 2) false none) 0).carries 0 = true := by decide +kernel

theorem witness_OutsideCompletions :
    (∀ e ∈ [(0, none, 49999999), (0, none, 50000000), (1, some 2, 1999999), (1, some 2, 2000000), (4, none, 1000000000), (5, none, 49999999),
        (6, none, 50000000), (7, none, 49999999)],
      (outside (asked e.1 e.2.1 false none) e.2.2).remotes = [asked e.1 e.2.1 false none] ∧
      (outside (asked e.1 e.2.1 false none) e.2.2).nsec.toNat = e.2.2 ∧ (asked e.1 e.2.1 false none).sent.toNat = 0 ∧
      (outside (asked e.1 e.2.1 false none) e.2.2).heldPackets = [] ∧ (asked e.1 e.2.1 false none).gone = true ∧
      (outside (asked e.1 e.2.1 false none) e.2.2).upPorts = [0] ∧ (outside (asked e.1 e.2.1 false none) e.2.2).draining = []) ∧
    (let s : State := { outside (asked 0 none false none) 0 with remotes := [{ asked 1 none true none with id := 2 }, asked 0 none false none] }
     (asked 0 none false none).serial < 2 ^ 42 ∧ ∃ x ∈ s.remotes, x.serial = 5 ∧ x.peer = none ∧ x.id < 3 ∧ x.ans = none) ∧
    (∀ k < 4, (asked k (some 2) true none).peer = some (fieldN (flit (2 * k + 1) 0 0 0) 16 12) ∧ 3 % 2 ^ 16 = fieldN (flit (2 * k + 1) 0 0 0) 39 16 ∧
      fieldN (flit (2 * k + 1) 0 0 0) 0 4 = 2 * k + 1 ∧ fieldN (flit (2 * k + 1) 2 0 0) 66 6 = 2 ∧ fieldN (flit (2 * k + 1) 1 0 0) 66 6 = 1 ∧
      fieldN (flit (2 * k + 1) 0 0 0) 66 6 = 0 ∧ (natBytes 8 5).length = (asked k (some 2) false none).size ∧
      fieldN (flit (2 * k + 1) 0 0 0) 4 12 = (outside (asked k (some 2) true none) 0).sys.mpkg.toNat) ∧
    (∀ d, ({ outside (asked 0 (some 2) false none) 0 with heldPackets := [(3, d)] } : State).heldPackets = [(3, d)] ∧
      ({ outside (asked 0 (some 2) false none) 0 with draining := [0] } : State).draining = [0]) ∧
    ((outside (asked 0 none false none) 0).portsUp.getD 0 false = true ∧ (outside (asked 0 none false none) 0).draining = [] ∧
      (outside (asked 1 none true (some (3, []))) 0).remotes = [asked 1 none true (some (3, []))] ∧
      (outside (asked 0 none false none) 0).carries 0 = false ∧ (outside (asked 0 none false none) 0).portsUp.getD 1 false = false) ∧
    ((resetting false).fns.length = 257 ∧ ({ Fn.reset with owed := [1, 0, 0, 0, 0, 0, 0, 0], msixMask := 1 } : Fn).owed.getD 0 0 = 1 ∧
      ∀ on : Bool, (({ Fn.reset with msixOn := on } : Fn).msixOn && !({ Fn.reset with msixOn := on } : Fn).msixHold) = on) ∧
    (∀ l ∈ (outside (asked 6 none false none) 50000000).remotes, l.kind = 6 ∧ l.sent.toNat + 50000000 ≤ (outside (asked 6 none false none) 50000000).nsec.toNat) :=
  ⟨by decide +kernel, by decide +kernel, by decide +kernel, fun _ => ⟨rfl, rfl⟩, by decide +kernel, by decide +kernel, by decide +kernel⟩

/-- A collective's member: its result is due, its result is at hand or all written (R435). -/
theorem witness_CollectiveMember :
    (let q := { reducing with wait := some 3 }
     let s := member (asked 5 none false none) q
     ∃ i a, s.waitingReq 3 = some (i, 0, q) ∧ s.inst? i.serial = some i ∧ i.handles[0]? = some a ∧ a.reqs.find? (fun y => y.id == q.id) = some q ∧
      s.upPorts = [0] ∧ s.draining = [] ∧ s.heldPackets = [] ∧
      ∀ n, 2 ≤ n → (List.replicate (n - 1) (natBytes 8 1)).length + 1 = n ∧ ∀ l ∈ List.replicate (n - 1) (natBytes 8 1), l.length = q.len) ∧
    (∀ l : List Byte, let q := { reducing with idx := some 3, buf := some l }
     let s := member (asked 7 none false none) q
     ∃ i a, s.inst? 5 = some i ∧ i.handles[0]? = some a ∧ a.reqs[0]? = some q ∧ (∀ x ∈ a.reqs, x.id = q.id → x = q) ∧
      (∀ x ∈ a.reqs, x.told = false → x.resp = none) ∧ i.region ≠ [] ∧ q.resp = none ∧ a.mayStart q = true ∧ q.started = true ∧ q.member = 4 ∧
      q.wait = none ∧ q.idx = some (asked 7 none false none).id ∧ q.buf = some l ∧ s.remotes = [asked 7 none false none] ∧
      s.resolve i.who .store 0x00F0000000000400#64 = .ok (.win tile 0x400) s ∧ ¬ Held s i.who tile ∧
      inWindow (q.desc.extractLsb' 0 64 + BitVec.ofNat 64 q.pos) = true ∧ q.desc.extractLsb' 0 64 + BitVec.ofNat 64 q.pos = 0x00F0000000000400#64) := by
  have hw : inWindow (reducing.desc.extractLsb' 0 64 + BitVec.ofNat 64 reducing.pos) = true ∧
      reducing.desc.extractLsb' 0 64 + BitVec.ofNat 64 reducing.pos = 0x00F0000000000400#64 := by decide +kernel
  refine ⟨⟨_, _, rfl, rfl, rfl, rfl, rfl, rfl, rfl, fun n hn => ⟨by rw [List.length_replicate]; omega, fun l hl => ?_⟩⟩,
    fun l => ⟨_, _, rfl, rfl, rfl, fun x hx _ => List.mem_singleton.mp hx, fun x hx _ => by rw [List.mem_singleton.mp hx]; rfl, List.cons_ne_nil _ _, rfl,
      rfl, rfl, rfl, rfl, rfl, rfl, rfl, rfl, not_held (by decide +kernel : (member (asked 7 none false none) reducing).crossesTo thread.who tile = false), hw.1, hw.2⟩⟩
  rw [List.eq_of_mem_replicate hl]
  decide +kernel

/-- A function of owner 4 is bound to partition 0; a byte with an error. -/
def peered (bad : List Nat) : State :=
  { outside (asked 0 none false none) 0 with fns := { Fn.reset with pv := true, owner := 4 } :: List.replicate 256 Fn.reset, poison := bad }

theorem witness_PeerRequests :
    (∀ t ∈ [0, 2, 4, 6], fieldN (flit t 0 0x1FFFF8 12) 0 4 = t ∧ fieldN (flit t 0 0x1FFFF8 12) 124 4 = 12 ∧
      fieldN (flit t 0 0x1FFFF8 12) 4 12 = (peered []).sys.mpkg.toNat ∧ (peered []).upPorts = [0] ∧ (peered []).draining = [] ∧
      (flit t 0 0x1FFFF8 12).toNat / 2 ^ 72 % 2 ^ 52 = 0x1FFFF8 ∧ (peered []).owns 0 0x1FFFF8 = true ∧ (peered []).owns 0 (0x1FFFF8 + 7) = true ∧
      0x1FFFF8 % 8 = 0 ∧ (∀ p < 32, (peered []).owns p 0x200000 = false) ∧ (peered []).poisoned 0x1FFFF8 8 = false ∧
      (peered [0x1FFFFF]).poisoned 0x1FFFF8 8 = true ∧ (peered []).seals = [] ∧ (peered []).bars = []) ∧
    ((peered []).ownerOf 0x1FFFF8 8 = some 0 ∧ (peered []).ownerOfPart 0 = some 4 ∧ Memory.wf (peered []).mem = true) ∧
    (fieldN (flit 0 0 0 13) 124 4 = 13 ∧ 0x1FFFFC % 8 ≠ 0 ∧ ({ peered [] with sys := base.sys } : State).sys.mpkg.toNat ≠ 9 ∧
      ({ peered [] with portsUp := [] } : State).upPorts = []) ∧
    ((flit 6 0 0x800 0).toNat / 2 ^ 72 % 2 ^ 16 / 2 ^ 11 = 1 ∧ ((peered []).part 1).en = false ∧ ((peered []).part 0).en = true ∧
      (peered []).messages = [] ∧ 0 + (natBytes 8 1).length ≤ 16 * 2 ^ 20) := by
  decide +kernel

theorem full_buffer (l : List Byte) (h : l.length = 16 * 2 ^ 20) :
    ¬ ((({ peered [] with messages := [⟨2, 0, l⟩] } : State).messages.map fun m => m.data.length).sum + (natBytes 8 1).length ≤ 16 * 2 ^ 20) := by
  simp only [List.map_cons, List.map_nil, List.sum_cons, List.sum_nil, h, natBytes_length]
  omega

theorem witness_FullBuffer : ∃ l : List Byte, l.length = 16 * 2 ^ 20 := ⟨List.replicate (16 * 2 ^ 20) 0#8, List.length_replicate⟩

/-- The hub's registers in some state. -/
def hubAt (mboot : Nat) (mact : BitVec 2) (set : Bool) (mtherm : Nat) : State :=
  { hub with sys := { hub.sys with mboot := BitVec.ofNat 64 mboot, mactState := mact, mpkgSet := set, mtherm := BitVec.ofNat 64 mtherm } }

theorem witness_HubEvents :
    ((hubAt 0 0 false 0).sys.mboot.toNat % 16 = 0 ∧ (hubAt 4 0 false 0).sys.mboot.toNat % 16 = 4 ∧ (hubAt 5 0 false 0).sys.mboot.toNat % 16 = 5 ∧
      (hubAt 0x23 0 false 0).sys.mboot.toNat / 2 ^ 4 % 16 = 2 ∧ (hubAt 5 0 false 0).sys.mboot.toNat % 2 ^ 8 = 5 ∧ (hubAt 0x105 0 false 0).sys.mboot.getLsbD 8 = true ∧
      (hubAt 5 0 false 0).sys.mboot.getLsbD 8 = false ∧ (hubAt 4 0 false 0).sys.fetchFails < 2 ∧
      2 ≤ ({ (hubAt 4 0 false 0).sys with fetchFails := 2 } : Sysregs).fetchFails) ∧
    ((hubAt 5 1 true 0).sys.mactState = 1#2 ∧ (hubAt 5 2 true 0).sys.mactState = 2#2 ∧ (hubAt 5 0 true 0).sys.mactState ≠ 2#2 ∧
      (hubAt 5 0 true 0).sys.mpkgSet = true ∧ (hubAt 5 0 false 0).sys.mpkgSet = false) ∧
    ((hubAt 5 0 false 0xF00).sys.mtherm.toNat / 2 ^ 8 % 16 = 15 ∧ 110 ≤ (hubAt 5 0 false 110).sys.mtherm.toNat % 2 ^ 8 ∧
      ¬ 110 ≤ (hubAt 5 0 false 109).sys.mtherm.toNat % 2 ^ 8 ∧
      (∀ e ∈ [(99999, false), (100000, true)], decide (hub.sys.thermAt.toNat + 100000 ≤ ({ hub with nsec := BitVec.ofNat 64 e.1 } : State).nsec.toNat) = e.2)) ∧
    (∀ ts ∈ [[], [⟨1, 1, .event .hubReset⟩], [⟨1, 1, .event .freeze⟩], [⟨1, 1, .core 0 0⟩]], ({ hub with frozen := true, turns := ts } : State).frozen = true) ∧
    (let s : State := { owning confidential [] with frozen := true }
     s.arrayPart (.tile 0 1 1 0 64) = some 0 ∧ (s.part 0).mccfg.getLsbD 0 = true ∧ s.arrayPart (.tile 5 1 1 0 64) = some 1 ∧ (s.part 1).mccfg.getLsbD 0 = false ∧
      s.sys.mboot.toNat / 2 ^ 4 % 16 = 0) ∧
    (∀ e ∈ [(1999999, false), (2000000, true)],
      decide ((({ hubAt 5 2 true 0 with nsec := BitVec.ofNat 64 e.1 } : State).pass 0 0).sys.commitAt.toNat + 2000000 ≤
        (({ hubAt 5 2 true 0 with nsec := BitVec.ofNat 64 e.1 } : State).pass 0 0).nsec.toNat) = e.2) := by
  refine ⟨by decide +kernel, by decide +kernel, by decide +kernel, ?_, by decide +kernel, by decide +kernel⟩
  simp

end Sys2Proof.Tests
end

namespace Sys2Proof.Machine

/-! ### Updates one after another -/

theorem updAt_updAt {α : Type} (l : List α) (n : Nat) (f g : α → α) : updAt (updAt l n f) n g = updAt l n (g ∘ f) := by
  induction l generalizing n with
  | nil => rfl
  | cons a l ih =>
    cases n with
    | zero => rfl
    | succ n => exact congrArg (a :: ·) (ih n)

theorem updAt_comm {α : Type} (l : List α) (m n : Nat) (f g : α → α) (h : ∀ a, f (g a) = g (f a)) :
    updAt (updAt l n g) m f = updAt (updAt l m f) n g := by
  induction l generalizing m n with
  | nil => rfl
  | cons a l ih => cases m <;> cases n <;> simp [updAt, h, ih]

theorem updWhere_updWhere {α : Type} (p : α → Bool) (f g : α → α) (l : List α) (hp : ∀ a, p (f a) = p a) :
    updWhere p g (updWhere p f l) = updWhere p (g ∘ f) l := by
  simp only [updWhere, List.map_map]
  refine List.map_congr_left fun a _ => ?_
  by_cases ha : p a <;> simp [ha, hp]

/-- Two updates by conditions that neither of them touches may change places. -/
theorem updWhere_comm {α : Type} (p q : α → Bool) (f g : α → α) (l : List α) (hp : ∀ a, p (g a) = p a) (hq : ∀ a, q (f a) = q a)
    (h : ∀ a, f (g a) = g (f a)) : updWhere p f (updWhere q g l) = updWhere q g (updWhere p f l) := by
  simp only [updWhere, List.map_map]
  refine List.map_congr_left fun a _ => ?_
  by_cases ha : p a <;> by_cases hb : q a <;> simp [ha, hb, hp, hq, h]

theorem State.modSup_modSup (s : State) (k : Nat) (f g : SupBank → SupBank) : (s.modSup k f).modSup k g = s.modSup k (g ∘ f) := by
  simp only [State.modSup, updAt_updAt]

theorem State.modSup_comm (s : State) (m n : Nat) (f g : SupBank → SupBank) (h : ∀ b, f (g b) = g (f b)) :
    (s.modSup n g).modSup m f = (s.modSup m f).modSup n g := by
  simp only [State.modSup, updAt_comm _ m n f g h]

theorem State.modTcore_modTcore (s : State) (k : Nat) (f g : TCore → TCore) : (s.modTcore k f).modTcore k g = s.modTcore k (g ∘ f) := by
  simp only [State.modTcore, updAt_updAt]

theorem State.modOn_modOn (s : State) (n : Nat) (f g : Inst → Inst) (hf : ∀ i, (f i).hw = i.hw) :
    (s.modOn n f).modOn n g = s.modOn n (g ∘ f) := by
  have := updWhere_updWhere (fun i : Inst => i.hw == some n) f g s.insts fun i => by simp [hf i]
  simp only [State.modOn, this]

theorem State.modOn_comm (s : State) (m n : Nat) (f g : Inst → Inst) (hf : ∀ i, (f i).hw = i.hw) (hg : ∀ i, (g i).hw = i.hw)
    (h : ∀ i, f (g i) = g (f i)) : (s.modOn n g).modOn m f = (s.modOn m f).modOn n g := by
  have := updWhere_comm (fun i : Inst => i.hw == some m) (fun i => i.hw == some n) f g s.insts (fun i => by simp [hg i])
    (fun i => by simp [hf i]) h
  simp only [State.modOn, this]

theorem State.modInst_modOn (s : State) (m n : Nat) (f g : Inst → Inst) (hf : ∀ i, (f i).hw = i.hw)
    (hg : ∀ i, (g i).serial = i.serial) (h : ∀ i, f (g i) = g (f i)) : (s.modOn n g).modInst m f = (s.modInst m f).modOn n g := by
  have := updWhere_comm (fun i : Inst => i.serial == m) (fun i => i.hw == some n) f g s.insts (fun i => by simp [hg i])
    (fun i => by simp [hf i]) h
  simp only [State.modOn, State.modInst, this]

theorem State.active_modSup (s : State) (k : Nat) (f : SupBank → SupBank) (hf : ∀ b, (f b).active = b.active) (j : Nat) :
    ((s.modSup k f).sup j).active = (s.sup j).active := by
  rw [State.sup_modSup]; split <;> simp [hf]

/-! ### A stall's end beside another update -/

theorem State.dropAsks_modSup (s : State) (k : Nat) (f : SupBank → SupBank) (hf : ∀ b, (f b).active = b.active) :
    (s.modSup k f).dropAsks = s.dropAsks.modSup k f := by
  have hr : (s.modSup k f).reqId = s.reqId := by simp only [State.reqId, State.modSup_cur, s.active_modSup k f hf]; rfl
  simp only [State.dropAsks, hr]; rfl

theorem State.meId_modOn (s : State) (n : Nat) (f : Inst → Inst) (hh : ∀ i, (f i).hw = i.hw) (hs : ∀ i, (f i).serial = i.serial) :
    (s.modOn n f).meId = s.meId := by
  simp only [State.meId, State.modOn_cur, State.instOn_modOn _ _ _ _ hh]
  cases s.cur with
  | trearo k => rfl
  | ctl m =>
    cases h : s.instOn m with
    | none => simp [h]
    | some i => simp only [h, Option.map_some]; split <;> simp [hs]

theorem State.dropAsks_modOn (s : State) (n : Nat) (f : Inst → Inst) (hh : ∀ i, (f i).hw = i.hw) (hs : ∀ i, (f i).serial = i.serial) :
    (s.modOn n f).dropAsks = s.dropAsks.modOn n f := by
  have hr : (s.modOn n f).reqId = s.reqId := by simp only [State.reqId, State.modOn_cur, State.sup_modOn, s.meId_modOn n f hh hs]
  simp only [State.dropAsks, hr]; rfl

theorem State.endStall_modSup (s : State) (k : Nat) (f : SupBank → SupBank) (ha : ∀ b, (f b).active = b.active)
    (hw : ∀ n b, SupBank.waits n false (f b) = f (SupBank.waits n false b)) : (s.modSup k f).endStall = s.endStall.modSup k f := by
  unfold State.endStall
  simp only [State.modSup_cur, State.instOn_modSup, s.dropAsks_modSup k f ha, State.modSup_comm _ _ k _ f (hw _)]
  cases s.cur with
  | trearo j => rfl
  | ctl n =>
    cases h : s.instOn n with
    | none => simp [h]
    | some i => simp only [h]; split <;> rfl

theorem State.endStall_modOn (s : State) (n : Nat) (f : Inst → Inst) (hh : ∀ i, (f i).hw = i.hw) (hs : ∀ i, (f i).serial = i.serial)
    (hst : ∀ i, (f i).stall = i.stall) (hr : ∀ i, Inst.resume (f i) = f (Inst.resume i)) :
    (s.modOn n f).endStall = s.endStall.modOn n f := by
  unfold State.endStall
  simp only [State.modOn_cur, s.dropAsks_modOn n f hh hs, State.instOn_modOn _ _ _ _ hh]
  cases s.cur with
  | trearo j => rfl
  | ctl m =>
    cases h : s.instOn m with
    | none => simp [h]; rfl
    | some i =>
      have hi : ∀ b : Bool, (if b then f i else i).stall = i.stall ∧ (if b then f i else i).serial = i.serial := by
        intro b; cases b <;> simp [hst, hs]
      simp only [h, Option.map_some, hi]
      split
      · exact congrArg (State.dropAuto · i.serial)
          ((s.dropAsks.modSup (htCore m) (SupBank.waits m false)).modInst_modOn i.serial n Inst.resume f (fun _ => rfl) hs hr)
      · rfl

theorem State.meId_modInst (s : State) (n : Nat) (f : Inst → Inst) (hh : ∀ i, (f i).hw = i.hw) (hs : ∀ i, (f i).serial = i.serial) :
    (s.modInst n f).meId = s.meId := by
  simp only [State.meId, State.modInst_cur, State.instOn_modInst _ _ _ _ hh]
  cases s.cur with
  | trearo k => rfl
  | ctl m =>
    cases h : s.instOn m with
    | none => simp [h]
    | some i => simp only [h, Option.map_some]; split <;> simp [hs]

theorem State.dropAsks_modInst (s : State) (n : Nat) (f : Inst → Inst) (hh : ∀ i, (f i).hw = i.hw) (hs : ∀ i, (f i).serial = i.serial) :
    (s.modInst n f).dropAsks = s.dropAsks.modInst n f := by
  have hr : (s.modInst n f).reqId = s.reqId := by simp only [State.reqId, s.meId_modInst n f hh hs]; rfl
  simp only [State.dropAsks, hr]; rfl

theorem State.dropAsks_dropAsks (s : State) : s.dropAsks.dropAsks = s.dropAsks := by
  have hr : s.dropAsks.reqId = s.reqId := rfl
  simp only [State.dropAsks] at hr ⊢
  simp [hr]

theorem SupBank.active_waits (n : Nat) (b : SupBank) : (SupBank.waits n false b).active = b.active := by
  unfold SupBank.waits; split <;> rfl

theorem SupBank.regs_waits (n : Nat) (b : SupBank) : (SupBank.waits n false b).regs = b.regs := by
  unfold SupBank.waits; split <;> rfl

theorem SupBank.waits_waits (n : Nat) (w : Bool) : SupBank.waits n w ∘ SupBank.waits n w = SupBank.waits n w := by
  funext b; simp only [Function.comp_apply, SupBank.waits]; split <;> simp_all

/-- A supervisor that has been told that it waits no more, with its requests gone, may be told so again. -/
theorem State.unwait_unwait (s : State) (k n : Nat) :
    ((s.dropAsks.modSup k (SupBank.waits n false)).dropAsks).modSup k (SupBank.waits n false) =
      s.dropAsks.modSup k (SupBank.waits n false) := by
  rw [State.dropAsks_modSup _ _ _ (SupBank.active_waits n), State.dropAsks_dropAsks, State.modSup_modSup, SupBank.waits_waits]

/-- A stall that has ended stays so. -/
theorem State.endStall_endStall (s : State) : s.endStall.endStall = s.endStall := by
  conv_lhs => rw [State.endStall]
  rw [State.endStall_cur]
  cases hc : s.cur with
  | trearo j => simp [State.endStall, hc, State.dropAsks_dropAsks]
  | ctl n =>
    cases hi : s.instOn n with
    | none =>
      have he : s.endStall = s.dropAsks.modSup (htCore n) (SupBank.waits n false) := by simp [State.endStall, hc, hi]
      have hn : (s.dropAsks.modSup (htCore n) (SupBank.waits n false)).instOn n = none := hi
      simp only [he, hn, State.unwait_unwait]
    | some i =>
      by_cases hs : i.stall.isSome
      · have he : s.endStall = ((s.dropAsks.modSup (htCore n) (SupBank.waits n false)).modInst i.serial Inst.resume).dropAuto i.serial := by
          simp [State.endStall, hc, hi, hs]
        have hn : s.endStall.instOn n = some i.resume := by
          rw [he]
          exact (State.instOn_modInst (s.dropAsks.modSup (htCore n) (SupBank.waits n false)) i.serial Inst.resume n fun _ => rfl).trans
            (by rw [State.instOn_modSup, show s.dropAsks.instOn n = some i from hi]; simp)
        simp only [hn, show i.resume.stall.isSome = false from rfl, Bool.false_eq_true, if_false]
        rw [he]
        show ((((s.dropAsks.modSup (htCore n) (SupBank.waits n false)).modInst i.serial Inst.resume).dropAsks).modSup (htCore n)
          (SupBank.waits n false)).dropAuto i.serial = _
        rw [State.dropAsks_modInst _ _ Inst.resume (fun _ => rfl) fun _ => rfl]
        exact congrArg (fun t : State => (t.modInst i.serial Inst.resume).dropAuto i.serial) (s.unwait_unwait (htCore n) n)
      · have he : s.endStall = s.dropAsks.modSup (htCore n) (SupBank.waits n false) := by simp [State.endStall, hc, hi, hs]
        have hn : (s.dropAsks.modSup (htCore n) (SupBank.waits n false)).instOn n = some i := hi
        simp only [he, hn, hs, State.unwait_unwait]; rfl

/-- What does not see whether the supervisor waits sees a bank as it was before the stall ended. -/
theorem State.sup_settle {α : Type} (s : State) (p : SupBank → α) (hp : ∀ n b, p (SupBank.waits n false b) = p b) (j : Nat) :
    p ((s.retire .stay).sup j) = p (s.sup j) := by
  have hw : ∀ (t : State) (k n : Nat), p ((t.modSup k (SupBank.waits n false)).sup j) = p (t.sup j) := fun t k n => by
    rw [State.sup_modSup]; split <;> simp [hp]
  have hm : ∀ t : State, (t.modMe (Inst.progressed s.nsec)).sup j = t.sup j := fun t => by simp [State.sup]
  rw [State.retire_stay, hm]
  unfold State.endStall
  split
  · split
    · split
      · exact hw s.dropAsks _ _
      · exact hw s.dropAsks _ _
    · exact hw s.dropAsks _ _
  · rfl

/-! ### What of an `Inst` a completed word leaves -/

section
variable {α : Type} (p : Inst → α)

theorem State.map_instOn_modOn (s : State) (n : Nat) (f : Inst → Inst) (hh : ∀ i, (f i).hw = i.hw) (hp : ∀ i, p (f i) = p i) (k : Nat) :
    ((s.modOn n f).instOn k).map p = (s.instOn k).map p := by
  rw [State.instOn_modOn _ _ _ _ hh]
  cases s.instOn k with
  | none => rfl
  | some i => simp only [Option.map_some]; split <;> simp [hp]

theorem State.map_instOn_modInst (s : State) (n : Nat) (f : Inst → Inst) (hh : ∀ i, (f i).hw = i.hw) (hp : ∀ i, p (f i) = p i) (k : Nat) :
    ((s.modInst n f).instOn k).map p = (s.instOn k).map p := by
  rw [State.instOn_modInst _ _ _ _ hh]
  cases s.instOn k with
  | none => rfl
  | some i => simp only [Option.map_some]; split <;> simp [hp]

theorem State.map_instOn_modMe (s : State) (f : Inst → Inst) (hh : ∀ i, (f i).hw = i.hw) (hp : ∀ i, p (f i) = p i) (k : Nat) :
    ((s.modMe f).instOn k).map p = (s.instOn k).map p := by
  unfold State.modMe
  split
  · exact s.map_instOn_modOn p _ f hh hp k
  · rfl

theorem State.map_instOn_modCtx (s : State) (f : Ctx → Ctx) (hp : ∀ i, p (Inst.mapCtx f i) = p i) (k : Nat) :
    ((s.modCtx f).instOn k).map p = (s.instOn k).map p := by
  unfold State.modCtx
  split
  · split
    · rfl
    · exact s.map_instOn_modOn p _ (Inst.mapCtx f) (fun _ => rfl) hp k
  · rfl

theorem State.map_instOn_endStall (s : State) (hp : ∀ i, p (Inst.resume i) = p i) (k : Nat) :
    (s.endStall.instOn k).map p = (s.instOn k).map p := by
  unfold State.endStall
  split
  · split
    · split
      · exact (s.dropAsks.modSup _ _).map_instOn_modInst p _ Inst.resume (fun _ => rfl) hp k
      · rfl
    · rfl
  · rfl

/-- The `Inst` on a thread after a word completes: as it was, to whatever sees no stall, no progress and no context. -/
theorem State.map_instOn_retire (s : State) (hr : ∀ i, p (Inst.resume i) = p i) (hv : ∀ v i, p (Inst.progressed v i) = p i)
    (hc : ∀ f i, p (Inst.mapCtx f i) = p i) (fl : Flow) (k : Nat) : ((s.retire fl).instOn k).map p = (s.instOn k).map p := by
  have hs : ((s.retire .stay).instOn k).map p = (s.instOn k).map p := by
    rw [State.retire_stay, State.map_instOn_modMe p _ (Inst.progressed s.nsec) (fun _ => rfl) (hv _), State.map_instOn_endStall p _ hr]
  by_cases hf : fl = .stay
  · rw [hf, hs]
  · rw [State.retire_eq s fl hf, State.map_instOn_modCtx p _ _ (hc _), hs]

end

/-! ### The executing context, beside what a word that completes does -/

theorem State.modCtx_modCtx (s : State) (f g : Ctx → Ctx) : (s.modCtx f).modCtx g = s.modCtx (g ∘ f) := by
  cases hc : s.cur with
  | ctl n =>
    by_cases ha : (s.sup (htCore n)).active = some n
    · have ha' : ((s.modSup (htCore n) fun b => { b with ctx := f b.ctx }).sup (htCore n)).active = some n :=
        (s.active_modSup (htCore n) (fun b => { b with ctx := f b.ctx }) (fun _ => rfl) (htCore n)).trans ha
      simp only [State.modCtx, hc, ha, if_true, State.modSup_cur, ha', State.modSup_modSup]; rfl
    · simp only [State.modCtx, hc, ha, if_false, State.modOn_cur, State.sup_modOn]
      exact s.modOn_modOn n (Inst.mapCtx f) (Inst.mapCtx g) fun _ => rfl
  | trearo k =>
    simp only [State.modCtx, hc, State.modTcore_cur, State.modTcore_modTcore]
    congr 1; funext c
    simp only [Function.comp_apply]
    by_cases h0 : c.level = 0
    · simp [h0]
    · by_cases h1 : c.level = 1 <;> simp [h0, h1]

/-- The end of a stall and the mark of progress touch no context, so they may come before or after it changes. -/
theorem State.settle_modCtx (s : State) (f : Ctx → Ctx) : (s.modCtx f).retire .stay = (s.retire .stay).modCtx f := by
  simp only [State.retire_stay, State.modCtx_nsec]
  cases hc : s.cur with
  | ctl n =>
    have ha := s.sup_settle SupBank.active SupBank.active_waits (htCore n)
    rw [State.retire_stay] at ha
    by_cases hs : (s.sup (htCore n)).active = some n
    · rw [hs] at ha
      simp only [State.modCtx, hc, hs, if_true, State.modMe_cur, State.endStall_cur, ha]
      rw [s.endStall_modSup (htCore n) (fun b => { b with ctx := f b.ctx }) (fun _ => rfl) fun m b => by
        unfold SupBank.waits; split <;> rfl]
      simp only [State.modMe, State.modSup_cur, State.endStall_cur, hc]; rfl
    · rw [← ha] at hs
      simp only [State.modCtx, hc, ha ▸ hs, if_false, State.modMe_cur, State.endStall_cur, hs]
      rw [s.endStall_modOn n (Inst.mapCtx f) (fun _ => rfl) (fun _ => rfl) (fun _ => rfl) fun _ => rfl]
      simp only [State.modMe, State.modOn_cur, State.endStall_cur, hc]
      exact State.modOn_comm _ n n _ _ (fun _ => rfl) (fun _ => rfl) fun _ => rfl
  | trearo k =>
    simp [State.modCtx, State.modMe, State.endStall, State.dropAsks, State.reqId, State.meId, hc]; rfl

/-- A word that is complete may be completed in place once more: no stall is left, and the progress is the same. -/
theorem State.settle_settle (s : State) : (s.retire .stay).retire .stay = s.retire .stay := by
  have hp : ∀ (t : State) (v : W64), (t.modMe (Inst.progressed v)).endStall = t.endStall.modMe (Inst.progressed v) := by
    intro t v
    simp only [State.modMe, State.endStall_cur]
    cases t.cur with
    | trearo j => rfl
    | ctl n => exact t.endStall_modOn n (Inst.progressed v) (fun _ => rfl) (fun _ => rfl) (fun _ => rfl) fun _ => rfl
  simp only [State.retire_stay, hp, State.modMe_nsec, State.endStall_nsec, State.endStall_endStall]
  simp only [State.modMe]
  cases hc : s.cur with
  | trearo j => simp [hc]
  | ctl n =>
    simp only [State.modOn_cur, State.endStall_cur, hc]
    exact s.endStall.modOn_modOn n (Inst.progressed s.nsec) (Inst.progressed s.nsec) fun _ => rfl

/-- A bank after a word completes: as it was, to whatever sees neither who waits nor the context. -/
theorem State.sup_retire {α : Type} (s : State) (p : SupBank → α) (hw : ∀ n b, p (SupBank.waits n false b) = p b)
    (hc : ∀ (f : Ctx → Ctx) b, p { b with ctx := f b.ctx } = p b) (fl : Flow) (j : Nat) : p ((s.retire fl).sup j) = p (s.sup j) := by
  have hm : ∀ (t : State) (f : Ctx → Ctx), p ((t.modCtx f).sup j) = p (t.sup j) := fun t f => by
    unfold State.modCtx
    split
    · split
      · rw [State.sup_modSup]; split <;> simp [hc]
      · rfl
    · rfl
  by_cases hf : fl = .stay
  · rw [hf, s.sup_settle p hw]
  · rw [State.retire_eq s fl hf, hm, s.sup_settle p hw]

/-- An update of a bank that keeps who is active and the context changes no thread's context. -/
theorem State.ctxOf_modSup (s : State) (j : Nat) (f : SupBank → SupBank) (ha : ∀ b, (f b).active = b.active)
    (hc : ∀ b, (f b).ctx = b.ctx) (k : Hart) : (s.modSup j f).ctxOf k = s.ctxOf k := by
  have hx : ∀ i, ((s.modSup j f).sup i).ctx = (s.sup i).ctx := fun i => by rw [State.sup_modSup]; split <;> simp [hc]
  cases k with
  | ctl m => simp only [State.ctxOf, s.active_modSup j f ha, hx, State.instOn_modSup]
  | trearo i => rfl

/-- A thread that another update leaves its context has one after it. -/
theorem State.threaded_of_ctx? {s t : State} (h : s.threaded) (hc : t.cur = s.cur) (hl : t.cores.length = s.cores.length)
    (hx : t.ctx? = s.ctx?) : t.threaded := by
  unfold State.threaded at *
  rw [hc, hl, hx]; exact h

/-! ### Requests that outlive the word -/

theorem State.endStall_remotes (s : State) : s.endStall.remotes = s.dropAsks.remotes := by
  unfold State.endStall; split <;> [(split <;> [split; skip]); skip] <;> rfl

theorem State.retire_remotes (s : State) (fl : Flow) : (s.retire fl).remotes = s.dropAsks.remotes := by
  cases fl <;> simp [State.retire, State.setPc, State.endStall_remotes]

/-- A posted store is out until it is answered, whatever its word's thread does next (R177). -/
theorem State.posted_retire {s : State} {r : Remote} (h : r ∈ s.remotes) (hp : r.posted = true) (fl : Flow) :
    r ∈ (s.retire fl).remotes := by
  rw [State.retire_remotes]
  exact List.mem_filter.mpr ⟨h, by simp [hp]⟩

/-! ### Bytes stored, beside the rest of an access -/

theorem modCtx_put (s : State) (f : Ctx → Ctx) (k : Nat) (l : List Byte) : (s.put k l).modCtx f = (s.modCtx f).put k l := by
  have hs : ∀ j, (s.put k l).sup j = s.sup j := fun _ => rfl
  simp only [State.modCtx, State.put_cur, hs]
  cases s.cur with
  | ctl n => dsimp only; split <;> rfl
  | trearo j => rfl

theorem endStall_put (s : State) (k : Nat) (l : List Byte) : (s.put k l).endStall = s.endStall.put k l := by
  have hi : ∀ n, (s.put k l).instOn n = s.instOn n := fun _ => rfl
  have hd : (s.put k l).dropAsks = s.dropAsks.put k l := rfl
  simp only [State.endStall, State.put_cur, hi, hd]
  cases s.cur with
  | trearo j => rfl
  | ctl n =>
    cases h : s.instOn n with
    | none => simp only [h]; rfl
    | some i => simp only [h]; split <;> rfl

theorem modMe_put (s : State) (f : Inst → Inst) (k : Nat) (l : List Byte) : (s.put k l).modMe f = (s.modMe f).put k l := by
  simp only [State.modMe, State.put_cur]
  cases s.cur <;> rfl

theorem retire_put (s : State) (fl : Flow) (k : Nat) (l : List Byte) : (s.put k l).retire fl = (s.retire fl).put k l := by
  have hs : (s.put k l).retire .stay = (s.retire .stay).put k l := by
    simp only [State.retire_stay, State.put_nsec, endStall_put, modMe_put]
  by_cases hf : fl = .stay
  · rw [hf, hs]
  · rw [State.retire_eq _ fl hf, State.retire_eq _ fl hf, hs, modCtx_put]

theorem hbmMoved_put (s : State) (o : Option Nat) (n k : Nat) (l : List Byte) : (s.put k l).hbmMoved o n = (s.hbmMoved o n).put k l := by
  cases o <;> rfl

theorem switchKey_put (s : State) (p k : Nat) (l : List Byte) : (s.put k l).switchKey p = (s.switchKey p).put k l := by
  have hp : (s.put k l).part p = s.part p := rfl
  simp only [State.switchKey, hp]
  split <;> rfl

theorem number_put (s : State) (p r kind k : Nat) (l : List Byte) :
    (s.put k l).number p r kind = ((s.number p r kind).1, (s.number p r kind).2.put k l) := by
  have hp : (s.put k l).part p = s.part p := rfl
  have hm : ∀ f, (s.put k l).modPart p f = (s.modPart p f).put k l := fun _ => rfl
  simp only [State.number, hp, hm, switchKey_put]
  split <;> rfl

theorem crossing_put (s : State) (p q r k : Nat) (l : List Byte) : (s.put k l).crossing p q r = (s.crossing p q r).put k l := by
  have hp : ∀ t : State, (t.put k l).part p = t.part p := fun _ => rfl
  have ho : ∀ (t : State) (a b c n : Nat), (t.put k l).opened p a b c n = (t.opened p a b c n).put k l := fun _ _ _ _ _ => rfl
  simp only [State.crossing, hp, number_put, ho]
  split <;> rfl

theorem sealedTo_put (s : State) (w : Who) (pool : Pool) (k : Nat) (l : List Byte) :
    (s.put k l).sealedTo w pool = (s.sealedTo w pool).put k l := by
  have hp : (s.put k l).part w.part = s.part w.part := rfl
  unfold State.sealedTo
  cases pool.quire? with
  | none => rfl
  | some q => exact crossing_put s _ _ _ k l

/-! ### A word that changes its own context and completes -/

theorem State.isSome_ctx? {s : State} (h : s.threaded) : s.ctx?.isSome = true := by
  unfold State.threaded at h
  cases hc : s.cur with
  | ctl n => rwa [hc] at h
  | trearo k =>
    simp only [State.ctx?, State.ctxOf, hc]
    by_cases h0 : (s.tcore k).level = 0
    · simp [h0]
    · by_cases h1 : (s.tcore k).level = 1 <;> simp [h0, h1]

theorem State.ctx?_retire_modCtx {s : State} (h : s.threaded) (f : Ctx → Ctx) :
    ((s.modCtx f).retire .next).ctx? = s.ctx?.map (Flow.next.apply ∘ f) := by
  rw [State.ctx?_retire _ _ (s.threaded_modCtx f h), State.ctx?_modCtx s f h, Option.map_map]

/-! ### A word that leaves its context to the advance of pc -/

/-- The word completes: its registers and predicates are as before, and pc goes on. -/
structure Advanced (s t : State) : Prop where
  regs : ∀ r, t.rd r = s.rd r
  preds : ∀ k, t.pr k = s.pr k
  pc : t.pc = s.pc + 4#64

theorem advanced_of_ctx? {s t : State} (h : s.threaded) (ht : t.ctx? = s.ctx?.map Flow.next.apply) : Advanced s t := by
  obtain ⟨c, hc⟩ := Option.isSome_iff_exists.mp (State.isSome_ctx? h)
  rw [hc] at ht
  constructor <;> intros <;> simp only [State.rd, State.pr, State.pc, ht, hc] <;> rfl

/-- Whatever a word did that left the contexts alone, its completion advances it. -/
theorem advanced_retire {s r : State} (h : s.threaded) (hr : r.threaded) (hx : r.ctx? = s.ctx?) : Advanced s (r.retire .next) :=
  advanced_of_ctx? h (by rw [State.ctx?_retire _ _ hr, hx])

/-! ### Words that trap at decode (R140, R181) -/

theorem runWord_ill {s : State} {need : Nat} {regs : List (BitVec 5)} {g : BitVec 3} {body : State → Ans Flow} (h : s.threaded) :
    runWord s true need regs g body = .next (takeTrap s (trapOf 0x01 0)) := by
  obtain ⟨c, hc⟩ := Option.isSome_iff_exists.mp (State.isSome_ctx? h)
  simp only [runWord, hc, wordAns, if_true, finish]

theorem runWord_priv {s : State} {need : Nat} {regs : List (BitVec 5)} {g : BitVec 3} {body : State → Ans Flow} (h : s.threaded)
    (hl : s.level < need) : runWord s false need regs g body = .next (takeTrap s (trapOf 0x02 0)) := by
  obtain ⟨c, hc⟩ := Option.isSome_iff_exists.mp (State.isSome_ctx? h)
  simp only [runWord, hc, wordAns, Bool.false_eq_true, if_false, if_pos hl, finish]

@[simp] theorem Ans.bind_ok {α β : Type} (a : α) (s : State) (f : α → State → Ans β) : (Ans.ok a s).bind f = f a s := rfl
@[simp] theorem Ans.bind_trap {α β : Type} (t : Trap) (s : State) (f : α → State → Ans β) : (Ans.trap t s).bind f = .trap t s := rfl
@[simp] theorem Ans.bind_wait {α β : Type} (w : Option WaitFor) (s : State) (f : α → State → Ans β) :
    (Ans.wait w s).bind f = .wait w s := rfl

/-! ### The bytes of a number (R2) -/

theorem memBytes_length (m : List Host.Cell) (n : Nat) : ∀ a, (memBytes m a n).length = n := by
  induction n with
  | zero => intro a; rfl
  | succ n ih => intro a; exact congrArg (· + 1) (ih (a + 1))

theorem bytesNat_lt (l : List Byte) : bytesNat l < 2 ^ (8 * l.length) := by
  induction l with
  | nil => decide
  | cons b l ih =>
    have hb := b.isLt
    have h : 2 ^ (8 * (l.length + 1)) = 256 * 2 ^ (8 * l.length) := by rw [Nat.mul_succ, Nat.pow_add]; omega
    rw [bytesNat, List.length_cons, h]; omega

theorem num_lt (s : State) (a n : Nat) : s.num a n < 2 ^ (8 * n) := by
  simpa [State.num, State.bytes, memBytes_length] using bytesNat_lt (memBytes s.mem a n)

theorem getElem_natBytes (n : Nat) : ∀ (v k : Nat) (h : k < (natBytes n v).length),
    (natBytes n v)[k] = BitVec.ofNat 8 (v / 256 ^ k) := by
  induction n with
  | zero => intro v k h; exact absurd h (by simp [natBytes])
  | succ n ih =>
    intro v k h
    cases k with
    | zero => simp [natBytes]
    | succ k =>
      have := ih (v / 256) k (by simpa [natBytes] using h)
      simpa [natBytes, Nat.div_div_eq_div_mul, Nat.pow_succ'] using this

theorem getElem_memBytes (m : List Host.Cell) (n : Nat) : ∀ (a k : Nat) (h : k < (memBytes m a n).length),
    (memBytes m a n)[k] = memRead m (a + k) := by
  induction n with
  | zero => intro a k h; exact absurd h (by simp [memBytes])
  | succ n ih =>
    intro a k h
    cases k with
    | zero => rfl
    | succ k =>
      have := ih (a + 1) k (by simpa [memBytes] using h)
      simpa [memBytes, Nat.add_assoc, Nat.add_comm 1 k] using this

/-- Byte k of a number that is put is that byte of the number. -/
theorem memRead_putNum (m : List Host.Cell) (hm : Memory.wf m = true) (a n v k : Nat) (hk : k < n) :
    memRead (memPut m a (natBytes n v)) (a + k) = BitVec.ofNat 8 (v / 256 ^ k) := by
  have hb := memBytes_memPut (natBytes n v) m a hm
  have hl : k < (memBytes (memPut m a (natBytes n v)) a (natBytes n v).length).length := by
    rw [memBytes_length, natBytes_length]; exact hk
  rw [← getElem_memBytes _ _ a k hl, List.getElem_of_eq hb hl, getElem_natBytes]

/-- The low bits of a word are cleared. -/
theorem setField_low (v : W64) (n : Nat) : setField v 0 n 0 = v &&& ~~~BitVec.ofNat 64 (2 ^ n - 1) := by
  simp [setField]

/-- Fields that follow one another, as a number. -/
theorem toNat_append_eq {m n : Nat} (x : BitVec m) (y : BitVec n) : (x ++ y).toNat = x.toNat * 2 ^ n + y.toNat := by
  rw [BitVec.toNat_append, ← Nat.shiftLeft_add_eq_or_of_lt y.isLt, Nat.shiftLeft_eq]

theorem byte_of_word (x : W64) (k : Nat) : BitVec.ofNat 8 (x.toNat / 256 ^ k) = x.extractLsb' (8 * k) 8 := by
  apply BitVec.eq_of_toNat_eq
  rw [BitVec.toNat_ofNat, BitVec.extractLsb'_toNat, Nat.shiftRight_eq_div_pow, Nat.pow_mul]

end Sys2Proof.Machine

namespace Sys2Proof.Claims
open Sys2Proof.Machine

/-! ### The frame of a word that changes its own context -/

/-- The rest of the machine, as `blank` shows it, is the same whatever becomes of the executing context. -/
theorem blank_modCtx (s : State) (f : Ctx → Ctx) : blank (s.modCtx f) = blank s := by
  simp only [blank, State.settle_modCtx, State.modCtx_modCtx]; rfl

/-- `blank` completes the word itself, so that a completed word shows the same rest. -/
theorem blank_retire (s : State) (fl : Flow) : blank (s.retire fl) = blank s := by
  have hs : blank (s.retire .stay) = blank s := by rw [blank, blank, State.settle_settle]
  by_cases hf : fl = .stay
  · rw [hf, hs]
  · rw [State.retire_eq s fl hf, blank_modCtx, hs]

theorem kept_modCtx (s : State) (f : Ctx → Ctx) : Kept s ((s.modCtx f).retire .next) where
  others h hh := by rw [State.ctxOf_retire _ _ _ (by simpa using hh), State.ctxOf_modCtx _ _ _ hh]
  rest := by rw [blank_retire, blank_modCtx]
  memory a := by simp

/-- A word that writes xd and goes on. -/
theorem writes_wr {s : State} (h : s.threaded) (d : BitVec 5) (v : W64) : Writes s d v ((s.wr d v).retire .next) := by
  obtain ⟨c, hc⟩ := Option.isSome_iff_exists.mp (State.isSome_ctx? h)
  have hx : ((s.wr d v).retire .next).ctx? = some ((c.wr d v).at ((c.wr d v).pc + 4#64)) := by
    rw [State.wr, State.ctx?_retire_modCtx h, hc]; rfl
  have hrd : ∀ (x : Ctx) (w : W64) (r : BitVec 5), (x.at w).rd r = x.rd r := fun _ _ _ => rfl
  have hpr : ∀ (x : Ctx) (w : W64) (k : BitVec 3), (x.at w).pr k = x.pr k := fun _ _ _ => rfl
  refine { kept_modCtx s fun c => c.wr d v with value := ?_, regs := ?_, preds := ?_, pc := ?_ }
  · simp only [State.rd, hx, Option.map_some, Option.getD_some, hrd, Ctx.rd_wr, if_true]
  · intro r hr
    simp only [State.rd, hx, hc, Option.map_some, Option.getD_some, hrd, Ctx.rd_wr, if_neg hr]
    by_cases h0 : r = 0#5
    · simp [h0, Ctx.rd]
    · simp [h0]
  · intro k
    simp only [State.pr, hx, hc, Option.map_some, Option.getD_some, hpr, Ctx.pr_wr]
  · simp only [State.pc, hx, hc, Option.map_some, Option.getD_some, Ctx.pc_wr]; rfl

/-- A word that stores bytes and goes on. -/
theorem beside_put (r : State) (k : Nat) (l : List Byte) : Beside r ((r.put k l).retire .next) where
  others h hh := by
    rw [retire_put]
    exact r.ctxOf_retire .next h hh
  rest := by
    have hb : ∀ t : State, noMem (blank (t.put k l)) = noMem (blank t) := fun t => by
      simp only [blank, retire_put, modCtx_put]; rfl
    rw [retire_put, hb, blank_retire]

/-- A word that is ready runs its body (R140). -/
theorem Ready.run {s : State} {regs : List (BitVec 5)} {g : BitVec 3} (h : Ready s regs g) {ill : Bool} {need : Nat}
    (hi : ill = false) (hl : need ≤ s.level) (body : State → Ans Flow) :
    runWord s ill need regs g body = .next (finish (body s)) :=
  runWord_next hi (State.isSome_ctx? h.1) hl h.2.1 h.2.2

end Sys2Proof.Claims

namespace Sys2Proof.Machine

/-! ### What an access leaves alone -/

/-- The same threads, with the same contexts, and the same bytes of memory. -/
structure Alike (s t : State) : Prop where
  cur : t.cur = s.cur
  insts : t.insts = s.insts
  sups : t.sups = s.sups
  cores : t.cores = s.cores
  mem : t.mem = s.mem

theorem Alike.refl (s : State) : Alike s s := ⟨rfl, rfl, rfl, rfl, rfl⟩

theorem Alike.trans {s t u : State} (h : Alike s t) (k : Alike t u) : Alike s u :=
  ⟨k.cur.trans h.cur, k.insts.trans h.insts, k.sups.trans h.sups, k.cores.trans h.cores, k.mem.trans h.mem⟩

theorem Alike.ctxOf {s t : State} (h : Alike s t) (k : Hart) : t.ctxOf k = s.ctxOf k := by
  have hs : ∀ j, t.sup j = s.sup j := fun j => by simp only [State.sup, h.sups]
  have hc : ∀ j, t.tcore j = s.tcore j := fun j => by simp only [State.tcore, h.cores]
  have hi : ∀ n, t.instOn n = s.instOn n := fun n => by simp only [State.instOn, h.insts]
  cases k with
  | ctl n => simp only [State.ctxOf, hs, hi]
  | trearo j => simp only [State.ctxOf, hc]

theorem Alike.ctx? {s t : State} (h : Alike s t) : t.ctx? = s.ctx? := by
  rw [State.ctx?, State.ctx?, h.cur, h.ctxOf]

theorem Alike.threaded {s t : State} (h : Alike s t) (hs : s.threaded) : t.threaded := by
  unfold State.threaded at *
  rw [h.cur, h.ctx?, h.cores]; exact hs

theorem alike_modPart (s : State) (p : Nat) (f : Part → Part) : Alike s (s.modPart p f) := ⟨rfl, rfl, rfl, rfl, rfl⟩

/-- Where an answer goes on, it does so with the threads and the memory of s. -/
def Ans.Leaves {α : Type} (s : State) (x : Ans α) : Prop := ∀ a u, x = .ok a u → Alike s u

section
variable {α β : Type} {s t : State}

theorem Ans.Leaves.ok {a : α} (h : Alike s t) : (Ans.ok a t).Leaves s := by rintro _ _ ⟨⟩; exact h

theorem Ans.Leaves.trap (e : Trap) : (Ans.trap e t : Ans α).Leaves s := fun _ _ h => nomatch h

theorem Ans.Leaves.wait (w : Option WaitFor) : (Ans.wait w t : Ans α).Leaves s := fun _ _ h => nomatch h

theorem Ans.Leaves.bind {x : Ans α} {f : α → State → Ans β} (hx : x.Leaves s) (hf : ∀ a t, (f a t).Leaves t) : (x.bind f).Leaves s := by
  intro b u h
  cases x with
  | ok a t => exact (hx a t rfl).trans (hf a t b u h)
  | trap | wait => nomatch h

end

theorem alike_walkCached (s : State) (p va : Nat) (user : Bool) (a : Acc) : Alike s (s.walkCached p va user a).2 := by
  unfold State.walkCached; split <;> exact ⟨rfl, rfl, rfl, rfl, rfl⟩

theorem alike_translation (s : State) (p va : Nat) (user : Bool) (a : Acc) : Alike s (s.translation p va user a).2 := by
  unfold State.translation
  dsimp only
  split
  · exact alike_walkCached s p va user a
  · split
    · exact ⟨rfl, rfl, rfl, rfl, rfl⟩
    · exact .trans (t := { s with free := s.free + 1 }) ⟨rfl, rfl, rfl, rfl, rfl⟩ (alike_walkCached _ p va user a)

theorem leaves_translate (s : State) (w : Who) (a : Acc) (va : W64) : (s.translate w a va).Leaves s := by
  have ht := alike_translation s w.part (va.toNat % 2 ^ 57) w.user a
  unfold State.translate
  split
  · exact .trap _
  next he =>
    rw [he] at ht
    split
    · exact .trap _
    · exact .ok ht

/-- An address is refused, lies in a window, or is translated (R88, R89). -/
theorem leaves_resolve (s : State) (w : Who) (a : Acc) (va : W64) : (s.resolve w a va).Leaves s := by
  unfold State.resolve
  repeat' split
  any_goals exact .trap _
  any_goals exact leaves_translate s w a va
  all_goals exact .ok (.refl s)

theorem leaves_physical (s : State) (va : W64) : (s.physical va).Leaves s := by
  unfold State.physical
  repeat' split
  any_goals exact .trap _
  exact .ok (.refl s)

theorem leaves_locate (s : State) (a : Acc) (va : W64) : (s.locate a va).Leaves s := by
  unfold State.locate
  split
  · exact leaves_resolve s s.who a va
  · exact leaves_physical s va

theorem alike_switchKey (s : State) (p : Nat) : Alike s (s.switchKey p) := by
  unfold State.switchKey; dsimp only; split <;> exact ⟨rfl, rfl, rfl, rfl, rfl⟩

theorem alike_number (s : State) (p router kind : Nat) : Alike s (s.number p router kind).2 := by
  unfold State.number; dsimp only
  split
  · exact (alike_modPart s p _).trans (alike_switchKey _ p)
  · exact alike_modPart s p _

theorem alike_crossing (s : State) (p q r : Nat) : Alike s (s.crossing p q r) := by
  unfold State.crossing; dsimp only
  split
  · exact (((alike_number s p _ 1).trans (alike_modPart _ p _)).trans (alike_number _ p _ 2)).trans (alike_modPart _ p _)
  · exact .refl s

theorem alike_sealedTo (s : State) (w : Who) (pool : Pool) : Alike s (s.sealedTo w pool) := by
  unfold State.sealedTo
  split
  · exact alike_crossing s _ _ _
  · exact .refl s

theorem alike_hbmMoved (s : State) (o : Option Nat) (n : Nat) : Alike s (s.hbmMoved o n) := by
  unfold State.hbmMoved; split <;> exact ⟨rfl, rfl, rfl, rfl, rfl⟩

/-- A request outside the package that goes on has had its answer, and changes nothing. -/
theorem leaves_remoteAsk (s : State) (peer : Option Nat) (kind pa : Nat) (va : W64) (n : Nat) (data : List Byte) (e : W64)
    (member tsub : Nat) : (s.remoteAsk peer kind pa va n data e member tsub).Leaves s := by
  unfold State.remoteAsk
  split
  · exact .wait _
  · split
    · exact .wait _
    · split
      · exact .ok (.refl s)
      · exact .trap _

theorem leaves_readAt (s : State) (a : Acc) (va : W64) (n : Nat) : (s.readAt a va n).Leaves s := by
  refine (leaves_locate s a va).bind fun p t => ?_
  cases p with
  | win pool o =>
    dsimp only
    split
    · exact .wait _
    · split
      · exact .trap _
      · exact .ok (alike_sealedTo t t.who pool)
  | hbm pa sealed =>
    dsimp only
    split
    · exact .trap _
    · split
      · exact .trap _
      · exact .ok (alike_hbmMoved t t.who.owner n)
  | host pa => exact leaves_remoteAsk t _ _ _ _ _ _ _ _ _
  | peer k pa => exact leaves_remoteAsk t _ _ _ _ _ _ _ _ _

theorem leaves_inOrder (s : State) (w : Option WaitFor) : (s.inOrder w).Leaves s := by
  unfold State.inOrder
  split
  · exact .wait _
  · exact .ok (.refl s)

theorem leaves_load (s : State) (va : W64) (n : Nat) : (s.load va n).Leaves s := by
  unfold State.load
  split
  · exact .trap _
  · exact (leaves_inOrder s _).bind fun _ t => (leaves_readAt t .load va n).bind fun _ r => .ok (.refl r)

/-! ### Windows between the parts of a confidential partition (R416, R417) -/

/-- The claims' `Held` is the model's test. -/
theorem held_iff (s : State) (w : Who) (pool : Pool) : Claims.Held s w pool ↔ s.keyHeld w pool = true := by
  unfold Claims.Held State.keyHeld
  cases pool.quire? with
  | none => simp
  | some q =>
    simp only [Part.spent, Bool.and_eq_true, Bool.or_eq_true, decide_eq_true_eq, ← and_or_left]
    constructor
    · rintro ⟨_, ⟨⟩, h⟩; exact h
    · exact fun h => ⟨q, rfl, h⟩

/-- A window in the partition's own part takes no packet numbers and never waits for them. -/
theorem sealedTo_of_inside {s : State} {w : Who} {pool : Pool} (h : s.crossesTo w pool = false) :
    s.sealedTo w pool = s ∧ ¬ Claims.Held s w pool := by
  rw [held_iff]
  unfold State.crossesTo at h
  unfold State.sealedTo State.keyHeld
  cases hq : pool.quire? with
  | none => simp
  | some q =>
    rw [hq] at h
    simp_all [State.crossing]

/-! ### Addresses and widths of an access (R176, R177) -/

theorem shift_eq_mul (v : W64) (z : BitVec 2) : v <<< z.toNat = v * BitVec.ofNat 64 (2 ^ z.toNat) := by
  rw [BitVec.shiftLeft_eq_mul_twoPow]
  exact congrArg (v * ·) (BitVec.eq_of_toNat_eq (by rw [BitVec.toNat_twoPow, BitVec.toNat_ofNat]))

theorem loadEA_eq (a : W64) (off : BitVec 10) (z : BitVec 2) :
    loadEA a off z = a + off.signExtend 64 * BitVec.ofNat 64 (2 ^ z.toNat) := congrArg (a + ·) (shift_eq_mul _ z)

theorem storeEA_eq (a : W64) (off : BitVec 11) (z : BitVec 2) :
    storeEA a off z = a + off.signExtend 64 * BitVec.ofNat 64 (2 ^ z.toNat) := congrArg (a + ·) (shift_eq_mul _ z)

/-- The widening of R176, of a value that fits its bytes. -/
theorem widen_eq (sx : BitVec 1) {n v : Nat} (hn : 0 < n) (hv : v < 2 ^ (8 * n)) :
    widen sx n v = if sx = 1#1 then (BitVec.ofNat (8 * n) v).signExtend 64 else BitVec.ofNat 64 v := by
  have hw : 2 ^ (8 * n) = 2 * 2 ^ (8 * n - 1) := by rw [← Nat.pow_succ']; congr 1; omega
  unfold widen
  by_cases hs : sx = 1#1
  · rw [if_pos hs, BitVec.signExtend, BitVec.toInt_eq_toNat_cond, BitVec.toNat_ofNat, Nat.mod_eq_of_lt hv]
    by_cases hb : 2 ^ (8 * n - 1) ≤ v
    · rw [if_pos ⟨hs, hb⟩, if_neg (by omega), sub_eq_add_neg, sub_eq_add_neg, BitVec.ofInt_add, BitVec.ofInt_neg]
      simp only [w64, BitVec.ofInt_natCast]
    · rw [if_neg (by simp [hb]), if_pos (by omega), BitVec.ofInt_natCast]; rfl
  · rw [if_neg (by simp [hs]), if_neg hs]; rfl

end Sys2Proof.Machine

namespace Sys2Proof.Claims
open Sys2Proof.Machine

section
variable {s : State} {d a : BitVec 5} {off : BitVec 10} {sx : BitVec 1} {z : BitVec 2} {g : BitVec 3}

/-- A load that is ready (R176). -/
theorem Ready.exec_ld (h : Ready s [d, a] g) : exec (.ld d a off sx z g) s =
    .next (finish ((s.load (s.rd a + off.signExtend 64 * BitVec.ofNat 64 (2 ^ z.toNat)) (2 ^ z.toNat)).bind fun v t =>
      .ok .next (t.wr d (widen sx (2 ^ z.toNat) v)))) := by
  rw [← loadEA_eq]
  exact h.run rfl (Nat.zero_le _) _

end

end Sys2Proof.Claims

namespace Sys2Proof.Machine

/-! ### Loads (R176) -/

/-- A load of a window (R179 rows 1 to 7). -/
theorem State.load_win {s u : State} {va : W64} {n o : Nat} {pool : Pool} (ha : va.toNat % n = 0)
    (hl : s.locate .load va = .ok (.win pool o) u) (hp : s.postedLeft none = false) :
    s.load va n = if u.keyHeld u.who pool then .wait (some (remoteWait va)) u
      else if u.poisoned (pool.mem o) n then .trap (trapAt 0x12 0x03 va) u
      else .ok (u.num (pool.mem o) n) (u.sealedTo u.who pool) := by
  simp only [State.load, State.inOrder, State.readAt, ha, hp, hl, Ans.bind_ok, bne_self_eq_false, Bool.false_eq_true, if_false]
  by_cases hk : u.keyHeld u.who pool
  · simp only [hk, if_true, Ans.bind_wait]
  · by_cases hb : u.poisoned (pool.mem o) n
    · simp only [hk, hb, if_true, Bool.false_eq_true, if_false, Ans.bind_trap]
    · simp only [hk, hb, Bool.false_eq_true, if_false, Ans.bind_ok, State.num]

/-- Row 1 of R179: a misaligned address. -/
theorem State.load_misaligned {s : State} {va : W64} {n : Nat} (ha : va.toNat % n ≠ 0) : s.load va n = .trap (trapAt 0x03 0 va) s := by
  simp [State.load, ha]

/-! ### Stores (R177) -/

section
variable {s u : State} {va : W64} {n : Nat} (v : Nat)

theorem State.store_win {o : Nat} {pool : Pool} (ha : va.toNat % n = 0) (hl : s.locate .store va = .ok (.win pool o) u)
    (hp : u.postedLeft none = false) :
    s.store va n v = if u.keyHeld u.who pool then .wait none u
      else .ok () ((u.sealedTo u.who pool).put (pool.mem o) (natBytes n v)) := by
  rw [← sealedTo_put]
  simp only [State.store, State.inOrder, State.putNum, ha, hp, hl, Ans.bind_ok, bne_self_eq_false, Bool.false_eq_true, if_false]

theorem State.store_hbm {pa : Nat} (ha : va.toNat % n = 0) (hl : s.locate .store va = .ok (.hbm pa false) u)
    (hr : u.mayReach pa = true) (hs : u.sealAt (pa / 4096 * 4096) = none) (hp : u.postedLeft none = false) :
    s.store va n v = .ok () ((u.hbmMoved u.who.owner n).put (hbmKey pa) (natBytes n v)) := by
  rw [← hbmMoved_put]
  simp only [State.store, State.inOrder, State.hbmWrite, State.breakSeal, ha, hp, hl, hr, hs, Ans.bind_ok, bne_self_eq_false,
    Bool.false_eq_true, Bool.not_true, if_false]
  rfl

/-- A store to host memory that is sent: what goes out (R177). -/
def State.hostStore (u : State) (pa : Nat) (va : W64) (n v : Nat) : Remote :=
  ⟨u.nextId, u.reqId, u.meFn, none, 1, pa, va, n, natBytes n v, 0, 0, true, u.nsec, true, none, none⟩

/-- The machine with that store sent. -/
def State.withStore (u : State) (pa : Nat) (va : W64) (n v : Nat) : State :=
  { u with remotes := u.remotes ++ [u.hostStore pa va n v], nextId := u.nextId + 1 }

theorem State.store_host {pa : Nat} (ha : va.toNat % n = 0) (hl : s.locate .store va = .ok (.host pa) u)
    (hp : u.postedLeft (some none) = false) :
    s.store va n v = .ok () (u.withStore pa va n v) := by
  simp only [State.store, State.post, ha, hp, hl, Ans.bind_ok, bne_self_eq_false, Bool.false_eq_true, if_false]
  rfl

end

end Sys2Proof.Machine

namespace Sys2Proof.Claims
open Sys2Proof.Machine

section
variable {s : State} {x a : BitVec 5} {off : BitVec 11} {z : BitVec 2} {g : BitVec 3}

/-- A store that is ready (R177). -/
theorem Ready.exec_st (h : Ready s [x, a] g) : exec (.st x a off z g) s =
    .next (finish ((s.store (s.rd a + off.signExtend 64 * BitVec.ofNat 64 (2 ^ z.toNat)) (2 ^ z.toNat) (s.rd x).toNat).bind
      fun _ t => .ok .next t)) := by
  rw [← storeEA_eq]
  exact h.run rfl (Nat.zero_le _) _

end

/-- The bytes that a store to `key` leaves, and what else of the thread and the machine it leaves (R177). -/
theorem stored_put {s r : State} (h : s.threaded) (hr : Alike s r) (hm : Memory.wf s.mem = true) (key n : Nat) (v : W64) :
    let t := (r.put key (natBytes n v.toNat)).retire .next
    (∀ k, k < n → memRead t.mem (key + k) = v.extractLsb' (8 * k) 8) ∧
      (∀ k, k < key ∨ key + n ≤ k → memRead t.mem k = memRead s.mem k) ∧
      (∀ r, t.rd r = s.rd r) ∧ (∀ k, t.pr k = s.pr k) ∧ t.pc = s.pc + 4#64 ∧ Beside r t := by
  obtain ⟨hregs, hpreds, hpc⟩ := advanced_retire (r := r.put key (natBytes n v.toNat)) h (hr.threaded h) hr.ctx?
  have ht : ((r.put key (natBytes n v.toNat)).retire .next).mem = memPut s.mem key (natBytes n v.toNat) := by
    rw [State.retire_mem, State.put_mem, hr.mem]
  refine ⟨fun k hk => ?_, fun k hk => ?_, hregs, hpreds, hpc, beside_put r key _⟩
  · rw [ht, memRead_putNum _ hm _ _ _ _ hk, byte_of_word]
  · rw [ht, memRead_memPut_outside _ _ _ _ (by rwa [natBytes_length])]

end Sys2Proof.Claims

namespace Sys2Proof.Machine

/-! ### The levels and the numbers of special registers (R181) -/

theorem lt_regLevel_iff (n l : Nat) : l < regLevel n ↔ (0x100 ≤ n ∧ l = 0) ∨ (0x400 ≤ n ∧ l < 2) := by
  unfold regLevel; split_ifs <;> omega

theorem regLevel_le_iff (n l : Nat) : regLevel n ≤ l ↔ n < 0x100 ∨ (n < 0x400 ∧ 1 ≤ l) ∨ 2 ≤ l := by
  unfold regLevel; split_ifs <;> omega

theorem State.assigned_user {n : Nat} (s : State) (h : userReg n = true) : s.assigned n = true := by simp [State.assigned, h]

theorem State.assigned_quire {s : State} {n k : Nat} (hc : s.cur = .ctl k) (h : quireReg n = true) : s.assigned n = true := by
  simp [State.assigned, State.onCtl, hc, h]

theorem State.countCorrected_other (s : State) {n : Nat} (h : n ≠ 0x444) : s.countCorrected n = s := if_neg h

theorem State.level_sup {s : State} {k : Nat} (hc : s.cur = .ctl k) (ha : (s.sup (htCore k)).active = some k) : s.level = 1 := by
  simp [State.level, State.levelOf, hc, ha]

/-! ### User registers (R182, R184) -/

theorem State.readUser_thread {s : State} {k : Nat} (hc : s.cur = .ctl k) : s.readUser 0x001 = BitVec.ofNat 64 (k % 8) := by
  unfold State.readUser; rw [hc]; rfl

theorem State.readUser_quire {s : State} {k : Nat} (hc : s.cur = .ctl k) : s.readUser 0x002 = BitVec.ofNat 64 (k / 8) := by
  unfold State.readUser; rw [hc]; rfl

/-- The other user registers are fields of the thread's `Inst`. -/
theorem State.readUser_inst {s : State} {i : Inst} {n : Nat} (hi : s.me = some i) (hn : n ∉ [0x001, 0x002, 0x004, 0x005, 0x0FF]) :
    s.readUser n = s.readInst i n := by
  simp only [List.mem_cons, List.not_mem_nil, or_false, not_or] at hn
  obtain ⟨h1, h2, h4, h5, hf⟩ := hn
  unfold State.readUser
  split
  · exact absurd rfl h1
  · exact absurd rfl h2
  · exact absurd rfl h4
  · exact absurd rfl h5
  · exact absurd rfl hf
  · simp only [hi]

/-- The fields of IID (R22). -/
theorem iid_word (owner part serial : Nat) : w64 (serial % 2 ^ 32 + part % 32 * 2 ^ 43 + owner % 64 * 2 ^ 48) =
    (BitVec.ofNat 6 owner ++ BitVec.ofNat 5 part ++ 0#11 ++ BitVec.ofNat 32 serial : BitVec 54).setWidth 64 := by
  apply BitVec.eq_of_toNat_eq
  rw [BitVec.toNat_setWidth, toNat_append_eq, toNat_append_eq, toNat_append_eq]
  simp only [w64, BitVec.toNat_ofNat]
  omega

/-- A write of a trap register of the bank. -/
def SupBank.putReg (j : Nat) (v : W64) (b : SupBank) : SupBank := { b with regs := b.regs.put j v }

end Sys2Proof.Machine

namespace Sys2Proof.Claims
open Sys2Proof.Machine

theorem exec_srd (d : BitVec 5) (n : BitVec 12) (g : BitVec 3) (s : State) : exec (.srd d n g) s =
    runWord s (!s.assigned n.toNat) (regLevel n.toNat) [d] g fun s =>
      .ok .next ((s.countCorrected n.toNat).wr d ((s.countCorrected n.toNat).readReg n.toNat)) := rfl

theorem exec_swr (a : BitVec 5) (n : BitVec 12) (g : BitVec 3) (s : State) : exec (.swr a n g) s =
    runWord s (!s.assigned n.toNat || readOnly n.toNat) (regLevel n.toNat) [a] g fun s => swrBody n.toNat (s.rd a) s := rfl

/-- A read that the level allows (R181); one of MECC counts first. -/
theorem Ready.exec_srd {s : State} {d : BitVec 5} {g : BitVec 3} (h : Ready s [d] g) {n : BitVec 12} (hn : s.assigned n.toNat = true)
    (hl : regLevel n.toNat ≤ s.level) : Next (exec (.srd d n g) s)
      (Writes (s.countCorrected n.toNat) d ((s.countCorrected n.toNat).readReg n.toNat)) := by
  refine ⟨_, h.run (by simp [hn]) hl _, writes_wr (Alike.threaded (s := s) ?_ h.1) d _⟩
  unfold State.countCorrected
  split
  · exact ⟨rfl, rfl, rfl, rfl, rfl⟩
  · exact .refl s

/-- A read of a user register (R182). -/
theorem Ready.reads {s : State} {d : BitVec 5} {g : BitVec 3} (h : Ready s [d] g) (n : BitVec 12) (v : W64)
    (hu : userReg n.toNat = true) (hb : n.toNat < 0x100) (hv : s.readUser n.toNat = v) :
    Next (exec (.srd d n g) s) (Writes s d v) := by
  have := h.exec_srd (s.assigned_user hu) ((regLevel_le_iff _ _).mpr (.inl hb))
  rwa [s.countCorrected_other (by omega), State.readReg, if_pos hb, hv] at this

/-- A write that the level allows (R181). -/
theorem Ready.exec_swr {s : State} {a : BitVec 5} {g : BitVec 3} (h : Ready s [a] g) {n : BitVec 12} (hn : s.assigned n.toNat = true)
    (hr : readOnly n.toNat = false) (hl : regLevel n.toNat ≤ s.level) :
    exec (.swr a n g) s = .next (finish (swrBody n.toNat (s.rd a) s)) := h.run (by simp [hn, hr]) hl _

/-- Writes of the supervisor's trap registers at their places 1 to 6 (R354). -/
theorem Ready.swr_sup {s : State} {k : Nat} {a : BitVec 5} {g : BitVec 3} (hc : s.cur = .ctl k)
    (ha : (s.sup (htCore k)).active = some k) (h : Ready s [a] g) {n : BitVec 12} (j : Nat) (hn : n.toNat = 0x100 + j)
    (hj : 1 ≤ j ∧ j ≤ 6) : Next (exec (.swr a n g) s) fun t =>
      supRegs t k = (supRegs s k).put j (s.rd a) ∧ t.pc = s.pc + 4#64 ∧ ∀ r, t.rd r = s.rd r := by
  have hq : s.assigned n.toNat = true := State.assigned_quire hc (by simp [quireReg, within]; omega)
  have hw : readOnly n.toNat = false := by
    rw [hn]
    obtain ⟨h1, h6⟩ := hj
    interval_cases j <;> rfl
  have hl : regLevel n.toNat ≤ s.level := (regLevel_le_iff _ _).mpr (by rw [State.level_sup hc ha]; omega)
  have hb : swrBody n.toNat (s.rd a) s = .ok .next (s.modSup (htCore k) (SupBank.putReg j (s.rd a))) := by
    rw [swrBody, if_neg (by omega), if_neg (by omega), State.writeHigh, if_neg (by omega), if_pos (by omega), if_neg (by omega),
      State.modSupRegs, hc, hn, Nat.add_sub_cancel_left]
    rfl
  have hx : (s.modSup (htCore k) (SupBank.putReg j (s.rd a))).ctx? = s.ctx? :=
    s.ctxOf_modSup (htCore k) (SupBank.putReg j (s.rd a)) (fun _ => rfl) (fun _ => rfl) s.cur
  have ht : (s.modSup (htCore k) (SupBank.putReg j (s.rd a))).threaded := State.threaded_of_ctx? h.1 rfl rfl hx
  obtain ⟨hregs, -, hpc⟩ := advanced_retire h.1 ht hx
  refine ⟨_, by rw [h.exec_swr hq hw hl, hb, finish], ?_, hpc, hregs⟩
  rw [supRegs, State.sup_retire _ SupBank.regs SupBank.regs_waits fun _ _ => rfl, State.sup_modSup,
    if_pos ⟨rfl, s.sup_active _ _ ha⟩]
  rfl

/-- A write of UTMASK (R392). -/
theorem Ready.swr_utmask {s : State} {k : Nat} {i : Inst} {a : BitVec 5} {g : BitVec 3} (hc : s.cur = .ctl k)
    (hi : s.instOn k = some i) (h : Ready s [a] g) : Next (exec (.swr a 0x0A1 g) s) fun t =>
      (t.instOn k).map Inst.utmask = some ((s.rd a).extractLsb' 0 32 &&& userMask) ∧ t.pc = s.pc + 4#64 := by
  set r := s.modMe fun j => j.write 0x0A1 (s.rd a) with hr
  have hx : r.ctx? = s.ctx? := by
    simp only [State.ctx?, hr, State.modMe_cur]
    exact s.ctxOf_modMe (Inst.write · 0x0A1 (s.rd a)) (fun _ => ⟨rfl, rfl⟩) s.cur
  have ht : r.threaded := State.threaded_of_ctx? h.1 (s.modMe_cur _) (by rw [hr, State.modMe_cores]) hx
  have hb : swrBody (0x0A1#12).toNat (s.rd a) s = .ok .next r := rfl
  have he := h.exec_swr (n := 0x0A1#12) (s.assigned_user rfl) rfl (Nat.zero_le _)
  rw [hb, finish] at he
  refine ⟨_, he, ?_, (advanced_retire h.1 ht hx).pc⟩
  rw [State.map_instOn_retire Inst.utmask _ (fun _ => rfl) (fun _ _ => rfl) fun _ _ => rfl, hr, State.modMe, hc]
  simp only [State.instOn_modOn s k (Inst.write · 0x0A1 (s.rd a)) k fun _ => rfl, hi, Option.map_some, State.instOn_hw hi, beq_self_eq_true,
    if_true]
  rfl

/-- UTMASK keeps a cause's bit when the cause may be delegated (R392). -/
theorem userMask_bit : ∀ c < 32, userMask.getLsbD c = delegable.contains c := by decide

end Sys2Proof.Claims

namespace Sys2Proof

/-! ### Slices of a word -/

/-- Two neighbouring slices of a word make one slice. -/
theorem append_eq_slice {m n N : Nat} {x : BitVec m} {y : BitVec n} {w : BitVec N} {s : Nat}
    (hx : x = w.extractLsb' (s + n) m) (hy : y = w.extractLsb' s n) : x ++ y = w.extractLsb' s (m + n) := by
  subst hx hy
  exact BitVec.extractLsb'_append_extractLsb'_eq_extractLsb' rfl

/-- A slice that lies under a mask is that slice of the value under the mask. -/
theorem slice_of_mask {N : Nat} {w m v : BitVec N} {s n : Nat} {c : BitVec n} (h : w &&& m = v)
    (hm : m.extractLsb' s n = BitVec.allOnes n) (hc : v.extractLsb' s n = c) : c = w.extractLsb' s n := by
  rw [← hc, ← h, BitVec.extractLsb'_and, hm, BitVec.and_allOnes]

/-- The bits of a slice, where they stand in the word. -/
theorem and_mask_eq_slice {N : Nat} (w : BitVec N) (s n : Nat) :
    w &&& (BitVec.allOnes n).setWidth N <<< s = (w.extractLsb' s n).setWidth N <<< s := by
  ext k hk
  by_cases hs : k < s
  · simp [hs]
  · simp [hs, Nat.add_sub_cancel' (Nat.le_of_not_lt hs), Bool.and_comm, BitVec.getLsbD_eq_getElem hk]

/-! ### The members of a major -/

/-- What a decoder answers on a word is right: an instruction that it reads is well-formed and encodes to the word. -/
def Sound (w : W32) (e : Except Reject Instr) : Prop := ∀ i, e = .ok i → i.wf = true ∧ encode i = some w

theorem Sound.error (w : W32) (r : Reject) : Sound w (.error r) := fun _ h => nomatch h

/-- One member of a major, before the members that come after it: its encoding is the whole word, slice for slice. -/
theorem Sound.member {w x : W32} {c : Prop} [Decidable c] {i : Instr} {e : Except Reject Instr} (hw : c → i.wf = true)
    (hi : encode i = some x) (hx : c → x = w.extractLsb' 0 32) (he : ¬ c → Sound w e) : Sound w (if c then .ok i else e) := by
  split
  next h =>
    rintro _ ⟨⟩
    exact ⟨hw h, by rw [hi, hx h, BitVec.extractLsb'_eq_self]⟩
  next h => exact he h

/-- A branch or call that is not the unconditional form names a predicate other than p0 (R138). -/
theorem pred_ne_zero {w v : W32} (h : w &&& 0xFC400000#32 = v) (hn : ¬ w &&& 0xFFC00000#32 = v) :
    (w.extractLsb' 23 3 != 0#3) = true := by
  rw [bne_iff_ne]
  intro h0
  have hp : w &&& 0x03800000#32 = 0#32 := by simpa [h0] using and_mask_eq_slice w 23 3
  have hm : (0xFFC00000#32 : W32) = 0xFC400000#32 ||| 0x03800000#32 := rfl
  exact hn (by rw [hm, BitVec.and_or_distrib_left, h, hp, BitVec.or_zero])

/-- A load of 8 bytes has no sign to widen with (R139). -/
theorem load_wf {w : W32} (h : ¬ w.extractLsb' 3 3 = 7#3) : (!(w.extractLsb' 5 1 == 1#1 && w.extractLsb' 3 2 == 3#2)) = true := by
  simp only [Bool.not_eq_true', Bool.and_eq_false_imp, beq_iff_eq, beq_eq_false_iff_ne]
  intro hs hz
  exact h (append_eq_slice (m := 1) (x := 1#1) hs.symm hz.symm).symm

/-- The loads (R139, R176). -/
theorem decodeMajor10_sound (w : W32) : Sound w (decodeMajor10 w) := by
  unfold decodeMajor10
  refine Sound.member (fun h => load_wf h.2) rfl (fun h => ?_) fun _ => Sound.error _ _
  repeat' apply append_eq_slice
  any_goals rfl
  exact slice_of_mask h.1 (by decide) (by decide)

/-- The wait table's words, whose kind is one of R222. -/
theorem decodeMajor1D_sound (w : W32) : Sound w (decodeMajor1D w) := by
  unfold decodeMajor1D
  refine Sound.member And.right rfl (fun ⟨h, _⟩ => ?_) fun _ => Sound.member (fun _ => rfl) rfl (fun h => ?_) fun _ =>
    Sound.member And.right rfl (fun ⟨h, _⟩ => ?_) fun _ => Sound.member And.right rfl (fun ⟨h, _⟩ => ?_) fun _ =>
    Sound.member (fun _ => rfl) rfl (fun h => ?_) fun _ => Sound.error _ _
  all_goals repeat' apply append_eq_slice
  any_goals rfl
  all_goals exact slice_of_mask h (by decide) (by decide)

/-- Every word of every major. A member's encoding falls into slices: an operand is that slice of the word as it was decoded,
and a constant stands under the mask that the decoder compares (R136 to R140). -/
theorem decode_sound (w : W32) : Sound w (decode w) := by
  unfold decode
  split
  case h_16 => exact decodeMajor10_sound w
  case h_27 => exact decodeMajor1D_sound w
  case h_33 => exact Sound.error _ _
  all_goals
    delta decodeMajor01 decodeMajor02 decodeMajor03 decodeMajor04 decodeMajor05 decodeMajor06 decodeMajor07
      decodeMajor08 decodeMajor09 decodeMajor0A decodeMajor0B decodeMajor0C decodeMajor0D decodeMajor0E decodeMajor0F
      decodeMajor11 decodeMajor12 decodeMajor14 decodeMajor15 decodeMajor16 decodeMajor17 decodeMajor18
      decodeMajor19 decodeMajor1A decodeMajor1C decodeMajor1E decodeMajor1F decodeMajor3C decodeMajor3D decodeMajor3E
    repeat' refine Sound.member (fun h => ?_) rfl (fun h => ?_) fun hn => ?_
  any_goals exact Sound.error _ _
  any_goals exact pred_ne_zero h hn
  all_goals repeat' apply append_eq_slice
  any_goals rfl
  all_goals exact slice_of_mask h (by decide) (by decide)

/-! ### The statements -/

section
open Machine Claims

/-- Settles O5, major by major: each member of a major is the word of its slices. -/
theorem encodeDecode : Obligations.EncodeDecode := by
  unfold Obligations.EncodeDecode
  exact decode_sound

/-- Settles O15: a load's answer is the case of `State.load` that its address leads to; what the access does besides touches no
thread and no byte, so the write of xd leaves everything else. -/
theorem loadResults : Obligations.LoadResults := by
  unfold Obligations.LoadResults
  intro s u d a off sx z g h
  have hn : 0 < 2 ^ z.toNat := Nat.two_pow_pos _
  refine ⟨fun pool o ha hl hb hp => ⟨sealedTo_of_inside, fun hk => ?_, fun hk => ?_⟩, fun v hv hlt => ?_, fun ha => ?_⟩
  · rw [held_iff] at hk
    rw [h.exec_ld, State.load_win ha hl hp, if_pos hk, Ans.bind_wait, finish]
  · rw [held_iff] at hk
    have hu := ((leaves_locate s _ _) _ _ hl).trans (alike_sealedTo u u.who pool)
    refine ⟨_, by rw [h.exec_ld, State.load_win ha hl hp, if_neg hk, if_neg (by simp [hb]), Ans.bind_ok, finish], ?_⟩
    rw [← widen_eq sx hn (num_lt u _ _)]
    exact writes_wr (hu.threaded h.1) d _
  · have hu := leaves_load s _ _ v u hv
    refine ⟨hu.ctx?, fun k => by rw [hu.mem], _, by rw [h.exec_ld, hv, Ans.bind_ok, finish], ?_⟩
    rw [← widen_eq sx hn hlt]
    exact writes_wr (hu.threaded h.1) d _
  · rw [h.exec_ld, State.load_misaligned ha, Ans.bind_trap, finish]

/-- Settles O16: each clause is the case of `State.store` that its address leads to, and the bytes go in beside everything else that
the access does. -/
theorem storeResults : Obligations.StoreResults := by
  unfold Obligations.StoreResults
  intro s u x a off z g h n ea stored hm ha
  have hrun := h.exec_st (off := off) (z := z)
  refine ⟨fun pool o hl hp => ⟨fun hk => ?_, fun hk => ?_⟩, fun pa hl hr hs hp => ?_, fun pa hl hp => ?_⟩
  · rw [held_iff] at hk
    rw [hrun, State.store_win _ ha hl hp, if_pos hk, Ans.bind_wait, finish]
  · rw [held_iff] at hk
    have hu := ((leaves_locate s _ _) _ _ hl).trans (alike_sealedTo u u.who pool)
    exact ⟨_, by rw [hrun, State.store_win _ ha hl hp, if_neg hk, Ans.bind_ok, finish], stored_put h.1 hu hm _ _ _⟩
  · have hu := ((leaves_locate s _ _) _ _ hl).trans (alike_hbmMoved u u.who.owner n)
    exact ⟨_, by rw [hrun, State.store_hbm _ ha hl hr hs hp, Ans.bind_ok, finish], stored_put h.1 hu hm _ _ _⟩
  · have hu := (leaves_locate s _ _) _ _ hl
    have hr : Alike s (u.withStore pa ea n (s.rd x).toNat) := ⟨hu.cur, hu.insts, hu.sups, hu.cores, hu.mem⟩
    obtain ⟨hregs, -, hpc⟩ := advanced_retire h.1 (hr.threaded h.1) hr.ctx?
    refine ⟨_, by rw [hrun, State.store_host _ ha hl hp, Ans.bind_ok, finish], fun k => ?_, hregs, hpc,
      u.hostStore pa ea n (s.rd x).toNat, State.posted_retire ?_ rfl .next, rfl, rfl, rfl, rfl, rfl, rfl⟩
    · rw [State.retire_mem, hr.mem]
    · exact List.mem_append_right _ (List.mem_singleton_self _)

/-- Settles O28: the checks of R140 decide who may name a register; a read is `State.readReg`, and a write is followed through the
completion of its word. -/
theorem specialRegisterAccess : Obligations.SpecialRegisterAccess := by
  unfold Obligations.SpecialRegisterAccess
  refine ⟨fun s d a n g ht => ⟨fun hn => ?_, fun hr => ?_, fun hn hl => ?_, fun h hl => ?_, fun h hm hn hl => ?_⟩,
    fun s k i d g hc hi h => ?_, fun s k a g hc ha h => ⟨?_, ?_, ?_⟩, fun s k i a g hc hi h => ?_⟩
  · exact ⟨by rw [exec_srd, hn]; exact runWord_ill ht, by rw [exec_swr, hn]; exact runWord_ill ht⟩
  · rw [exec_swr, hr, Bool.or_true]; exact runWord_ill ht
  · rw [← lt_regLevel_iff] at hl
    exact ⟨by rw [exec_srd, hn]; exact runWord_priv ht hl, fun hr => by rw [exec_swr, hn, hr]; exact runWord_priv ht hl⟩
  · have := h.exec_srd (n := 0x444#12) (by rfl) (by rw [hl]; decide)
    exact this
  · have hm' : n.toNat ≠ 0x444 := fun e => hm (BitVec.eq_of_toNat_eq e)
    have := h.exec_srd hn ((regLevel_le_iff _ _).mpr (hl.imp_right (Or.imp_right Eq.ge)))
    rwa [s.countCorrected_other hm'] at this
  · have hme : s.me = some i := by simp only [State.me, hc, hi]
    intro code reads
    refine ⟨h.reads _ _ rfl (by decide) ?_, h.reads _ _ rfl (by decide) ?_, h.reads _ _ rfl (by decide) ?_,
      h.reads _ _ rfl (by decide) ?_, h.reads _ _ rfl (by decide) rfl, h.reads _ _ rfl (by decide) rfl, h.reads _ _ rfl (by decide) ?_⟩
    · exact (State.readUser_inst hme (by decide)).trans (iid_word i.owner i.part i.serial)
    · exact State.readUser_thread hc
    · exact State.readUser_quire hc
    · rw [State.readUser_inst hme (by decide)]
      show w64 (i.state.code + i.active.toNat * 2 ^ 3 + i.phaseNo % 16 * 2 ^ 4) = BitVec.ofNat 64 (code + _ + _)
      have hcode : i.state.code = code := by unfold code; cases i.state <;> rfl
      rw [hcode]
      cases i.active <;> rfl
    · exact State.readUser_inst hme (by decide)
  · exact h.swr_sup hc ha 6 rfl (by decide)
  · have hv : (supRegs s k).put 1 (s.rd a) = { supRegs s k with tvec := s.rd a &&& ~~~0x3F#64 } :=
      congrArg (fun v => { supRegs s k with tvec := v }) (setField_low (s.rd a) 6)
    obtain ⟨t, he, ht, hpc, -⟩ := h.swr_sup (n := 0x101#12) hc ha 1 rfl (by decide)
    exact ⟨t, he, ht.trans hv, hpc⟩
  · have hv : (supRegs s k).put 2 (s.rd a) = { supRegs s k with epc := s.rd a &&& ~~~3#64 } :=
      congrArg (fun v => { supRegs s k with epc := v }) (setField_low (s.rd a) 2)
    obtain ⟨t, he, ht, hpc, -⟩ := h.swr_sup (n := 0x102#12) hc ha 2 rfl (by decide)
    exact ⟨t, he, ht.trans hv, hpc⟩
  · obtain ⟨t, he, hu, hpc⟩ := h.swr_utmask hc hi
    refine ⟨t, he, fun c hc => ?_, hpc⟩
    obtain ⟨j, hj, hm⟩ := Option.map_eq_some_iff.mp hu
    rw [hj, Option.map_some, hm, BitVec.getLsbD_and, userMask_bit c hc, BitVec.getLsbD_extractLsb', Nat.zero_add]
    simp only [hc, decide_true, Bool.true_and]

end

end Sys2Proof

namespace Sys2Proof.Machine

/-! ### The walk of a counter's nest (R41 to R43, R252) -/

theorem updAt_append {α : Type} (l m : List α) (a : α) (f : α → α) : updAt (l ++ a :: m) l.length f = l ++ f a :: m := by
  induction l with
  | nil => rfl
  | cons b l ih => exact congrArg (b :: ·) ih

/-- The index vector that follows, level 1 fastest, and how many levels have wrapped to 0; none after the last. -/
def bump : List W32 → List Nat → Option (List Nat × Nat)
  | b :: l, i :: m => if i + 1 < b.toNat then some ((i + 1) :: m, 0) else (bump l m).map fun e => (0 :: e.1, e.2 + 1)
  | _, _ => none

/-- Levels j and below are entered, the outermost first: each is at index 0. -/
theorem Nest.next_enter (ts : List W32) (hp : ∀ b ∈ ts, 0 < b.toNat) :
    ∀ (j fuel top rank : Nat) (is : List Nat), j ≤ ts.length → is.length = ts.length → j < fuel →
      Nest.next fuel true j top rank ⟨ts, is, []⟩ = (⟨ts, List.replicate j 0 ++ is.drop j, []⟩, rank, false) := by
  intro j
  induction j with
  | zero =>
    intro fuel top rank is _ _ hf
    obtain ⟨k, rfl⟩ := Nat.exists_eq_succ_of_ne_zero (Nat.ne_of_gt hf)
    simp [Nest.next]
  | succ j ih =>
    intro fuel top rank is hj hl hf
    obtain ⟨k, rfl⟩ := Nat.exists_eq_succ_of_ne_zero (Nat.ne_of_gt (Nat.zero_lt_of_lt hf))
    have hlt : j < is.length := by omega
    have he : (⟨ts, is, []⟩ : Nest).entry (j + 1) = ⟨ts, is.take j ++ 0 :: is.drop (j + 1), []⟩ := by
      have hs : is = is.take j ++ is[j] :: is.drop (j + 1) := by simp
      have hu := updAt_append (is.take j) (is.drop (j + 1)) is[j] fun _ => 0
      rw [← hs, List.length_take, Nat.min_eq_left hlt.le] at hu
      simp only [Nest.entry, Nest.set, List.find?_nil, Nat.add_sub_cancel, hu]
    have ht : (⟨ts, is.take j ++ 0 :: is.drop (j + 1), []⟩ : Nest).trip (j + 1) ≠ 0 := by
      have hj' : j < ts.length := hj
      simp only [Nest.trip, Nat.add_sub_cancel, List.getElem?_eq_getElem hj', Option.getD_some]
      exact Nat.ne_of_gt (hp _ (List.getElem_mem _))
    rw [Nest.next, if_neg (Nat.succ_ne_zero j), he, if_neg ht, Nat.add_sub_cancel,
      ih k _ rank _ (by omega) (by simp; omega) (by omega)]
    have hd : (is.take j ++ 0 :: is.drop (j + 1)).drop j = 0 :: is.drop (j + 1) := by
      rw [List.drop_append_of_le_length (by simp; omega)]; simp
    rw [hd, List.replicate_succ', List.append_assoc]; rfl

/-- With its first levels wrapped, a nest goes on as `bump` says of the others. -/
theorem Nest.next_carry : ∀ (l : List W32) (m : List Nat) (pre : List W32) (ipre : List Nat) (fuel : Nat),
    (∀ b ∈ pre ++ l, 0 < b.toNat) → m.length = l.length → ipre.length = pre.length → pre.length + 2 * l.length + 1 < fuel →
      (∀ js r, bump l m = some (js, r) → Nest.next fuel false pre.length 0 pre.length ⟨pre ++ l, ipre ++ m, []⟩ =
        (⟨pre ++ l, List.replicate pre.length 0 ++ js, []⟩, pre.length + r, false)) ∧
      (bump l m = none → (Nest.next fuel false pre.length 0 pre.length ⟨pre ++ l, ipre ++ m, []⟩).2 = ((pre ++ l).length, true)) := by
  intro l
  induction l with
  | nil =>
    intro m pre ipre fuel _ _ _ hf
    obtain ⟨k, rfl⟩ := Nat.exists_eq_succ_of_ne_zero (Nat.ne_of_gt (Nat.zero_lt_of_lt hf))
    refine ⟨fun js r h => (nomatch h), fun _ => ?_⟩
    simp [Nest.next]
  | cons b l ih =>
    intro m pre ipre fuel hp hm hi hf
    obtain ⟨i, m, rfl⟩ : ∃ i m', m = i :: m' := by
      cases m with
      | nil => simp at hm
      | cons i m => exact ⟨i, m, rfl⟩
    obtain ⟨k, rfl⟩ := Nat.exists_eq_succ_of_ne_zero (Nat.ne_of_gt (Nat.zero_lt_of_lt hf))
    simp only [List.length_cons] at hm hf
    have hat : (⟨pre ++ b :: l, ipre ++ i :: m, []⟩ : Nest).at (pre.length + 1) = i := by simp [Nest.at, ← hi]
    have hset : (⟨pre ++ b :: l, ipre ++ i :: m, []⟩ : Nest).set (pre.length + 1) (i + 1) = ⟨pre ++ b :: l, ipre ++ (i + 1) :: m, []⟩ := by
      have := updAt_append ipre m i fun _ => i + 1
      simp only [Nest.set, Nat.add_sub_cancel, ← hi, this]
    have htrip : (⟨pre ++ b :: l, ipre ++ (i + 1) :: m, []⟩ : Nest).trip (pre.length + 1) = b.toNat := by simp [Nest.trip]
    have hlen : ¬ (pre ++ b :: l).length ≤ pre.length := by simp
    have htop : ¬ (pre.length ≠ 0 ∧ pre.length ≤ 0 ∧ (!([] : List (Nat × W32)).any fun b => decide (b.1 ≤ pre.length)) = true) := by omega
    have hstep : Nest.next (k + 1) false pre.length 0 pre.length ⟨pre ++ b :: l, ipre ++ i :: m, []⟩ =
        if i + 1 < b.toNat then Nest.next k true pre.length 0 pre.length ⟨pre ++ b :: l, ipre ++ (i + 1) :: m, []⟩
        else Nest.next k false (pre.length + 1) 0 (pre.length + 1) ⟨pre ++ b :: l, ipre ++ (i + 1) :: m, []⟩ := by
      rw [Nest.next]
      simp only [hlen, if_false, htop, hat, hset, htrip, Nat.max_eq_right (Nat.le_succ _)]
    rw [hstep]
    by_cases hlt : i + 1 < b.toNat
    · rw [if_pos hlt, Nest.next_enter (pre ++ b :: l) hp _ _ _ _ _ (by simp) (by simp; omega) (by omega)]
      refine ⟨fun js r h => ?_, fun h => by simp [bump, hlt] at h⟩
      obtain ⟨rfl, rfl⟩ : (i + 1) :: m = js ∧ 0 = r := by simpa [bump, hlt] using h
      rw [← hi]; simp
    · rw [if_neg hlt]
      have h' := ih m (pre ++ [b]) (ipre ++ [i + 1]) k (by simpa using hp) (by omega) (by simp [hi]) (by simp; omega)
      simp only [List.length_append, List.length_singleton, List.append_assoc, List.singleton_append] at h'
      obtain ⟨hsome, hnone⟩ := h'
      refine ⟨fun js r h => ?_, fun h => ?_⟩
      · obtain ⟨js, r, he, rfl, rfl⟩ : ∃ a c, bump l m = some (a, c) ∧ 0 :: a = js ∧ c + 1 = r := by simpa [bump, hlt] using h
        rw [hsome js r he, List.replicate_succ', List.append_assoc]
        simp only [List.singleton_append, Nat.add_assoc, Nat.add_comm 1]
      · rw [hnone (by simpa [bump, hlt] using h)]; simp

theorem Nest.advance_bump {ts : List W32} {is : List Nat} (hp : ∀ b ∈ ts, 0 < b.toNat) (hl : is.length = ts.length) (h7 : ts.length ≤ 7) :
    (∀ js r, bump ts is = some (js, r) → Nest.advance ⟨ts, is, []⟩ = (⟨ts, js, []⟩, r, false)) ∧
      (bump ts is = none → (Nest.advance ⟨ts, is, []⟩).2 = (ts.length, true)) := by
  simpa [Nest.advance] using Nest.next_carry ts is [] [] 256 (by simpa using hp) hl rfl (by simp; omega)

open Claims in
/-- What `bump` answers is the vector of the next number. -/
theorem bump_spec : ∀ (ts : List W32) (is js : List Nat) (r : Nat), is.length = ts.length → (∀ b ∈ ts, 0 < b.toNat) →
    (∀ j (hj : j < ts.length), ∀ i, is[j]? = some i → i < (ts[j]).toNat) → bump ts is = some (js, r) →
      js.length = ts.length ∧ mixed ts js = mixed ts is + 1 ∧ (∀ j (hj : j < ts.length), ∀ i, js[j]? = some i → i < (ts[j]).toNat) ∧
        (∀ j, j < r → js[j]? = some 0) ∧ ∀ j, r < j → js[j]? = is[j]? := by
  intro ts
  induction ts with
  | nil => intro is js r _ _ _ h; simp [bump] at h
  | cons b l ih =>
    intro is js r hl hp hb h
    cases is with
    | nil => simp at hl
    | cons i m =>
      have hb0 : i < b.toNat := hb 0 (by simp) i rfl
      have hbt : ∀ j (hj : j < l.length), ∀ x, m[j]? = some x → x < (l[j]).toNat := fun j hj x hx => hb (j + 1) (by simpa using hj) x hx
      simp only [List.length_cons, Nat.add_right_cancel_iff] at hl
      by_cases hlt : i + 1 < b.toNat
      · obtain ⟨rfl, rfl⟩ : (i + 1) :: m = js ∧ 0 = r := by simpa [bump, hlt] using h
        refine ⟨by simp [hl], by simp [mixed]; omega, fun j hj x hx => ?_, fun j hj => absurd hj (by omega), fun j hj => ?_⟩
        · cases j with
          | zero => obtain rfl : i + 1 = x := by simpa using hx
                    simpa using hlt
          | succ j => exact hbt j (by simpa using hj) x hx
        · obtain ⟨j, rfl⟩ := Nat.exists_eq_succ_of_ne_zero (Nat.ne_of_gt hj); rfl
      · obtain ⟨js, r, he, rfl, rfl⟩ : ∃ a c, bump l m = some (a, c) ∧ 0 :: a = js ∧ c + 1 = r := by simpa [bump, hlt] using h
        obtain ⟨h1, h2, h3, h4, h5⟩ := ih m js r hl (fun x hx => hp x (List.mem_cons_of_mem _ hx)) hbt he
        refine ⟨by simp [h1], ?_, fun j hj x hx => ?_, fun j hj => ?_, fun j hj => ?_⟩
        · simp only [mixed, h2, Nat.mul_add]; omega
        · cases j with
          | zero => obtain rfl : 0 = x := by simpa using hx
                    exact Nat.zero_lt_of_lt hb0
          | succ j => exact h3 j (by simpa using hj) x hx
        · cases j with
          | zero => rfl
          | succ j => exact h4 j (by omega)
        · cases j with
          | zero => omega
          | succ j => exact h5 j (by omega)

open Claims in
/-- `bump` answers a vector just when the present one is not the last. -/
theorem bump_eq_none_iff : ∀ (ts : List W32) (is : List Nat), is.length = ts.length →
    (∀ j (hj : j < ts.length), ∀ i, is[j]? = some i → i < (ts[j]).toNat) → mixed ts is < product ts ∧ (bump ts is = none ↔ mixed ts is + 1 = product ts) := by
  intro ts
  induction ts with
  | nil => intro is _ _; cases is <;> simp [bump, mixed, product]
  | cons b l ih =>
    intro is hl hb
    cases is with
    | nil => simp at hl
    | cons i m =>
      have hb0 : i < b.toNat := hb 0 (by simp) i rfl
      obtain ⟨hlt, hiff⟩ := ih m (by simpa using hl) fun j hj x hx => hb (j + 1) (by simpa using hj) x hx
      have hle : b.toNat * (mixed l m + 1) ≤ b.toNat * product l := Nat.mul_le_mul_left _ hlt
      rw [Nat.mul_add, Nat.mul_one] at hle
      refine ⟨by simp only [mixed, product]; omega, ?_⟩
      by_cases hi : i + 1 < b.toNat
      · simp only [bump, hi, if_true, mixed, product]
        exact ⟨fun h => absurd h (Option.some_ne_none _), fun h => by omega⟩
      · have hib : i + 1 = b.toNat := by omega
        simp only [bump, hi, if_false, Option.map_eq_none_iff, hiff, mixed, product]
        constructor
        · intro h; rw [← h, Nat.mul_add]; omega
        · intro h
          have : b.toNat * (mixed l m + 1) = b.toNat * product l := by rw [Nat.mul_add]; omega
          exact Nat.eq_of_mul_eq_mul_left (by omega) this

/-! ### A turn of a control core (R162, R374) -/

theorem step_core {s : State} {q k dc dn : Nat} {ts : List Turn} (hf : s.frozen = false) (ht : s.turns = ⟨dc, dn, .core q k⟩ :: ts) :
    step s = stepCore (({ s with turns := ts } : State).elapse dc dn) (4 * q + k) := by
  rw [step, if_neg (by simp [hf]), ht]
  rfl

theorem stepHart_word {s : State} {h : Hart} {w : W32} {u : State} (hb : (s.issue h).boundary = none) (hf : (s.issue h).fetch = .ok w u) :
    stepHart s h = exec (wordInstr w) u := by
  simp only [stepHart, hb, hf]

theorem stepCore_first {s : State} {c : Nat} {h : Hart} {hs : List Hart} (ho : s.issueOrder c = h :: hs) (hw : s.stalled h = false) :
    stepCore s c = stepHart s h := by
  cases hs with
  | nil => simp only [stepCore, ho]
  | cons j hs => simp only [stepCore, ho, hw, Bool.false_eq_true, if_false]

end Sys2Proof.Machine

namespace Sys2Proof
open Machine Claims

/-- Settles O43: a nest goes on as `bump` says, and `bump` counts in the mixed radix of the trip counts. -/
theorem counterOrder : Obligations.CounterOrder := by
  unfold Obligations.CounterOrder
  intro ts is hl h0 h7 hp
  refine ⟨fun hb => ?_, ?_⟩
  · obtain ⟨hsome, hnone⟩ := Nest.advance_bump hp hl h7
    obtain ⟨-, hiff⟩ := bump_eq_none_iff ts is hl hb
    refine ⟨fun hm => ?_, fun hm => hnone (hiff.mpr hm)⟩
    obtain ⟨⟨js, r⟩, he⟩ := Option.ne_none_iff_exists'.mp fun h => Nat.ne_of_lt hm (hiff.mp h)
    exact ⟨js, r, hsome js r he, bump_spec ts is js r hl hp hb he⟩
  · have := Nest.next_enter ts hp ts.length 256 0 0 is le_rfl hl (by omega)
    rwa [← hl, List.drop_length, List.append_nil, hl] at this

/-- Settles O7: a turn of a control core goes to the first thread in issue order, which runs the word it has fetched. -/
theorem stepRunsWord : Obligations.StepRunsWord := by
  unfold Obligations.StepRunsWord
  intro s q k dc dn ts h hs w u hfr hturn hord hst hb hf
  rw [step_core hfr hturn, stepCore_first hord hst, stepHart_word hb hf]
  unfold wordInstr
  generalize decode w = d
  cases d <;> rfl

end Sys2Proof

namespace Sys2Proof.Machine
open Sys2Proof.Claims

/-! ### One unit of the fabric changes (R31) -/

theorem State.unit?_key {s : State} {u : UKey} {f : FabUnit} (h : s.unit? u = some f) : f.key = u := by
  simpa using List.find?_some h

theorem State.unit?_modUnit (s : State) (u v : UKey) (g : FabUnit → FabUnit) (hk : ∀ f, (g f).key = f.key) :
    (s.modUnit u g).unit? v = (s.unit? v).map fun f => if v = u then g f else f := by
  have h := find?_updWhere (fun f : FabUnit => f.key == u) (fun f => f.key == v) g s.units fun f => by simp only [hk]
  simp only [State.unit?, State.modUnit, h]
  cases hf : s.units.find? (fun f => f.key == v) with
  | none => rfl
  | some f =>
    have : f.key = v := by simpa using List.find?_some hf
    simp [this]

theorem still_insts (s : State) (l : List Inst) (h : l.map (Inst.progressed 0#64) = s.insts.map (Inst.progressed 0#64)) :
    still { s with insts := l } = still s := by
  simp only [still, h]

theorem still_progress (s : State) (n : Nat) : still (s.progress n) = still s := still_insts s _ (map_updWhere _ _ _ _ fun _ => rfl)

/-- The machine is r but for its units: unit u is g, and every other unit is as in s. -/
structure WithUnit (s r : State) (u : UKey) (g : FabUnit) (t : State) : Prop where
  unit : t.unit? u = some g
  others : ∀ v, v ≠ u → t.unit? v = s.unit? v
  rest : still t = still r

section
variable {s r t : State} {u : UKey} {f g : FabUnit}

theorem WithUnit.refl (h : s.unit? u = some f) : WithUnit s s u f s := ⟨h, fun _ _ => rfl, rfl⟩

theorem WithUnit.modUnit (h : WithUnit s r u g t) (φ : FabUnit → FabUnit) (hk : ∀ x, (φ x).key = x.key) :
    WithUnit s r u (φ g) (t.modUnit u φ) where
  unit := by rw [State.unit?_modUnit _ _ _ _ hk, h.unit]; simp
  others v hv := by rw [State.unit?_modUnit _ _ _ _ hk, h.others v hv]; simp [hv]
  rest := h.rest

/-- What a firing may touch beside the units does not show in `still`, nor in any unit. -/
theorem WithUnit.beside (h : WithUnit s r u g t) {t' : State} (hu : t'.units = t.units) (hs : still t' = still t) : WithUnit s r u g t' where
  unit := by simpa only [State.unit?, hu] using h.unit
  others v hv := by simpa only [State.unit?, hu] using h.others v hv
  rest := hs.trans h.rest

/-- An input is consumed: the latch is empty, and its instance may have made progress. -/
theorem State.takeIn_cases (s : State) (u : UKey) (k : Nat) : ∃ s' : State, (s' = s ∨ ∃ n, s' = s.progress n) ∧
    s.takeIn u k = s'.modUnit u fun f => { f with ins := updAt f.ins k fun _ => none } := by
  refine ⟨_, ?_, rfl⟩
  cases s.unit? u with
  | none => exact .inl rfl
  | some f =>
    dsimp only
    cases f.latch k with
    | none => exact .inl rfl
    | some t =>
      cases t with
      | data v => exact .inr ⟨_, rfl⟩
      | eos => exact .inr ⟨_, rfl⟩
      | _ => exact .inl rfl

theorem WithUnit.takeIn (h : WithUnit s r u g t) (k : Nat) :
    WithUnit s r u { g with ins := updAt g.ins k fun _ => none } (t.takeIn u k) := by
  obtain ⟨t', ht, he⟩ := t.takeIn_cases u k
  rw [he]
  refine WithUnit.modUnit ?_ (fun f => { f with ins := updAt f.ins k fun _ => none }) fun _ => rfl
  rcases ht with rfl | ⟨n, rfl⟩
  · exact h
  · exact h.beside rfl (still_progress t n)

/-- Latches after inputs `ks` are consumed. -/
def takes (ks : List Nat) (l : List (Option Token)) : List (Option Token) := ks.foldl (fun l k => updAt l k fun _ => none) l

theorem takes_join (ks : List Nat) (l : List (Option Token)) (k : Nat) :
    ((takes ks l)[k]?).join = if k ∈ ks then none else (l[k]?).join := by
  induction ks generalizing l with
  | nil => simp [takes]
  | cons j ks ih =>
    have := ih (updAt l j fun _ => none)
    simp only [takes, List.foldl_cons] at this ⊢
    rw [this, updAt_getElem?]
    by_cases hk : k = j
    · subst hk; cases l[k]? <;> simp
    · simp [hk]

theorem WithUnit.takes (h : WithUnit s r u g t) (ks : List Nat) :
    WithUnit s r u { g with ins := Machine.takes ks g.ins } (ks.foldl (fun s k => s.takeIn u k) t) := by
  induction ks generalizing g t with
  | nil => exact h
  | cons k ks ih => exact ih (h.takeIn k)

/-- Output slots after a token is placed in one of them, for the routes `ids`. -/
def placed (l : List Slot) (p : Nat) (tok : Token) (ids : List Nat) : List Slot :=
  if ids = [] then l else updAt l p fun _ => ⟨some tok, ids⟩

theorem placed_length (l : List Slot) (p : Nat) (tok : Token) (ids : List Nat) : (placed l p tok ids).length = l.length := by
  unfold placed; split <;> simp

theorem WithUnit.emitOn (h : WithUnit s r u g t) (p : Nat) (tok : Token) (ids : List Nat) :
    WithUnit s r u { g with outs := placed g.outs p tok ids } (t.emitOn u p tok ids) := by
  unfold State.emitOn placed
  cases ids with
  | nil => exact h
  | cons i ids => exact h.modUnit (fun f => { f with outs := updAt f.outs p fun _ => ⟨some tok, i :: ids⟩ }) fun _ => rfl

theorem WithUnit.routes (h : WithUnit s r u g t) (hr : r.routes = s.routes) : t.routes = s.routes :=
  (congrArg State.routes h.rest).trans hr

/-- The routes that leave an output of a unit, by their ids. -/
def State.outIds (s : State) (u : UKey) (p : Nat) : List Nat := (s.routesFrom u p).map Route.id

theorem WithUnit.emit (h : WithUnit s r u g t) (hr : r.routes = s.routes) (p : Nat) (tok : Token) :
    WithUnit s r u { g with outs := placed g.outs p tok (s.outIds u p) } (t.emit u p tok) := by
  have : t.routesFrom u p = s.routesFrom u p := by simp only [State.routesFrom, h.routes hr]
  unfold State.emit
  rw [this]
  exact h.emitOn p tok (s.outIds u p)

/-- Output slots after tokens are placed, each for every route that leaves its output. -/
def State.sentAll (s : State) (u : UKey) (sends : List (Nat × Token)) (l : List Slot) : List Slot :=
  sends.foldl (fun l e => placed l e.1 e.2 (s.outIds u e.1)) l

theorem WithUnit.emits (h : WithUnit s r u g t) (hr : r.routes = s.routes) (sends : List (Nat × Token)) :
    WithUnit s r u { g with outs := s.sentAll u sends g.outs } (sends.foldl (fun t e => t.emit u e.1 e.2) t) := by
  induction sends generalizing g t with
  | nil => exact h
  | cons e sends ih => exact ih (h.emit hr e.1 e.2)

theorem placed_getElem? (l : List Slot) (p q : Nat) (tok : Token) (ids : List Nat) :
    (placed l p tok ids)[q]? = if q = p ∧ ids ≠ [] then (l[q]?).map fun _ => ⟨some tok, ids⟩ else l[q]? := by
  unfold placed
  by_cases hi : ids = [] <;> simp [hi, updAt_getElem?]

theorem slotWith_eq (s : State) (f : FabUnit) (p : Nat) (tok : Token) (hp : p < f.outs.length) :
    slotWith s f p tok = ((placed f.outs p tok (s.outIds f.key p))[p]?).getD ⟨none, []⟩ := by
  rw [placed_getElem?, List.getElem?_eq_getElem hp]
  unfold slotWith State.outIds
  by_cases hr : s.routesFrom f.key p = [] <;> simp [hr, FabUnit.slot, hp]

/-- The slots after `sends`, no two of which share an output, are those of the statements. -/
theorem sentAll_slot (s : State) (f : FabUnit) (sends : List (Nat × Token)) (hn : (sends.map Prod.fst).Nodup) (p : Nat) (hp : p < f.outs.length) :
    ((s.sentAll f.key sends f.outs)[p]?).getD ⟨none, []⟩ = ((sends.map fun e => (e.1, slotWith s f e.1 e.2)).lookup p).getD (f.slot p) := by
  suffices h : ∀ (sends : List (Nat × Token)) (l : List Slot), (sends.map Prod.fst).Nodup → l.length = f.outs.length →
      (∀ q ∈ sends.map Prod.fst, l[q]? = f.outs[q]?) → ((s.sentAll f.key sends l)[p]?).getD ⟨none, []⟩ =
        ((sends.map fun e => (e.1, slotWith s f e.1 e.2)).lookup p).getD ((l[p]?).getD ⟨none, []⟩) from
    h sends f.outs hn rfl fun _ _ => rfl
  intro sends
  induction sends with
  | nil => intro l _ _ _; rfl
  | cons e sends ih =>
    intro l hn hl ha
    obtain ⟨he, hn⟩ := List.nodup_cons.mp hn
    have hrest : ∀ q ∈ sends.map Prod.fst, (placed l e.1 e.2 (s.outIds f.key e.1))[q]? = f.outs[q]? := fun q hq => by
      have : q ≠ e.1 := fun h => he (h ▸ hq)
      rw [placed_getElem?, if_neg fun h => this h.1, ha q (List.mem_cons_of_mem _ hq)]
    have hstep := ih _ hn ((placed_length ..).trans hl) hrest
    simp only [State.sentAll, List.foldl_cons] at hstep ⊢
    rw [hstep, List.map_cons, List.lookup_cons]
    by_cases hpe : p = e.1
    · subst hpe
      have hno : (sends.map fun e => (e.1, slotWith s f e.1 e.2)).lookup e.1 = none := by
        rw [List.lookup_eq_none_iff]
        intro x hx
        obtain ⟨y, hy, rfl⟩ := List.mem_map.mp hx
        have hne : e.1 ≠ y.1 := fun h => he (h ▸ List.mem_map_of_mem hy)
        simpa using hne
      simp only [hno, BEq.rfl, Option.getD_none, Option.getD_some, slotWith_eq s f e.1 e.2 hp, placed_getElem?, ha e.1 (by simp)]
    · have hb : (p == e.1) = false := by simpa using hpe
      simp only [hb, placed_getElem?, hpe, false_and, if_false]

theorem Acts.of {ks : List Nat} {sends : List (Nat × Token)} {h : FabUnit} (hw : WithUnit s r f.key g t) (hi : g.ins = takes ks f.ins)
    (ho : g.outs = s.sentAll f.key sends f.outs) (hn : (sends.map Prod.fst).Nodup) (hb : bare g = bare h) :
    Acts s r f ks (sends.map fun e => (e.1, slotWith s f e.1 e.2)) h t where
  unit := ⟨g, hw.unit, hb, fun k => by simp only [FabUnit.latch, hi, takes_join],
    fun p hp => by simp only [FabUnit.slot, ho]; exact sentAll_slot s f sends hn p hp⟩
  others := hw.others
  rest := hw.rest

/-! ### A turn (R32, R254) -/

/-- The state in which a unit that consumes `ks` goes on, when no latent error waits in it. -/
def State.fired (s : State) (f : FabUnit) (ks : List Nat) : State :=
  let s := ks.foldl (fun s k => s.takeIn f.key k) s
  let s := s.modUnit f.key fun f => { f with fired := s.cycle.toNat }
  { s with residents := updWhere (fun r => r.serial == f.serial && r.folio == f.folio) (fun r => { r with lastFire := s.cycle.toNat }) s.residents }

theorem State.firing_eq (s : State) {f : FabUnit} (ks : List Nat) (go : State → State) (hc : f.cfgBad = false) (he : f.eccBad = false) :
    s.firing f ks go = go (s.fired f ks) := by
  simp only [State.firing, hc, he, Bool.false_eq_true, if_false]; rfl

theorem WithUnit.fired (h : WithUnit s r f.key g t) (ks : List Nat) :
    WithUnit s r f.key { g with ins := Machine.takes ks g.ins, fired := (ks.foldl (fun s k => s.takeIn f.key k) t).cycle.toNat } (t.fired f ks) := by
  refine ((h.takes ks).modUnit (fun x => { x with fired := (ks.foldl (fun s k => s.takeIn f.key k) t).cycle.toNat })
    fun _ => rfl).beside rfl ?_
  have hr : ∀ (l : List Resident) (p : Resident → Bool) (c : Nat),
      (updWhere p (fun r : Resident => { r with lastFire := c }) l).map (fun r => { r with lastFire := 0 }) = l.map fun r => { r with lastFire := 0 } :=
    fun l p c => map_updWhere _ _ _ _ fun _ => rfl
  simp only [still, State.fired, hr]

end

theorem next_of {o : Host.Outcome State Fault Refusal} {x : State} {P : State → Prop} (h : o = .next x) (hp : P x) : Next o P := ⟨x, h, hp⟩

end Sys2Proof.Machine

namespace Sys2Proof.Claims
open Sys2Proof.Machine

section
variable {s : State} {u : UKey} {op : Nat} {f : FabUnit}

theorem Turn.key (h : Turn s u op f) : f.key = u := State.unit?_key h.there

theorem Turn.firing (h : Turn s u op f) (t : State) (ks : List Nat) (go : State → State) : t.firing f ks go = go (t.fired f ks) :=
  t.firing_eq ks go h.config h.latches

/-- A unit that has its turn, and no leaf marker in it, acts. -/
theorem Turn.run (h : Turn s u op f) (act : FabUnit → State → State) : unitTurn u op act s = .next (act f s) := by
  have hm : s.passMarker f = none := by simp only [State.passMarker, h.clear]
  simp only [unitTurn, h.there, h.code, h.alive, h.runs, h.phase, hm, bne_self_eq_false, Bool.not_true, Bool.or_self, Bool.false_eq_true, if_false]

end

end Sys2Proof.Claims

namespace Sys2Proof.Machine
open Sys2Proof.Claims

/-! ### Firings of routers (R34, R35, R37, R248 to R251) -/

section
variable {s r t : State} {u : UKey} {f g : FabUnit}

theorem FabUnit.strip?_data {k : Nat} {v : Strip} (h : f.strip? k = some v) : f.latch k = some (.data v) := by
  obtain ⟨c, hc, hv⟩ := Option.bind_eq_some_iff.mp h
  cases c <;> simp_all [Token.strip?]

theorem FabUnit.strip?_none {k : Nat} (h : f.latch k = none) : f.strip? k = none := by simp [FabUnit.strip?, h]

theorem WithUnit.setSt (h : WithUnit s r u g t) (n : NodeSt) : WithUnit s r u { g with st := n } (t.setSt u n) :=
  h.modUnit (fun f => { f with st := n }) fun _ => rfl

theorem WithUnit.setEnded (h : WithUnit s r u g t) : WithUnit s r u { g with ended := true } (t.setEnded u) :=
  h.modUnit (fun f => { f with ended := true }) fun _ => rfl

end

/-- A carry that takes its back token and its predicate (R35). -/
theorem carryMain_back {s : State} {f : FabUnit} {v p : Strip} {k n m : Nat} {ks : List Nat} {retired : List (Nat × Token)} {a b : Bool}
    (hst : f.st = .carry (k :: ks) retired n m a b) (hv : f.strip? 1 = some v) (hp : f.strip? 2 = some p) :
    carryMain f s =
      if p.getLsbD 0 then
        if f.outFree 0 then
          s.firing f [1, 2] fun s => (s.emit f.key 0 (.data v)).setSt f.key (.carry (ks ++ [k]) retired n m a b)
        else s
      else if retired.length < f.permits then
        s.firing f [1, 2] fun s => s.setSt f.key (.carry ks (retired ++ [(k, .data v)]) n m a b)
      else s := by
  simp only [carryMain, hst, hv, hp]; rfl

/-- A carry that admits an initial token (R35). -/
theorem carryMain_init {s : State} {f : FabUnit} {v : Strip} {n m : Nat} {loop : List Nat} {retired : List (Nat × Token)} {a b : Bool}
    (hst : f.st = .carry loop retired n m a b) (hn : f.strip? 1 = none ∨ f.strip? 2 = none) (hv : f.strip? 0 = some v)
    (hl : loop.length < f.permits) (ho : f.outFree 0 = true) :
    carryMain f s = s.firing f [0] fun s =>
      (s.emit f.key 0 (.data v)).setSt f.key (.carry (loop ++ [n]) retired (n + 1) m a b) := by
  have hif : loop.length < f.permits ∧ f.outFree 0 = true := ⟨hl, ho⟩
  rcases hn with h1 | h2
  · simp only [carryMain, hst, h1, hv, if_pos hif]
  · cases h1 : f.strip? 1 <;> simp only [carryMain, hst, h1, h2, hv, if_pos hif]

end Sys2Proof.Machine

namespace Sys2Proof.Claims
open Sys2Proof.Machine

section
variable {s t : State} {u : UKey} {op : Nat} {f : FabUnit}

theorem Turn.self (h : Turn s u op f) : s.unit? f.key = some f := h.key.symm ▸ h.there

theorem Turn.start (h : Turn s u op f) : WithUnit s s f.key f s := WithUnit.refl h.self

/-- No leaf marker stands in a latch of a unit that has its turn. -/
theorem Turn.not_leafEnd (h : Turn s u op f) {k : Nat} {c : Token} (hl : f.latch k = some c) : c.isLeafEnd = false := by
  have hm : some c ∈ f.ins := by
    obtain ⟨o, ho, rfl⟩ := Option.join_eq_some_iff.mp hl |> fun h => (⟨_, h, rfl⟩ : ∃ o, f.ins[k]? = some o ∧ o = some c)
    exact List.mem_of_getElem? ho
  have := List.findSome?_eq_none_iff.mp h.clear (some c) hm
  cases c <;> simp_all [Token.isLeafEnd]

theorem Turn.fires_emit (h : Turn s u op f) (ks : List Nat) (p : Nat) (c : Token) :
    Fires s f ks [(p, c)] f ((s.fired f ks).emit f.key p c) :=
  Acts.of ((h.start.fired ks).emit rfl p c) rfl rfl (List.nodup_singleton _) rfl

theorem Turn.fires_emit_st (h : Turn s u op f) (ks : List Nat) (p : Nat) (c : Token) (n : NodeSt) :
    Fires s f ks [(p, c)] { f with st := n } (((s.fired f ks).emit f.key p c).setSt f.key n) :=
  Acts.of (((h.start.fired ks).emit rfl p c).setSt n) rfl rfl (List.nodup_singleton _) rfl

theorem Turn.fires_st (h : Turn s u op f) (ks : List Nat) (n : NodeSt) :
    Fires s f ks [] { f with st := n } ((s.fired f ks).setSt f.key n) :=
  Acts.of ((h.start.fired ks).setSt n) rfl rfl List.nodup_nil rfl

theorem Turn.takes_one (h : Turn s u op f) (k : Nat) : Fires s f [k] [] f (s.takeIn f.key k) :=
  Acts.of (h.start.takeIn k) rfl rfl List.nodup_nil rfl

theorem Turn.steer (h : Turn s u 0x80 f) {p v : Strip} (hp : f.strip? 0 = some p) (hv : f.strip? 1 = some v) :
    exec (.steer u) s = .next (if f.outFree (if p.getLsbD 0 then 0 else 1) then
      (s.fired f [0, 1]).emit f.key (if p.getLsbD 0 then 0 else 1) (.data v) else s) := by
  have e : exec (.steer u) s = .next (steerAct f s) := h.run steerAct
  rw [e]
  simp only [steerAct, hp, hv, h.firing]; rfl

theorem Turn.merge (h : Turn s u 0x81 f) {p v : Strip} (hp : f.strip? 0 = some p) (ho : f.outFree 0 = true)
    (hv : f.strip? (if bitAt p 0 then 2 else 1) = some v) :
    exec (.merge u) s = .next ((s.fired f [0, if bitAt p 0 then 2 else 1]).emit f.key 0 (.data v)) := by
  have e : exec (.merge u) s = .next (mergeAct f s) := h.run mergeAct
  rw [e]
  simp only [mergeAct, hp, hv, ho, h.firing, if_true]

theorem Turn.merge_waits (h : Turn s u 0x81 f) {p : Strip} (hp : f.strip? 0 = some p)
    (hv : f.strip? (if bitAt p 0 then 2 else 1) = none) : exec (.merge u) s = .next s := by
  have e : exec (.merge u) s = .next (mergeAct f s) := h.run mergeAct
  rw [e]
  simp only [mergeAct, hp, hv]

section
variable {c : Token} (h : Turn s u 0x83 f) (he : f.ended = false) (hl : f.latch 1 = some c) (hc : c ≠ .eos)
include h he hl hc

/-- A gate whose control input holds a token that is no end of stream. -/
theorem Turn.gateAct_eq : exec (.gate u) s = .next (gateAct f s) ∧
    (c.qualifies (f.auxBits 0 3) = false → gateAct f s = s.takeIn f.key 1) ∧
    ∀ v, c.qualifies (f.auxBits 0 3) = true → f.strip? 0 = some v → f.outFree 0 = true →
      gateAct f s = (s.fired f [0, 1]).emit f.key 0 (.data v) := by
  have hm := h.not_leafEnd hl
  refine ⟨h.run gateAct, fun hq => ?_, fun v hq hv ho => ?_⟩
  · cases c <;> simp_all [gateAct]
  · cases c <;> simp_all [gateAct, h.firing]

end

/-- What a delay line does whose oldest token is a strip, as long as no error waits in it (R37). -/
theorem Turn.delay (h : Turn s u 0x85 f) {x : Strip} {l : List Token} (hst : f.st = .delay (.data x :: l))
    (hl : l.length ≤ f.auxBits 0 4) :
    (∀ v, f.outFree 0 = true → f.strip? 0 = some v →
      exec (.delay u) s = .next (((s.emit f.key 0 (.data x)).fired f [0]).setSt f.key (.delay (l ++ [.data v])))) ∧
    (f.outFree 0 = true → f.latch 0 = none → exec (.delay u) s = .next ((s.emit f.key 0 (.data x)).setSt f.key (.delay l))) ∧
    (f.outFree 0 = false → f.latch 0 = none → exec (.delay u) s = .next (s.setSt f.key (.delay (.data x :: l)))) := by
  have e : exec (.delay u) s = .next (delayAct f s) := h.run delayAct
  have hroom : (l.filter fun t => !t.isLeafEnd).length < f.depth := by
    have := List.length_filter_le (fun t : Token => !t.isLeafEnd) l
    unfold FabUnit.depth; omega
  rw [e]
  refine ⟨fun v ho hv => ?_, fun ho hn => ?_, fun ho hn => ?_⟩
  · have hd := FabUnit.strip?_data hv
    simp [delayAct, hst, ho, hv, hd, hroom, h.config, h.latches, h.firing]
  · have hv := FabUnit.strip?_none hn
    simp [delayAct, hst, ho, hn, hv, h.config, h.latches]
  · have hv := FabUnit.strip?_none hn
    simp [delayAct, hst, ho, hn, hv, h.config, h.latches]

/-- A carry none of whose finished tokens is the next to leave does its main action only (R35). -/
theorem Turn.carry (h : Turn s u 0x82 f) {loop : List Nat} {retired : List (Nat × Token)} {n m : Nat} {a b : Bool}
    (hst : f.st = .carry loop retired n m a b) (hf : retired.find? (fun e => e.1 == m) = none) : exec (.carry u) s = .next (carryMain f s) := by
  have e : exec (.carry u) s = .next (carryAct f s) := h.run carryAct
  rw [e]
  simp only [carryAct, carryExit, hst, hf, h.self]

/-- A finished token leaves; with empty latches nothing else happens. -/
theorem Turn.carry_exit (h : Turn s u 0x82 f) {loop : List Nat} {retired : List (Nat × Token)} {n m : Nat} {a b : Bool}
    (hst : f.st = .carry loop retired n m a b) {c : Token} (hf : retired.find? (fun e => e.1 == m) = some (m, c)) (ho : f.outFree 1 = true)
    (hn : ∀ k, f.strip? k = none) : exec (.carry u) s = .next
      ((s.emit f.key 1 c).setSt f.key (.carry loop (retired.filter fun e => e.1 != m) n (m + 1) a b)) := by
  have e : exec (.carry u) s = .next (carryAct f s) := h.run carryAct
  have hw := ((h.start.emit rfl 1 c).setSt (.carry loop (retired.filter fun e => e.1 != m) n (m + 1) a b)).unit
  have hx : carryExit f s = (s.emit f.key 1 c).setSt f.key (.carry loop (retired.filter fun e => e.1 != m) n (m + 1) a b) := by
    simp only [carryExit, hst, hf, ho, if_true]
  have h1 := hn 1
  have h0 := hn 0
  simp only [FabUnit.strip?, FabUnit.latch] at h0 h1
  rw [e, carryAct, hx]
  simp only [hw, carryMain, FabUnit.strip?, FabUnit.latch, h0, h1]

end

end Sys2Proof.Claims

namespace Sys2Proof
open Machine Claims

/-- Settles O40, router by router: each answers the state that its rule names, which a firing's frame describes. -/
theorem routerFirings : Obligations.RouterFirings := by
  unfold Obligations.RouterFirings
  intro s u f
  refine ⟨fun h p v hp hv => ⟨fun ho => ?_, fun ho => ?_⟩, fun h p v hp ho => ⟨fun hv => ?_, fun hv => ?_⟩,
    fun h he c v hl hc => ⟨fun hq hv ho => ?_, fun hq => ?_⟩, fun h v n hst ho => ?_, fun h v w hv hw ho => ?_,
    fun h x l hst hl => ?_, fun h loop retired nextId nextExit a b hst => ⟨fun tok hf ho hn => ?_, fun hf => ⟨?_, ?_⟩⟩⟩
  · exact next_of (h.steer hp hv) (by rw [if_pos ho]; exact h.fires_emit _ _ _)
  · rw [h.steer hp hv, if_neg (ne_true_of_eq_false ho)]
  · exact next_of (h.merge hp ho hv) (h.fires_emit _ _ _)
  · exact h.merge_waits hp hv
  · obtain ⟨e, -, hpass⟩ := h.gateAct_eq he hl hc
    exact next_of e (hpass v hq hv ho ▸ h.fires_emit _ _ _)
  · obtain ⟨e, hdrop, -⟩ := h.gateAct_eq he hl hc
    exact next_of e (hdrop hq ▸ h.takes_one 1)
  · have e : exec (.const u) s = .next (constAct f s) := h.run constAct
    refine ⟨fun ha hs => ?_, fun ha he hn => ?_, fun ha he hn => ?_⟩
    · obtain ⟨w, hw⟩ := Option.isSome_iff_exists.mp hs
      rw [show constAct f s = (s.fired f [0]).emit f.key 0 (.data v) by simp [constAct, hst, ha, hw, ho, h.firing]] at e
      exact next_of e (h.fires_emit _ _ _)
    · rw [show constAct f s = ((s.fired f []).emit f.key 0 (.data v)).setSt f.key (.const v (n - 1)) by
        simp [constAct, hst, ha, ho, he, Nat.ne_of_gt hn, h.firing]] at e
      exact next_of e (h.fires_emit_st _ _ _ _)
    · rw [show constAct f s = (s.emit f.key 0 .eos).setEnded f.key by simp [constAct, hst, ha, ho, he, hn]] at e
      exact next_of e (Acts.of ((h.start.emit rfl 0 .eos).setEnded) rfl rfl (List.nodup_singleton _) rfl)
  · have e : exec (.ord u) s = .next (ordAct f s) := h.run ordAct
    rw [show ordAct f s = (s.fired f [0, 1]).emit f.key 0 (.data v) by simp [ordAct, hv, FabUnit.strip?_data hw, ho, h.firing]] at e
    exact next_of e (h.fires_emit _ _ _)
  · obtain ⟨hboth, hout, hnone⟩ := h.delay hst hl
    refine ⟨fun v ho hv => next_of (hboth v ho hv) ?_, fun ho hn => next_of (hout ho hn) ?_, fun ho hn => next_of (hnone ho hn) ?_⟩
    · exact Acts.of (((h.start.emit rfl 0 (.data x)).fired [0]).setSt _) rfl rfl (List.nodup_singleton _) rfl
    · exact Acts.of ((h.start.emit rfl 0 (.data x)).setSt _) rfl rfl (List.nodup_singleton _) rfl
    · exact Acts.of (h.start.setSt _) rfl rfl List.nodup_nil (by rw [← hst])
  · refine next_of (h.carry_exit hst hf ho hn) ?_
    exact Acts.of ((h.start.emit rfl 1 tok).setSt _) rfl rfl (List.nodup_singleton _) rfl
  · rintro v p k ks hv hp rfl
    have e := h.carry hst hf
    rw [carryMain_back hst hv hp] at e
    refine ⟨fun h0 ho => next_of e ?_, fun h0 ho => ?_, fun h0 hr => next_of e ?_⟩
    · rw [if_pos h0, if_pos ho, h.firing]; exact h.fires_emit_st _ _ _ _
    · rw [e, if_pos h0, if_neg (by simp [ho])]
    · have hr : retired.length < f.permits := Nat.lt_succ_of_le hr
      rw [if_neg (ne_true_of_eq_false h0), if_pos hr, h.firing]; exact h.fires_st _ _
  · intro v hn hv hl ho
    refine next_of (h.carry hst hf) ?_
    rw [carryMain_init hst hn hv (Nat.lt_succ_of_le hl) ho, h.firing]
    exact h.fires_emit_st _ _ _ _

end Sys2Proof

namespace Sys2Proof.Machine
open Sys2Proof.Claims

/-! ### Strips value by value (R2, R13) -/

theorem stripVal_mod (v : Strip) (w k : Nat) : stripVal v w k % 2 ^ w = stripVal v w k := Nat.mod_mod _ _

theorem stripVal_lt (v : Strip) (w k : Nat) : stripVal v w k < 2 ^ w := Nat.mod_lt _ (Nat.two_pow_pos w)

/-- Value k of a strip that is packed value by value. -/
theorem stripVal_packed {w n k : Nat} (g : Nat → Nat) (hk : k < n) (h : w * k + w ≤ 4096) :
    stripVal (packVals w ((upTo n).map g)) w k = g k % 2 ^ w := by
  rw [stripVal_packVals w _ k h, upTo, List.getElem?_map, List.getElem?_range hk]; rfl

theorem fits_of_lt {w k : Nat} (h : k < 4096 / w) : w * k + w ≤ 4096 := by
  have : w * (k + 1) ≤ w * (4096 / w) := Nat.mul_le_mul_left w h
  have := Nat.mul_div_le 4096 w
  rw [Nat.mul_succ] at *; omega

theorem toNat_lane (v : Strip) (k : Nat) : (lane v k).toNat = stripVal v 32 k := by
  rw [lane, BitVec.extractLsb'_toNat, Nat.shiftRight_eq_div_pow]; rfl

theorem lane_ofLanes (l : List W32) {k : Nat} (h : k < 128) : lane (ofLanes l) k = (l[k]?).getD 0#32 := by
  apply BitVec.eq_of_toNat_eq
  rw [toNat_lane]
  have := stripVal_packVals 32 (l.map BitVec.toNat) k (by omega)
  rw [show ofLanes l = packVals 32 (l.map BitVec.toNat) from rfl, this, List.getElem?_map]
  cases l[k]? with
  | none => rfl
  | some x => exact Nat.mod_eq_of_lt x.isLt

theorem lane_packed (g : Nat → W32) {k : Nat} (h : k < 128) : lane (ofLanes ((upTo 128).map g)) k = g k := by
  rw [lane_ofLanes _ h, upTo, List.getElem?_map, List.getElem?_range h]; rfl

/-- Bit b of a lane whose bits are joined one by one. -/
theorem getLsbD_joinBits (l : List Bool) {b : Nat} (h : b < 32) : (w32 (joinBits 1 (l.map Bool.toNat))).getLsbD b = (l[b]?).getD false := by
  have hf := joinBits_field 1 (l.map Bool.toNat) b
  rw [Nat.one_mul, Nat.pow_one, List.getElem?_map] at hf
  rw [w32, BitVec.getLsbD_ofNat, Nat.testBit_eq_decide_div_mod_eq, hf]
  simp only [h, decide_true, Bool.true_and]
  cases l[b]? with
  | none => rfl
  | some x => cases x <;> rfl

theorem bytesNat_joinBits (l : List Byte) : bytesNat l = joinBits 8 (l.map BitVec.toNat) := by
  induction l with
  | nil => rfl
  | cons b l ih =>
    have := b.isLt
    simp only [bytesNat, List.map_cons, joinBits, ih]; omega

/-- Byte k of a strip is byte k of the bytes it was made from. -/
theorem stripVal_ofBytes (l : List Byte) {k : Nat} (h : k < 512) : stripVal (ofBytes l) 8 k = ((l[k]?).getD 0#8).toNat := by
  have := stripVal_packVals 8 (l.map BitVec.toNat) k (by omega)
  rw [show ofBytes l = packVals 8 (l.map BitVec.toNat) by rw [ofBytes, bytesNat_joinBits]; rfl, this, List.getElem?_map]
  cases l[k]? with
  | none => rfl
  | some x => exact Nat.mod_eq_of_lt x.isLt

theorem getElem?_stripBytes (v : Strip) {k : Nat} (h : k < 512) : (stripBytes v)[k]? = some (BitVec.ofNat 8 (stripVal v 8 k)) := by
  have hl : k < (natBytes 512 v.toNat).length := by rw [natBytes_length]; exact h
  rw [stripBytes, List.getElem?_eq_getElem hl, getElem_natBytes]
  congr 1
  apply BitVec.eq_of_toNat_eq
  rw [BitVec.toNat_ofNat, BitVec.toNat_ofNat, stripVal_mod, stripVal, fieldN, bitsN, Nat.pow_mul]

theorem bitsN_zero (v len : Nat) : bitsN v 0 len = v % 2 ^ len := by rw [bitsN, Nat.pow_zero, Nat.div_one]

theorem laneBits_pos (ty : Nat) : 0 < laneBits ty := by
  unfold laneBits; split <;> decide

end Sys2Proof.Machine

namespace Sys2Proof.Machine
open Sys2Proof.Claims

/-! ### Results of the element members (R236 to R246) -/

namespace ElemIn
variable (i : ElemIn) {k : Nat}

theorem float3_val (F : Fp → Fp → Fp → Fp) (hk : k < i.n) : stripVal (i.float3 F) i.w k =
    i.fmt.narrow i.mode false 0 (F (i.fmt.decode (stripVal i.a i.w k)) (i.fmt.decode (stripVal i.b i.w k)) (i.fmt.decode (stripVal i.c i.w k))) % 2 ^ i.w :=
  stripVal_packed _ hk (fits_of_lt hk)

theorem map2_val (F : Nat → Nat → Nat) (hk : k < i.n) :
    stripVal (i.map2 F) i.w k = F (stripVal i.a i.w k) (stripVal i.b i.w k) % 2 ^ i.w :=
  stripVal_packed _ hk (fits_of_lt hk)

theorem estimate_val (F : Fp → W32) (hk : k < i.n) : stripVal (i.estimate F) i.w k =
    if i.ty = 0 then (F (i.fmt.decode (stripVal i.a i.w k))).toNat
    else i.fmt.narrow 0 false 0 (f32Val (F (i.fmt.decode (stripVal i.a i.w k)))) % 2 ^ i.w := by
  rw [estimate, stripVal_packed _ hk (fits_of_lt hk)]
  by_cases h0 : i.ty = 0
  · have hw : i.w = 32 := by rw [w, h0]; rfl
    simp only [h0, if_true, hw]
    exact Nat.mod_eq_of_lt (F _).isLt
  · simp only [h0, if_false]

/-- Bit b of lane j of a value mask: the relation of its values, or nothing past the lane's last value (R237). -/
theorem mask_bit (p : Nat → Nat → Bool) {j b : Nat} (hj : j < 128) (hb : b < 32) : (lane (i.mask p) j).getLsbD b =
    if b < 32 / i.w then p (stripVal i.a i.w (j * (32 / i.w) + b)) (stripVal i.b i.w (j * (32 / i.w) + b)) else false := by
  have hm : (upTo (32 / i.w)).map (fun k => (p (stripVal i.a i.w (32 / i.w * j + k)) (stripVal i.b i.w (32 / i.w * j + k))).toNat) =
      ((upTo (32 / i.w)).map fun k => p (stripVal i.a i.w (32 / i.w * j + k)) (stripVal i.b i.w (32 / i.w * j + k))).map Bool.toNat := by
    rw [List.map_map]; rfl
  rw [mask, lane_packed _ hj]
  rw [hm, getLsbD_joinBits _ hb, upTo, List.getElem?_map, Nat.mul_comm j]
  by_cases h : b < 32 / i.w
  · rw [if_pos h, List.getElem?_range h]; rfl
  · rw [if_neg h, List.getElem?_eq_none (by simpa using h)]; rfl

end ElemIn

/-- The class of each kind of value, in a format with infinities (R52, R238). -/
theorem classOf_decode {f : Fmt} (h0 : f.kind = 0) (v : Nat) :
    (f.decode v = .nan → ElemIn.classOf f v = 256) ∧ (∀ s, f.decode v = .inf s → ElemIn.classOf f v = if s then 1 else 128) ∧
    ∀ s m, f.decode v = .fin s m → ElemIn.classOf f v = if m.n = 0 then (if s then 8 else 16)
      else if m.n < 2 ^ f.mb then (if s then 4 else 32) else if s then 2 else 64 := by
  refine ⟨fun h => by simp only [ElemIn.classOf, h], fun s h => by simp only [ElemIn.classOf, h], fun s m h => ?_⟩
  have hlt : bitsN v 0 f.mb < 2 ^ f.mb := Nat.mod_lt _ (Nat.two_pow_pos _)
  have hsign : ∀ {x y : Mag} {s t : Bool}, Fp.fin s x = .fin t y → s = t ∧ x = y := fun h => by simpa using h
  simp only [ElemIn.classOf, h]
  simp only [Fmt.decode, h0, Nat.zero_ne_one, OfNat.zero_ne_ofNat, false_and, if_false, true_and] at h
  split at h
  · split at h <;> exact absurd h (by simp)
  · split at h
    · rename_i he
      obtain ⟨hs, rfl⟩ := hsign h
      simp only [hs, Mag.dyadic, he, hlt, if_true]
    · rename_i he
      obtain ⟨hs, rfl⟩ := hsign h
      have hpos := Nat.two_pow_pos f.mb
      simp only [hs, Mag.dyadic, if_neg he, Nat.not_lt.mpr (Nat.le_add_right _ _), if_false]

theorem clampTo_eq (v : Int) {lo hi : Int} (h : lo ≤ hi) : min (max v lo) hi = clampTo lo hi v := by
  unfold clampTo; omega

/-- The clamp of R71, as a number of n bits. -/
theorem intResult_sat {n m : Nat} (uns : Bool) (v : Int) (hm : m = n) (hn : 0 < n) : ((intResult n true uns v % 2 ^ m : Nat) : Int) =
    (if uns = true then clampTo 0 (2 ^ n - 1) v else clampTo (-2 ^ (n - 1)) (2 ^ (n - 1) - 1) v) % 2 ^ n := by
  subst hm
  have h1 : (1 : Int) ≤ 2 ^ m := by exact_mod_cast Nat.one_le_two_pow
  have h2 : (1 : Int) ≤ 2 ^ (m - 1) := by exact_mod_cast Nat.one_le_two_pow
  have hmod : ∀ x : Int, (((BitVec.ofInt m x).toNat % 2 ^ m : Nat) : Int) = x % 2 ^ m := fun x => by
    rw [Nat.mod_eq_of_lt (BitVec.isLt _), BitVec.toNat_ofInt, Int.toNat_of_nonneg (Int.emod_nonneg _ (by positivity))]; push_cast; rfl
  have hc : ∀ k : Nat, ((2 ^ k - 1 : Nat) : Int) = 2 ^ k - 1 := fun k => by
    rw [Nat.cast_sub Nat.one_le_two_pow]; push_cast; rfl
  rw [intResult, if_pos rfl]
  cases uns
  · simp only [Bool.false_eq_true, if_false, hmod, hc]
    rw [← clampTo_eq v (by omega)]; push_cast; rfl
  · simp only [if_true, hmod, hc]
    rw [clampTo_eq v (by omega)]

theorem ofInt_toNat_mod (m : Nat) (x : Int) : (((BitVec.ofInt m x).toNat % 2 ^ m : Nat) : Int) = x % 2 ^ m := by
  rw [Nat.mod_eq_of_lt (BitVec.isLt _), BitVec.toNat_ofInt, Int.toNat_of_nonneg (Int.emod_nonneg _ (by positivity))]; push_cast; rfl

namespace ElemIn
variable (i : ElemIn)

/-- fcvt, value by value (R241). -/
theorem fcvt_val {k : Nat} (hk : k < i.n) : stripVal i.fcvt i.w k =
    convert i.ty i.dst i.mode (bitsN i.aux 7 1 == 1) (bitsN i.aux 8 1 == 1) (i.rnd k) (stripVal i.a i.w k) % 2 ^ i.w :=
  stripVal_packed _ hk (fits_of_lt hk)

theorem pack_val {v : Nat} (hv : v < 4096 / laneBits i.dst) : stripVal i.pack (laneBits i.dst) v =
    (if i.part * i.n ≤ v ∧ v < (i.part + 1) * i.n then
      if isFloat i.ty then convert i.ty i.dst i.mode (bitsN i.aux 7 1 == 1) false (i.rnd v) (stripVal i.a i.w (v - i.part * i.n))
      else if i.sat then intResult (laneBits i.dst) true i.uns (intOf i.w i.uns (stripVal i.a i.w (v - i.part * i.n)))
      else stripVal i.a i.w (v - i.part * i.n) % 2 ^ laneBits i.dst
    else stripVal i.b (laneBits i.dst) v) % 2 ^ laneBits i.dst :=
  stripVal_packed _ hv (fits_of_lt hv)

theorem unpack_val {v : Nat} (hv : v < 4096 / laneBits i.dst) : stripVal i.unpack (laneBits i.dst) v =
    (if isFloat i.ty then (laneFmt i.dst).narrow 0 false 0 (i.fmt.decode (stripVal i.a i.w (v + i.part * (4096 / laneBits i.dst))))
    else (BitVec.ofInt (laneBits i.dst) (intOf i.w i.uns (stripVal i.a i.w (v + i.part * (4096 / laneBits i.dst))))).toNat) % 2 ^ laneBits i.dst :=
  stripVal_packed _ hv (fits_of_lt hv)

theorem fits_stripCount {w v : Nat} (h : v < stripCount w) : w * v + w ≤ 4096 := by
  unfold stripCount at h
  split at h
  · rename_i hw
    subst hw
    omega
  · exact fits_of_lt h

/-- quant with OUT = 0: the values that PART names are coded, the others are B's (R243). -/
theorem quant_codes {v : Nat} (ho : bitsN i.aux 5 1 ≠ 1) (hv : v < stripCount i.ch.fmt.w) : stripVal i.quant i.ch.fmt.w v =
    if 128 * i.qpart ≤ v ∧ v < 128 * i.qpart + 128 then
      (quantise i.ch.fmt (if isMx i.ch.code then pow2Fp (blockExp i.ch.code (i.blockOf ((v - 128 * i.qpart) / 32))) else i.ch.scale) i.ch.ct i.mode (i.rnd v)
        (f32Val (lane i.a (v - 128 * i.qpart)))).code % 2 ^ i.ch.fmt.w
    else stripVal i.b i.ch.fmt.w v := by
  rw [quant]
  simp only [if_neg ho]
  rw [stripVal_packed _ hv (fits_stripCount hv)]
  split
  · rename_i h
    have hb : (v - 128 * i.qpart) / 32 < 4 := by omega
    rw [upTo, List.getElem?_map, List.getElem?_range hb]; rfl
  · exact stripVal_mod _ _ _

/-- quant with OUT = 1: the four scale bytes that PART names (R243). -/
theorem quant_scales {v : Nat} (ho : bitsN i.aux 5 1 = 1) (hv : v < 512) : stripVal i.quant 8 v =
    if 4 * i.qpart ≤ v ∧ v < 4 * i.qpart + 4 then blockScale i.ch.code (i.blockOf (v - 4 * i.qpart)) % 256 else stripVal i.b 8 v := by
  rw [quant]
  simp only [if_pos ho]
  rw [stripVal_ofBytes _ hv, List.getElem?_mapIdx, getElem?_stripBytes _ hv]
  simp only [Option.map_some, Option.getD_some]
  split
  · rfl
  · exact Nat.mod_eq_of_lt (stripVal_lt _ 8 _)

/-- dequant, lane by lane (R244). -/
theorem dequant_lane {k : Nat} (hk : k < 128) : lane i.dequant k = roundF32 0 (rungValue i.ch.fmt
    (if isMx i.ch.code then scaleVal (stripVal i.b 8 (4 * i.qpart + k / 32)) else i.ch.scale) i.ch.ct (stripVal i.a i.ch.fmt.w (128 * i.qpart + k))) :=
  lane_packed _ hk

/-! ### The tree of lred and the prefixes of scan (R246) -/

theorem level_getElem? : ∀ (l : List Nat) (j : Nat), (i.level l)[j]? = match l[2 * j]?, l[2 * j + 1]? with
    | some x, some y => some (i.combine x y)
    | x, _ => x
  | [], j => by simp [level]
  | [x], j => by cases j <;> simp [level]
  | x :: y :: l, 0 => by simp [level]
  | x :: y :: l, j + 1 => by
    have := level_getElem? l j
    simp only [level, List.getElem?_cons_succ, this, Nat.mul_succ]

theorem level_length : ∀ l : List Nat, (i.level l).length = (l.length + 1) / 2
  | [] => rfl
  | [x] => by simp [level]
  | x :: y :: l => by simp only [level, List.length_cons, level_length l]; omega

/-- The values after n levels of the tree. -/
def levels (n : Nat) : List Nat := i.level^[n] i.firsts

theorem levels_succ (n : Nat) : i.levels (n + 1) = i.level (i.levels n) := Function.iterate_succ_apply' ..

theorem tree_eq (n : Nat) : ∀ l, i.tree n l = (i.level^[n] l).headD 0 := by
  induction n with
  | zero => intro l; rfl
  | succ n ih => intro l; rw [tree, ih]; rfl

theorem count_le : i.count ≤ 1024 := Nat.succ_le_of_lt (Nat.mod_lt _ (by decide))

/-- Ten levels reduce up to 1,024 values to one. -/
theorem levels_ten : (i.levels 10).length = 1 := by
  have hs : ∀ n, (i.levels (n + 1)).length = ((i.levels n).length + 1) / 2 := fun n => by rw [levels_succ, level_length]
  have h0 : (i.levels 0).length = i.count := by simp [levels, firsts, upTo]
  have h1 := i.count_le
  have h2 : 1 ≤ i.count := Nat.le_add_left 1 _
  simp only [hs, h0]; omega

theorem lred_val {k : Nat} (hk : k < i.n) : some (stripVal i.lred i.w k) = (i.levels 10)[0]?.map fun x => i.narrowOut x % 2 ^ i.w := by
  obtain ⟨x, hx⟩ := List.length_eq_one_iff.mp i.levels_ten
  have hr : (List.replicate i.n (i.narrowOut (i.tree 10 i.firsts)))[k]? = some (i.narrowOut x) := by
    rw [List.getElem?_replicate, if_pos hk, tree_eq, ← levels, hx]; rfl
  rw [lred, stripVal_packVals _ _ _ (fits_of_lt hk), hr, hx]; rfl

/-- The prefixes, one after another. -/
def running (n : Nat) : Nat :=
  match n with
  | 0 => i.wide (stripVal i.a i.w 0)
  | n + 1 => i.combine (running n) (i.wide (stripVal i.a i.w (n + 1)))

theorem prefixes_getElem? : ∀ (l : List Nat) (n k : Nat), (∀ j, j < l.length → l[j]? = some (i.wide (stripVal i.a i.w (n + 1 + j)))) →
    (i.prefixes l (i.running n))[k]? = if k < l.length then some (i.running (n + 1 + k)) else none
  | [], n, k, _ => by simp [prefixes]
  | x :: l, n, k, h => by
    have hx : x = i.wide (stripVal i.a i.w (n + 1)) := by simpa using h 0 (by simp)
    have hr : i.combine (i.running n) x = i.running (n + 1) := by rw [hx]; rfl
    rw [prefixes, hr]
    cases k with
    | zero => simp
    | succ k =>
      have := prefixes_getElem? l (n + 1) k fun j hj => by
        have := h (j + 1) (by simpa using hj)
        rw [List.getElem?_cons_succ] at this
        rw [this]; congr 3; omega
      rw [List.getElem?_cons_succ, this]
      simp only [List.length_cons, Nat.add_lt_add_iff_right]
      rw [show n + 1 + (k + 1) = n + 1 + 1 + k by omega]

theorem scan_val {k : Nat} (hk : k < i.n) :
    stripVal i.scan i.w k = if k < i.count then i.narrowOut (i.running k) % 2 ^ i.w else 0 := by
  have hc : i.count = (i.count - 1) + 1 := (Nat.sub_add_cancel (Nat.le_add_left 1 _)).symm
  have hf : i.firsts = i.running 0 :: (upTo (i.count - 1)).map fun j => i.wide (stripVal i.a i.w (0 + 1 + j)) := by
    rw [firsts, hc, upTo, List.range_succ_eq_map, List.map_cons, List.map_map]
    simp only [Nat.add_sub_cancel, upTo]
    congr 1
    refine List.map_congr_left fun j _ => ?_
    simp [Nat.add_comm]
  have hp := prefixes_getElem? i ((upTo (i.count - 1)).map fun j => i.wide (stripVal i.a i.w (0 + 1 + j))) 0
  have hall : ∀ k, (i.running 0 :: i.prefixes ((upTo (i.count - 1)).map fun j => i.wide (stripVal i.a i.w (0 + 1 + j))) (i.running 0))[k]? =
      if k < i.count then some (i.running k) else none := by
    intro k
    cases k with
    | zero => rw [if_pos (by omega)]; rfl
    | succ k =>
      rw [List.getElem?_cons_succ, hp k fun j hj => by
        rw [upTo, List.length_map, List.length_range] at hj
        rw [upTo, List.getElem?_map, List.getElem?_range hj]; rfl]
      simp only [upTo, List.length_map, List.length_range]
      rw [show 0 + 1 + k = k + 1 by omega]
      by_cases h : k + 1 < i.count
      · rw [if_pos h, if_pos (by omega)]
      · rw [if_neg h, if_neg (by omega)]
  rw [scan, hf]
  simp only
  rw [stripVal_packVals _ _ _ (fits_of_lt hk), List.getElem?_map, hall]
  split <;> simp

end ElemIn

end Sys2Proof.Machine

namespace Sys2Proof.Machine
open Sys2Proof.Claims

/-! ### An element fires (R32, R232) -/

/-- Every element member is a turn of its unit with its own opcode. -/
theorem exec_element (s : State) (u : UKey) : ∀ e ∈ elements, exec (e.2 u) s = unitTurn u e.1 elementAct s := by
  unfold elements
  repeat refine List.forall_mem_cons.mpr ⟨rfl, ?_⟩
  exact fun _ h => absurd h List.not_mem_nil

/-- The channels of a unit are not a matter of when its folio fired. -/
theorem State.chanOf_congr {s t : State} (f : FabUnit) (p : Resident → Bool) (n : Nat)
    (h : t.residents = updWhere p (fun r => { r with lastFire := n }) s.residents) : t.chanOf f = s.chanOf f := by
  funext c
  have hr : t.resident? f.serial f.folio = (s.resident? f.serial f.folio).map fun r => if p r then { r with lastFire := n } else r := by
    rw [State.resident?, h]
    exact find?_updWhere _ _ _ _ fun _ => rfl
  unfold State.chanOf
  rw [hr]
  cases s.resident? f.serial f.folio with
  | none => rfl
  | some r =>
    dsimp only [Option.map_some]
    split <;> rfl

theorem State.chanOf_fired (s : State) (f g : FabUnit) (ks : List Nat) : (s.fired f ks).chanOf g = s.chanOf g := by
  have hk : (ks.foldl (fun s k => s.takeIn f.key k) s).residents = s.residents := by
    induction ks generalizing s with
    | nil => rfl
    | cons k ks ih =>
      obtain ⟨t, ht, he⟩ := s.takeIn_cases f.key k
      rw [List.foldl_cons, ih, he]
      rcases ht with rfl | ⟨n, rfl⟩ <;> rfl
  refine State.chanOf_congr g (fun r => r.serial == f.serial && r.folio == f.folio)
    (ks.foldl (fun s k => s.takeIn f.key k) s).cycle.toNat ?_
  rw [← hk]; rfl

end Sys2Proof.Machine

namespace Sys2Proof.Claims
open Sys2Proof.Machine

section
variable {s : State} {u : UKey} {op : Nat} {f : FabUnit}

theorem elementAct_waits (h : f.operand f.srcA = none ∨ f.operand f.srcB = none ∨ f.operand f.srcC = none ∨ f.outFree 0 = false) :
    elementAct f s = s := by
  unfold elementAct
  cases ha : f.operand f.srcA with
  | none => rfl
  | some a =>
    cases hb : f.operand f.srcB with
    | none => rfl
    | some b =>
      cases hc : f.operand f.srcC with
      | none => rfl
      | some c =>
        have : f.outFree 0 = false := by simpa [ha, hb, hc] using h
        simp [this]

/-- The strip that an element sends. -/
def sentBy (s : State) (f : FabUnit) (op : Nat) (a b c : Strip) : Token :=
  .data (ElemIn.result ⟨op, f.ty, f.mode, f.aux, a, b, c, s.chanOf f, laneRandom f.seed f.gen⟩)

theorem Turn.elementAct_fires (h : Turn s u op f) {a b c : Strip} (ha : f.operand f.srcA = some a) (hb : f.operand f.srcB = some b)
    (hc : f.operand f.srcC = some c) (ho : f.outFree 0 = true) : Fires s f f.reads [(0, sentBy s f op a b c)]
      { f with gen := if f.mode = 4 then (f.gen + 1) % 2 ^ 22 else f.gen } (elementAct f s) := by
  have e : elementAct f s = State.emit (if f.mode = 4 then (s.fired f f.reads).modUnit f.key fun f => { f with gen := (f.gen + 1) % 2 ^ 22 }
      else s.fired f f.reads) f.key 0 (sentBy s f op a b c) := by
    simp only [elementAct, ha, hb, hc, ho, if_true, h.firing, State.chanOf_fired, h.code, sentBy]
  rw [e]
  have hf := h.start.fired f.reads
  by_cases hm : f.mode = 4
  · simp only [if_pos hm]
    exact Acts.of ((hf.modUnit (fun f => { f with gen := (f.gen + 1) % 2 ^ 22 }) fun _ => rfl).emit rfl 0 _) rfl rfl (List.nodup_singleton _) rfl
  · simp only [if_neg hm]
    exact Acts.of (hf.emit rfl 0 _) rfl rfl (List.nodup_singleton _) rfl

end

end Sys2Proof.Claims

namespace Sys2Proof.Machine
open Sys2Proof.Claims

/-! ### The results as the lane types give them -/

/-- The three lane types whose members R236 to R238 speak of here: 32 or 16 bits, with infinities. -/
theorem laneFmt_kind {ty : Nat} (h : ty ≤ 2) : (laneFmt ty).kind = 0 := by
  interval_cases ty <;> rfl

theorem laneBits_two {ty : Nat} (h : ty ≤ 2) : laneBits ty = 32 ∨ laneBits ty = 16 := by
  interval_cases ty
  · exact .inl rfl
  · exact .inr rfl
  · exact .inr rfl

/-- Value k of a strip lies in one of its 128 lanes. -/
theorem lane_of_value {ty k : Nat} (h : ty ≤ 2) (hk : k < 4096 / laneBits ty) : k / (32 / laneBits ty) < 128 := by
  rcases laneBits_two h with hw | hw <;> rw [hw] at hk ⊢ <;> omega

theorem isFloat_of_le {ty : Nat} (h : ty ≤ 5) : isFloat ty = true := decide_eq_true h

theorem not_isFloat {ty : Nat} (h : 5 < ty) : isFloat ty = false := decide_eq_false (Nat.not_le.mpr h)

namespace ElemIn
variable (i : ElemIn)

theorem classOf_le (f : Fmt) (v : Nat) : classOf f v ≤ 256 := by
  unfold classOf
  cases f.decode v with
  | nan => exact Nat.le_refl _
  | inf s => dsimp only; split <;> decide
  | fin s m => dsimp only; repeat' split
               all_goals decide

/-- fclass, value by value (R238): a class is not cut off by the lane. -/
theorem fclass_val {k : Nat} (h : i.ty ≤ 2) (hk : k < i.n) :
    stripVal (i.map2 fun x _ => classOf i.fmt x) i.w k = classOf i.fmt (stripVal i.a i.w k) := by
  rw [map2_val i (fun x _ => classOf i.fmt x) hk]
  have h256 : 256 < 2 ^ i.w := by
    rcases laneBits_two h with hw | hw <;> rw [w, hw] <;> decide
  exact Nat.mod_eq_of_lt ((classOf_le _ _).trans_lt h256)

theorem convert_float {src dst mode rnd v : Nat} {sat u : Bool} (hs : src ≤ 5) (hd : dst ≤ 5) :
    convert src dst mode sat u rnd v = (laneFmt dst).narrow mode sat rnd ((laneFmt src).decode v) := by
  simp only [convert, isFloat_of_le hs, isFloat_of_le hd, if_true]

theorem convert_toInteger {src dst mode rnd v : Nat} {sat u : Bool} (hs : src ≤ 5) (hd : 5 < dst) :
    convert src dst mode sat u rnd v = toInteger (laneBits dst) u mode rnd ((laneFmt src).decode v) := by
  simp [convert, isFloat_of_le hs, not_isFloat hd]

theorem convert_ofInteger {src dst mode rnd v : Nat} {sat u : Bool} (hs : 5 < src) (hd : dst ≤ 5) :
    convert src dst mode sat u rnd v = (laneFmt dst).narrow mode sat rnd (ofInteger (laneBits src) u v) := by
  simp [convert, not_isFloat hs, isFloat_of_le hd]

theorem result_fcvt {i : ElemIn} (h : i.op = 0x0F) : i.result = i.fcvt := by simp only [result, h]
theorem result_pack {i : ElemIn} (h : i.op = 0x63) : i.result = i.pack := by simp only [result, h]
theorem result_unpack {i : ElemIn} (h : i.op = 0x64) : i.result = i.unpack := by simp only [result, h]
theorem result_quant {i : ElemIn} (h : i.op = 0x65) : i.result = i.quant := by simp only [result, h]
theorem result_dequant {i : ElemIn} (h : i.op = 0x66) : i.result = i.dequant := by simp only [result, h]
theorem result_lred {i : ElemIn} (h : i.op = 0x67) : i.result = i.lred := by simp only [result, h]
theorem result_scan {i : ElemIn} (h : i.op = 0x68) : i.result = i.scan := by simp only [result, h]

theorem dst_eq : i.dst = i.aux % 16 := bitsN_zero _ _
theorem ch_eq : i.ch = i.chan (i.aux % 32) := congrArg i.chan (bitsN_zero _ _)
theorem part_eq : i.part = i.aux / 2 ^ 4 % 8 := rfl

/-- SAT and U, as bits of the mode (R62). -/
theorem sat_eq : i.sat = (i.mode % 2 == 1) := by rw [sat, bitsN_zero, Nat.pow_one]

theorem uns_eq : i.uns = (i.mode / 2 % 2 == 1) := rfl

theorem intOf_eq (n v : Nat) : intOf n i.uns v = if i.mode / 2 % 2 = 1 then (v : Int) else signedN n v := by
  simp only [intOf, uns_eq, beq_iff_eq]

theorem combine_float {x y : Nat} (h : i.ty ≤ 5) : i.combine x y =
    if i.aux % 4 = 0 then fp32.narrow i.mode false 0 ((fp32.decode x).add i.mode (fp32.decode y))
    else if i.aux % 4 = 1 then fp32.narrow 0 false 0 ((fp32.decode x).maxNum (fp32.decode y))
    else fp32.narrow 0 false 0 ((fp32.decode x).minNum (fp32.decode y)) := by
  have hr : i.rop = i.aux % 4 := bitsN_zero _ _
  simp only [combine, isFloat_of_le h, if_true, hr]
  have h4 := Nat.mod_lt i.aux (show 0 < 4 by decide)
  generalize i.aux % 4 = r at h4 ⊢
  interval_cases r <;> rfl

theorem combine_int {x y : Nat} (h : 5 < i.ty) : i.combine x y =
    if i.aux % 4 = 0 then intResult i.w i.sat i.uns (intOf i.w i.uns x + intOf i.w i.uns y)
    else if (intOf i.w i.uns x ≤ intOf i.w i.uns y ↔ i.aux % 4 = 1) then y else x := by
  have hr : i.rop = i.aux % 4 := bitsN_zero _ _
  simp only [combine, not_isFloat h, Bool.false_eq_true, if_false, hr]
  have h4 := Nat.mod_lt i.aux (show 0 < 4 by decide)
  generalize i.aux % 4 = r at h4 ⊢
  by_cases hle : intOf i.w i.uns x ≤ intOf i.w i.uns y <;> interval_cases r <;> simp [hle]

/-- The members that round once, and the estimates, value by value (R236, R70). -/
theorem float_values {k : Nat} (hk : k < i.n) :
    let x := i.fmt.decode (stripVal i.a i.w k)
    let y := i.fmt.decode (stripVal i.b i.w k)
    let z := i.fmt.decode (stripVal i.c i.w k)
    let once (e : Fp) : Nat := i.fmt.narrow i.mode false 0 e % 2 ^ i.w
    let r (op : Nat) : Nat := stripVal (ElemIn.result { i with op := op }) i.w k
    (r 0x01 = once (x.add i.mode y) ∧ r 0x02 = once (x.add i.mode y.neg) ∧ r 0x03 = once (x.mul y) ∧
      r 0x04 = once ((x.mul y).add i.mode z) ∧ r 0x05 = once (z.add i.mode (x.mul y).neg)) ∧
    r 0x06 = once (x.minNum y) ∧ r 0x07 = once (x.maxNum y) ∧ r 0x08 = once x.abs ∧ r 0x09 = once x.neg := by
  have h (op : Nat) (F : Fp → Fp → Fp → Fp) := float3_val { i with op := op } F hk
  exact ⟨⟨h 0x01 fun x y _ => x.add i.mode y, h 0x02 fun x y _ => x.sub i.mode y, h 0x03 fun x y _ => x.mul y,
    h 0x04 fun x y z => (x.mul y).add i.mode z, h 0x05 fun x y z => z.sub i.mode (x.mul y)⟩,
    h 0x06 fun x y _ => x.minNum y, h 0x07 fun x y _ => x.maxNum y, h 0x08 fun x _ _ => x.abs, h 0x09 fun x _ _ => x.neg⟩

end ElemIn

end Sys2Proof.Machine

namespace Sys2Proof
open Sys2Proof.Machine Sys2Proof.Claims

/-- Settles O38: an element's turn is `elementAct`, and its result is read value by value. -/
theorem elementFirings : Obligations.ElementFirings := by
  unfold Obligations.ElementFirings
  refine ⟨fun s u f e he h => ?_, fun i k hty hk => ?_, fun i k hk hop hb => ?_, fun i v => ?_, fun i v => ?_, fun i k => ?_⟩
  · have hx : exec (e.2 u) s = .next (elementAct f s) := (exec_element s u e he).trans (h.run elementAct)
    exact ⟨fun a b c ha hb hc ho => next_of hx (h.elementAct_fires ha hb hc ho), fun hw => by rw [hx, elementAct_waits hw]⟩
  · have hk' : k < i.n := hk
    obtain ⟨hround, hselect⟩ := i.float_values hk'
    have hest (op : Nat) (F : Fp → W32) := ElemIn.estimate_val { i with op := op } F hk
    have hclass := ElemIn.fclass_val { i with op := 0x10 } hty hk
    obtain ⟨hnan, hinf, hfin⟩ := classOf_decode (laneFmt_kind hty) (stripVal i.a (laneBits i.ty) k)
    refine ⟨hround, hselect, ⟨hest 0x0B frcpOf, hest 0x0C frsqOf, hest 0x0D fexp2Of, hest 0x0E flog2Of⟩,
      fun h => hclass.trans (hnan h), fun s h => hclass.trans (hinf s h), fun s m h => hclass.trans (hfin s m h), fun b hb => ?_⟩
    have hm := ElemIn.mask_bit { i with op := 0x0A } (fun x y => ((laneFmt i.ty).decode x).rel (bitsN i.aux 0 3) ((laneFmt i.ty).decode y))
      (lane_of_value hty hk) hb
    have h8 : bitsN i.aux 0 3 = i.aux % 8 := bitsN_zero _ _
    rw [← h8]
    exact hm
  · dsimp only
    rw [ElemIn.result_fcvt hop, hb]
    refine ⟨fun hs hd => (i.fcvt_val hk).trans ?_, fun hs hd => (i.fcvt_val hk).trans ?_, fun hs hd => (i.fcvt_val hk).trans ?_⟩
    · rw [i.dst_eq, ElemIn.convert_float hs hd]; rfl
    · rw [i.dst_eq, ElemIn.convert_toInteger hs hd, hb]; rfl
    · rw [i.dst_eq, ElemIn.convert_ofInteger hs hd]; rfl
  · dsimp only
    rw [← i.dst_eq, ← i.part_eq]
    intro hv
    refine ⟨fun hop => ?_, fun hop => ?_⟩
    · rw [ElemIn.result_pack hop]
      refine ⟨fun ho => (i.pack_val hv).trans ?_, fun h1 h2 => ⟨fun hs hd => (i.pack_val hv).trans ?_, fun hs hm => (i.pack_val hv).trans ?_,
        fun hs hm => ?_⟩⟩
      · have hn : ¬ (i.part * i.n ≤ v ∧ v < (i.part + 1) * i.n) := fun h => ho.elim (Nat.not_lt.mpr h.1) (Nat.not_le.mpr h.2)
        rw [if_neg hn, stripVal_mod]
      · rw [if_pos ⟨h1, h2⟩, if_pos (isFloat_of_le hs), ElemIn.convert_float hs hd]; rfl
      · have : i.sat = false := by rw [i.sat_eq, hm]; rfl
        simp only [if_pos (show i.part * i.n ≤ v ∧ v < (i.part + 1) * i.n from ⟨h1, h2⟩), not_isFloat hs, this, Bool.false_eq_true, if_false,
          Nat.mod_mod]; rfl
      · have : i.sat = true := by rw [i.sat_eq, hm]; rfl
        rw [i.pack_val hv]
        simp only [if_pos (show i.part * i.n ≤ v ∧ v < (i.part + 1) * i.n from ⟨h1, h2⟩), not_isFloat hs, this, Bool.false_eq_true, if_false, if_true]
        rw [intResult_sat i.uns _ rfl (laneBits_pos _), i.intOf_eq, i.uns_eq]
        simp only [beq_iff_eq]; rfl
    · rw [ElemIn.result_unpack hop]
      refine ⟨fun hs => (i.unpack_val hv).trans ?_, fun hs => ?_⟩
      · rw [if_pos (isFloat_of_le hs)]; rfl
      · rw [i.unpack_val hv, not_isFloat hs, i.intOf_eq]
        simp only [Bool.false_eq_true, if_false, ofInt_toNat_mod]; rfl
  · dsimp only
    rw [← i.ch_eq]
    refine ⟨fun hop ho hv => ?_, fun hop ho hv => ?_, fun hop hv => ?_⟩
    · rw [ElemIn.result_quant hop]
      exact i.quant_codes (ne_of_eq_of_ne ho Nat.zero_ne_one) hv
    · rw [ElemIn.result_quant hop]
      exact i.quant_scales ho hv
    · rw [ElemIn.result_dequant hop]
      exact i.dequant_lane hv
  · intro w f count rop signed value op out hk hc
    have hcombine : ∀ x y, i.combine x y = op x y := fun x y => by
      by_cases ht : i.ty ≤ 5
      · rw [i.combine_float ht]; simp only [op, if_pos ht, rop]
      · rw [i.combine_int (Nat.not_le.mp ht), i.sat_eq, i.intOf_eq, i.intOf_eq, i.uns_eq]
        simp only [op, if_neg ht, rop, signed, w, ElemIn.w]
        rfl
    have hvalue : ∀ j, i.wide (stripVal i.a i.w j) = value j := fun j => by
      simp only [ElemIn.wide, isFloat, decide_eq_true_eq]; rfl
    have hout : ∀ x, i.narrowOut x % 2 ^ i.w = out x := fun x => by
      simp only [ElemIn.narrowOut, isFloat, decide_eq_true_eq]; rfl
    refine ⟨fun hop => ?_, fun hop => ?_⟩
    · rw [ElemIn.result_lred hop]
      refine ⟨i.levels, List.map_congr_left fun j _ => hvalue j, fun n j => ?_, i.levels_ten, (i.lred_val hk).trans ?_⟩
      · rw [i.levels_succ, i.level_getElem?]
        simp only [hcombine] <;> rfl
      · simp only [hout]
    · rw [ElemIn.result_scan hop]
      exact ⟨i.running, hvalue 0, fun n => (hcombine _ _).trans (by rw [hvalue]), (i.scan_val hk).trans (by rw [hout]; rfl)⟩

end Sys2Proof

namespace Sys2Proof.Machine
open Sys2Proof.Claims

/-! ### End of stream (R36, R39, R44) -/

section
variable {s t : State} {f g : FabUnit} {u : UKey} {ks ps : List Nat}

theorem eosAt_iff {k : Nat} : f.eosAt k = true ↔ f.latch k = some .eos := beq_iff_eq

/-- A unit of whose outputs every one named is free takes its EOS and sends it on. -/
theorem forwardEos_eq (hp : ∀ p ∈ ps, f.outFree p = true) : s.forwardEos f ks ps =
    ((ps.map fun p => (p, Token.eos)).foldl (fun s e => s.emit f.key e.1 e.2) (ks.foldl (fun s k => s.takeIn f.key k) s)).setEnded f.key := by
  have : f.outsFree ps = true := List.all_eq_true.mpr hp
  rw [List.foldl_map]
  simp only [State.forwardEos, this, if_true]

theorem WithUnit.forwardEos (h : WithUnit s s f.key f s) (hp : ∀ p ∈ ps, f.outFree p = true) :
    WithUnit s s f.key { f with ins := Machine.takes ks f.ins, outs := s.sentAll f.key (ps.map fun p => (p, .eos)) f.outs, ended := true }
      (s.forwardEos f ks ps) := by
  rw [forwardEos_eq hp]
  exact ((h.takes ks).emits rfl _).setEnded

theorem forwardEos_fires (h : WithUnit s s f.key f s) (hp : ∀ p ∈ ps, f.outFree p = true) (hn : ps.Nodup) :
    Fires s f ks (ps.map fun p => (p, .eos)) { f with ended := true } (s.forwardEos f ks ps) := by
  refine Acts.of (h.forwardEos hp) rfl rfl ?_ rfl
  rw [List.map_map]
  exact (List.map_id ps).symm ▸ hn

/-- No delay line feeds an input: EOS in all of them goes on. -/
theorem eosOn_eq (hd : ∀ k ∈ ks, s.fedByDelay f.key k = false) (hk : ∀ k ∈ ks, f.latch k = some .eos) (hp : ∀ p ∈ ps, f.outFree p = true) :
    s.eosOn f ks ps = s.forwardEos f ks ps := by
  have hlate : ks.filter (s.fedByDelay f.key) = [] := List.filter_eq_nil_iff.mpr fun k hk => by simp [hd k hk]
  have hall : (ks.all f.eosAt && f.outsFree ps) = true := by
    rw [Bool.and_eq_true, List.all_eq_true]
    exact ⟨fun k h => eosAt_iff.mpr (hk k h), List.all_eq_true.mpr hp⟩
  have hneed : (if ks.isEmpty then [] else ks) = ks := by cases ks <;> rfl
  simp only [State.eosOn, hlate, List.contains_nil, Bool.not_false, List.filter_true, hneed, hall, if_true, List.foldl_nil]

/-- Delay lines feed some inputs, and EOS stands in the others: it goes on, and what the lines offer is discarded (R39). -/
theorem eosOn_late (hlive : ∃ k ∈ ks, s.fedByDelay f.key k = false) (hk : ∀ k ∈ ks, s.fedByDelay f.key k = false → f.latch k = some .eos)
    (hp : ∀ p ∈ ps, f.outFree p = true) : s.eosOn f ks ps = (ks.filter (s.fedByDelay f.key)).foldl (fun s k => s.dropDelay f.key k)
      (s.forwardEos f (ks.filter fun k => !s.fedByDelay f.key k) ps) := by
  have hfilter : (ks.filter fun k => !(ks.filter (s.fedByDelay f.key)).contains k) = ks.filter fun k => !s.fedByDelay f.key k :=
    List.filter_congr fun k hk => by simp [List.mem_filter, hk]
  obtain ⟨j, hj, hjd⟩ := hlive
  have hne : (ks.filter fun k => !s.fedByDelay f.key k).isEmpty = false := by
    rw [List.isEmpty_eq_false_iff]
    exact List.ne_nil_of_mem (List.mem_filter.mpr ⟨hj, by simp [hjd]⟩)
  have hall : ((ks.filter fun k => !s.fedByDelay f.key k).all f.eosAt && f.outsFree ps) = true := by
    rw [Bool.and_eq_true, List.all_eq_true]
    refine ⟨fun k h => eosAt_iff.mpr ?_, List.all_eq_true.mpr hp⟩
    obtain ⟨hm, hf⟩ := List.mem_filter.mp h
    exact hk k hm (by simpa using hf)
  simp only [State.eosOn, hfilter, hne, Bool.false_eq_true, if_false, hall, if_true]

/-- What the discarding of a delay line's offer leaves: every unit's opcode, the source of every route, memory. -/
structure SameLines (s t : State) : Prop where
  op : ∀ v, (t.unit? v).map FabUnit.op = (s.unit? v).map FabUnit.op
  src : ∀ u k, (t.routeInto u k).map Route.src = (s.routeInto u k).map Route.src
  mem : t.mem = s.mem

theorem SameLines.refl (s : State) : SameLines s s := ⟨fun _ => rfl, fun _ _ => rfl, rfl⟩

theorem SameLines.trans {r : State} (h : SameLines s t) (h' : SameLines t r) : SameLines s r :=
  ⟨fun v => (h'.op v).trans (h.op v), fun u k => (h'.src u k).trans (h.src u k), h'.mem.trans h.mem⟩

theorem SameLines.modUnit (h : SameLines s t) (v : UKey) (φ : FabUnit → FabUnit) (hk : ∀ x, (φ x).key = x.key) (ho : ∀ x, (φ x).op = x.op) :
    SameLines s (t.modUnit v φ) where
  op w := by
    rw [State.unit?_modUnit _ _ _ _ hk, ← h.op, Option.map_map]
    congr 1
    funext x
    dsimp only [Function.comp_apply]
    split
    · exact ho x
    · rfl
  src := h.src
  mem := h.mem

theorem SameLines.takeIn (h : SameLines s t) (v : UKey) (k : Nat) : SameLines s (t.takeIn v k) := by
  obtain ⟨t', ht, he⟩ := t.takeIn_cases v k
  rw [he]
  refine SameLines.modUnit ?_ v (fun f => { f with ins := updAt f.ins k fun _ => none }) (fun _ => rfl) fun _ => rfl
  rcases ht with rfl | ⟨n, rfl⟩
  · exact h
  · exact ⟨h.op, h.src, h.mem⟩

/-- A delay line feeds an input: the unit at the source of its route is one. -/
theorem fedByDelay_iff (s : State) (u : UKey) (k : Nat) : s.fedByDelay u k = true ↔
    ∃ r a io d, s.routeInto u k = some r ∧ r.src = .unit a io ∧ s.unit? a = some d ∧ d.op = 0x85 := by
  unfold State.fedByDelay State.feeder
  cases s.routeInto u k with
  | none => simp
  | some r =>
    dsimp only
    cases hr : r.src with
    | port a b => simp [hr]
    | unit a b => cases ha : s.unit? a <;> simp [hr, ha]

theorem SameLines.fedByDelay_of (h : SameLines s t) {k : Nat} (hf : s.fedByDelay u k = true) : t.fedByDelay u k = true := by
  obtain ⟨r, a, io, d, hr, ha, hd, ho⟩ := (fedByDelay_iff s u k).mp hf
  obtain ⟨r', hr', hs⟩ := Option.map_eq_some_iff.mp ((h.src u k).trans (congrArg _ hr))
  obtain ⟨d', hd', ho'⟩ := Option.map_eq_some_iff.mp ((h.op a).trans (congrArg _ hd))
  exact (fedByDelay_iff t u k).mpr ⟨r', a, io, d', hr', hs.trans ha, hd', ho'.trans ho⟩

/-- A delay line that has no consumer left gives up its stages (R39). -/
def emptied (d : FabUnit) : FabUnit :=
  match d.st with
  | .delay stages => { d with st := .delay [], ended := d.ended || stages.contains .eos }
  | _ => d

/-- A delay line whose offer to one route is discarded. -/
def unoffered (id : Nat) (d : FabUnit) : FabUnit :=
  { d with outs := updAt d.outs 0 fun o =>
      let todo := o.todo.erase id
      if todo.isEmpty then ⟨none, []⟩ else ⟨o.tok, todo⟩ }

/-- A route whose buffers are empty. -/
def drained (id : Nat) (s : State) : State :=
  { s with routes := updWhere (fun a => a.id == id) (fun a => { a with hops := a.hops.map fun _ => [] }) s.routes }

theorem emptied_key (d : FabUnit) : (emptied d).key = d.key := by unfold emptied; split <;> rfl

theorem emptied_op (d : FabUnit) : (emptied d).op = d.op := by unfold emptied; split <;> rfl

theorem dropDelay_eq {k : Nat} {r : Route} {d : FabUnit} (hr : s.routeInto u k = some r) (hd : s.feeder u k = some d) :
    let t := drained r.id ((s.takeIn u k).modUnit d.key (unoffered r.id))
    s.dropDelay u k = if t.takersEnded d.key then t.modUnit d.key emptied else t := by
  simp only [State.dropDelay, hr, hd]; rfl

theorem SameLines.drained (h : SameLines s t) (id : Nat) : SameLines s (drained id t) where
  op := h.op
  src u k := by
    rw [← h.src]
    have := find?_updWhere (fun a : Route => a.id == id) (fun r => r.dst == .unit u k) (fun a => { a with hops := a.hops.map fun _ => [] }) t.routes fun _ => rfl
    unfold State.routeInto Machine.drained
    dsimp only
    rw [this, Option.map_map]
    congr 1
    funext a
    dsimp only [Function.comp_apply]
    split <;> rfl
  mem := h.mem

/-- A unit gives up what a delay line offers it: its latch is empty, and it is else as it was. -/
theorem dropDelay_spec {k : Nat} (hg : t.unit? u = some g) (ho : g.op ≠ 0x85) (hf : t.fedByDelay u k = true) :
    SameLines t (t.dropDelay u k) ∧ (t.dropDelay u k).unit? u = some { g with ins := updAt g.ins k fun _ => none } := by
  obtain ⟨r, a, io, d, hr, ha, hd, hop⟩ := (fedByDelay_iff t u k).mp hf
  have hfeed : t.feeder u k = some d := by simp only [State.feeder, hr, ha, hd]
  have hne : u ≠ d.key := fun h => ho (by
    rw [h, State.unit?_key hd, hd] at hg
    cases hg; exact hop)
  have htake : (t.takeIn u k).unit? u = some { g with ins := updAt g.ins k fun _ => none } := ((WithUnit.refl hg).takeIn k).unit
  have hlines := (((SameLines.refl t).takeIn u k).modUnit d.key (unoffered r.id) (fun _ => rfl) fun _ => rfl).drained r.id
  have hunit : (drained r.id ((t.takeIn u k).modUnit d.key (unoffered r.id))).unit? u = some { g with ins := updAt g.ins k fun _ => none } := by
    have := State.unit?_modUnit (t.takeIn u k) d.key u (unoffered r.id) fun _ => rfl
    rw [htake, Option.map_some, if_neg hne] at this
    exact this
  rw [dropDelay_eq hr hfeed]
  split
  · refine ⟨hlines.modUnit d.key emptied emptied_key emptied_op, ?_⟩
    rw [State.unit?_modUnit _ _ _ _ emptied_key, hunit, Option.map_some, if_neg hne]
  · exact ⟨hlines, hunit⟩

theorem dropDelays_spec : ∀ {late : List Nat} {t : State} {g : FabUnit}, t.unit? u = some g → g.op ≠ 0x85 →
    (∀ k ∈ late, t.fedByDelay u k = true) → SameLines t (late.foldl (fun s k => s.dropDelay u k) t) ∧
      (late.foldl (fun s k => s.dropDelay u k) t).unit? u = some { g with ins := Machine.takes late g.ins }
  | [], t, g, hg, _, _ => ⟨.refl t, hg⟩
  | k :: late, t, g, hg, ho, hf => by
    obtain ⟨hl, hu⟩ := dropDelay_spec hg ho (hf k (by simp))
    obtain ⟨hl', hu'⟩ := dropDelays_spec (late := late) hu ho fun j hj => hl.fedByDelay_of (hf j (List.mem_cons_of_mem _ hj))
    exact ⟨hl.trans hl', hu'⟩

end

end Sys2Proof.Machine

namespace Sys2Proof.Machine
open Sys2Proof.Claims

section
variable {s t : State} {f g : FabUnit} {u : UKey} {ks ps : List Nat}

theorem WithUnit.mem {r : State} (h : WithUnit s r u g t) : t.mem = r.mem := (congrArg State.mem h.rest :)

theorem WithUnit.sameLines (h : WithUnit s s u g t) (hf : s.unit? u = some f) (ho : g.op = f.op) : SameLines s t where
  op v := by
    by_cases hv : v = u
    · rw [hv, h.unit, hf, Option.map_some, Option.map_some, ho]
    · rw [h.others v hv]
  src v k := by rw [State.routeInto, h.routes rfl, ← State.routeInto]
  mem := h.mem

/-- The unit after EOS at it and the discarding of what delay lines offer. -/
theorem eosOn_late_spec (h : s.unit? f.key = some f) (ho : f.op ≠ 0x85) (hlive : ∃ k ∈ ks, s.fedByDelay f.key k = false)
    (hk : ∀ k ∈ ks, s.fedByDelay f.key k = false → f.latch k = some .eos) (hp : ∀ p ∈ ps, f.outFree p = true) (hn : ps.Nodup) :
    ∃ g, (s.eosOn f ks ps).unit? f.key = some g ∧ g.ended = true ∧ (∀ k ∈ ks, g.latch k = none) ∧
      (∀ p ∈ ps, p < f.outs.length → g.slot p = slotWith s f p .eos) ∧ (s.eosOn f ks ps).mem = s.mem := by
  have hw := (WithUnit.refl h).forwardEos (ks := ks.filter fun k => !s.fedByDelay f.key k) hp
  have hl := hw.sameLines h rfl
  obtain ⟨hl', hu⟩ := dropDelays_spec (late := ks.filter (s.fedByDelay f.key)) hw.unit ho fun k hk =>
    hl.fedByDelay_of (List.mem_filter.mp hk).2
  rw [eosOn_late hlive hk hp]
  refine ⟨_, hu, rfl, fun k hk => ?_, fun p hp hpl => ?_, hl'.mem.trans hl.mem⟩
  · dsimp only [FabUnit.latch]
    rw [takes_join, takes_join]
    by_cases hd : s.fedByDelay f.key k = true
    · rw [if_pos (List.mem_filter.mpr ⟨hk, hd⟩)]
    · have hm : k ∈ ks.filter fun k => !s.fedByDelay f.key k := List.mem_filter.mpr ⟨hk, by simpa using hd⟩
      rw [if_pos hm, ite_self]
  · have hs := sentAll_slot s f (ps.map fun p => (p, .eos)) (by rw [List.map_map]; exact (List.map_id ps).symm ▸ hn) p hpl
    have hlook : (((ps.map fun p => (p, Token.eos)).map fun e => (e.1, slotWith s f e.1 e.2)).lookup p) = some (slotWith s f p .eos) := by
      rw [List.map_map]
      clear hs hn hpl hu hl' hl hw
      induction ps with
      | nil => cases hp
      | cons q ps ih =>
        rw [List.map_cons, List.lookup_cons]
        by_cases hq : p = q
        · subst hq; simp
        · have hb : (p == q) = false := by simpa using hq
          simp only [Function.comp_apply, hb]
          exact ih (fun r hr => by rename_i hall; exact hall r (List.mem_cons_of_mem _ hr)) ((List.mem_cons.mp hp).resolve_left hq)
    rw [FabUnit.slot, hs, hlook]; rfl

end

/-! What each kind of unit does with the EOS that stands at it. -/

section
variable {s : State} {f : FabUnit}

theorem eosAct_element (h : f.op < 0x80) : eosAct f s = s.eosOn f f.reads [0] := by
  unfold eosAct
  split
  all_goals try omega
  rw [if_pos h]; rfl

theorem eosAct_steer (h : f.op = 0x80) : eosAct f s = s.eosOn f [0, 1] [0, 1] := by simp only [eosAct, h]
theorem eosAct_merge (h : f.op = 0x81) : eosAct f s = s.eosOn f [0, 1, 2] [0] := by simp only [eosAct, h]
theorem eosAct_carry (h : f.op = 0x82) : eosAct f s = carryEos f s := by simp only [eosAct, h]
theorem eosAct_gate (h : f.op = 0x83) : eosAct f s = gateEos f s := by simp only [eosAct, h]
theorem eosAct_ord (h : f.op = 0x86) : eosAct f s = s.eosOn f [0, 1] [0] := by simp only [eosAct, h]

theorem eosAct_const (h : f.op = 0x84) (ht : f.auxBits 0 1 = 0) (he : f.latch 0 = some .eos) : eosAct f s = s.forwardEos f [0] [0] := by
  simp only [eosAct, h, ht, eosAt_iff.mpr he]; rfl

end

end Sys2Proof.Machine

namespace Sys2Proof.Claims
open Sys2Proof.Machine

theorem Turn.eosForward {s : State} {u : UKey} {op : Nat} {f : FabUnit} (h : Turn s u op f) (he : f.ended = false) :
    exec (.eosForward u) s = .next (eosAct f s) := by
  have : s.eosForward u = eosAct f s := by
    simp only [State.eosForward, h.there, h.alive, he, h.runs, h.phase, h.clear, Option.isSome_none, Bool.not_true, Bool.or_self,
      Bool.false_eq_true, if_false]
  exact congrArg Host.Outcome.next this

end Sys2Proof.Claims

namespace Sys2Proof
open Sys2Proof.Machine Sys2Proof.Claims

/-- Settles O41: what `eosAct` does at each kind of unit; a bubble is taken and nothing else. -/
theorem streamEnds : Obligations.StreamEnds := by
  unfold Obligations.StreamEnds
  intro s u f
  refine ⟨fun op h he => ?_, fun k hu hb => ?_⟩
  · obtain rfl := h.key
    have hx := h.eosForward he
    dsimp only
    have hends : ∀ ks ps : List Nat, ps.Nodup → ((∀ k ∈ ks, s.fedByDelay f.key k = false) → (∀ k ∈ ks, f.latch k = some .eos) →
        (∀ p ∈ ps, f.outFree p = true) → eosAct f s = s.forwardEos f ks ps) →
        (∀ k ∈ ks, s.fedByDelay f.key k = false) → (∀ k ∈ ks, f.latch k = some .eos) → (∀ p ∈ ps, f.outFree p = true) →
        Next (exec (.eosForward f.key) s) (Fires s f ks (ps.map fun p => (p, .eos)) { f with ended := true }) :=
      fun ks ps hn ha hd hk hp => next_of hx (by rw [ha hd hk hp]; exact forwardEos_fires h.start hp hn)
    have hlate : ∀ ks ps : List Nat, ps.Nodup → eosAct f s = s.eosOn f ks ps → op ≠ 0x85 → (∃ k ∈ ks, s.fedByDelay f.key k = false) →
        (∀ k ∈ ks, s.fedByDelay f.key k = false → f.latch k = some .eos) → (∀ p ∈ ps, f.outFree p = true) →
        Next (exec (.eosForward f.key) s) fun t => ∃ g, t.unit? f.key = some g ∧ g.ended = true ∧ (∀ k ∈ ks, g.latch k = none) ∧
          (∀ p ∈ ps, p < f.outs.length → g.slot p = slotWith s f p .eos) ∧ t.mem = s.mem :=
      fun ks ps hn ha ho hlive hk hp => next_of hx (by
        rw [ha]; exact eosOn_late_spec h.there (h.code ▸ ho) hlive hk hp hn)
    have hop : ∀ {n}, op = n → f.op = n := fun e => h.code.trans e
    refine ⟨fun o => hlate _ _ (by simp) (eosAct_element (h.code ▸ o)), fun o => hlate _ _ (by simp) (eosAct_steer (hop o)),
      fun o => hlate _ _ (by simp) (eosAct_merge (hop o)), fun o => hlate _ _ (by simp) (eosAct_ord (hop o)), fun o hd => hlate _ _ (by simp) ?_,
      fun o => hends _ _ (by simp) fun hd hk hp => ?_, fun o => hends _ _ (by simp) fun hd hk hp => ?_, fun o => hends _ _ (by simp) fun hd hk hp => ?_,
      fun o => hends _ _ (by simp) fun hd hk hp => ?_, fun o ht => hends _ _ (by simp) fun hd hk hp => ?_,
      fun o => hends _ _ (by simp) fun hd hk hp => ?_, fun o hc hd hl hp => ?_, fun o loop retired n m a b hst => ?_⟩
    · rw [eosAct_gate (hop o), gateEos, hd, Bool.not_true, Bool.and_false, if_neg Bool.false_ne_true]
    · rw [eosAct_element (h.code ▸ o), eosOn_eq hd hk hp]
    · rw [eosAct_steer (hop o), eosOn_eq hd hk hp]
    · rw [eosAct_merge (hop o), eosOn_eq hd hk hp]
    · rw [eosAct_ord (hop o), eosOn_eq hd hk hp]
    · exact eosAct_const (hop o) ht (hk 0 (by simp))
    · rw [eosAct_gate (hop o), gateEos, eosOn_eq hd hk hp, eosAt_iff.mpr (hk 0 (by simp)), if_pos rfl, ite_self]
    · refine next_of hx ?_
      rw [eosAct_gate (hop o), gateEos, hc, hd, eosAt_iff.mpr hl]
      exact forwardEos_fires h.start (ps := [0]) (by simpa using hp) (by simp)
    · rw [eosAct_carry (hop o)] at hx
      simp only [carryEos, hst] at hx
      refine ⟨?_, ?_, ?_, ?_⟩
      · rintro rfl hl rfl hp
        rw [eosAt_iff.mpr hl, hp] at hx
        exact next_of hx (Acts.of ((h.start.emit rfl 0 .eos).setSt _) rfl rfl (List.nodup_singleton _) rfl)
      · rintro rfl hne
        rw [hx, List.isEmpty_eq_false_iff.mpr hne]; simp
      · rintro rfl rfl rfl hp
        rw [hp] at hx
        exact next_of hx (Acts.of ((h.start.emit rfl 1 .eos).setSt _) rfl rfl (List.nodup_singleton _) rfl)
      · rintro rfl rfl h1 h2
        rw [eosAt_iff.mpr h1, eosAt_iff.mpr h2] at hx
        exact next_of hx (forwardEos_fires h.start (ps := []) (by simp) (by simp))
  · have hx : exec (.bubbleDiscard u k) s = .next (s.takeIn u k) := by
      refine congrArg Host.Outcome.next (?_ : s.dropBubble u k = _)
      simp only [State.dropBubble, hu, hb, if_true]
    obtain rfl := State.unit?_key hu
    exact next_of hx (Acts.of ((WithUnit.refl hu).takeIn k) rfl rfl List.nodup_nil rfl)

end Sys2Proof

namespace Sys2Proof.Machine
open Sys2Proof.Claims

/-! ### Faults of a unit (R49, R255, R389, R393) -/

section
variable {s t : State} {f g : FabUnit} {u : UKey} {cause sub : Nat} {detail : W64}

theorem noteEcc_frame (s : State) (cause : Nat) : (s.noteEcc cause).units = s.units ∧ (s.noteEcc cause).insts = s.insts ∧
    (s.noteEcc cause).mem = s.mem ∧ (s.noteEcc cause).routes = s.routes ∧ (s.noteEcc cause).ports = s.ports := by
  unfold State.noteEcc
  split <;> exact ⟨rfl, rfl, rfl, rfl, rfl⟩

theorem instFault_frame (s : State) (serial q : Nat) (r : FaultRec) : (s.instFault serial q r).units = s.units ∧
    (s.instFault serial q r).mem = s.mem ∧ (s.instFault serial q r).routes = s.routes ∧ (s.instFault serial q r).ports = s.ports := by
  unfold State.instFault
  dsimp only
  split <;> exact ⟨rfl, rfl, rfl, rfl⟩

/-- An instance to which a fault is recorded: its stalled word is abandoned, and it enters FAULTED (R390, R393). -/
def struck (r : FaultRec) (i : Inst) : Inst :=
  { i with
    fault := i.fault.note r, stall := none, yieldReq := i.yieldReq && i.state == .faulted,
    state := if i.state = .run ∨ i.state = .placed then .faulted else i.state }

theorem instFault_inst {serial q : Nat} {r : FaultRec} {i : Inst} (h : s.inst? serial = some i) :
    (s.instFault serial q r).inst? serial = some (struck r i) := by
  have hfind := find?_updWhere (fun i : Inst => i.serial == serial) (fun i => i.serial == serial) (struck r) s.insts fun _ => rfl
  have hs : (i.serial == serial) = true := List.find?_some (p := fun i : Inst => i.serial == serial) h
  rw [show s.insts.find? _ = some i from h, Option.map_some, if_pos hs] at hfind
  have hq : ∀ k, (s.modQuire q k).inst? serial = some i := fun _ => h
  simp only [State.instFault, hq]
  exact hfind

/-- Of an instance that runs and has no fault recorded, the record is the fault's. -/
theorem struck_run {r : FaultRec} {i : Inst} (hr : i.state = .run) (hv : i.fault.v = false) :
    (struck r i).state = .faulted ∧ (struck r i).fault = { r with v := true, more := 0#16 } := by
  refine ⟨if_pos (.inl hr), ?_⟩
  show i.fault.note r = _
  rw [FaultRec.note, if_neg (ne_true_of_eq_false hv)]

/-- A unit's instance, its place in its folio and its operation word: what a fault record says of it. -/
def ident (f : FabUnit) : Nat × Nat × Nat × Nat × W64 := (f.serial, f.folio, f.fx, f.fy, f.word)

/-- A fault goes to the unit and to its instance, and discards held stores and a pass. -/
theorem unitFault_cases (h : t.unit? u = some g) : ∃ (x : State) (n : Nat) (r : FaultRec), t.unitFault u cause sub detail =
      (((x.modUnit u fun f => { f with dead := true, passed := min f.passed n }).noteEcc cause).instFault g.serial u.q r) ∧
    (x.units = t.units ∧ x.insts = t.insts ∧ x.mem = t.mem ∧ x.routes = t.routes ∧ x.ports = t.ports) ∧
    r.cause = BitVec.ofNat 8 cause ∧ r.sub = BitVec.ofNat 8 sub ∧ r.origin = 1#2 ∧
    r.unitId = unitWord g.folio g.fx g.fy g.key.slot g.op u.q := by
  unfold State.unitFault State.unitFaultIn
  rw [h]
  exact ⟨_, _, _, rfl, ⟨rfl, rfl, rfl, rfl, rfl⟩, rfl, rfl, rfl, rfl⟩

theorem unitFault_none (h : t.unit? u = none) : t.unitFault u cause sub detail = t := by
  unfold State.unitFault State.unitFaultIn
  rw [h]

/-- Memory, routes and ports are as before a fault. -/
theorem unitFault_frame (t : State) (u : UKey) (cause sub : Nat) (detail : W64) : (t.unitFault u cause sub detail).mem = t.mem ∧
    (t.unitFault u cause sub detail).routes = t.routes ∧ (t.unitFault u cause sub detail).ports = t.ports := by
  cases h : t.unit? u with
  | none => rw [unitFault_none h]; exact ⟨rfl, rfl, rfl⟩
  | some g =>
    obtain ⟨x, n, r, he, ⟨-, -, hm, hr, hp⟩, -⟩ := unitFault_cases (cause := cause) (sub := sub) (detail := detail) h
    rw [he]
    obtain ⟨-, hm1, hr1, hp1⟩ := instFault_frame ((x.modUnit u fun f => { f with dead := true, passed := min f.passed n }).noteEcc cause) g.serial u.q r
    obtain ⟨-, -, hm2, hr2, hp2⟩ := noteEcc_frame (x.modUnit u fun f => { f with dead := true, passed := min f.passed n }) cause
    exact ⟨hm1.trans (hm2.trans hm), hr1.trans (hr2.trans hr), hp1.trans (hp2.trans hp)⟩

/-- The units after a fault: the one that faults fires no more. -/
theorem unitFault_unit (h : t.unit? u = some g) : ∃ n, ∀ v, (t.unitFault u cause sub detail).unit? v =
    (t.unit? v).map fun f => if v = u then { f with dead := true, passed := min f.passed n } else f := by
  obtain ⟨x, n, r, he, ⟨hu, -⟩, -⟩ := unitFault_cases (cause := cause) (sub := sub) (detail := detail) h
  refine ⟨n, fun v => ?_⟩
  rw [he]
  have h1 := (instFault_frame ((x.modUnit u fun f => { f with dead := true, passed := min f.passed n }).noteEcc cause) g.serial u.q r).1
  have h2 := (noteEcc_frame (x.modUnit u fun f => { f with dead := true, passed := min f.passed n }) cause).1
  have hm := State.unit?_modUnit x u v (fun f => { f with dead := true, passed := min f.passed n }) fun _ => rfl
  rw [State.unit?, h1, h2, ← State.unit?, hm]
  simp only [State.unit?, hu]

/-- A unit that faults where its instance and memory are as in s. -/
theorem unitFault_faults (hg : t.unit? f.key = some g) (hid : ident g = ident f) (hm : t.mem = s.mem)
    (hi : ∀ i, s.inst? f.serial = some i → ∃ j, t.inst? f.serial = some j ∧ j.state = i.state ∧ j.fault = i.fault) :
    Faults s f (BitVec.ofNat 8 cause) (BitVec.ofNat 8 sub) (t.unitFault f.key cause sub detail) where
  dead := by
    obtain ⟨n, hu⟩ := unitFault_unit (cause := cause) (sub := sub) (detail := detail) hg
    rw [hu, hg]; simp
  record i h hr hv := by
    obtain ⟨j, hj, hjs, hjf⟩ := hi i h
    obtain ⟨x, n, r, he, ⟨-, hins, -⟩, hc, hs, ho, hu⟩ := unitFault_cases (cause := cause) (sub := sub) (detail := detail) hg
    simp only [ident, Prod.mk.injEq] at hid
    obtain ⟨hser, hfol, hfx, hfy, hword⟩ := hid
    have h2 := (noteEcc_frame (x.modUnit f.key fun f => { f with dead := true, passed := min f.passed n }) cause).2.1
    have hy := instFault_inst (s := (x.modUnit f.key fun f => { f with dead := true, passed := min f.passed n }).noteEcc cause)
      (q := f.key.q) (r := r) (by rw [State.inst?, h2]; exact (congrArg _ hins).trans hj)
    obtain ⟨hys, hyf⟩ := struck_run (r := r) (hjs.trans hr) ((congrArg FaultRec.v hjf).trans hv)
    rw [he, hser]
    refine ⟨_, hy, hys, ?_⟩
    rw [hyf]
    exact ⟨rfl, hc, hs, ho, hu.trans (by rw [hfol, hfx, hfy, State.unit?_key hg, FabUnit.op, hword, ← FabUnit.op])⟩
  memory := (unitFault_frame ..).1.trans hm

end

end Sys2Proof.Machine

namespace Sys2Proof.Machine
open Sys2Proof.Claims

/-! ### One hop of a token (R31) -/

section
variable {s t : State} {f g : FabUnit} {u v : UKey} {r r' : Route} {n k : Nat} {tok : Token}

theorem refill_frame (s : State) (serial folio port : Nat) : (s.refill serial folio port).units = s.units ∧
    (s.refill serial folio port).insts = s.insts ∧ (s.refill serial folio port).mem = s.mem ∧ (s.refill serial folio port).routes = s.routes := by
  unfold State.refill
  cases s.port? serial folio port with
  | none => exact ⟨rfl, rfl, rfl, rfl⟩
  | some p =>
    dsimp only
    cases p.slot.tok with
    | some _ => exact ⟨rfl, rfl, rfl, rfl⟩
    | none =>
      cases p.q with
      | nil => exact ⟨rfl, rfl, rfl, rfl⟩
      | cons c q =>
        dsimp only
        split
        · exact ⟨rfl, rfl, rfl, rfl⟩
        · split <;> exact ⟨rfl, rfl, rfl, rfl⟩

/-- A route leaves a unit. -/
def Route.leaves (r : Route) (v : UKey) : Prop := ∃ io, r.src = .unit v io

/-- The token of a unit's output has left it for one route. -/
def departed (r : Route) (g : FabUnit) : FabUnit := { g with outs := updAt g.outs r.pout fun o => o.took r.id }

/-- A buffer of a route goes through a function. -/
def Route.onBuffer (k : Nat) (φ : List Token → List Token) (r : Route) : Route := { r with hops := updAt r.hops k φ }

theorem hopLeave_succ (hk : 0 < k) : t.hopLeave r k = t.modRoute r.id (Route.onBuffer (k - 1) (List.drop 1)) := by
  rw [State.hopLeave, if_neg (Nat.ne_of_gt hk)]; rfl

theorem hopLeave_unit {io : Nat} (hs : r.src = .unit v io) : t.hopLeave r 0 = t.modUnit v (departed r) := by
  simp only [State.hopLeave, hs, if_true]; rfl

theorem hopLeave_port {a b : Nat} (hs : r.src = .port a b) :
    t.hopLeave r 0 = (t.modPort r.serial a b fun x => { x with slot := x.slot.took r.id }).refill r.serial a b := by
  simp only [State.hopLeave, hs, if_true]

/-- A token that leaves takes nothing else with it: instances and memory are as before. -/
theorem hopLeave_frame (t : State) (r : Route) (k : Nat) : (t.hopLeave r k).insts = t.insts ∧ (t.hopLeave r k).mem = t.mem := by
  rcases Nat.eq_zero_or_pos k with rfl | hk
  · cases hs : r.src with
    | unit v io => rw [hopLeave_unit hs]; exact ⟨rfl, rfl⟩
    | port a b =>
      rw [hopLeave_port hs]
      obtain ⟨-, hi, hm, -⟩ := refill_frame (t.modPort r.serial a b fun x => { x with slot := x.slot.took r.id }) r.serial a b
      exact ⟨hi, hm⟩
  · rw [hopLeave_succ hk]; exact ⟨rfl, rfl⟩

theorem hopLeave_routes_zero (t : State) (r : Route) : (t.hopLeave r 0).routes = t.routes := by
  cases hs : r.src with
  | unit v io => rw [hopLeave_unit hs]; rfl
  | port a b => rw [hopLeave_port hs]; exact (refill_frame ..).2.2.2

/-- The units after a token has left: only the output it stood in changes. -/
theorem hopLeave_unit? (t : State) (r : Route) (k : Nat) (v : UKey) : (t.hopLeave r k).unit? v = t.unit? v ∨
    (t.hopLeave r k).unit? v = (t.unit? v).map (departed r) := by
  rcases Nat.eq_zero_or_pos k with rfl | hk
  · cases hs : r.src with
    | unit a io =>
      rw [hopLeave_unit hs, State.unit?_modUnit _ _ _ (departed r) fun _ => rfl]
      by_cases hv : v = a <;> simp [hv]
    | port a b =>
      rw [hopLeave_port hs]
      exact .inl (congrArg (List.find? _) (refill_frame ..).1)
  · rw [hopLeave_succ hk]; exact .inl rfl

theorem route_modRoute (t : State) (id m : Nat) (φ : Route → Route) (h : ∀ r, (φ r).id = r.id) :
    (t.modRoute id φ).routes.find? (fun r => r.id == m) = (t.routes.find? fun r => r.id == m).map fun r => if m = id then φ r else r := by
  have := find?_updWhere (fun r : Route => r.id == id) (fun r => r.id == m) φ t.routes fun r => by simp only [h]
  rw [State.modRoute, this]
  cases hf : t.routes.find? fun r => r.id == m with
  | none => rfl
  | some r =>
    have : r.id = m := by simpa using List.find?_some hf
    simp [this]

/-- A token has left the start of hop k of route n (R31). -/
structure Left (s : State) (n k : Nat) (r : Route) (t : State) : Prop where
  mem : t.mem = s.mem
  slot : ∀ v io, k = 0 → r.src = .unit v io → ∀ g, s.unit? v = some g → r.pout < g.outs.length →
    (t.unit? v).map (fun x => x.slot r.pout) = some ((g.slot r.pout).took n)
  buffer : 0 < k → ((t.routes.find? fun r => r.id == n).bind fun a => a.hops[k - 1]?) = (r.hops[k - 1]?).map (List.drop 1)
  others : ∀ id, id ≠ n → t.routes.find? (fun r => r.id == id) = s.routes.find? fun r => r.id == id

theorem hopLeave_left (hid : r.id = n) (hm : t.mem = s.mem) (hu : ∀ v g, s.unit? v = some g → (t.unit? v).map FabUnit.outs = some g.outs)
    (hr : t.routes.find? (fun r => r.id == n) = some r') (hh : 0 < k → r'.hops[k - 1]? = r.hops[k - 1]?)
    (ho : ∀ id, id ≠ n → t.routes.find? (fun r => r.id == id) = s.routes.find? fun r => r.id == id) : Left s n k r (t.hopLeave r k) where
  mem := (hopLeave_frame t r k).2.trans hm
  slot v io hk hs g hg hp := by
    obtain ⟨x, hx, hxo⟩ := Option.map_eq_some_iff.mp (hu v g hg)
    subst hk
    rw [hopLeave_unit hs, State.unit?_modUnit _ _ _ (departed r) fun _ => rfl, hx]
    simp only [Option.map_some, if_true, departed, FabUnit.slot, hxo, hid, updAt_getElem?, List.getElem?_eq_getElem hp, Option.getD_some]
  buffer hk := by
    rw [hopLeave_succ hk, hid, route_modRoute _ _ _ (Route.onBuffer (k - 1) (List.drop 1)) fun _ => rfl, hr]
    simp [Route.onBuffer, updAt_getElem?, hh hk]
  others id hne := by
    rcases Nat.eq_zero_or_pos k with rfl | hk
    · rw [hopLeave_routes_zero, ho id hne]
    · rw [hopLeave_succ hk, hid, route_modRoute _ _ _ (Route.onBuffer (k - 1) (List.drop 1)) fun _ => rfl, ho id hne]
      simp [hne]

/-- A hop: the token that stands at its start arrives at its end and leaves its start, or stays where it is. -/
theorem tokenHop_eq (hr : s.routes.find? (fun r => r.id == n) = some r) (hl : s.loopToken r k = none) (hm : ∀ m, r.mark = some m → m < k)
    (ht : s.hopToken r k = some tok) : s.tokenHop n k = ((s.hopArrive r k tok).map fun u => u.hopLeave r k).getD s := by
  have hmark : (r.mark.map fun m => decide (k ≤ m)).getD false = false := by
    cases h : r.mark with
    | none => rfl
    | some m => have := hm m h; simpa using this
  simp only [State.tokenHop, hr, hl, hmark, ht]
  cases s.hopArrive r k tok <;> rfl

/-- The unit after a stream mismatch was looked for in its latches: it has faulted, or nothing has changed (R36). -/
theorem checkEos_eq (hg : t.unit? u = some g) : t.checkEos u = if !g.dead && t.mismatch g then t.unitFault u 0x07 0x01 0 else t := by
  simp only [State.checkEos, hg]

/-- What counts as a mismatch follows the opcodes of units and the sources of routes. -/
theorem mismatch_congr (hd : ∀ k, t.fedByDelay g.key k = s.fedByDelay g.key k) (hc : t.fedByControl g.key 1 = s.fedByControl g.key 1) :
    t.mismatch g = s.mismatch g := by
  have hd' : t.fedByDelay g.key = s.fedByDelay g.key := funext hd
  simp only [State.mismatch, State.clashes, hd', hc]

theorem SameLines.fedByDelay_eq (h : SameLines s t) (u : UKey) (k : Nat) : t.fedByDelay u k = s.fedByDelay u k := by
  have hback : SameLines t s := ⟨fun v => (h.op v).symm, fun u k => (h.src u k).symm, h.mem.symm⟩
  exact Bool.eq_iff_iff.mpr ⟨hback.fedByDelay_of, h.fedByDelay_of⟩

/-- A token enters a latch: no other unit changes, and the unit has it, faulted if a stream mismatch stands in its latches now. -/
theorem latchIn_spec {i : Nat} (hf : s.unit? u = some f) : ∃ n,
    let wrong := !f.dead && s.mismatch { f with ins := updAt f.ins i fun _ => some tok }
    (∀ v, (s.latchIn u i tok).unit? v = (s.unit? v).map fun g => if v = u then
      { g with ins := updAt g.ins i fun _ => some tok, dead := g.dead || wrong, passed := if wrong then min g.passed n else g.passed } else g) ∧
    (s.latchIn u i tok).mem = s.mem ∧ (s.latchIn u i tok).routes = s.routes ∧ (wrong = true → Faults s f 0x07 0x01 (s.latchIn u i tok)) := by
  obtain rfl := State.unit?_key hf
  have hunits (v : UKey) := State.unit?_modUnit s f.key v (fun f => { f with ins := updAt f.ins i fun _ => some tok }) fun _ => rfl
  have hu := hunits f.key
  rw [hf, Option.map_some, if_pos rfl] at hu
  have hl := (SameLines.refl s).modUnit f.key (fun f => { f with ins := updAt f.ins i fun _ => some tok }) (fun _ => rfl) fun _ => rfl
  have hmis := mismatch_congr (g := { f with ins := updAt f.ins i fun _ => some tok }) (hl.fedByDelay_eq f.key) rfl
  have he : s.latchIn f.key i tok = _ := checkEos_eq hu
  rw [hmis] at he
  dsimp only at he ⊢
  cases hw : !f.dead && s.mismatch { f with ins := updAt f.ins i fun _ => some tok } with
  | false =>
    rw [hw, if_neg Bool.false_ne_true] at he
    rw [he]
    refine ⟨0, fun v => ?_, rfl, rfl, fun h => absurd h Bool.false_ne_true⟩
    simpa using hunits v
  | true =>
    rw [hw, if_pos rfl] at he
    obtain ⟨n, hn⟩ := unitFault_unit (cause := 0x07) (sub := 0x01) (detail := 0) hu
    obtain ⟨hm, hr, -⟩ := unitFault_frame (s.modUnit f.key fun f => { f with ins := updAt f.ins i fun _ => some tok }) f.key 0x07 0x01 0
    rw [he]
    refine ⟨n, fun v => ?_, hm, hr, fun _ => unitFault_faults hu rfl rfl fun j hj => ⟨j, hj, rfl, rfl⟩⟩
    rw [hn, hunits, Option.map_map]
    congr 1
    funext g
    by_cases hv : v = f.key <;> simp [hv]

/-- The token stands last in the buffer that it came to, whatever buffer it left. -/
theorem entered_buffer {l : List Token} (hid : r.id = n) (hr : t.routes.find? (fun r => r.id == n) = some (r.onBuffer k (· ++ [tok])))
    (hl : r.hops[k]? = some l) : (((t.hopLeave r k).routes.find? fun r => r.id == n).bind fun a => a.hops[k]?) = some (l ++ [tok]) := by
  rcases Nat.eq_zero_or_pos k with rfl | hk
  · rw [hopLeave_routes_zero, hr]
    simp only [Option.bind_some, Route.onBuffer, updAt_getElem?, hl, if_true, Option.map_some]
  · rw [hopLeave_succ hk, hid, route_modRoute _ _ _ (Route.onBuffer (k - 1) (List.drop 1)) fun _ => rfl, hr]
    have hne : k ≠ k - 1 := by omega
    simp only [Option.map_some, Option.bind_some, if_true, Route.onBuffer, updAt_getElem?, hl, if_neg hne]

theorem hopLeave_faults {cause sub : BitVec 8} (h : Faults s f cause sub t) : Faults s f cause sub (t.hopLeave r k) where
  dead := by
    rcases hopLeave_unit? t r k f.key with hu | hu <;> rw [hu]
    · exact h.dead
    · rw [Option.map_map]; exact h.dead
  record i hi hs hv := by
    have : (t.hopLeave r k).inst? f.serial = t.inst? f.serial := by rw [State.inst?, (hopLeave_frame t r k).1, ← State.inst?]
    rw [this]; exact h.record i hi hs hv
  memory := (hopLeave_frame t r k).2.trans h.memory

end

end Sys2Proof.Machine

namespace Sys2Proof
open Sys2Proof.Machine Sys2Proof.Claims

/-- Settles O42: a hop is an arrival and a departure. -/
theorem tokenHops : Obligations.TokenHops := by
  unfold Obligations.TokenHops
  intro s n k r tok hr hl hm ht
  have he := tokenHop_eq hr hl hm ht
  have hid : r.id = n := by simpa using List.find?_some hr
  have hx : exec (.tokenHop n k) s = .next (s.tokenHop n k) := rfl
  dsimp only
  refine ⟨fun l hlk => ⟨fun hlen => ?_, fun hlen => ?_⟩, fun u i f hk hdst hf hcut hleft hi => ⟨fun hlatch => ?_, fun hlatch => ?_⟩⟩
  · have ha : s.hopArrive r k tok = some (s.modRoute n (Route.onBuffer k (· ++ [tok]))) := by
      simp only [State.hopArrive, hlk, if_pos hlen, hid]; rfl
    have hroute := route_modRoute s n n (Route.onBuffer k (· ++ [tok])) fun _ => rfl
    rw [hr, Option.map_some, if_pos rfl] at hroute
    have hL : Left s n k r ((s.modRoute n (Route.onBuffer k (· ++ [tok]))).hopLeave r k) :=
      hopLeave_left hid rfl (fun v g hg => congrArg (Option.map FabUnit.outs) hg) hroute
        (fun h => by simp only [Route.onBuffer, updAt_getElem?]; rw [if_neg (by omega)])
        fun id hne => by rw [route_modRoute _ _ _ (Route.onBuffer k (· ++ [tok])) fun _ => rfl]; simp [hne]
    exact next_of (hx.trans (by rw [he, ha]; rfl)) ⟨⟨hL.mem, hL.slot, hL.buffer, hL.others⟩, entered_buffer hid hroute hlk⟩
  · have ha : s.hopArrive r k tok = none := by
      simp only [State.hopArrive, hlk, if_neg (Nat.not_lt.mpr hlen)]
    rw [hx, he, ha]; rfl
  · have ha : s.hopArrive r k tok = some (s.latchIn u i tok) := by
      have : r.hops[k]? = none := List.getElem?_eq_none hk.le
      simp only [State.hopArrive, this, hk, hdst, hf, hcut, hleft, hlatch, ne_eq, not_true_eq_false, if_false, Option.getD_some, Bool.false_eq_true, Option.isNone_none, if_true]
    obtain ⟨p, hu, hmem, hroutes, hfault⟩ := latchIn_spec (tok := tok) (i := i) hf
    have hL : Left s n k r ((s.latchIn u i tok).hopLeave r k) :=
      hopLeave_left hid hmem (fun v g hg => by rw [hu, hg]; by_cases hv : v = u <;> simp [hv]) (by rw [hroutes]; exact hr) (fun _ => rfl)
        fun id _ => by rw [hroutes]
    refine next_of (hx.trans (by rw [he, ha]; rfl)) ⟨⟨hL.mem, hL.slot, hL.buffer, hL.others⟩, ?_, fun hw => hopLeave_faults (hfault hw)⟩
    have hunit := hu u
    rw [hf, Option.map_some, if_pos rfl] at hunit
    have hlatched : (updAt f.ins i fun _ => some tok)[i]? = some (some tok) := by
      rw [updAt_getElem?, if_pos rfl, List.getElem?_eq_getElem hi]; rfl
    rcases hopLeave_unit? (s.latchIn u i tok) r k u with h | h <;> rw [h, hunit] <;>
      simp only [Option.map_some, departed, FabUnit.latch, hlatched, Option.join_some]
  · have ha : s.hopArrive r k tok = none := by
      have : r.hops[k]? = none := List.getElem?_eq_none hk.le
      simp only [State.hopArrive, this, hk, hdst, hf, hcut, hleft]
      cases h : f.latch i <;> simp_all
    rw [hx, he, ha]; rfl

end Sys2Proof

namespace Sys2Proof.Machine
open Sys2Proof.Claims

/-! ### A unit changes and others are reached (R40) -/

/-- The units named go each through its function. -/
def touching (s : State) (touched : List (UKey × (FabUnit → FabUnit))) : State := touched.foldl (fun s e => s.modUnit e.1 e.2) s

section
variable {s r t : State} {f g h : FabUnit} {u : UKey} {touched : List (UKey × (FabUnit → FabUnit))} {sends : List (Nat × Token)}

theorem WithUnit.touch (hw : WithUnit s r u g t) {k : UKey} {φ : FabUnit → FabUnit} (hk : k ≠ u) (hφ : ∀ x, (φ x).key = x.key) :
    WithUnit (s.modUnit k φ) r u g (t.modUnit k φ) where
  unit := by rw [State.unit?_modUnit _ _ _ _ hφ, hw.unit, Option.map_some, if_neg hk.symm]
  others v hv := by rw [State.unit?_modUnit _ _ _ _ hφ, State.unit?_modUnit _ _ _ _ hφ, hw.others v hv]
  rest := hw.rest

theorem WithUnit.touches : ∀ {touched : List (UKey × (FabUnit → FabUnit))} {s t : State}, WithUnit s r u g t → (∀ e ∈ touched, e.1 ≠ u) →
    (∀ e ∈ touched, ∀ x, (e.2 x).key = x.key) → WithUnit (touching s touched) r u g (touching t touched)
  | [], _, _, hw, _, _ => hw
  | e :: touched, s, t, hw, hk, hφ =>
    (hw.touch (hk e (by simp)) (hφ e (by simp))).touches (touched := touched) (fun e he => hk e (List.mem_cons_of_mem _ he))
      fun e he => hφ e (List.mem_cons_of_mem _ he)

theorem touching_others : ∀ {touched : List (UKey × (FabUnit → FabUnit))} {s : State} {v : UKey}, (∀ e ∈ touched, ∀ x, (e.2 x).key = x.key) →
    v ∉ touched.map Prod.fst → (touching s touched).unit? v = s.unit? v
  | [], _, _, _, _ => rfl
  | e :: touched, s, v, hφ, hv => by
    obtain ⟨hne, hv⟩ := not_or.mp (mt List.mem_cons.mpr hv)
    have := touching_others (touched := touched) (s := s.modUnit e.1 e.2) (fun e he => hφ e (List.mem_cons_of_mem _ he)) hv
    rw [touching, List.foldl_cons, ← touching, this, State.unit?_modUnit _ _ _ _ (hφ e (by simp))]
    simp [hne]

theorem touching_reached : ∀ {touched : List (UKey × (FabUnit → FabUnit))} {s : State}, (∀ e ∈ touched, ∀ x, (e.2 x).key = x.key) →
    (touched.map Prod.fst).Nodup → ∀ e ∈ touched, (touching s touched).unit? e.1 = (s.unit? e.1).map e.2
  | e :: touched, s, hφ, hn, a, ha => by
    obtain ⟨hne, hn⟩ := List.nodup_cons.mp hn
    have hφ' : ∀ e ∈ touched, ∀ x, (e.2 x).key = x.key := fun e he => hφ e (List.mem_cons_of_mem _ he)
    rw [touching, List.foldl_cons, ← touching]
    rcases List.mem_cons.mp ha with rfl | ha
    · rw [touching_others hφ' hne, State.unit?_modUnit _ _ _ _ (hφ a (by simp))]
      simp
    · rw [touching_reached hφ' hn a ha, State.unit?_modUnit _ _ _ _ (hφ e (by simp)), Option.map_map]
      have : a.1 ≠ e.1 := fun h => hne (h ▸ List.mem_map_of_mem ha)
      simp [this, Function.comp_def]

theorem ActsOn.of (hw : WithUnit (touching s touched) s f.key g t) (hi : g.ins = f.ins) (ho : g.outs = s.sentAll f.key sends f.outs)
    (hn : (sends.map Prod.fst).Nodup) (hb : bare g = bare h) (hφ : ∀ e ∈ touched, ∀ x, (e.2 x).key = x.key)
    (hd : (touched.map Prod.fst).Nodup) (hk : ∀ e ∈ touched, e.1 ≠ f.key) : ActsOn s f sends h touched t where
  unit := ⟨g, hw.unit, hb, fun k => by simp only [FabUnit.latch, hi], fun p hp => by
    simp only [FabUnit.slot, ho]; exact sentAll_slot s f sends hn p hp⟩
  reached e he := (hw.others _ (hk e he)).trans (touching_reached hφ hd e he)
  others v hv hm := (hw.others v hv).trans (touching_others hφ hm)
  rest := hw.rest

/-! What reaches another unit keeps its key. -/

theorem permitted_eq (v : List Nat) (f : FabUnit) : FabUnit.permitted v f = permitted v f := by
  unfold FabUnit.permitted permitted
  cases f.st with
  | ctr use trips idx bounds pos run ready on runs want ends marks fin => cases on <;> rfl
  | _ => rfl

theorem permitted_key (v : List Nat) (f : FabUnit) : (permitted v f).key = f.key := by unfold permitted; split <;> rfl
theorem asked_key (f : FabUnit) : (asked f).key = f.key := by unfold asked; split <;> rfl
theorem closed_key (f : FabUnit) : (closed f).key = f.key := by unfold closed; split <;> rfl
theorem heard_key (k : UKey) (f : FabUnit) : (heard k f).key = f.key := by unfold heard; split <;> rfl

end

end Sys2Proof.Machine

namespace Sys2Proof.Machine
open Sys2Proof.Claims

theorem permit_eq (s : State) (v : List Nat) (k : UKey) : s.permit v k = s.modUnit k (permitted v) :=
  congrArg (s.modUnit k) (funext (permitted_eq v))

theorem permits_eq (s : State) (v : List Nat) (ks : List UKey) :
    ks.foldl (fun s k => s.permit v k) s = touching s (ks.map fun k => (k, permitted v)) := by
  simp only [touching, List.foldl_map, permit_eq]

theorem finishes_eq (s : State) (ks : List UKey) : ks.foldl State.finish s = touching s (ks.map fun k => (k, closed)) := by
  simp only [touching, List.foldl_map]; rfl

/-- The bound counter, if there is one, goes through a function. -/
def boundTo (f : FabUnit) (φ : FabUnit → FabUnit) : List (UKey × (FabUnit → FabUnit)) := f.bound.toList.map fun c => (c, φ)

theorem touching_append (s : State) (a b : List (UKey × (FabUnit → FabUnit))) : touching s (a ++ b) = touching (touching s a) b := List.foldl_append

section
variable {s t : State} {f g : FabUnit} {p iter total : Nat} {on fin gone : Bool} {sent dones : List Nat}

theorem ctlAct_begin (hc : f.cfgBad = false) (hst : f.st = .ctl p false iter sent dones total fin gone) (hp : 0 < p) :
    ctlAct f s = (touching s (boundTo f fun c => { c with st := c.st.startRun })).setSt f.key
      (.ctl (p - 1) true 0 (f.kids.map fun _ => 0) (f.kids.map fun _ => 0) total fin gone) := by
  have hne : p ≠ 0 := Nat.ne_of_gt hp
  simp only [ctlAct, hst, hc, Bool.false_and, Bool.false_eq_true, if_false, Bool.not_false, if_true, hne, ne_eq, not_false_eq_true, boundTo]
  cases f.bound <;> rfl

theorem ctlAct_permit (hc : f.cfgBad = false) (hst : f.st = .ctl p true iter sent dones total fin gone) {j : Nat} {k : UKey}
    (hj : ((List.range sent.length).find? fun j => j != 0 && f.mayPermit iter sent dones j) = some j) (hk : f.kids[j]? = some k) :
    ctlAct f s = (s.setSt f.key (.ctl p true iter (updAt sent j (· + 1)) dones total fin gone)).modUnit k (permitted (f.vecOf ((sent[j]?).getD 0))) := by
  have hj' : ((upTo sent.length).find? fun j => j != 0 && f.mayPermit iter sent dones j) = some j := hj
  simp only [ctlAct, hst, hc, Bool.false_and, Bool.false_eq_true, if_false, Bool.not_true, hj', hk, Option.getD_some, permit_eq]

section
variable (hc : f.cfgBad = false) (hst : f.st = .ctl p true iter sent dones total fin gone)
  (hj : ((List.range sent.length).find? fun j => j != 0 && f.mayPermit iter sent dones j) = none)
include hc hst hj

theorem ctlAct_start (hs : ((s.iterState f iter).1 && f.mayStart iter dones) = true) (ho : f.outFree 3 = true) :
    ctlAct f s = (s.setSt f.key (.ctl p true (iter + 1) (sent.mapIdx fun j n => if j = 0 ∨ f.op = 0x8A then n + 1 else n) dones total fin gone)).startIter
      f iter := by
  have hj' : ((upTo sent.length).find? fun j => j != 0 && f.mayPermit iter sent dones j) = none := hj
  simp only [ctlAct, hst, hc, Bool.false_and, Bool.false_eq_true, if_false, Bool.not_true, hj', hs, ho, if_true]

theorem ctlAct_end (hs : ((s.iterState f iter).1 && f.mayStart iter dones) = false) (hl : (s.iterState f iter).2 = true) (hd : ∀ d ∈ dones, d = iter) :
    ctlAct f s = ((s.setSt f.key (.ctl p false iter sent dones (total + 1) fin gone)).modUnit f.key fun f =>
      { f with given := f.given.drop 1, vecs := [] }).sendDone f := by
  have hj' : ((upTo sent.length).find? fun j => j != 0 && f.mayPermit iter sent dones j) = none := hj
  have hall : allDone iter dones = true := List.all_eq_true.mpr fun d h => by simpa using hd d h
  simp only [ctlAct, hst, hc, Bool.false_and, Bool.false_eq_true, if_false, Bool.not_true, hj', hs, hl, hall, Bool.and_self, if_true]

end

theorem ctlAct_close (hc : f.cfgBad = false) (hst : f.st = .ctl 0 false iter sent dones total true false) (ho : f.outFree 3 = true) :
    ctlAct f s = (((touching s ((f.kids ++ f.bound.toList).map fun k => (k, closed))).emit f.key 3 .eos).setSt f.key
      (.ctl 0 false iter sent dones total true true)).setEnded f.key := by
  simp only [ctlAct, hst, hc, Bool.false_and, Bool.false_eq_true, if_false, Bool.not_false, if_true, ne_eq, not_true_eq_false, ho, and_self, finishes_eq]

/-- An iteration starts: the permit goes out, the iteration is noted, the bound counter is asked and the children have their permits. -/
theorem startIter_eq (s : State) (f : FabUnit) (iter : Nat) : s.startIter f iter =
    touching ((s.emit f.key 3 (.permit iter)).modUnit f.key fun g => { g with vecs := g.vecs ++ [⟨iter, s.boundIdx f, f.given.head?.getD []⟩] })
      (boundTo f asked ++ (if f.op = 0x8A then f.kids else f.kids.take 1).map fun k => (k, permitted (s.boundIdx f ++ f.given.head?.getD []))) := by
  rw [touching_append, ← permits_eq]
  unfold State.startIter boundTo
  cases f.bound <;> rfl

/-- The done of a run reaches the parent. -/
theorem sendDone_parent {q : FabUnit} (h : s.parentOf f.key = some q) : ∃ φ : FabUnit → FabUnit,
    s.sendDone f = s.modUnit q.key φ ∧ (∀ x, (φ x).key = x.key) ∧ φ q = heard f.key q := by
  unfold State.sendDone
  rw [h]
  refine ⟨_, rfl, fun x => ?_, rfl⟩
  cases x.st <;> rfl

theorem sendDone_root (h : s.parentOf f.key = none) (hc : f.isCtl = true) (hr : fieldN f.frame 157 1 = 1) :
    s.sendDone f = s.modInst f.serial fun i => { i with rootDone := true } := by
  simp only [State.sendDone, h, hc, hr, and_self, if_true]

/-- The parent of a unit is not a matter of the state of units. -/
theorem parentOf_modUnit (s : State) (k v : UKey) (φ : FabUnit → FabUnit) (hφ : ∀ x, (φ x).kids = x.kids) :
    (s.modUnit k φ).parentOf v = (s.parentOf v).map fun q => if q.key = k then φ q else q := by
  have := find?_updWhere (fun q : FabUnit => q.key == k) (fun q => q.kids.contains v) φ s.units fun x => by simp only [hφ]
  rw [State.parentOf, State.modUnit, this]
  simp [State.parentOf]

end

end Sys2Proof.Machine

namespace Sys2Proof.Claims
open Sys2Proof.Machine

section
variable {s : State} {u : UKey} {f : FabUnit} {use pos run runs want p iter total : Nat} {trips : List W32} {idx : List Nat}
  {bounds : List (Nat × W32)} {ready on fin gone : Bool} {ends : List (Nat × Nat)} {marks sent dones : List Nat}

/-- A counter's action, when it can send (R252). -/
theorem Turn.ctr (h : Turn s u 0x87 f) : exec (.ctr u) s = .next (ctrAct f s) := h.run ctrAct

theorem Turn.ctr_index (h : Turn s u 0x87 f) (hst : f.st = .ctr use trips idx bounds pos run true true runs want [] [] fin)
    (hw : use = 1 → want ≠ 0) (ho : f.outFree 0 = true) {m : Nest} {rank : Nat} {last : Bool} (hn : Nest.advance ⟨trips, idx, bounds⟩ = (m, rank, last)) :
    ctrAct f s = (((s.fired f []).emit f.key 0 (.data (indexToken ⟨trips, idx, bounds⟩ pos rank))).modUnit f.key fun f =>
      { f with vecs := noteIdx run idx f.vecs }).setSt f.key
        (.ctr use m.trips m.idx m.bounds (pos + 1) (if last then run + 1 else run) (!last) (!last) runs (want - 1)
          (if rank = 0 then [] else [(rank, pos + 1)]) (if last ∧ use = 2 then [run] else []) fin) := by
  have hno : ¬ ((use = 1 ∧ want = 0) ∨ (!f.outFree 0) = true) := by
    rw [ho]; simpa using hw
  simp only [ctrAct, hst, and_self, if_true, if_neg hno, h.firing, hn]

/-- A controller acts as `ctlAct` says, whatever its kind. -/
theorem Turn.ctl {e : Nat × Instr} (he : e ∈ [(0x88, Instr.seq u), (0x89, .pipe u), (0x8A, .strm u)]) (h : Turn s u e.1 f) :
    exec e.2 s = .next (ctlAct f s) ∧ f.isCtl = true := by
  have hop := h.code
  simp only [List.mem_cons, List.not_mem_nil, or_false] at he
  rcases he with rfl | rfl | rfl
  · exact ⟨h.run ctlAct, by rw [FabUnit.isCtl, hop]; rfl⟩
  · exact ⟨h.run ctlAct, by rw [FabUnit.isCtl, hop]; rfl⟩
  · exact ⟨h.run ctlAct, by rw [FabUnit.isCtl, hop]; rfl⟩

end

end Sys2Proof.Claims

namespace Sys2Proof.Machine
open Sys2Proof.Claims

section
variable {s t : State} {f g : FabUnit} {u : UKey} {p iter total : Nat} {fin gone : Bool} {sent dones : List Nat}

theorem WithUnit.base {s' r : State} (h : WithUnit s r u g t) (hs : ∀ v, v ≠ u → s.unit? v = s'.unit? v) : WithUnit s' r u g t :=
  ⟨h.unit, fun v hv => (h.others v hv).trans (hs v hv), h.rest⟩

theorem boundTo_key {φ : FabUnit → FabUnit} (hφ : ∀ x, (φ x).key = x.key) : ∀ e ∈ boundTo f φ, ∀ x, (e.2 x).key = x.key := by
  intro e he
  obtain ⟨c, -, rfl⟩ := List.mem_map.mp he
  exact hφ

theorem boundTo_ne {φ : FabUnit → FabUnit} (h : ∀ c, f.bound = some c → c ≠ u) : ∀ e ∈ boundTo f φ, e.1 ≠ u := by
  intro e he
  obtain ⟨c, hc, rfl⟩ := List.mem_map.mp he
  exact h c (by simpa using hc)

theorem boundTo_nodup (f : FabUnit) (φ : FabUnit → FabUnit) : ((boundTo f φ).map Prod.fst).Nodup := by
  unfold boundTo
  cases f.bound <;> simp

theorem startRun_key (x : FabUnit) : ({ x with st := x.st.startRun } : FabUnit).key = x.key := rfl

/-- The bound counter and children of a controller, each named once. -/
theorem bound_kids_nodup {ks : List UKey} {φ ψ : FabUnit → FabUnit} (hn : ks.Nodup) (h : ∀ c, f.bound = some c → c ∉ ks) :
    ((boundTo f φ ++ ks.map fun k => (k, ψ)).map Prod.fst).Nodup := by
  have hks : (ks.map fun k => (k, ψ)).map Prod.fst = ks := by rw [List.map_map]; exact List.map_id ks
  rw [List.map_append, hks, List.nodup_append]
  refine ⟨boundTo_nodup f φ, hn, ?_⟩
  rintro a ha b hb rfl
  obtain ⟨e, he, rfl⟩ := List.mem_map.mp ha
  obtain ⟨c, hc, rfl⟩ := List.mem_map.mp he
  exact h c (by simpa using hc) hb

/-- A run of a controller has ended; its parent hears of it. -/
theorem ended_run (hself : s.unit? f.key = some f) (st : NodeSt) :
    WithUnit s s f.key { f with st := st, given := f.given.drop 1, vecs := [] }
      ((s.setSt f.key st).modUnit f.key fun f => { f with given := f.given.drop 1, vecs := [] }) :=
  ((WithUnit.refl hself).setSt st).modUnit (fun f => { f with given := f.given.drop 1, vecs := [] }) fun _ => rfl

theorem parentOf_ended (s : State) (k : UKey) (st : NodeSt) : ((s.setSt k st).modUnit k fun f => { f with given := f.given.drop 1, vecs := [] }).parentOf k =
    (s.parentOf k).map fun q => if q.key = k then { q with st := st, given := q.given.drop 1, vecs := [] } else q := by
  rw [parentOf_modUnit _ _ _ (fun f => { f with given := f.given.drop 1, vecs := [] }) fun _ => rfl, State.setSt,
    parentOf_modUnit _ _ _ (fun f => { f with st := st }) fun _ => rfl, Option.map_map]
  congr 1
  funext q
  by_cases hq : q.key = k <;> simp [hq]

theorem boundIdx_congr (h : ∀ c, f.bound = some c → t.unit? c = s.unit? c) : t.boundIdx f = s.boundIdx f := by
  have : f.bound.bind t.unit? = f.bound.bind s.unit? := by
    cases hb : f.bound with
    | none => rfl
    | some c => exact h c hb
  simp only [State.boundIdx, this]

theorem touching_routes : ∀ (touched : List (UKey × (FabUnit → FabUnit))) (s : State), (touching s touched).routes = s.routes
  | [], _ => rfl
  | e :: touched, s => touching_routes touched (s.modUnit e.1 e.2)

theorem touching_outIds (touched : List (UKey × (FabUnit → FabUnit))) (s : State) (v : UKey) (q : Nat) :
    (touching s touched).outIds v q = s.outIds v q := by
  simp only [State.outIds, State.routesFrom, touching_routes]

/-- A unit whose token goes out on some of the routes of an output. -/
theorem Acts.of_on {r : State} {h : FabUnit} {ks ids : List Nat} {q : Nat} {tok : Token} (hw : WithUnit s r f.key g t) (hi : g.ins = takes ks f.ins)
    (ho : g.outs = placed f.outs q tok ids) (hb : bare g = bare h) :
    Acts s r f ks [(q, if ids = [] then f.slot q else ⟨some tok, ids⟩)] h t where
  unit := ⟨g, hw.unit, hb, fun k => by simp only [FabUnit.latch, hi, takes_join], fun p hp => by
    simp only [FabUnit.slot, ho, placed_getElem?, List.lookup_cons, List.lookup_nil]
    by_cases hpq : p = q
    · subst hpq
      by_cases hids : ids = [] <;> simp [hids, hp]
    · have hb : (p == q) = false := by simpa using hpq
      simp [hpq, hb]⟩
  others := hw.others
  rest := hw.rest

end

end Sys2Proof.Machine

namespace Sys2Proof
open Sys2Proof.Machine Sys2Proof.Claims

/-- Settles O44: `ctrAct` and `ctlAct`, action by action. -/
theorem counterTurns : Obligations.CounterTurns := by
  unfold Obligations.CounterTurns
  intro s u f
  refine ⟨fun h use trips idx bounds pos run ready on runs want ends marks fin hst => ?_,
    fun e he h hkids hnd hbound p on iter sent dones total fin gone hst => ?_⟩
  · obtain rfl := h.key
    have hx := h.ctr
    refine ⟨?_, ?_, ?_, ?_, ?_, ?_⟩
    · rintro rank p l rfl ho
      refine next_of hx ?_
      rw [show ctrAct f s = (s.emit f.key 3 (.endTok rank p)).setSt f.key (.ctr use trips idx bounds pos run ready on runs want l marks fin) by
        simp only [ctrAct, hst, ho, if_true]]
      exact Acts.of ((h.start.emit rfl 3 _).setSt _) rfl rfl (List.nodup_singleton _) rfl
    · rintro m l rfl rfl ho
      refine next_of hx ?_
      rw [show ctrAct f s = (s.emitOn f.key 0 (.leafEnd f.key m) (((s.routesFrom f.key 0).filter fun r => r.endsIn (s.leafSet f.key)).map Route.id)).setSt
        f.key (.ctr use trips idx bounds pos run ready on runs want [] l fin) by simp only [ctrAct, hst, ho, if_true]]
      have hw := (h.start.emitOn 0 (.leafEnd f.key m) (((s.routesFrom f.key 0).filter fun r => r.endsIn (s.leafSet f.key)).map Route.id)).setSt
        (.ctr use trips idx bounds pos run ready on runs want [] l fin)
      exact Acts.of_on hw rfl rfl rfl
    · rintro rfl rfl rfl rfl hw ho
      refine next_of hx ?_
      rw [h.ctr_index hst hw ho rfl]
      exact Acts.of ((((h.start.fired []).emit rfl 0 _).modUnit (fun f => { f with vecs := noteIdx run idx f.vecs }) fun _ => rfl).setSt _)
        rfl rfl (List.nodup_singleton _) rfl
    · rintro rfl rfl rfl rfl rfl rfl
      rw [hx]
      simp only [ctrAct, hst, and_self, true_or, if_true]
    · rintro rfl rfl rfl hr hu
      refine next_of hx ?_
      have hne : runs ≠ 0 := Nat.ne_of_gt hr
      rw [show ctrAct f s = s.setSt f.key (NodeSt.ctr use trips idx bounds pos run ready false (runs - 1) want [] [] fin).startRun by
        simp only [ctrAct, hst, Bool.false_eq_true, false_and, if_false, ne_eq, hne, hu, not_false_eq_true, and_self, if_true]]
      exact Acts.of (h.start.setSt _) rfl rfl List.nodup_nil rfl
    · rintro rfl rfl rfl rfl rfl hend h0 h3
      refine next_of hx ?_
      rw [show ctrAct f s = ((s.emit f.key 0 .eos).emit f.key 3 .eos).setEnded f.key by
        simp only [ctrAct, hst, Bool.false_eq_true, false_and, if_false, ne_eq, not_true_eq_false, hend, h0, h3, Bool.not_false, and_self, if_true]]
      exact Acts.of (((h.start.emit rfl 0 .eos).emit rfl 3 .eos).setEnded) rfl rfl (by simp) rfl
  · obtain rfl := h.key
    obtain ⟨hx, hctl⟩ := h.ctl he
    have hbu : ∀ c, f.bound = some c → c ≠ f.key := fun c hc => (hbound c hc).1
    dsimp only
    refine ⟨?_, ?_, ?_, ?_, ?_⟩
    · rintro rfl hp
      refine next_of hx ?_
      rw [ctlAct_begin h.config hst hp]
      exact ActsOn.of ((h.start.touches (boundTo_ne hbu) (boundTo_key startRun_key)).setSt _) rfl rfl List.nodup_nil rfl
        (boundTo_key startRun_key) (boundTo_nodup f _) (boundTo_ne hbu)
    · rintro j k rfl hj hk
      refine next_of hx ?_
      rw [ctlAct_permit h.config hst hj hk]
      have hne : k ≠ f.key := hkids k (List.mem_of_getElem? hk)
      exact ActsOn.of ((h.start.setSt _).touch hne (permitted_key _)) rfl rfl List.nodup_nil rfl (by simpa using permitted_key _)
        (List.nodup_singleton _) (by simpa using hne)
    · rintro rfl hj hs ho
      refine next_of hx ?_
      rw [ctlAct_start h.config hst hj hs ho, startIter_eq, ← h.code]
      have hks : (if f.op = 0x8A then f.kids else f.kids.take 1).Sublist f.kids := by
        split
        · exact List.Sublist.refl _
        · exact List.take_sublist _ _
      have hown := boundIdx_congr (f := f) (s := s) (t := s.setSt f.key (.ctl p true (iter + 1)
        (sent.mapIdx fun j n => if j = 0 ∨ f.op = 0x8A then n + 1 else n) dones total fin gone)) fun c hc =>
          (h.start.setSt _).others c (hbu c hc)
      rw [hown]
      have hne : ∀ e ∈ boundTo f asked ++ (if f.op = 0x8A then f.kids else f.kids.take 1).map fun k =>
          (k, permitted (s.boundIdx f ++ f.given.head?.getD [])), e.1 ≠ f.key := by
        intro e he
        rcases List.mem_append.mp he with he | he
        · exact boundTo_ne hbu e he
        · obtain ⟨k, hk, rfl⟩ := List.mem_map.mp he
          exact hkids k (hks.subset hk)
      have hkey : ∀ e ∈ boundTo f asked ++ (if f.op = 0x8A then f.kids else f.kids.take 1).map fun k =>
          (k, permitted (s.boundIdx f ++ f.given.head?.getD [])), ∀ x, (e.2 x).key = x.key := by
        intro e he
        rcases List.mem_append.mp he with he | he
        · exact boundTo_key asked_key e he
        · obtain ⟨k, hk, rfl⟩ := List.mem_map.mp he
          exact permitted_key _
      exact ActsOn.of ((((h.start.setSt _).emit rfl 3 _).modUnit (fun g => { g with vecs := g.vecs ++ [⟨iter, s.boundIdx f, f.given.head?.getD []⟩] })
        fun _ => rfl).touches hne hkey) rfl rfl (List.nodup_singleton _) rfl hkey
        (bound_kids_nodup (hnd.sublist hks) fun c hc hm => (hbound c hc).2 (hks.subset hm)) hne
    · rintro rfl hj hs hl hd
      rw [ctlAct_end h.config hst hj hs hl hd] at hx
      refine ⟨fun q hq hqu => next_of hx ?_, fun hnone hroot => next_of hx ?_⟩
      · have hne : q.key ≠ f.key := fun hk => by
          have hqf : q = f := Option.some.inj (hqu.symm.trans (hk ▸ h.there))
          have hm : f.kids.contains f.key = true := hqf ▸ List.find?_some (p := fun x : FabUnit => x.kids.contains f.key) hq
          exact hkids f.key (List.contains_iff_mem.mp hm) rfl
        have hp := parentOf_ended s f.key (.ctl p false iter sent dones (total + 1) fin gone)
        rw [hq, Option.map_some, if_neg hne] at hp
        obtain ⟨φ, he, hφ, hφq⟩ := sendDone_parent hp
        rw [he]
        refine ActsOn.of (((ended_run h.there _).touch hne hφ).base (s' := touching s [(q.key, heard f.key)]) fun v hv => ?_) rfl rfl List.nodup_nil rfl
          (by simpa using heard_key f.key) (List.nodup_singleton _) (by simpa using hne)
        rw [State.unit?_modUnit _ _ _ _ hφ]
        refine Eq.trans ?_ (State.unit?_modUnit _ _ _ _ (heard_key f.key)).symm
        by_cases hvq : v = q.key
        · rw [hvq, hqu]; simp [hφq]
        · simp [hvq]
      · have hp := parentOf_ended s f.key (.ctl p false iter sent dones (total + 1) fin gone)
        rw [hnone, Option.map_none] at hp
        rw [sendDone_root hp hctl hroot]
        have hw := ended_run h.there (.ctl p false iter sent dones (total + 1) fin gone)
        exact Acts.of (sends := []) ⟨hw.unit, hw.others, rfl⟩ rfl rfl List.nodup_nil rfl
    · rintro rfl rfl rfl rfl ho
      refine next_of hx ?_
      rw [ctlAct_close h.config hst ho]
      have hne : ∀ e ∈ (f.kids ++ f.bound.toList).map fun k => (k, closed), e.1 ≠ f.key := by
        intro e he
        obtain ⟨k, hk, rfl⟩ := List.mem_map.mp he
        rcases List.mem_append.mp hk with hk | hk
        · exact hkids k hk
        · exact hbu k (by simpa using hk)
      have hkey : ∀ e ∈ (f.kids ++ f.bound.toList).map fun k => (k, closed), ∀ x, (e.2 x).key = x.key := by
        intro e he
        obtain ⟨k, -, rfl⟩ := List.mem_map.mp he
        exact closed_key
      refine ActsOn.of ((((h.start.touches hne hkey).emit (touching_routes _ s).symm 3 .eos).setSt _).setEnded) rfl ?_ (List.nodup_singleton _) rfl hkey ?_ hne
      · rw [touching_outIds]; rfl
      · rw [List.map_map, show (Prod.fst ∘ fun k => (k, closed)) = id from rfl, List.map_id, List.nodup_append]
        refine ⟨hnd, by cases f.bound <;> simp, ?_⟩
        rintro a ha b hb rfl
        exact (hbound a (by simpa using hb)).2 ha

end Sys2Proof

namespace Sys2Proof.Machine
open Sys2Proof.Claims

/-! ### A firing that touches memory, or that faults (R48, R49) -/

section
variable {s r t : State} {f g : FabUnit} {u : UKey}

/-- A function of the machine that neither reads nor writes what a firing touches applies to both sides. -/
theorem WithUnit.through (h : WithUnit s r u g t) (φ : State → State) (hu : ∀ x, (φ x).units = x.units) (hs : ∀ x, still (φ x) = φ (still x)) :
    WithUnit s (φ r) u g (φ t) where
  unit := by simpa only [State.unit?, hu] using h.unit
  others v hv := by simpa only [State.unit?, hu] using h.others v hv
  rest := by rw [hs, hs, h.rest]

/-- A unit that sends nothing. -/
theorem Acts.quiet {h : FabUnit} {ks : List Nat} (hw : WithUnit s r f.key g t) (hi : g.ins = takes ks f.ins) (ho : g.outs = f.outs)
    (hb : bare g = bare h) : Acts s r f ks [] h t :=
  Acts.of (sends := []) hw hi ho List.nodup_nil hb

/-- What a firing does not touch reads the same after it. -/
theorem WithUnit.reads {α : Type} (h : WithUnit s r u g t) (φ : State → α) (hs : ∀ x, φ (still x) = φ x) : φ t = φ r := by
  rw [← hs t, h.rest, hs]

theorem WithUnit.inst (h : WithUnit s r u g t) {n : Nat} {i : Inst} (hi : r.inst? n = some i) :
    ∃ j, t.inst? n = some j ∧ j.state = i.state ∧ j.fault = i.fault := by
  have hmap : ∀ l : List Inst, (l.map (Inst.progressed 0#64)).find? (fun i => i.serial == n) = (l.find? fun i => i.serial == n).map (Inst.progressed 0#64) :=
    fun l => List.find?_map ..
  have he : (t.inst? n).map (Inst.progressed 0#64) = (r.inst? n).map (Inst.progressed 0#64) := by
    rw [State.inst?, State.inst?, ← hmap, ← hmap]
    exact congrArg (fun x : State => x.insts.find? fun i => i.serial == n) h.rest
  rw [hi] at he
  obtain ⟨j, hj, hji⟩ := Option.map_eq_some_iff.mp he
  exact ⟨j, hj, (congrArg Inst.state hji :), (congrArg Inst.fault hji :)⟩

/-- A unit that faults where the rest of the machine is as in s. -/
theorem WithUnit.faults (h : WithUnit s s f.key g t) (hid : ident g = ident f) (cause sub : Nat) (detail : W64) :
    Faults s f (BitVec.ofNat 8 cause) (BitVec.ofNat 8 sub) (t.unitFault f.key cause sub detail) :=
  unitFault_faults h.unit hid h.mem fun _ hi => h.inst hi

theorem still_atomicAt (s : State) (k n m b e : Nat) :
    (((still s).atomicAt k n m b e).1 = (s.atomicAt k n m b e).1 ∧ still (s.atomicAt k n m b e).2 = ((still s).atomicAt k n m b e).2) ∧
      (s.atomicAt k n m b e).2.units = s.units := by
  have hn : ∀ a l, (still s).num a l = s.num a l := fun _ _ => rfl
  have hp : ∀ a l v x y, ((still s).putNum a l v).num x y = (s.putNum a l v).num x y := fun _ _ _ _ _ => rfl
  have hb : (still s).bars = s.bars := rfl
  simp only [State.atomicAt, hn, hp, hb]
  cases (atomicMember (8 * n) m (s.num k n) b e).1 with
  | none => exact ⟨⟨rfl, rfl⟩, rfl⟩
  | some v =>
    dsimp only
    cases s.bars.find? fun o => decide (k ≤ o.addr) && decide (o.addr + 4 ≤ k + n) with
    | none => exact ⟨⟨rfl, rfl⟩, rfl⟩
    | some o =>
      dsimp only
      split <;> exact ⟨⟨rfl, rfl⟩, rfl⟩

/-- An atomic answers the old value (R210). -/
theorem atomicAt_old (s : State) (k n m b e : Nat) : (s.atomicAt k n m b e).1.1 = s.num k n := by
  unfold State.atomicAt
  dsimp only
  cases (atomicMember (8 * n) m (s.num k n) b e).1 with
  | none => rfl
  | some v =>
    dsimp only
    cases s.bars.find? fun o => decide (k ≤ o.addr) && decide (o.addr + 4 ≤ k + n) with
    | none => rfl
    | some o =>
      dsimp only
      split <;> rfl

/-- A unit with n ordering tokens more to send. -/
def credited (n : Nat) (f : FabUnit) : FabUnit :=
  match f.st with
  | .prog w us r rs q fin re es => { f with st := .prog w us r rs (q + n) fin re es }
  | _ => f

theorem credited_key (n : Nat) (f : FabUnit) : (credited n f).key = f.key := by unfold credited; split <;> rfl

/-- Ordering tokens of a unit with a program are counted where an output takes them (R101). -/
theorem WithUnit.orderCredit {w : Walk} {us : List RefUnit} {c : Nat} {rs : List Nat} {q : Nat} {fin re es : Bool} (h : WithUnit s r u g t)
    (hr : r.routes = s.routes) (hst : g.st = .prog w us c rs q fin re es) (n : Nat) :
    WithUnit s r u { g with st := .prog w us c rs (if s.routed u 2 then q + n else q) fin re es } (t.orderCredit u n) := by
  have hrouted : t.routed u 2 = s.routed u 2 := by simp only [State.routed, State.routesFrom, h.routes hr]
  unfold State.orderCredit
  rw [hrouted]
  cases s.routed u 2 with
  | false =>
    have hg : { g with st := NodeSt.prog w us c rs q fin re es } = g := by rw [← hst]
    simpa only [Bool.false_eq_true, if_false, hg] using h
  | true =>
    have hg : credited n g = { g with st := .prog w us c rs (q + n) fin re es } := by rw [credited, hst]
    rw [if_pos rfl, if_pos rfl, ← hg]
    exact h.modUnit (credited n) (credited_key n)

theorem orderOut_none {w : Walk} {us : List RefUnit} {c : Nat} {rs : List Nat} {q : Nat} {fin re es : Bool} (hst : f.st = .prog w us c rs q fin re es)
    (hq : q = 0 ∨ f.outFree 2 = false) : s.orderOut f = none := by
  unfold State.orderOut
  rw [hst]
  cases q with
  | zero => rfl
  | succ q =>
    have : f.outFree 2 = false := hq.resolve_left (Nat.succ_ne_zero q)
    simp only [this, Bool.false_eq_true, if_false]

end

end Sys2Proof.Machine

namespace Sys2Proof.Claims
open Sys2Proof.Machine

theorem Turn.faults {s : State} {u : UKey} {op : Nat} {f : FabUnit} (h : Turn s u op f) (ks : List Nat) (cause sub : Nat) (detail : W64) :
    Faults s f (BitVec.ofNat 8 cause) (BitVec.ofNat 8 sub) ((s.fired f ks).unitFault f.key cause sub detail) :=
  (h.start.fired ks).faults rfl cause sub detail

end Sys2Proof.Claims

namespace Sys2Proof.Machine
open Sys2Proof.Claims

theorem still_put (s : State) (a : Nat) (l : List Byte) : still (s.put a l) = (still s).put a l := rfl

theorem still_hold (s : State) (h : Machine.Held) : still { s with helds := s.helds ++ [h] } = { still s with helds := (still s).helds ++ [h] } := rfl

theorem WithUnit.put {s r t : State} {u : UKey} {g : FabUnit} (h : WithUnit s r u g t) (a : Nat) (l : List Byte) :
    WithUnit s (r.put a l) u g (t.put a l) :=
  h.through (fun x => x.put a l) (fun _ => rfl) fun x => still_put x a l

section
variable {s r t : State} {f g : FabUnit} {w : Walk} {us : List RefUnit} {c q n : Nat} {rs : List Nat} {fin re es : Bool}

/-- A store node with a strip, and no ordering token that can go, stores it at its program's offset, or faults when none is left (R282). -/
theorem stnAct_program (hst : f.st = .prog w us c rs q fin re es) (hq : q = 0 ∨ f.outFree 2 = false) {v : Strip} (hv : f.strip? 1 = some v)
    (ha : f.agv = true) :
    (w.running = true → s.mayIssue f (.tile f.key.tile) (progOffset f.frame 22 w) = true →
      stnAct f s = s.stnStore f (progOffset f.frame 22 w) v [1] (.prog (progNext f.frame w) us c rs q fin re es)) ∧
    (w.running = false → stnAct f s = s.firing f [1] fun s => s.unitFault f.key 0x06 0x0A 0) := by
  refine ⟨fun hw hm => ?_, fun hw => ?_⟩
  · simp only [stnAct, orderOut_none hst hq, hst, hv, ha, hw, hm, if_true]
  · simp only [stnAct, orderOut_none hst hq, hst, hv, ha, hw, if_true, Bool.false_eq_true, if_false]

theorem stnAct_offset (hst : f.st = .prog w us c rs q fin re es) (hq : q = 0 ∨ f.outFree 2 = false) {v a : Strip} (hv : f.strip? 1 = some v)
    (ha : f.agv = false) (ho : f.strip? 0 = some a) : stnAct f s = s.stnStore f (offsetOf a) v [0, 1] f.st := by
  simp only [stnAct, orderOut_none hst hq, hst, hv, ha, ho, Bool.false_eq_true, if_false]

/-! ### Elastic buffers (R283) -/

section
variable {first count : Nat} {e : Bool} (hst : f.st = .ring first count e)
include hst

theorem elasticAct_send (hc : 0 < count) (ho : f.outFree 0 = true) :
    (∀ a b, s.loadFault f (.tile f.key.tile) (progOffset f.frame 22 (progNth f.frame (first % progTotal f.frame))) = some (a, b) →
      elasticAct f s = s.firing f [] fun s => s.unitFault f.key a b 0) ∧
    (s.loadFault f (.tile f.key.tile) (progOffset f.frame 22 (progNth f.frame (first % progTotal f.frame))) = none →
      elasticAct f s = s.firing f [] fun s => (s.emit f.key 0 (.data (ofBytes (s.bytes (tileMem f.key.tile
        (progOffset f.frame 22 (progNth f.frame (first % progTotal f.frame)))) 512)))).setSt f.key
          (.ring ((first + 1) % progTotal f.frame) (count - 1) e)) := by
  have hn : (count != 0 && f.outFree 0) = true := by rw [ho, Bool.and_true]; simpa using Nat.ne_of_gt hc
  refine ⟨fun a b hf => ?_, fun hf => ?_⟩
  · simp only [elasticAct, hst, hn, if_true, hf]
  · simp only [elasticAct, hst, hn, if_true, hf]; rfl

theorem elasticAct_take (hc : count = 0 ∨ f.outFree 0 = false) (hl : count < progTotal f.frame) {v : Strip} (hv : f.strip? 1 = some v)
    (hm : s.mayIssue f (.tile f.key.tile) (progOffset f.frame 22 (progNth f.frame ((first + count) % progTotal f.frame))) = true) :
    elasticAct f s = s.firing f [1] fun s =>
      if s.bankGone (.tile f.key.tile) f.serial f.folio (bankOf (progOffset f.frame 22 (progNth f.frame ((first + count) % progTotal f.frame))))
      then s.unitFault f.key 0x06 0x0B 0
      else (s.put (tileMem f.key.tile (progOffset f.frame 22 (progNth f.frame ((first + count) % progTotal f.frame)))) (stripBytes v)).setSt f.key
        (.ring first (count + 1) e) := by
  have hn : (count != 0 && f.outFree 0) = false := by rcases hc with rfl | h <;> simp [*]
  have hi : (decide (count < progTotal f.frame) && s.mayIssue f (.tile f.key.tile)
      (progOffset f.frame 22 (progNth f.frame ((first + count) % progTotal f.frame)))) = true := by rw [hm, Bool.and_true]; simpa using hl
  simp only [elasticAct, hst, hn, Bool.false_eq_true, if_false, hv, hi, if_true]; rfl

theorem elasticAct_full (ho : f.outFree 0 = false) (hl : progTotal f.frame ≤ count) : elasticAct f s = s := by
  have hn : (count != 0 && f.outFree 0) = false := by rw [ho, Bool.and_false]
  have hi : decide (count < progTotal f.frame) = false := by simpa using hl
  simp only [elasticAct, hst, hn, Bool.false_eq_true, if_false, hi, Bool.false_and]
  cases f.strip? 1 <;> rfl

end

/-- A bank that was handed on, as a firing leaves it. -/
theorem WithUnit.bankGone {u : UKey} (h : WithUnit s s u g t) (p : Pool) (serial folio b : Nat) :
    t.bankGone p serial folio b = s.bankGone p serial folio b :=
  h.reads (fun x => x.bankGone p serial folio b) fun _ => rfl

end

end Sys2Proof.Machine

namespace Sys2Proof.Claims
open Sys2Proof.Machine

section
variable {s : State} {u : UKey} {op o : Nat} {f : FabUnit} {v : Strip} {ks : List Nat} {st : NodeSt}

/-- A store that faults (R276, R282, R288). -/
theorem Turn.store_faults (h : Turn s u op f) :
    (o % 512 ≠ 0 → Faults s f 0x07 0x02 (s.stnStore f o v ks st)) ∧
    (o % 512 = 0 → s.bankGone (.tile f.key.tile) f.serial f.folio (bankOf o) = true → Faults s f 0x06 0x0B (s.stnStore f o v ks st)) := by
  refine ⟨fun ho => ?_, fun ho hg => ?_⟩
  · rw [State.stnStore, if_pos ho, h.firing]; exact h.faults ks 0x07 0x02 0
  · rw [State.stnStore, if_neg (not_not.mpr ho), if_pos hg, h.firing]; exact h.faults ks 0x06 0x0B 0

section
variable {w : Walk} {us : List RefUnit} {c q : Nat} {rs : List Nat} {fin re es : Bool} (h : Turn s u op f) (ho : o % 512 = 0)
  (hg : s.bankGone (.tile f.key.tile) f.serial f.folio (bankOf o) = false)
include h ho hg

/-- A store outside a leaf is performed at once (R48). -/
theorem Turn.store_now (hl : s.leafOf f = none) : Acts s (s.put (tileMem f.key.tile o) (stripBytes v)) f ks []
    { f with st := .prog w us c rs (if s.routed f.key 2 then q + 1 else q) fin re es }
    (s.stnStore f o v ks (.prog w us c rs q fin re es)) := by
  have he : s.stnStore f o v ks (.prog w us c rs q fin re es) = s.firing f ks fun s =>
      ((s.put (tileMem f.key.tile o) (stripBytes v)).setSt f.key (.prog w us c rs q fin re es)).orderCredit f.key 1 := by
    simp only [State.stnStore, if_neg (not_not.mpr ho), hg, Bool.false_eq_true, if_false, hl]
  rw [he, h.firing]
  exact Acts.quiet ((((h.start.fired ks).put _ _).setSt _).orderCredit rfl rfl 1) rfl rfl rfl

/-- A store in a leaf waits for its invocation, or for room in its group, or is held (R48, R103). -/
theorem Turn.store_held {l : UKey} (hl : s.leafOf f = some l) :
    let group := s.groupHeld f.key.tile o
    let mine := group.filter fun a => a.serial == f.serial && a.leaf == l && a.run == f.passed
    let inside := ((s.routesFrom f.key 2).filter fun r => r.endsIn (s.leafSet l)).map Route.id
    (256 ≤ mine.length → Faults s f 0x06 0x05 (s.stnStore f o v ks st)) ∧
    (mine.length < 256 → 256 ≤ group.length → s.stnStore f o v ks st = s) ∧
    (group.length < 256 → inside = [] ∨ f.outFree 2 = true →
      Acts s { s with helds := s.helds ++ [⟨f.key.tile, f.serial, l, f.passed, f.key, o, v⟩] } f ks
        (if inside = [] then [] else [(2, ⟨some (.data 0#4096), inside⟩)]) { f with st := st } (s.stnStore f o v ks st)) := by
  intro group mine inside
  have he : s.stnStore f o v ks st = if 256 ≤ mine.length then s.firing f ks fun s => s.unitFault f.key 0x06 0x05 0
      else if 256 ≤ group.length ∨ (!inside.isEmpty ∧ !f.outFree 2) then s
      else s.firing f ks fun s => (({ s with helds := s.helds ++ [⟨f.key.tile, f.serial, l, f.passed, f.key, o, v⟩] } : State).setSt f.key st).emitOn
        f.key 2 orderToken inside := by
    simp only [State.stnStore, if_neg (not_not.mpr ho), hg, Bool.false_eq_true, if_false, hl]; rfl
  rw [he]
  refine ⟨fun hm => ?_, fun hm hgr => ?_, fun hgr hi => ?_⟩
  · rw [if_pos hm, h.firing]; exact h.faults ks 0x06 0x05 0
  · rw [if_neg (Nat.not_le.mpr hm), if_pos (.inl hgr)]
  · have hm : ¬ 256 ≤ mine.length := Nat.not_le.mpr ((List.length_filter_le _ _).trans_lt hgr)
    have hn : ¬ (256 ≤ group.length ∨ (!inside.isEmpty ∧ !f.outFree 2)) := by
      rintro (h1 | ⟨h1, h2⟩)
      · exact Nat.not_le.mpr hgr h1
      · rcases hi with hi | hi
        · simp [hi] at h1
        · simp [hi] at h2
    rw [if_neg hm, if_neg hn, h.firing]
    have hw := (((h.start.fired ks).through (fun x => { x with helds := x.helds ++ [⟨f.key.tile, f.serial, l, f.passed, f.key, o, v⟩] }) (fun _ => rfl)
      fun x => still_hold x _).setSt st).emitOn 2 orderToken inside
    by_cases hin : inside = []
    · rw [if_pos hin]
      exact Acts.quiet hw rfl (by rw [hin]; rfl) rfl
    · rw [if_neg hin]
      have := Acts.of_on (h := { f with st := st }) hw rfl rfl rfl
      rw [if_neg hin] at this
      exact this

end

end

end Sys2Proof.Claims

namespace Sys2Proof.Machine
open Sys2Proof.Claims

/-- An atomic of a firing, and of the machine before it. -/
theorem WithUnit.atomicAt {s r t : State} {u : UKey} {g : FabUnit} (h : WithUnit s r u g t) (k n m b e : Nat) :
    (t.atomicAt k n m b e).1 = (r.atomicAt k n m b e).1 ∧ WithUnit s (r.atomicAt k n m b e).2 u g (t.atomicAt k n m b e).2 := by
  refine ⟨?_, h.through (fun x => (x.atomicAt k n m b e).2) (fun x => (still_atomicAt x k n m b e).2) fun x => (still_atomicAt x k n m b e).1.2⟩
  exact h.reads (fun x => (x.atomicAt k n m b e).1) fun x => (still_atomicAt x k n m b e).1.1

theorem atomicAt_routes (s : State) (k n m b e : Nat) : (s.atomicAt k n m b e).2.routes = s.routes := by
  unfold State.atomicAt
  dsimp only
  cases (atomicMember (8 * n) m (s.num k n) b e).1 with
  | none => rfl
  | some v =>
    dsimp only
    cases s.bars.find? fun o => decide (k ≤ o.addr) && decide (o.addr + 4 ≤ k + n) with
    | none => rfl
    | some o =>
      dsimp only
      split <;> rfl

section
variable {s : State} {f : FabUnit} {a b e : Strip}

/-! ### Read, modify, write (R284, R285) -/

/-- Bytes of an rmw's value. -/
def rmwBytes (f : FabUnit) : Nat := if f.auxBits 4 1 = 1 then 8 else 4

/-- The member of an rmw has a third operand. -/
def rmwThree (f : FabUnit) : Bool := f.auxBits 0 4 == 8 || f.auxBits 0 4 == 10

theorem rmwOperand_eq (f : FabUnit) (v : Strip) : rmwOperand (f.auxBits 4 1 == 1) v = v.toNat % 2 ^ (8 * rmwBytes f) := by
  unfold rmwOperand rmwBytes
  by_cases h : f.auxBits 4 1 = 1
  · rw [if_pos (beq_iff_eq.mpr h), if_pos h, fieldN, bitsN_zero]
  · rw [if_neg (mt beq_iff_eq.mp h), if_neg h, fieldN, bitsN_zero]

/-- The strip that an rmw sends: the old value, then the predicate. -/
def rmwOld (f : FabUnit) (x : Nat × Bool) : Strip :=
  ofLanes [w32 x.1, if f.auxBits 4 1 == 1 then w32 (x.1 / 2 ^ 32) else 0#32, w32 x.2.toNat]

theorem rmwOld_lanes (f : FabUnit) (x : Nat × Bool) : lane (rmwOld f x) 0 = BitVec.ofNat 32 x.1 ∧
    lane (rmwOld f x) 1 = (if rmwBytes f = 8 then BitVec.ofNat 32 (x.1 / 2 ^ 32) else 0#32) ∧ lane (rmwOld f x) 2 = if x.2 then 1#32 else 0#32 := by
  refine ⟨lane_ofLanes _ (by omega), (lane_ofLanes _ (by omega)).trans ?_, (lane_ofLanes _ (by omega)).trans ?_⟩
  · by_cases h : f.auxBits 4 1 = 1 <;> simp [h, rmwBytes, w32]
  · cases x.2 <;> rfl

theorem rmwAct_eq (ha : f.strip? 0 = some a) (hb : f.strip? 1 = some b) (he : (if rmwThree f then f.strip? 2 else some 0#4096) = some e)
    (h0 : f.outFree 0 = true) (h2 : f.outFree 2 = true) :
    rmwAct f s = s.firing f (if rmwThree f then [0, 1, 2] else [0, 1]) fun s =>
      if s.bankGone (.tile f.key.tile) f.serial f.folio (bankOf (offsetOf a / rmwBytes f * rmwBytes f)) then s.unitFault f.key 0x06 0x0B 0
      else if s.poisoned (tileMem f.key.tile (offsetOf a / rmwBytes f * rmwBytes f)) (rmwBytes f) then s.unitFault f.key 0x12 0x03 0
      else
        let r := s.atomicAt (tileMem f.key.tile (offsetOf a / rmwBytes f * rmwBytes f)) (rmwBytes f) (f.auxBits 0 4)
          (b.toNat % 2 ^ (8 * rmwBytes f)) (e.toNat % 2 ^ (8 * rmwBytes f))
        ((r.2.modUnit f.key fun f => { f with upds := bumpUpd f.upds f.passed }).emit f.key 0 (.data (rmwOld f r.1))).emit f.key 2 orderToken := by
  have hn : (if f.auxBits 4 1 == 1 then 8 else 4) = rmwBytes f := by simp only [rmwBytes, beq_iff_eq]
  have hout : (f.outFree 0 && f.outFree 2) = true := by rw [h0, h2]; rfl
  rw [← rmwOperand_eq f b, ← rmwOperand_eq f e, ← hn]
  rw [rmwThree] at he ⊢
  simp only [rmwAct, ha, hb, he, hout, if_true]; rfl

end

end Sys2Proof.Machine

namespace Sys2Proof
open Sys2Proof.Machine Sys2Proof.Claims

/-- Settles O46: the three kinds of store node act, each branch by branch. -/
theorem memoryStores : Obligations.MemoryStores := by
  unfold Obligations.MemoryStores
  intro s u f
  refine ⟨fun w us r rs q fin re es h hel hst hq v hv => ?_, fun first count e h hst => ?_, fun h => ?_⟩
  · intro stores
    obtain rfl := h.key
    have hx : exec (.stn f.key) s = .next (stnAct f s) := h.run stnAct
    have hstores : ∀ o ks n, stnAct f s = s.stnStore f o v ks (.prog n us r rs q fin re es) → stores o ks n := by
      intro o ks n he
      rw [he] at hx
      refine ⟨fun ho => next_of hx (h.store_faults.1 ho), fun ho hg => next_of hx (h.store_faults.2 ho hg), fun ho hg => ⟨fun hl => ?_, fun l hl => ?_⟩⟩
      · exact next_of hx (h.store_now ho hg hl)
      · obtain ⟨hfull, hwait, hheld⟩ := h.store_held (v := v) (ks := ks) (st := .prog n us r rs q fin re es) ho hg hl
        exact ⟨fun hm => next_of hx (hfull hm), fun hm hgr => by rw [hx, hwait hm hgr], fun hgr hi => next_of hx (hheld hgr hi)⟩
    refine ⟨fun ha hw hm => hstores _ _ _ ((stnAct_program hst hq hv ha).1 hw hm), fun ha hw => ?_, fun ha a ho => hstores _ _ _ ?_⟩
    · rw [(stnAct_program hst hq hv ha).2 hw, h.firing] at hx
      exact next_of hx (h.faults [1] 0x06 0x0A 0)
    · rw [stnAct_offset hst hq hv ha ho, hst]
  · obtain rfl := h.key
    have hx : exec (.elasticBuffer f.key) s = .next (elasticAct f s) := h.run elasticAct
    dsimp only
    refine ⟨fun c b hc ho hf => ?_, fun hc ho hf => ?_, fun hc hl v hv hm => ⟨fun hg => ?_, fun hg => ?_⟩, fun ho hl => ?_⟩
    · rw [(elasticAct_send hst hc ho).1 c b hf, h.firing] at hx
      exact next_of hx (h.faults [] c b 0)
    · rw [(elasticAct_send hst hc ho).2 hf, h.firing] at hx
      have hw := h.start.fired []
      rw [State.bytes, hw.mem] at hx
      exact next_of hx (Acts.of ((hw.emit rfl 0 _).setSt _) rfl rfl (List.nodup_singleton _) rfl)
    · rw [elasticAct_take hst hc hl hv hm, h.firing, (h.start.fired [1]).bankGone, if_pos hg] at hx
      exact next_of hx (h.faults [1] 0x06 0x0B 0)
    · rw [elasticAct_take hst hc hl hv hm, h.firing, (h.start.fired [1]).bankGone, if_neg (ne_true_of_eq_false hg)] at hx
      exact next_of hx (Acts.quiet (((h.start.fired [1]).put _ _).setSt _) rfl rfl rfl)
    · rw [elasticAct_full hst ho hl] at hx
      exact next_of hx (Acts.quiet h.start rfl rfl rfl)
  · obtain rfl := h.key
    have hx : exec (.rmw f.key) s = .next (rmwAct f s) := h.run rmwAct
    dsimp only
    intro a b e ha hb he h0 h2
    have hthree : rmwThree f = true ↔ (f.auxBits 0 4 = 8 ∨ f.auxBits 0 4 = 10) := by
      simp only [rmwThree, Bool.or_eq_true, beq_iff_eq]
    have hbytes : (if f.auxBits 4 1 = 1 then 8 else 4) = rmwBytes f := rfl
    simp only [← hthree] at he ⊢
    rw [hbytes, show ∀ o, o / 512 % 16 = bankOf o from fun _ => rfl]
    have he' : (if rmwThree f then f.strip? 2 else some 0#4096) = some e := by
      cases ht : rmwThree f <;> simp_all
    have hw := h.start.fired (if rmwThree f then [0, 1, 2] else [0, 1])
    have hact := rmwAct_eq (s := s) ha hb he' h0 h2
    rw [h.firing, hw.bankGone, hw.reads (fun x => x.poisoned (tileMem f.key.tile (offsetOf a / rmwBytes f * rmwBytes f)) (rmwBytes f)) fun _ => rfl] at hact
    have hold := rmwOld_lanes f (s.atomicAt (tileMem f.key.tile (offsetOf a / rmwBytes f * rmwBytes f)) (rmwBytes f) (f.auxBits 0 4)
      (b.toNat % 2 ^ (8 * rmwBytes f)) (e.toNat % 2 ^ (8 * rmwBytes f))).1
    rw [atomicAt_old] at hold
    refine ⟨fun hg => ?_, fun hg hp => ?_, fun hg hp => ⟨_, ?_, hold⟩⟩
    · rw [hact, if_pos hg] at hx
      exact next_of hx (h.faults _ 0x06 0x0B 0)
    · rw [hact, if_neg (ne_true_of_eq_false hg), if_pos hp] at hx
      exact next_of hx (h.faults _ 0x12 0x03 0)
    · rw [hact, if_neg (ne_true_of_eq_false hg), if_neg (ne_true_of_eq_false hp)] at hx
      have hx1 := hw.atomicAt (tileMem f.key.tile (offsetOf a / rmwBytes f * rmwBytes f)) (rmwBytes f) (f.auxBits 0 4)
        (b.toNat % 2 ^ (8 * rmwBytes f)) (e.toNat % 2 ^ (8 * rmwBytes f))
      dsimp only at hx
      rw [hx1.1] at hx
      exact next_of hx (Acts.of (sends := [(0, _), (2, orderToken)]) (((hx1.2.modUnit (fun f => { f with upds := bumpUpd f.upds f.passed }) fun _ => rfl).emit
        (atomicAt_routes ..) 0 _).emit (atomicAt_routes ..) 2 orderToken) rfl rfl (by simp) rfl)

end Sys2Proof

namespace Sys2Proof.Machine
open Sys2Proof.Claims

/-! ### What a write for the device and a cycle search leave alone (R227, R231, R394) -/

/-- The fabric, its tokens and its memory nodes' bookkeeping are as before. -/
structure SameFabric (s t : State) : Prop where
  units : t.units = s.units
  routes : t.routes = s.routes
  ports : t.ports = s.ports
  residents : t.residents = s.residents
  mtiles : t.mtiles = s.mtiles
  helds : t.helds = s.helds
  bankToks : t.bankToks = s.bankToks
  confs : t.confs = s.confs
  locks : t.locks = s.locks

theorem SameFabric.refl (s : State) : SameFabric s s := ⟨rfl, rfl, rfl, rfl, rfl, rfl, rfl, rfl, rfl⟩

theorem SameFabric.trans {s t u : State} (h : SameFabric s t) (k : SameFabric t u) : SameFabric s u :=
  ⟨k.units.trans h.units, k.routes.trans h.routes, k.ports.trans h.ports, k.residents.trans h.residents, k.mtiles.trans h.mtiles,
    k.helds.trans h.helds, k.bankToks.trans h.bankToks, k.confs.trans h.confs, k.locks.trans h.locks⟩

/-- The fabric, the instances and the threads' banks are as before: what a write for a device leaves, whatever it meets. -/
structure DeviceFrame (s t : State) : Prop extends SameFabric s t where
  insts : t.insts = s.insts
  cur : t.cur = s.cur
  sups : t.sups = s.sups
  cores : t.cores = s.cores

theorem DeviceFrame.refl (s : State) : DeviceFrame s s := ⟨.refl s, rfl, rfl, rfl, rfl⟩

theorem DeviceFrame.trans {s t u : State} (h : DeviceFrame s t) (k : DeviceFrame t u) : DeviceFrame s u :=
  ⟨h.toSameFabric.trans k.toSameFabric, k.insts.trans h.insts, k.cur.trans h.cur, k.sups.trans h.sups, k.cores.trans h.cores⟩

/-- Memory too is as before: what a read for a device leaves, whatever it meets. -/
structure ReadFrame (s t : State) : Prop extends DeviceFrame s t where
  mem : t.mem = s.mem

theorem ReadFrame.refl (s : State) : ReadFrame s s := ⟨.refl s, rfl⟩

theorem ReadFrame.trans {s t u : State} (h : ReadFrame s t) (k : ReadFrame t u) : ReadFrame s u :=
  ⟨h.toDeviceFrame.trans k.toDeviceFrame, k.mem.trans h.mem⟩

section
variable (s : State)

theorem deviceFrame_put (a : Nat) (l : List Byte) : DeviceFrame s (s.put a l) := ⟨⟨rfl, rfl, rfl, rfl, rfl, rfl, rfl, rfl, rfl⟩, rfl, rfl, rfl, rfl⟩

theorem readFrame_event (q k : Nat) : ReadFrame s (s.event q k) := ⟨⟨⟨rfl, rfl, rfl, rfl, rfl, rfl, rfl, rfl, rfl⟩, rfl, rfl, rfl, rfl⟩, rfl⟩

theorem readFrame_meter (o m n : Nat) : ReadFrame s (s.meter o m n) := ⟨⟨⟨rfl, rfl, rfl, rfl, rfl, rfl, rfl, rfl, rfl⟩, rfl, rfl, rfl, rfl⟩, rfl⟩

theorem readFrame_noteEcc (c : Nat) : ReadFrame s (s.noteEcc c) := by
  unfold State.noteEcc
  split
  · exact ⟨⟨⟨rfl, rfl, rfl, rfl, rfl, rfl, rfl, rfl, rfl⟩, rfl, rfl, rfl, rfl⟩, rfl⟩
  · exact .refl s

theorem readFrame_zilSent (o d n : Nat) : ReadFrame s (s.zilSent o d n) := by
  unfold State.zilSent
  split
  · exact readFrame_meter s o 16 n
  · exact .refl s

theorem readFrame_emitPacket (n : Nat) (p : Packet) : ReadFrame s (s.emitPacket n p) := by
  unfold State.emitPacket
  cases s.portFor p.dst with
  | none => exact .refl s
  | some k => dsimp only; split <;> exact ⟨⟨⟨rfl, rfl, rfl, rfl, rfl, rfl, rfl, rfl, rfl⟩, rfl, rfl, rfl, rfl⟩, rfl⟩

theorem readFrame_hbmMoved (o : Option Nat) (n : Nat) : ReadFrame s (s.hbmMoved o n) := by
  unfold State.hbmMoved
  cases o with
  | none => exact .refl s
  | some o => exact readFrame_meter s o 15 _

theorem deviceFrame_memory (m : List Host.Cell) (p : List Nat) (e : List Seal) : DeviceFrame s { s with mem := m, poison := p, seals := e } :=
  ⟨⟨rfl, rfl, rfl, rfl, rfl, rfl, rfl, rfl, rfl⟩, rfl, rfl, rfl, rfl⟩

theorem deviceFrame_sealTile (p k v pa : Nat) : DeviceFrame s (s.sealTile p k v pa) := by
  unfold State.sealTile State.put
  exact deviceFrame_memory s _ _ _

theorem deviceFrame_reseal (p pa : Nat) : DeviceFrame s (s.reseal p pa) := by
  unfold State.reseal
  cases s.sealAt pa with
  | none => exact .refl s
  | some e => exact deviceFrame_sealTile s p _ _ pa

theorem deviceFrame_breakSeal (t : Nat) : DeviceFrame s (s.breakSeal t) := by
  unfold State.breakSeal
  cases s.sealAt (t * 4096) with
  | none => exact .refl s
  | some e => exact deviceFrame_memory s _ s.poison _

theorem deviceFrame_hbmWrite {t : State} {p ver pa : Nat} {sealed : Bool} {l : List Byte} (h : s.hbmWrite p ver sealed pa l = .ok t) : DeviceFrame s t := by
  unfold State.hbmWrite at h
  cases sealed with
  | false =>
    rw [if_neg Bool.false_ne_true] at h
    cases h
    exact (deviceFrame_breakSeal s _).trans (deviceFrame_put _ _ _)
  | true =>
    rw [if_pos rfl] at h
    split at h
    · cases hk : (s.part p).key with
      | none => rw [hk] at h; cases h
      | some k =>
        rw [hk] at h
        dsimp only at h
        split at h
        · cases h; exact (deviceFrame_put s _ _).trans (deviceFrame_sealTile _ _ _ _ _)
        · cases h
    · split at h
      · cases h; exact (deviceFrame_put s _ _).trans (deviceFrame_reseal _ _ _)
      · cases h

theorem readFrame_walkCached (p va : Nat) (user : Bool) (a : Acc) : ReadFrame s (s.walkCached p va user a).2 := by
  unfold State.walkCached
  cases s.walk p va <;> exact ⟨⟨⟨rfl, rfl, rfl, rfl, rfl, rfl, rfl, rfl, rfl⟩, rfl, rfl, rfl, rfl⟩, rfl⟩

theorem readFrame_translation (p va : Nat) (user : Bool) (a : Acc) : ReadFrame s (s.translation p va user a).2 := by
  unfold State.translation
  dsimp only
  split
  · exact readFrame_walkCached s p va user a
  · split
    · exact ⟨⟨⟨rfl, rfl, rfl, rfl, rfl, rfl, rfl, rfl, rfl⟩, rfl, rfl, rfl, rfl⟩, rfl⟩
    · exact .trans (t := { s with free := s.free + 1 }) ⟨⟨⟨rfl, rfl, rfl, rfl, rfl, rfl, rfl, rfl, rfl⟩, rfl, rfl, rfl, rfl⟩, rfl⟩ (readFrame_walkCached _ p va user a)

end

/-- The state an answer goes on with, whichever it is. -/
def Ans.after {α : Type} : Ans α → State
  | .ok _ s => s
  | .trap _ s => s
  | .wait _ s => s

section
variable (s : State)

theorem readFrame_translate (w : Who) (a : Acc) (va : W64) : ReadFrame s (s.translate w a va).after := by
  have ht := readFrame_translation s w.part (va.toNat % 2 ^ 57) w.user a
  unfold State.translate
  split
  next he => rw [he] at ht; exact ht
  next he =>
    rw [he] at ht
    split <;> exact ht

theorem readFrame_resolve (w : Who) (a : Acc) (va : W64) : ReadFrame s (s.resolve w a va).after := by
  unfold State.resolve
  repeat' split
  any_goals exact readFrame_translate s w a va
  all_goals exact .refl s

theorem readFrame_fenceDrop (p : Nat) (a : W64) : ReadFrame s (s.fenceDrop p a) := ⟨⟨⟨rfl, rfl, rfl, rfl, rfl, rfl, rfl, rfl, rfl⟩, rfl, rfl, rfl, rfl⟩, rfl⟩

theorem readFrame_devicePeer (w : Who) (kind peer pa : Nat) (va : W64) (n : Nat) (l : List Byte) : ReadFrame s (s.devicePeer w kind peer pa va n l).2 := by
  unfold State.devicePeer
  cases s.portFor peer with
  | none => exact .refl s
  | some k =>
    refine .trans (t := { s with nextId := s.nextId + 1, free := s.free + 1 }) ⟨⟨⟨rfl, rfl, rfl, rfl, rfl, rfl, rfl, rfl, rfl⟩, rfl, rfl, rfl, rfl⟩, rfl⟩ (.trans ?_ (readFrame_emitPacket _ _ _))
    cases w.owner with
    | none => exact .refl _
    | some o => exact readFrame_zilSent _ o peer _

theorem deviceFrame_devWritePage (w : Who) (ver : Nat) (va : W64) (l : List Byte) : DeviceFrame s (s.devWritePage w ver va l).2 := by
  have hr := readFrame_resolve s w .store va
  unfold State.devWritePage
  cases hres : s.resolve w .store va with
  | trap t u => rw [hres] at hr; exact (hr.trans (readFrame_noteEcc u _)).toDeviceFrame
  | wait x u => rw [hres] at hr; exact hr.toDeviceFrame
  | ok p u =>
    rw [hres] at hr
    refine DeviceFrame.trans hr.toDeviceFrame ?_
    cases p with
    | win pool o => exact deviceFrame_put u _ _
    | hbm pa sealed =>
      dsimp only
      split
      · cases hw : u.hbmWrite w.part ver sealed pa l with
        | error e => exact .refl u
        | ok x => exact (deviceFrame_hbmWrite u hw).trans (readFrame_hbmMoved x _ _).toDeviceFrame
      · exact (readFrame_fenceDrop u _ _).toDeviceFrame
    | host pa =>
      dsimp only
      split <;> exact ⟨⟨rfl, rfl, rfl, rfl, rfl, rfl, rfl, rfl, rfl⟩, rfl, rfl, rfl, rfl⟩
    | peer k pa => exact (readFrame_devicePeer u w 1 k pa va _ l).toDeviceFrame

theorem readFrame_devReadPage (w : Who) (ver : Nat) (va : W64) (n : Nat) : ReadFrame s (s.devReadPage w ver va n).2 := by
  have hr := readFrame_resolve s w .load va
  unfold State.devReadPage
  cases hres : s.resolve w .load va with
  | trap t u => rw [hres] at hr; exact ReadFrame.trans hr (readFrame_noteEcc u _)
  | wait x u => rw [hres] at hr; exact hr
  | ok p u =>
    rw [hres] at hr
    refine ReadFrame.trans hr ?_
    cases p with
    | win pool o =>
      dsimp only
      split
      · exact readFrame_noteEcc u 0x12
      · exact .refl u
    | hbm pa sealed =>
      dsimp only
      split
      · cases u.hbmRead w.part ver sealed pa n with
        | error e => exact readFrame_noteEcc u _
        | ok l => exact readFrame_hbmMoved u _ _
      · exact readFrame_fenceDrop u _ _
    | host pa =>
      dsimp only
      split <;> exact ⟨⟨⟨rfl, rfl, rfl, rfl, rfl, rfl, rfl, rfl, rfl⟩, rfl, rfl, rfl, rfl⟩, rfl⟩
    | peer k pa =>
      dsimp only
      split <;> exact readFrame_devicePeer u w 0 k pa va n []

theorem readFrame_devReadGo (w : Who) (ver : Nat) : ∀ (fuel : Nat) (s : State) (va : W64) (n : Nat), ReadFrame s (s.devReadGo w ver fuel va n).2
  | 0, s, _, _ => .refl s
  | fuel + 1, s, va, n => by
    have hp := readFrame_devReadPage s w ver va (pageRun va n)
    unfold State.devReadGo
    split
    · exact .refl s
    · split
      next he => rw [he] at hp; exact hp
      next he => rw [he] at hp; exact ReadFrame.trans hp (readFrame_devReadGo w ver fuel _ _ _)

theorem readFrame_devTouch (w : Who) (va : W64) (n : Nat) : ReadFrame s (s.devTouch w va n) := readFrame_devReadGo w 0 _ s va n

theorem deviceFrame_devWriteGo (w : Who) (ver : Nat) : ∀ (fuel : Nat) (s : State) (va : W64) (l : List Byte),
    DeviceFrame s (s.devWriteGo w ver fuel va l).2
  | 0, s, _, _ => .refl s
  | fuel + 1, s, va, l => by
    have hp := deviceFrame_devWritePage s w ver va (l.take (pageRun va l.length))
    unfold State.devWriteGo
    split
    · exact .refl s
    · split
      next he => rw [he] at hp; exact hp
      next he => rw [he] at hp; exact DeviceFrame.trans hp (deviceFrame_devWriteGo w ver fuel _ _ _)

theorem deviceFrame_devRecord (w : Who) (va : W64) (l : List Byte) : DeviceFrame s (s.devRecord w va l) := deviceFrame_devWriteGo w 0 _ s va l

theorem sameFabric_modInst (n : Nat) (φ : Inst → Inst) : SameFabric s (s.modInst n φ) := ⟨rfl, rfl, rfl, rfl, rfl, rfl, rfl, rfl, rfl⟩

end

theorem sameFabric_foldl {α : Type} (F : State → α → State) (hF : ∀ t a, SameFabric t (F t a)) : ∀ (l : List α) (s : State), SameFabric s (l.foldl F s)
  | [], s => .refl s
  | a :: l, s => (hF s a).trans (sameFabric_foldl F hF l (F s a))

section
variable (s : State)

theorem sameFabric_cycleRecord (steps : List CycleStep) : SameFabric s (s.cycleRecord steps).2 := by
  refine .trans (t := { s with dlser := s.dlser + 1 }) ⟨rfl, rfl, rfl, rfl, rfl, rfl, rfl, rfl, rfl⟩ (sameFabric_foldl _ (fun t m => ?_) _ _)
  dsimp only
  split
  · exact .refl t
  next i _ =>
    have hd (l : List Byte) : SameFabric t ((t.devRecord i.device (i.recVA + 0x80#64) l).modInst m fun i => { i with dladdr := i.recVA + 0x80#64 }) :=
      ((deviceFrame_devRecord t _ _ l).toSameFabric).trans (sameFabric_modInst _ m _)
    cases i.hw with
    | none => exact hd _
    | some n => exact (hd _).trans (readFrame_event _ _ 4).toSameFabric

theorem sameFabric_search (w : Party) : SameFabric s (s.search w) := by
  unfold State.search
  cases s.inForce w with
  | none => exact .refl s
  | some e =>
    dsimp only
    cases e.holders.findSome? fun h => s.seek w 15 h with
    | none => exact .refl s
    | some path => exact (sameFabric_cycleRecord s _).trans (sameFabric_foldl _ (fun t m => sameFabric_modInst t m _) _ _)

theorem sameFabric_relink : SameFabric s s.relink := by
  refine .trans (t := { s with waits := s.waits.map fun w => { w with holders := s.holdersNow w.waiter w.kind w.obj w.tok } })
    ⟨rfl, rfl, rfl, rfl, rfl, rfl, rfl, rfl, rfl⟩ (sameFabric_foldl _ (fun t w => ?_) _ _)
  split
  · exact sameFabric_search t _
  · exact .refl t

/-- With no wait in the table nothing is searched, and nothing changes. -/
theorem relink_idle (h : s.waits = []) : s.relink = s := by
  unfold State.relink
  simp only [h, List.filter_nil, List.map_nil, List.foldl_nil]
  rw [← h]

theorem sameFabric_waits (l : List Wait) : SameFabric s { s with waits := l } := ⟨rfl, rfl, rfl, rfl, rfl, rfl, rfl, rfl, rfl⟩

theorem sameFabric_register {t : State} {p : Party} {bank kind obj : Nat} {sw : Bool} {tok : Option (Pool × Nat)}
    (h : s.register p bank kind obj sw tok = some t) : SameFabric s t := by
  unfold State.register at h
  cases hf : s.freeEntry bank with
  | none => rw [hf] at h; cases h
  | some k =>
    rw [hf] at h
    cases h
    exact (sameFabric_waits s _).trans (sameFabric_search _ p)

theorem sameFabric_autoRegister (p : Party) (bank kind obj : Nat) (tok : Option (Pool × Nat)) (counts : Nat) :
    SameFabric s (s.autoRegister p bank kind obj tok counts) := by
  unfold State.autoRegister
  cases hr : s.register p bank kind obj false tok with
  | none => exact sameFabric_modInst s counts _
  | some t => exact sameFabric_register s hr

end

end Sys2Proof.Machine

namespace Sys2Proof.Machine
open Sys2Proof.Claims

section
variable {s t : State} {f g : FabUnit} {u : UKey}

/-! ### Bank tokens (R47, R99, R288) -/

theorem mem_banks {b : Nat} : b ∈ f.banks ↔ (decide (b < 16) && f.auxBits b 1 == 1) = true := by
  simp [FabUnit.banks, upTo]

/-- The pool whose banks a bankpass hands on. -/
def bankPool (s : State) (f : FabUnit) : Pool := s.poolOf f (f.auxBits 16 1 == 1) (f.auxBits 17 6)

/-- The banks that a bankpass hands on: those it names and has not handed on before. -/
def handed (s : State) (f : FabUnit) : List Nat := f.banks.filter fun b => !s.bankGone (bankPool s f) f.serial f.folio b

/-- The bank tokens after a bankpass: each bank handed on has a new one, under way. The next configuration is looked up in x. -/
def passBanks (s x : State) (f : FabUnit) : List BankTok :=
  (x.bankToks.filter fun t => !(t.pool == bankPool s f && t.serial == f.serial && (handed s f).contains t.bank)) ++
    (handed s f).map fun b => ⟨bankPool s f, f.serial, b, x.nextConf (bankPool s f) f.serial f.folio b, false⟩

/-- A bank may be handed on: it is drained, and held or handed on before. -/
def bankReady (s : State) (f : FabUnit) (b : Nat) : Bool :=
  s.bankDrained f (bankPool s f) b && (s.bankHere (bankPool s f) f.serial f.folio b || s.bankGone (bankPool s f) f.serial f.folio b)

theorem bankpassAct_waits {v : Strip} (hl : f.latch 0 = some (.data v)) (h : ∃ b ∈ f.banks, bankReady s f b = false) : bankpassAct f s = s := by
  have : f.banks.all (bankReady s f) = false := by
    obtain ⟨b, hb, hr⟩ := h
    exact List.all_eq_false.mpr ⟨b, hb, by simp [hr]⟩
  unfold bankReady bankPool at this
  simp only [bankpassAct, hl, this, Bool.false_eq_true, if_false]

theorem bankpassAct_passes {v : Strip} (hl : f.latch 0 = some (.data v)) (h : ∀ b ∈ f.banks, bankReady s f b = true) :
    bankpassAct f s = s.firing f [0] fun x => { x with bankToks := passBanks s x f } := by
  have : f.banks.all (bankReady s f) = true := List.all_eq_true.mpr h
  unfold bankReady bankPool at this
  simp only [bankpassAct, hl, this, if_true]; rfl

/-- A bank that is handed on has its new token; every other token is as before. -/
theorem passBanks_find (s : State) (f : FabUnit) (p : Pool) (serial b : Nat) :
    (passBanks s s f).find? (fun t => t.pool == p && t.serial == serial && t.bank == b) =
      if p = bankPool s f ∧ serial = f.serial ∧ b ∈ handed s f then
        some ⟨bankPool s f, f.serial, b, s.nextConf (bankPool s f) f.serial f.folio b, false⟩
      else s.bankTok? p serial b := by
  have hold : (s.bankToks.filter fun t => !(t.pool == bankPool s f && t.serial == f.serial && (handed s f).contains t.bank)).find?
      (fun t => t.pool == p && t.serial == serial && t.bank == b) =
        if p = bankPool s f ∧ serial = f.serial ∧ b ∈ handed s f then none else s.bankTok? p serial b := by
    rw [List.find?_filter]
    by_cases hc : p = bankPool s f ∧ serial = f.serial ∧ b ∈ handed s f
    · rw [if_pos hc]
      obtain ⟨rfl, rfl, hb⟩ := hc
      rw [List.find?_eq_none]
      intro t _ ht
      simp only [Bool.and_eq_true, Bool.not_eq_true', beq_iff_eq, decide_eq_true_eq] at ht
      obtain ⟨hn, ⟨hp, hs⟩, hbank⟩ := ht
      simp [hp, hs, hbank, hb] at hn
    · rw [if_neg hc, State.bankTok?]
      congr 1
      funext t
      by_cases ht : t.pool = p ∧ t.serial = serial ∧ t.bank = b
      · obtain ⟨rfl, rfl, rfl⟩ := ht
        have : (t.pool == bankPool s f && t.serial == f.serial && (handed s f).contains t.bank) = false := by
          rw [Bool.eq_false_iff]
          intro h
          simp only [Bool.and_eq_true, beq_iff_eq, List.contains_iff_mem] at h
          exact hc ⟨h.1.1, h.1.2, h.2⟩
        rw [this]
        simp
      · have : (t.pool == p && t.serial == serial && t.bank == b) = false := by
          rw [Bool.eq_false_iff]
          intro h
          simp only [Bool.and_eq_true, beq_iff_eq] at h
          exact ht ⟨h.1.1, h.1.2, h.2⟩
        simp [this]
  rw [passBanks, List.find?_append, hold]
  by_cases hc : p = bankPool s f ∧ serial = f.serial ∧ b ∈ handed s f
  · rw [if_pos hc, if_pos hc, Option.none_or, List.find?_map]
    obtain ⟨rfl, rfl, hb⟩ := hc
    have hcomp : ((fun t : BankTok => t.pool == bankPool s f && t.serial == f.serial && t.bank == b) ∘
        fun b => (⟨bankPool s f, f.serial, b, s.nextConf (bankPool s f) f.serial f.folio b, false⟩ : BankTok)) = fun c => c == b := by
      funext c; simp
    have hfind : (handed s f).find? (fun c => c == b) = some b := by
      cases hf : (handed s f).find? fun c => c == b with
      | none => exact absurd (List.find?_eq_none.mp hf b hb) (by simp)
      | some c => rw [show c = b by simpa using List.find?_some hf]
    rw [hcomp, hfind]; rfl
  · rw [if_neg hc, if_neg hc]
    have hnone : ((handed s f).map fun b => (⟨bankPool s f, f.serial, b, s.nextConf (bankPool s f) f.serial f.folio b, false⟩ : BankTok)).find?
        (fun t => t.pool == p && t.serial == serial && t.bank == b) = none := by
      rw [List.find?_eq_none]
      intro t ht
      obtain ⟨c, hc', rfl⟩ := List.mem_map.mp ht
      simp only [Bool.and_eq_true, beq_iff_eq]
      rintro ⟨⟨rfl, rfl⟩, rfl⟩
      exact hc ⟨rfl, rfl, hc'⟩
    rw [hnone, Option.or_none]

/-- A token under way arrives where the next configuration has been placed (R99). -/
theorem bankArrive_find (s : State) (p p' : Pool) (bank serial b : Nat) : (s.bankArrive p bank).bankTok? p' serial b =
    (s.bankTok? p' serial b).map fun a => if p' = p ∧ b = bank ∧
      ((s.confs.find? fun c => c.pool == p && c.serial == serial).map fun c => decide (a.pos < c.confs.length)) = some true
      then { a with given := true } else a := by
  have hkeep : ∀ a : BankTok, ((if a.pool == p && a.bank == bank && !a.given &&
      ((s.confs.find? fun c => c.pool == p && c.serial == a.serial).map fun c => decide (a.pos < c.confs.length)).getD false then
        { a with given := true } else a).pool = a.pool) := fun a => by split <;> rfl
  unfold State.bankTok? State.bankArrive
  rw [List.find?_map]
  have hcomp : ((fun t : BankTok => t.pool == p' && t.serial == serial && t.bank == b) ∘ fun a => if a.pool == p && a.bank == bank && !a.given &&
      ((s.confs.find? fun c => c.pool == p && c.serial == a.serial).map fun c => decide (a.pos < c.confs.length)).getD false then
        { a with given := true } else a) = fun t => t.pool == p' && t.serial == serial && t.bank == b := by
    funext a
    dsimp only [Function.comp_apply]
    split <;> rfl
  rw [hcomp]
  cases hf : s.bankToks.find? fun t => t.pool == p' && t.serial == serial && t.bank == b with
  | none => rfl
  | some a =>
    have ha := List.find?_some hf
    simp only [Bool.and_eq_true, beq_iff_eq] at ha
    obtain ⟨⟨rfl, rfl⟩, rfl⟩ := ha
    simp only [Option.map_some]
    congr 1
    cases hc : (s.confs.find? fun c => c.pool == p && c.serial == a.serial).map fun c => decide (a.pos < c.confs.length) with
    | none => simp
    | some x =>
      obtain ⟨ap, as, ab, apos, ag⟩ := a
      cases x <;> cases ag <;> simp

end

end Sys2Proof.Machine

namespace Sys2Proof.Machine
open Sys2Proof.Claims

section
variable {s t x : State} {f g : FabUnit} {u : UKey} {held : List Nat} {since : Option Nat} {a : Strip}

/-! ### Lock tokens and the lkpool (R214, R215, R287) -/

theorem holderOf_congr (h : t.locks = s.locks) (k : Pool × Nat) : t.holderOf k = s.holderOf k := by rw [State.holderOf, h]; rfl

/-- A token that is taken has its new holder, every other one the holder it had. -/
theorem holderOf_append (s : State) (p : Pool) (i : Nat) (w : Party) (k : Pool × Nat) (hn : s.holderOf (p, i) = none) :
    ({ s with locks := s.locks ++ [⟨p, i, w⟩] } : State).holderOf k = if k = (p, i) then some w else s.holderOf k := by
  unfold State.holderOf at *
  dsimp only
  rw [List.find?_append]
  by_cases hk : k = (p, i)
  · subst hk
    rw [Option.map_eq_none_iff.mp hn]; simp
  · have : (⟨p, i, w⟩ : LockTok).pool ≠ k.1 ∨ (⟨p, i, w⟩ : LockTok).idx ≠ k.2 := by
      rw [← not_and_or]
      exact fun h => hk (Prod.ext h.1.symm h.2.symm)
    have hf : ([⟨p, i, w⟩] : List LockTok).find? (fun l => l.pool == k.1 && l.idx == k.2) = none := by
      rw [List.find?_singleton, if_neg]
      rcases this with h | h <;> simp [h]
    rw [hf, Option.or_none, if_neg hk]

/-- The machine with a token held by nobody. -/
def freed (s : State) (p : Pool × Nat) : State := { s with locks := s.locks.filter fun l => !(l.pool == p.1 && l.idx == p.2) }

theorem holderOf_freed (s : State) (p : Pool × Nat) (k : Pool × Nat) : (freed s p).holderOf k = if k = p then none else s.holderOf k := by
  unfold State.holderOf freed
  dsimp only
  rw [List.find?_filter]
  by_cases hk : k = p
  · subst hk
    rw [if_pos rfl, Option.map_eq_none_iff, List.find?_eq_none]
    intro l _
    cases h : (l.pool == k.1 && l.idx == k.2) <;> simp
  · rw [if_neg hk]
    congr 2
    funext l
    cases h : (l.pool == k.1 && l.idx == k.2) with
    | false => simp
    | true =>
      simp only [Bool.and_eq_true, beq_iff_eq] at h
      have : (l.pool == p.1 && l.idx == p.2) = false := by
        rw [Bool.eq_false_iff]
        intro h'
        simp only [Bool.and_eq_true, beq_iff_eq] at h'
        exact hk (Prod.ext (h.1.symm.trans h'.1) (h.2.symm.trans h'.2))
      simp [this]

/-- The token that an operand names at the tile of a pool (R286). -/
def lockIdx (a : Strip) : Nat := lockHash (offsetOf a)

/-- Nobody waits for a token: no stalled thread, and no pool's acquire. -/
theorem tokWaiters_none {k : Pool × Nat} (hi : ∀ i ∈ s.insts, (i.stall.map fun x => x.tok) ≠ some (some k))
    (hu : ∀ v ∈ s.units, ∀ l x, v.st = .lk l (some x) → (Pool.tile v.key.tile, lockHash (tokenOffset (v.ins.headD none))) ≠ k) :
    s.tokWaiters k = [] := by
  unfold State.tokWaiters
  rw [List.append_eq_nil_iff]
  refine ⟨List.filterMap_eq_nil_iff.mpr fun i hm => ?_, List.filterMap_eq_nil_iff.mpr fun v hm => ?_⟩
  · have := hi i hm
    cases hs : i.stall with
    | none => rfl
    | some st => exact if_neg fun h => this (by rw [hs, Option.map_some, h])
  · have := hu v hm
    cases hs : v.st with
    | lk l w =>
      cases w with
      | none => rfl
      | some x => exact if_neg (this l x hs)
    | _ => rfl

/-- A token that nobody waits for is free once it is released (R215). -/
theorem release_idle {k : Pool × Nat} (h : s.tokWaiters k = []) :
    s.release k = (freed s k).relink := by
  have hw : ({ s with locks := s.locks.filter fun l => !(l.pool == k.1 && l.idx == k.2) } : State).tokWaiters k = [] := h
  unfold State.release State.grant
  rw [hw]; rfl

/-- Every unit of another place is one of s. -/
def Elsewhere (s t : State) (u : UKey) : Prop := ∀ v ∈ t.units, v.key ≠ u → v ∈ s.units

theorem Elsewhere.refl (s : State) (u : UKey) : Elsewhere s s u := fun _ h _ => h

theorem mem_modUnit {φ : FabUnit → FabUnit} {v : FabUnit} (hv : v ∈ (t.modUnit u φ).units) : ∃ w ∈ t.units, v = if w.key = u then φ w else w := by
  obtain ⟨w, hw, he⟩ := List.mem_map.mp hv
  exact ⟨w, hw, by simpa using he.symm⟩

theorem Elsewhere.modUnit (h : Elsewhere s t u) {φ : FabUnit → FabUnit} (hφ : ∀ x, (φ x).key = x.key) : Elsewhere s (t.modUnit u φ) u := by
  intro v hv hne
  obtain ⟨w, hw, rfl⟩ := mem_modUnit hv
  by_cases hk : w.key = u
  · rw [if_pos hk, hφ] at hne; exact absurd hk hne
  · rw [if_neg hk] at hne ⊢; exact h w hw hne

theorem Elsewhere.takeIn (h : Elsewhere s t u) (k : Nat) : Elsewhere s (t.takeIn u k) u := by
  obtain ⟨t', ht, he⟩ := t.takeIn_cases u k
  rw [he]
  refine Elsewhere.modUnit ?_ (φ := fun f => { f with ins := updAt f.ins k fun _ => none }) fun _ => rfl
  rcases ht with rfl | ⟨n, rfl⟩ <;> exact h

theorem Elsewhere.fired (h : Elsewhere s t f.key) (ks : List Nat) : Elsewhere s (t.fired f ks) f.key := by
  have hk : Elsewhere s (ks.foldl (fun s k => s.takeIn f.key k) t) f.key := by
    induction ks generalizing t with
    | nil => exact h
    | cons k ks ih => exact ih (h.takeIn k)
  exact Elsewhere.modUnit hk (φ := fun x => { x with fired := (ks.foldl (fun s k => s.takeIn f.key k) t).cycle.toNat }) fun _ => rfl

theorem setSt_st {n : NodeSt} {v : FabUnit} (hv : v ∈ (t.setSt u n).units) (hk : v.key = u) : v.st = n := by
  obtain ⟨w, hw, rfl⟩ := mem_modUnit hv
  by_cases h : w.key = u
  · rw [if_pos h]
  · rw [if_neg h] at hk; exact absurd hk h

end

end Sys2Proof.Machine

namespace Sys2Proof.Machine
open Sys2Proof.Claims

section
variable {s r t : State} {f g : FabUnit} {u : UKey} {held : List Nat} {since : Option Nat} {a : Strip}

/-- The state in which an acquire has taken its token and sent the address on. -/
def acquired (s : State) (f : FabUnit) (held : List Nat) (a : Strip) : State :=
  (((({ s with locks := s.locks ++ [⟨.tile f.key.tile, lockIdx a, .sub f.serial f.key⟩] } : State).fired f [0]).emit f.key 0 (.data a)).setSt f.key
    (.lk (held ++ [lockIdx a]) none))

section
variable (hst : f.st = .lk held since) (ha : f.strip? 0 = some a)
include hst ha

theorem lkAcquire_held (h : lockIdx a ∈ held) : lkAcquireAct f s = if since.isSome then s else s.setSt f.key (.lk held (some s.nsec.toNat)) := by
  have hc : held.contains (lockHash (offsetOf a)) = true := List.contains_iff_mem.mpr h
  simp only [lkAcquireAct, hst, ha, hc, if_true]

section
variable (hn : lockIdx a ∉ held)
include hn

theorem lkAcquire_full (hl : 16 ≤ held.length) : lkAcquireAct f s = s := by
  have hc : held.contains (lockHash (offsetOf a)) = false := by simpa [lockIdx] using hn
  simp only [lkAcquireAct, hst, ha, hc, Bool.false_eq_true, if_false, if_pos hl]

theorem lkAcquire_free (hc : f.cfgBad = false) (he : f.eccBad = false) (hl : held.length < 16)
    (hh : s.holderOf (.tile f.key.tile, lockIdx a) = none) (ho : f.outFree 0 = true) :
    lkAcquireAct f s = ((acquired s f held a).endSubWait f).relink := by
  have hm : held.contains (lockHash (offsetOf a)) = false := by simpa [lockIdx] using hn
  unfold lockIdx at hh
  have hf := State.firing_eq ({ s with locks := s.locks ++ [⟨.tile f.key.tile, lockHash (offsetOf a), .sub f.serial f.key⟩] } : State) [0]
    (fun s => (s.emit f.key 0 (.data a)).setSt f.key (.lk (held ++ [lockHash (offsetOf a)]) none)) hc he
  simp only [lkAcquireAct, hst, ha, hm, Bool.false_eq_true, if_false, if_neg (Nat.not_le.mpr hl), hh, ho, if_true, hf]; rfl

theorem lkAcquire_wait (hl : held.length < 16) {p : Party} (hh : s.holderOf (.tile f.key.tile, lockIdx a) = some p) (hp : p ≠ .sub f.serial f.key) :
    lkAcquireAct f s = if since.isSome then s
      else (s.setSt f.key (.lk held (some s.nsec.toNat))).lkRegister f (.tile f.key.tile, lockIdx a) a := by
  have hm : held.contains (lockHash (offsetOf a)) = false := by simpa [lockIdx] using hn
  unfold lockIdx at hh ⊢
  simp only [lkAcquireAct, hst, ha, hm, Bool.false_eq_true, if_false, if_neg (Nat.not_le.mpr hl), hh, if_neg hp]

end

end

theorem lkRelease_none (hst : f.st = .lk held since) (ha : f.strip? 1 = some a) (hn : lockIdx a ∉ held) :
    lkReleaseAct f s = s.firing f [1] fun s => s.unitFault f.key 0x06 0x0C 0 := by
  have hm : held.contains (lockHash (offsetOf a)) = false := by simpa [lockIdx] using hn
  simp only [lkReleaseAct, hst, ha, hm, Bool.false_eq_true, if_false]

/-- A release by a pool whose own acquire does not wait. -/
theorem lkRelease_held (hst : f.st = .lk held none) (ha : f.strip? 1 = some a) (h : lockIdx a ∈ held) :
    lkReleaseAct f s = s.firing f [1] fun s => (s.setSt f.key (.lk (held.erase (lockIdx a)) none)).release (.tile f.key.tile, lockIdx a) := by
  have hm : held.contains (lockHash (offsetOf a)) = true := List.contains_iff_mem.mpr h
  simp only [lkReleaseAct, hst, ha, hm, if_true, Option.isSome_none, Bool.false_eq_true, false_and, if_false]
  congr 1
  funext s
  split <;> rfl

theorem sameFabric_lkRegister (s : State) (f : FabUnit) (k : Pool × Nat) (a : Strip) : SameFabric s (s.lkRegister f k a) :=
  sameFabric_autoRegister s _ _ _ _ _ _

theorem WithUnit.insts (h : WithUnit s r u g t) {i : Inst} (hi : i ∈ t.insts) : ∃ j ∈ r.insts, j.stall = i.stall := by
  have he : t.insts.map (Inst.progressed 0#64) = r.insts.map (Inst.progressed 0#64) := congrArg State.insts h.rest
  obtain ⟨j, hj, hji⟩ := List.mem_map.mp (he ▸ List.mem_map_of_mem hi)
  exact ⟨j, hj, (congrArg Inst.stall hji :)⟩

end

end Sys2Proof.Machine

namespace Sys2Proof
open Sys2Proof.Machine Sys2Proof.Claims

/-- Settles O47: a bankpass by its new tokens, an arrival token by token, the lkpool branch by branch. -/
theorem banksAndLocks : Obligations.BanksAndLocks := by
  unfold Obligations.BanksAndLocks
  intro s u f
  refine ⟨fun h v hv => ?_, fun p t slice bank hp => ⟨_, rfl, rfl, ?_⟩, fun h held since hst => ?_⟩
  · obtain rfl := h.key
    have hx : exec (.bankpass f.key) s = .next (bankpassAct f s) := h.run bankpassAct
    dsimp only
    refine ⟨fun hall => ?_, fun ⟨b, hb, hnamed, hbad⟩ => ?_⟩
    · have hready : ∀ b ∈ f.banks, bankReady s f b = true := fun b hb => by
        have hn := mem_banks.mp hb
        obtain ⟨hd, hh⟩ := hall b (by simpa using (Bool.and_eq_true_iff.mp hn).1) hn
        unfold bankReady bankPool
        rw [hd, Bool.true_and, Bool.or_eq_true]
        exact hh
      have hhanded : ∀ b, b ∈ handed s f ↔ (decide (b < 16) && f.auxBits b 1 == 1) = true ∧ s.bankGone (bankPool s f) f.serial f.folio b = false := fun b => by
        rw [handed, List.mem_filter, mem_banks, Bool.not_eq_true']
      rw [bankpassAct_passes hv hready, h.firing] at hx
      have hw := h.start.fired [0]
      have htoks : passBanks s (s.fired f [0]) f = passBanks s s f := hw.reads (fun x => passBanks s x f) fun _ => rfl
      rw [htoks] at hx
      have hfind := passBanks_find s f
      refine next_of hx ⟨Acts.quiet (hw.through (fun x => { x with bankToks := passBanks s s f }) (fun _ => rfl) fun _ => rfl) rfl rfl rfl,
        fun b hn hg => (hfind (bankPool s f) f.serial b).trans (if_pos ⟨rfl, rfl, (hhanded b).mpr ⟨hn, hg⟩⟩), fun p serial b hc => ?_⟩
      refine (hfind p serial b).trans (if_neg ?_)
      rintro ⟨rfl, rfl, hb⟩
      obtain ⟨hn, hg⟩ := (hhanded b).mp hb
      rcases hc with hc | hc | hc | hc
      · exact hc rfl
      · exact hc rfl
      · exact absurd hn (ne_true_of_eq_false hc)
      · exact absurd hc (ne_true_of_eq_false hg)
    · rw [hx, bankpassAct_waits hv ⟨b, mem_banks.mpr hnamed, ?_⟩]
      unfold bankReady bankPool
      rcases hbad with hd | ⟨hh, hg⟩
      · rw [hd, Bool.false_and]
      · rw [hh, hg, Bool.or_self, Bool.and_false]
  · obtain rfl := hp
    exact fun p' serial b => bankArrive_find s _ p' bank serial b
  · obtain rfl := h.key
    have hx : exec (.lkpoolAcquire f.key) s = .next (lkAcquireAct f s) := h.run lkAcquireAct
    have hy : exec (.lkpoolRelease f.key) s = .next (lkReleaseAct f s) := h.run lkReleaseAct
    dsimp only
    refine ⟨fun a ha => ⟨fun hn hl => ?_, fun hm => ?_, fun hn hl hh ho => ?_, fun p hn hl hh hp => ?_⟩, fun a ha => ⟨fun hm hs hstall hpools => ?_, fun hn => ?_⟩⟩
    · rw [hx, lkAcquire_full hst ha hn hl]
    · rw [lkAcquire_held hst ha hm] at hx
      have hw := h.start.setSt (.lk held (some s.nsec.toNat))
      have hlatch := FabUnit.strip?_data ha
      refine next_of hx ⟨?_, ?_⟩
      · split
        · rw [h.self, Option.map_some, hlatch]
        · rw [hw.unit, Option.map_some]
          exact congrArg (fun c => some (c, f.outs)) hlatch
      · split <;> exact ⟨rfl, rfl, rfl⟩
    · rw [lkAcquire_free hst ha hn h.config h.latches hl hh ho] at hx
      have hw := (((WithUnit.refl (s := { s with locks := s.locks ++ [⟨.tile f.key.tile, lockIdx a, .sub f.serial f.key⟩] }) h.self).fired [0]).emit rfl 0
        (.data a)).setSt (.lk (held ++ [lockIdx a]) none)
      have hr := sameFabric_relink ((acquired s f held a).endSubWait f)
      have hhold := fun k => (holderOf_congr hr.locks k).trans ((holderOf_congr (congrArg State.locks hw.rest :) k).trans
        (holderOf_append s (.tile f.key.tile) (lockIdx a) (.sub f.serial f.key) k hh))
      have hunit : (((acquired s f held a).endSubWait f).relink).unit? f.key = _ := (congrArg (List.find? _) hr.units).trans hw.unit
      refine next_of hx ⟨(hhold _).trans (if_pos rfl), ?_, fun hlen => ?_, fun k hk => (hhold k).trans (if_neg hk), fun hwaits => ?_⟩
      · rw [hunit, Option.map_some]
        congr 2
        exact (takes_join [0] f.ins 0).trans (if_pos (by simp))
      · rw [hunit, Option.map_some]
        congr 1
        exact (slotWith_eq s f 0 (.data a) hlen).symm
      · have hidle : ((acquired s f held a).endSubWait f).waits = [] := by
          have : (acquired s f held a).waits = [] := (congrArg State.waits hw.rest :).trans hwaits
          rw [State.endSubWait, this]; rfl
        rw [relink_idle _ hidle]
        exact hw.mem
    · rw [lkAcquire_wait hst ha hn hl hh hp] at hx
      have hw := h.start.setSt (.lk held (some s.nsec.toNat))
      have hlatch := FabUnit.strip?_data ha
      have hr := sameFabric_lkRegister (s.setSt f.key (.lk held (some s.nsec.toNat))) f (.tile f.key.tile, lockIdx a) a
      refine next_of hx ⟨?_, fun k => ?_⟩
      · split
        · rw [h.self, Option.map_some, hlatch]
        · rw [show State.unit? _ f.key = _ from (congrArg (List.find? _) hr.units).trans hw.unit, Option.map_some]
          exact congrArg (fun c => some (c, f.outs)) hlatch
      · split
        · rfl
        · exact holderOf_congr hr.locks k
    · obtain rfl := hs
      rw [lkRelease_held hst ha hm, h.firing] at hy
      have hw := (h.start.fired [1]).setSt (.lk (held.erase (lockIdx a)) none)
      have helse := ((Elsewhere.refl s f.key).fired [1]).modUnit (φ := fun x => { x with st := .lk (held.erase (lockIdx a)) none }) fun _ => rfl
      have hidle : ((s.fired f [1]).setSt f.key (.lk (held.erase (lockIdx a)) none)).tokWaiters (.tile f.key.tile, lockIdx a) = [] := by
        refine tokWaiters_none (fun i hi => ?_) fun v hv l x hvst hk => ?_
        · obtain ⟨j, hj, hji⟩ := hw.insts hi
          rw [← hji]; exact hstall j hj
        · by_cases hkey : v.key = f.key
          · have hvn := setSt_st hv hkey
            rw [hvst] at hvn
            cases hvn
          · exact hpools v (helse v hv hkey) (Pool.tile.inj (congrArg Prod.fst hk)) hkey l x hvst
      rw [release_idle hidle] at hy
      have hr := sameFabric_relink (freed ((s.fired f [1]).setSt f.key (.lk (held.erase (lockIdx a)) none)) (.tile f.key.tile, lockIdx a))
      have hhold := fun k => (holderOf_congr hr.locks k).trans (holderOf_freed ((s.fired f [1]).setSt f.key (.lk (held.erase (lockIdx a)) none))
        (.tile f.key.tile, lockIdx a) k)
      refine next_of hy ⟨(hhold _).trans (if_pos rfl), ?_, fun k hk => ?_, fun hwaits => ?_⟩
      · rw [show State.unit? _ f.key = _ from (congrArg (List.find? _) hr.units).trans hw.unit, Option.map_some]
        congr 2
        exact (takes_join [1] f.ins 1).trans (if_pos (by simp))
      · rw [hhold k, if_neg (show k ≠ (.tile f.key.tile, lockIdx a) from hk)]
        exact holderOf_congr (congrArg State.locks hw.rest :) k
      · have hnone : (freed ((s.fired f [1]).setSt f.key (.lk (held.erase (lockIdx a)) none)) (.tile f.key.tile, lockIdx a)).waits = [] :=
          (congrArg State.waits hw.rest :).trans hwaits
        rw [relink_idle _ hnone]
        exact hw.mem
    · rw [lkRelease_none hst ha hn, h.firing] at hy
      exact next_of hy (h.faults [1] 0x06 0x0C 0)

end Sys2Proof


/-! ### Two entries of one matrix tile (O48)

The lists of a state are not required to hold each key once, and `State.modMtile` applies an update to every entry of the
tile. `Obligations.MatrixFeeding` gives each of them the rest of the FIRST entry's path, while the model takes the head
off the path that each entry has. -/

namespace Sys2Proof.Claims
open Machine

/-- The instance whose phase runs, with folio 0 resident. -/
def twinInst : Inst := { Inst.blank with serial := 5, state := .run, active := true, folios := [(0, none)] }

/-- The mmac of tile (1, 1) of quire 0, with every latch empty. -/
def twinMmac : FabUnit :=
  ⟨⟨0, 1, 1, 2⟩, 5, 0, 1, 1, BitVec.ofNat 64 (0xB2 * 2 ^ 56), 1#32, 1, [none, none, none], [], false, [], false,
    false, false, 0, 0, 0, [], [], 0, false, [], [], .mmac 0 0 0 false false [] false⟩

/-- An entry of that tile with this path and nothing else in it. -/
def twinTile (path : List PathItem) : MTile :=
  ⟨⟨0, 1, 1⟩, 5, 0, .empty, .empty, [], [], [], .opened, false, path, [], false, false, false, false, []⟩

/-- Two entries of the tile: the first one's path holds EOS alone, the second one's two swap marks. -/
def twins : State :=
  { State.reset with insts := [twinInst], units := [twinMmac], mtiles := [twinTile [.eos], twinTile [.mark, .mark]] }

theorem twins_turn : Turn twins ⟨0, 1, 1, 2⟩ 0xB2 twinMmac := by
  refine ⟨?_, ?_, ?_, ?_, ?_, ?_, ?_, ?_⟩ <;> decide +kernel

/-- The mmac's turn leaves the second entry the rest of its own path. -/
theorem twins_mmac : ∀ t, exec (.mmac ⟨0, 1, 1, 2⟩) twins = .next t → t.mtiles.map MTile.path = [[], [.mark]] := by
  intro t h
  cases h
  decide +kernel

/-- Refutes O48: the two entries of `twins` take their paths' heads off one by one, and the statement's `with'` gives the
second entry the rest of the first one's path. -/
theorem not_matrixFeeding : ¬ Obligations.MatrixFeeding := by
  unfold Obligations.MatrixFeeding
  intro h
  obtain ⟨-, -, -, hmmac⟩ := h twins ⟨0, 1, 1, 2⟩ twinMmac (twinTile [.eos]) (by decide +kernel)
  obtain ⟨-, -, -, -, hend, -⟩ := hmmac 0 0 0 false false [] false twins_turn rfl rfl (by simp)
  obtain ⟨t, ht, hacts⟩ := hend rfl rfl rfl rfl rfl (by decide +kernel)
  have hpaths := congrArg (fun x => x.mtiles.map MTile.path) hacts.rest
  simp only [still, twins_mmac t ht] at hpaths
  exact absurd hpaths (by decide +kernel)

end Sys2Proof.Claims

namespace Sys2Proof.Machine
open Sys2Proof.Claims

/-! ### Where a token on its way to a destination goes (R26, R193, R407, R416) -/

section
variable {s t : State} {i : Inst} {serial h folio port a b : Nat} {tok : Token} {q : Handle} {p : InPort}

theorem State.inst?_serial {n : Nat} (hi : s.inst? n = some i) : i.serial = n := by simpa using List.find?_some hi

theorem State.inst?_modInst (s : State) (n : Nat) {φ : Inst → Inst} (hφ : ∀ x, (φ x).serial = x.serial) :
    (s.modInst n φ).inst? n = (s.inst? n).map φ := by
  unfold State.modInst State.inst?
  rw [find?_updWhere _ _ _ _ fun x => by rw [hφ]]
  cases hx : s.insts.find? fun x => x.serial == n with
  | none => rfl
  | some x => rw [Option.map_some, Option.map_some, if_pos (List.find?_some hx :)]

/-- The handle a word names, after an update of it. -/
theorem handle_modHandle (hi : t.inst? serial = some i) (hh : i.handles[h]? = some q) (φ : Handle → Handle) :
    (((t.modHandle serial h φ).inst? serial).bind fun j => j.handles[h]?) = some (φ q) := by
  rw [State.modHandle, State.inst?_modInst (φ := fun i => { i with handles := updAt i.handles h φ }) t serial fun _ => rfl, hi]
  exact (updAt_getElem? _ _ _ _).trans (by rw [if_pos rfl, hh]; rfl)

theorem State.port?_modPort (hp : s.port? serial folio port = some p) {φ : InPort → InPort}
    (hφ : ∀ x, (φ x).serial = x.serial ∧ (φ x).folio = x.folio ∧ (φ x).port = x.port) :
    (s.modPort serial folio port φ).port? serial folio port = some (φ p) := by
  unfold State.port? at hp
  unfold State.modPort State.port?
  rw [find?_updWhere _ _ _ _ fun x => by rw [(hφ x).1, (hφ x).2.1, (hφ x).2.2], hp, Option.map_some, if_pos (List.find?_some hp :)]

/-- The first drop sets V (R408). -/
theorem fenceDrop_valid (s : State) (p : Nat) (a : W64) : bitAt (s.fenceDrop p a).sys.mflog 46 = true := by
  have hset : ∀ w : W64, bitAt (setBitTo w 46 true) 46 = true := fun w => by
    simp [bitAt, setBitTo, setField]
  exact hset _

/-- A packet takes its router's next number; nothing of the fabric moves. -/
theorem number_frame (s : State) (p router kind : Nat) : ((s.number p router kind).2.insts = s.insts ∧ (s.number p router kind).2.mem = s.mem) ∧
    (s.number p router kind).2.ports = s.ports ∧ (s.number p router kind).2.transits = s.transits := by
  have hk : ∀ x : State, ((x.switchKey p).insts = x.insts ∧ (x.switchKey p).mem = x.mem) ∧ (x.switchKey p).ports = x.ports ∧
      (x.switchKey p).transits = x.transits := fun x => by
    unfold State.switchKey
    dsimp only
    split <;> exact ⟨⟨rfl, rfl⟩, rfl, rfl⟩
  unfold State.number
  dsimp only
  split
  · exact hk _
  · exact ⟨⟨rfl, rfl⟩, rfl, rfl⟩

/-- The sealed packet a token goes as. -/
def sealedToken (s : State) (i : Inst) (a b : Nat) (d : Dest) (tok : Token) : Transit :=
  let router := (s.part i.part).source a b
  let n := ((s.part i.part).chan router 0 (s.part i.part).gen.toNat).sent
  ⟨i.part, i.serial, router, (s.part i.part).gen.toNat, n,
    transitTag (s.part i.part).tkey (transitIv i.part router 0 (s.part i.part).gen.toNat n) tok, tok, d⟩

variable {d : Dest}

theorem sendToken_closed (ho : s.pathOpen i.part a b = false) : s.sendToken i a b d tok = some (s.fenceDrop i.part 0#64) := by
  rw [State.sendToken, ho]; rfl

section
variable (ho : s.pathOpen i.part a b = true)
include ho

theorem sendToken_full (hr : s.destRoom i d = false) : s.sendToken i a b d tok = none := by
  rw [State.sendToken, ho, hr]; rfl

variable (hr : s.destRoom i d = true)
include hr

theorem sendToken_spent (hc : (s.part i.part).crosses a b = true) (hs : (s.part i.part).spent ((s.part i.part).source a b) 0 = true) :
    s.sendToken i a b d tok = none := by
  simp only [State.sendToken, ho, hr, hc, hs, if_true, Bool.not_true, Bool.false_eq_true, if_false]

theorem sendToken_seals (hc : (s.part i.part).crosses a b = true) (hs : (s.part i.part).spent ((s.part i.part).source a b) 0 = false) :
    ∃ u : State, s.sendToken i a b d tok = some u ∧ u.insts = s.insts ∧ u.mem = s.mem ∧ u.ports = s.ports ∧
      u.transits = s.transits ++ [sealedToken s i a b d tok] := by
  obtain ⟨⟨hi, hm⟩, hp, ht⟩ := number_frame s i.part ((s.part i.part).source a b) 0
  simp only [State.sendToken, ho, hr, hc, hs, if_true, Bool.not_true, Bool.false_eq_true, if_false]
  exact ⟨_, rfl, hi, hm, hp, congrArg (· ++ [_]) ht⟩

theorem sendToken_behind (hc : (s.part i.part).crosses a b = false) (hu : s.underWay i.serial d ≠ 0) : s.sendToken i a b d tok = none := by
  simp only [State.sendToken, ho, hr, hc, Bool.not_true, Bool.false_eq_true, if_false, if_pos hu]

theorem sendToken_delivers (hc : (s.part i.part).crosses a b = false) (hu : s.underWay i.serial d = 0) :
    s.sendToken i a b d tok = some (s.deliver i.serial d tok) := by
  simp only [State.sendToken, ho, hr, hc, Bool.not_true, Bool.false_eq_true, if_false, hu, ne_eq, not_true_eq_false]

end

end

/-! ### A token enters a port (R26, R27, R33) -/

section
variable {s : State} {serial folio port : Nat} {tok : Token} {p : InPort}

theorem spill_idle (hp : s.port? serial folio port = some p) (hl : p.q.length < 64) : s.spill serial folio port tok = s := by
  unfold State.spill
  split
  next i x hi hx => rw [hp] at hx; cases hx; rw [if_pos (Or.inl hl)]
  · rfl

/-- A token spilled into a port's area changes memory and the place it is in. -/
theorem spill_frame (s : State) (serial folio port : Nat) (tok : Token) : ((s.spill serial folio port tok).insts = s.insts ∧
    (s.spill serial folio port tok).routes = s.routes) ∧ (s.port? serial folio port = some p →
    ∃ l, (s.spill serial folio port tok).port? serial folio port = some { p with places := l }) := by
  unfold State.spill
  split
  next i x hi hx =>
    dsimp only
    split
    · exact ⟨⟨rfl, rfl⟩, fun h => ⟨_, h⟩⟩
    · have hd := deviceFrame_devRecord ({ s with free := s.free + 1 } : State) i.device (i.recVA + w64 (spillBase serial + 528 *
        (fieldN i.header 192 16 * s.portRank serial folio port + x.freePlace (fieldN i.header 192 16) (Config.spillPlace s.free)))) (spillBytes tok)
      refine ⟨⟨hd.insts, hd.routes⟩, fun h => ?_⟩
      exact ⟨_, State.port?_modPort (show State.port? _ serial folio port = some p by rw [State.port?, hd.ports]; exact h) fun _ => ⟨rfl, rfl, rfl⟩⟩
  · exact ⟨⟨rfl, rfl⟩, fun h => ⟨_, h⟩⟩

/-- A port keeps what it has heard of its stream's end. -/
theorem refill_port (hp : s.port? serial folio port = some p) : ∃ x, (s.refill serial folio port).port? serial folio port = some x ∧ x.gotEos = p.gotEos := by
  unfold State.refill
  rw [hp]
  dsimp only
  split
  · split
    · exact ⟨p, hp, rfl⟩
    · split
      · exact ⟨_, State.port?_modPort hp fun _ => ⟨rfl, rfl, rfl⟩, rfl⟩
      · exact ⟨_, State.port?_modPort hp fun _ => ⟨rfl, rfl, rfl⟩, rfl⟩
  · exact ⟨p, hp, rfl⟩

theorem refill_unrouted (h : s.portRoutes serial folio port = []) : s.refill serial folio port = s := by
  unfold State.refill
  cases s.port? serial folio port with
  | none => rfl
  | some p => dsimp only; split <;> simp [h]

theorem refill_offers (hp : s.port? serial folio port = some p) (hs : p.slot.tok = none) {l : List Token} (hq : p.q = tok :: l) (hc : p.cut = false)
    (hr : s.portRoutes serial folio port ≠ []) (hin : s.inPhase serial folio = true) (hb : s.bubbleDue p.sent = false) :
    ∃ x, (s.refill serial folio port).port? serial folio port = some x ∧ x.q = l ∧ x.slot = ⟨some tok, s.portRoutes serial folio port⟩ := by
  have he : (s.portRoutes serial folio port).isEmpty = false := by simpa using hr
  unfold State.refill
  simp only [hp, hs, hq, he, hc, hin, hb, Bool.false_or, Bool.not_true, Bool.false_eq_true, if_false, Bool.and_false, Bool.false_and]
  exact ⟨_, State.port?_modPort hp fun _ => ⟨rfl, rfl, rfl⟩, rfl, rfl⟩

end

end Sys2Proof.Machine

namespace Sys2Proof.Machine
open Sys2Proof.Claims

/-! ### A push port's turn (R193) -/

section
variable {s t : State} {i : Inst} {serial h folio port : Nat} {tok : Token} {l : List Token} {q : Handle} {p : InPort}

/-- A push port may pass its oldest token on: its phase runs, and its EOS has neither come nor is on its way (R193). -/
def mayPush (s : State) (serial folio port : Nat) (p : InPort) : Prop :=
  s.inPhase serial folio = true ∧ p.gotEos = false ∧ p.cut = false ∧ ∀ x ∈ s.transits, x.serial = serial → x.dst = .port folio port → x.tok ≠ .eos

/-- A push stream whose oldest token has gone. -/
def pushed (l : List Token) (a : Handle) : Handle := { a with q := l }

theorem pushEmit_eq (hi : s.inst? serial = some i) (hh : i.handles[h]? = some q) (hb : q.bind = .push folio port) (hq : q.q = tok :: l)
    (hp : s.port? serial folio port = some p) (hm : mayPush s serial folio port p) :
    s.pushEmit serial h = ((s.sendToken i i.threadQuire (s.folioQuire serial folio) (.port folio port) tok).map
      fun u => u.modHandle serial h (pushed l)).getD s := by
  obtain ⟨hin, he, hc, ht⟩ := hm
  obtain ⟨b, _, _, _⟩ := q
  cases hb; cases hq
  have hn : (s.transits.any fun x => x.serial == serial && x.dst == .port folio port && x.tok == .eos) = false := by
    simpa [and_imp] using ht
  simp only [State.pushEmit, hi, hh, hin, hp, he, hc, hn, Option.map_some, Option.getD_some, Bool.not_false, Bool.and_self, if_true]
  cases s.sendToken i i.threadQuire (s.folioQuire serial folio) (.port folio port) tok <;> rfl

theorem pushEmit_idle (hi : s.inst? serial = some i) (hh : i.handles[h]? = some q) (hb : q.bind = .push folio port) (hq : q.q = tok :: l)
    (hp : s.port? serial folio port = some p) (hm : ¬ mayPush s serial folio port p) : s.pushEmit serial h = s := by
  obtain ⟨b, _, _, _⟩ := q
  cases hb; cases hq
  simp only [State.pushEmit, hi, hh]
  refine if_neg fun hc => hm ?_
  simpa [hp, mayPush, and_assoc, and_imp] using hc

theorem destRoom_port {d : Dest} (hi : s.inst? i.serial = some i) (hp : s.port? i.serial folio port = some p) (hd : d = .port folio port) :
    s.destRoom i d = decide (p.q.length + s.underWay i.serial d < 64 + fieldN i.header 192 16) := by
  subst hd
  simp only [State.destRoom, State.portRoom, State.portCap, hi, hp, Option.map_some, Option.getD_some]

/-- The port after the token has come to it, before it goes on to its output slot. -/
def entered (tok : Token) (n : Nat) (p : InPort) : InPort :=
  { p with q := p.q ++ [tok], stamps := p.stamps ++ [n], gotEos := p.gotEos || tok == .eos }

theorem portPut_eq (s : State) (serial folio port : Nat) (tok : Token) : s.portPut serial folio port tok =
    ((s.spill serial folio port tok).modPort serial folio port (entered tok s.cycle.toNat)).refill serial folio port := rfl

/-- What a token that enters a port leaves of the port and of the rest (R26, R27, R33). -/
theorem portPut_spec (hp : s.port? serial folio port = some p) (he : p.gotEos = false) (hc : p.cut = false) (hin : s.inPhase serial folio = true) :
    (s.portPut serial folio port tok).insts = s.insts ∧ (p.q.length < 64 → (s.portPut serial folio port tok).mem = s.mem) ∧
    ∃ x, (s.portPut serial folio port tok).port? serial folio port = some x ∧ x.gotEos = (tok == .eos) ∧
      (s.portRoutes serial folio port = [] → x.q = p.q ++ [tok] ∧ x.slot = p.slot) ∧
      (s.portRoutes serial folio port ≠ [] → p.slot.tok = none → p.q = [] → s.bubbleDue p.sent = false →
        x.q = [] ∧ x.slot = ⟨some tok, s.portRoutes serial folio port⟩) := by
  obtain ⟨⟨hi, hr⟩, hl⟩ := spill_frame (p := p) s serial folio port tok
  obtain ⟨l, hl⟩ := hl hp
  rw [portPut_eq]
  generalize s.cycle.toNat = n
  have hput := State.port?_modPort hl (φ := entered tok n) fun _ => ⟨rfl, rfl, rfl⟩
  have hrt : (((s.spill serial folio port tok).modPort serial folio port (entered tok n)).portRoutes serial folio port) = s.portRoutes serial folio port := by
    simp only [State.portRoutes, State.modPort, hr]
  obtain ⟨-, hfi, hfm, -⟩ := refill_frame ((s.spill serial folio port tok).modPort serial folio port (entered tok n)) serial folio port
  refine ⟨hfi.trans hi, fun h64 => hfm.trans (congrArg State.mem (spill_idle hp h64) :), ?_⟩
  obtain ⟨x, hx, hxe⟩ := refill_port hput
  refine ⟨x, hx, hxe.trans (by rw [entered, he]; rfl), fun h => ?_, fun h hs hq hb => ?_⟩
  · rw [refill_unrouted (hrt.trans h), hput] at hx
    cases hx
    exact ⟨rfl, rfl⟩
  · have hidle : s.spill serial folio port tok = s := spill_idle hp (by rw [hq]; decide)
    rw [hidle] at hx hrt
    have hput' := State.port?_modPort hp (φ := entered tok n) fun _ => ⟨rfl, rfl, rfl⟩
    obtain ⟨y, hy, hyq, hys⟩ := refill_offers (tok := tok) (l := []) hput' hs (by rw [entered, hq]; rfl) hc (by rwa [hrt]) hin hb
    rw [hx] at hy
    cases hy
    exact ⟨hyq, by rw [hys, hrt]⟩

end

end Sys2Proof.Machine

namespace Sys2Proof.Machine
open Sys2Proof.Claims

/-! ### The leaf's done (R48, R103, R253) -/

section
variable {s : State} {u : UKey} {f : FabUnit}

/-- An update of one unit that keeps the count of passed markers keeps it for all. -/
theorem passed_modUnit (s : State) (u v : UKey) {φ : FabUnit → FabUnit} (hk : ∀ x, (φ x).key = x.key) (hp : ∀ x, (φ x).passed = x.passed) :
    ((s.modUnit v φ).unit? u).map FabUnit.passed = (s.unit? u).map FabUnit.passed := by
  rw [State.unit?_modUnit _ _ _ _ hk, Option.map_map]
  congr 1
  funext x
  rw [Function.comp_apply]
  split
  · exact hp x
  · rfl

/-- Memory, held stores and the count of a unit's passed markers are as before. -/
structure SameCounts (u : UKey) (s t : State) : Prop where
  mem : t.mem = s.mem
  helds : t.helds = s.helds
  passed : (t.unit? u).map FabUnit.passed = (s.unit? u).map FabUnit.passed

theorem sameCounts_creditStores : ∀ (hs : List Machine.Held) (s : State), SameCounts u s (s.creditStores hs)
  | [], _ => ⟨rfl, rfl, rfl⟩
  | h :: hs, s => by
    obtain ⟨hm, hh, hp⟩ := sameCounts_creditStores hs (s.modUnit h.unitKey (credited 1))
    have hpass := hp.trans (passed_modUnit s u h.unitKey (credited_key 1) fun x => by unfold credited; split <;> rfl)
    exact ⟨hm, hh, hpass⟩

theorem sameCounts_sendDone (s : State) (f : FabUnit) : SameCounts u s (s.sendDone f) := by
  unfold State.sendDone
  cases s.parentOf f.key with
  | some p =>
    refine ⟨rfl, rfl, passed_modUnit s u p.key (fun x => ?_) fun x => ?_⟩ <;> split <;> rfl
  | none => dsimp only; split <;> exact ⟨rfl, rfl, rfl⟩

theorem foldl_put_frame {α : Type} (at' : α → Nat) (data : α → List Byte) : ∀ (l : List α) (s : State),
    (l.foldl (fun s a => s.put (at' a) (data a)) s).helds = s.helds ∧ (l.foldl (fun s a => s.put (at' a) (data a)) s).units = s.units ∧
    (l.foldl (fun s a => s.put (at' a) (data a)) s).mem = l.foldl (fun m a => memPut m (at' a) (data a)) s.mem
  | [], _ => ⟨rfl, rfl, rfl⟩
  | a :: l, s => foldl_put_frame at' data l (s.put (at' a) (data a))

theorem perform_frame (hs : List Machine.Held) (s : State) : (s.perform hs).helds = s.helds ∧ (s.perform hs).units = s.units ∧
    (s.perform hs).mem = hs.foldl (fun m h => memPut m (tileMem h.tile h.off) (stripBytes h.data)) s.mem := by
  have h := foldl_put_frame (fun h : Machine.Held => tileMem h.tile h.off) (fun h => stripBytes h.data) hs s
  unfold State.perform
  exact h

/-- The stores held for the run whose done is due. -/
def dueStores (s : State) (u : UKey) (f : FabUnit) : List Machine.Held :=
  s.helds.filter fun h => h.leaf == u && h.run == f.passed && h.serial == f.serial

/-- A unit forgets what it has drawn for a run that is over. -/
def forgets (k : Nat) (g : FabUnit) : FabUnit := { g with upds := g.upds.filter fun e => e.1 != k }

/-- The head's run is over: one done more, its index vectors forgotten. -/
def overdone (k : Nat) (f : FabUnit) : FabUnit := { f with passed := k + 1, vecs := f.vecs.filter fun v => v.run != k }

/-- The run's stores have performed, and its loads are forgotten. -/
def settledRun (s : State) (u : UKey) (f : FabUnit) : State :=
  let t := (s.perform (dueStores s u f)).creditStores (dueStores s u f)
  { t with helds := t.helds.filter fun h => !(dueStores s u f).contains h,
           units := updWhere (fun g => (t.leafSet u).contains g.key) (forgets f.passed) t.units }

/-- The marker of the oldest run has passed the head and every sink, and no unit of the leaf has faulted in it or before. -/
def leafPassed (s : State) (u : UKey) (f : FabUnit) : Prop :=
  f.markSent f.passed = true ∧ (∀ x ∈ s.leafSinks u, x ≠ u → ∃ g, s.unit? x = some g ∧ f.passed < g.passed) ∧
    ∀ x ∈ s.leafSet u, x ≠ u → ∀ g, s.unit? x = some g → g.dead = true → f.passed < g.passed

theorem leafDone_passed (hu : s.unit? u = some f) (hh : f.isHead = true) (hl : f.halted = false) (hp : leafPassed s u f) :
    s.leafDone u = ((settledRun s u f).modUnit u (overdone f.passed)).sendDone f := by
  obtain ⟨hm, hsinks, hset⟩ := hp
  have h1 : ((s.leafSinks u).all fun x => x == u || ((s.unit? x).map fun g => decide (f.passed < g.passed)).getD false) = true :=
    List.all_eq_true.mpr fun x hx => by
      by_cases hxu : x = u
      · simp [hxu]
      · obtain ⟨g, hg, hlt⟩ := hsinks x hx hxu
        simp [hg, hlt]
  have h2 : ((s.leafSet u).all fun x => x == u || !((s.unit? x).map fun g => g.dead && decide (g.passed ≤ f.passed)).getD false) = true :=
    List.all_eq_true.mpr fun x hx => by
      by_cases hxu : x = u
      · simp [hxu]
      · cases hg : s.unit? x with
        | none => simp
        | some g =>
          cases hd : g.dead with
          | false => simp [hd]
          | true => simpa [hd] using Or.inr (hset x hx hxu g hg hd)
  unfold State.leafDone
  rw [hu]
  dsimp only
  rw [if_pos (by rw [hh, hl, hm, h1, h2]; rfl)]
  rfl

theorem leafDone_waits (hu : s.unit? u = some f) (hp : ¬ leafPassed s u f) : s.leafDone u = s := by
  unfold State.leafDone
  rw [hu]
  refine if_neg fun hc => hp ?_
  simp only [Bool.and_eq_true, List.all_eq_true, Bool.or_eq_true, beq_iff_eq] at hc
  obtain ⟨⟨⟨-, hm⟩, hsinks⟩, hset⟩ := hc
  refine ⟨hm, fun x hx hxu => ?_, fun x hx hxu g hg hd => ?_⟩
  · have := (hsinks x hx).resolve_left hxu
    cases hg : s.unit? x with
    | none => simp [hg] at this
    | some g => exact ⟨g, rfl, by simpa [hg] using this⟩
  · have := (hset x hx).resolve_left hxu
    simpa [hg, hd] using this

theorem unit?_updWhere_passed (s : State) (set : List UKey) (u : UKey) (k : Nat) :
    ((updWhere (fun g : FabUnit => set.contains g.key) (forgets k) s.units).find?
      fun g => g.key == u).map FabUnit.passed = (s.unit? u).map FabUnit.passed := by
  rw [find?_updWhere _ _ (forgets k) _ fun x => rfl, Option.map_map]
  congr 1
  funext x
  simp only [Function.comp_apply]
  split <;> rfl

/-- The done: the run's stores perform and are no longer held, and the head counts one more (R48, R103). -/
theorem leafDone_spec (hu : s.unit? u = some f) (hh : f.isHead = true) (hl : f.halted = false) (hp : leafPassed s u f) :
    (s.leafDone u).mem = (dueStores s u f).foldl (fun m h => memPut m (tileMem h.tile h.off) (stripBytes h.data)) s.mem ∧
    (s.leafDone u).helds = s.helds.filter (fun h => !(h.leaf == u && h.run == f.passed && h.serial == f.serial)) ∧
    ((s.leafDone u).unit? u).map FabUnit.passed = some (f.passed + 1) := by
  obtain ⟨hph, hpu, hpm⟩ := perform_frame (dueStores s u f) s
  obtain ⟨hcm, hch, hcp⟩ := sameCounts_creditStores (u := u) (dueStores s u f) (s.perform (dueStores s u f))
  obtain ⟨hsm, hsh, hsp⟩ := sameCounts_sendDone (u := u) ((settledRun s u f).modUnit u (overdone f.passed)) f
  rw [leafDone_passed hu hh hl hp]
  refine ⟨hsm.trans (hcm.trans hpm), hsh.trans ?_, hsp.trans ?_⟩
  · refine (congrArg (List.filter fun h => !(dueStores s u f).contains h) (hch.trans hph)).trans (List.filter_congr fun h hm => ?_)
    rw [dueStores, Bool.not_inj_iff, Bool.eq_iff_iff, List.contains_iff_mem, List.mem_filter]
    exact and_iff_right hm
  · have hset : ((settledRun s u f).unit? u).map FabUnit.passed = some f.passed := by
      refine (unit?_updWhere_passed _ _ u f.passed).trans (hcp.trans ?_)
      rw [State.unit?, hpu, show s.units.find? _ = some f from hu]; rfl
    obtain ⟨x, hx, -⟩ := Option.map_eq_some_iff.mp hset
    rw [State.unit?_modUnit _ _ _ (overdone f.passed) fun _ => rfl, hx, Option.map_some, if_pos rfl]
    rfl

end

end Sys2Proof.Machine

namespace Sys2Proof.Machine
open Sys2Proof.Claims

/-! ### The end of a phase (R25) -/

section
variable {s : State} {i : Inst}

theorem popsEnded_iff (i : Inst) : i.popsEnded = true ↔
    ∀ h ∈ i.handles, ∀ folio port, h.bind = .pop folio port → (∃ p ∈ i.folios, p.1 = folio) → h.eosNow = true := by
  rw [Inst.popsEnded, List.all_eq_true]
  refine forall₂_congr fun h _ => ?_
  cases hb : h.bind with
  | pop folio port =>
    refine ⟨fun hx a b hab ha => ?_, fun hx => ?_⟩
    · cases hab
      rcases Bool.or_eq_true_iff.mp hx with he | hn
      · exact he
      · obtain ⟨p, hp, rfl⟩ := ha
        simp only [Bool.not_eq_true', List.any_eq_false] at hn
        exact absurd (beq_self_eq_true _) (hn p hp)
    · cases he : h.eosNow with
      | true => rfl
      | false =>
        refine Bool.or_eq_true_iff.mpr (.inr ?_)
        rw [Bool.not_eq_true', List.any_eq_false]
        intro p hp hpf
        exact absurd (hx folio port rfl ⟨p, hp, beq_iff_eq.mp hpf⟩) (by rw [he]; exact Bool.false_ne_true)
  | _ => exact ⟨fun _ _ _ hab => by simp at hab, fun _ => rfl⟩

theorem folioEnded_iff (s : State) (serial folio : Nat) : s.folioEnded serial folio = true ↔
    ∀ f ∈ s.units, f.serial = serial → f.folio = folio → f.dead = false ∧ (s.isSink f = true → f.ended = true) := by
  rw [State.folioEnded, List.all_eq_true]
  refine forall₂_congr fun f _ => ?_
  cases f.dead <;> cases s.isSink f <;> simp [imp_iff_not_or, or_assoc]

/-- The four conditions of R25, said of the lists. -/
theorem phaseOver_iff (ha : i.active = true) : s.phaseOver i = true ↔ i.rootDone = true ∧ i.popsEnded = true ∧
    (∀ p ∈ i.folios, if (s.resident? i.serial p.1).isSome then s.folioEnded i.serial p.1 = true else p.1 ∈ i.endedFolios) ∧
    (∀ h ∈ s.helds, h.serial ≠ i.serial) ∧ ∀ h ∈ i.handles, ∀ r ∈ h.reqs, r.inPhase = true → r.resp ≠ none := by
  have hf : (i.folios.all fun p => if (s.resident? i.serial p.1).isSome then s.folioEnded i.serial p.1 else i.endedFolios.contains p.1) = true ↔
      ∀ p ∈ i.folios, if (s.resident? i.serial p.1).isSome then s.folioEnded i.serial p.1 = true else p.1 ∈ i.endedFolios := by
    rw [List.all_eq_true]
    refine forall₂_congr fun p _ => ?_
    split
    · exact Iff.rfl
    · exact List.contains_iff_mem
  have hh : (!(s.helds.any fun h => h.serial == i.serial)) = true ↔ ∀ h ∈ s.helds, h.serial ≠ i.serial := by
    simp
  have hr : (i.handles.all fun h => h.reqs.all fun r => !r.inPhase || r.resp.isSome) = true ↔
      ∀ h ∈ i.handles, ∀ r ∈ h.reqs, r.inPhase = true → r.resp ≠ none := by
    simp only [List.all_eq_true, Bool.or_eq_true, Bool.not_eq_true', Option.isSome_iff_ne_none]
    refine forall₂_congr fun h _ => forall₂_congr fun r _ => ?_
    cases r.inPhase <;> simp
  unfold State.phaseOver
  rw [Bool.and_eq_true, Bool.and_eq_true, Bool.and_eq_true, Bool.and_eq_true, Bool.and_eq_true, hf, hh, hr, ha]
  simp only [true_and, and_assoc]

theorem phaseEnd_over {serial : Nat} (hi : s.inst? serial = some i) (ho : s.phaseOver i = true) :
    s.phaseEnd serial = s.modInst serial fun i => { i with active := false } := by
  rw [State.phaseEnd, hi]
  exact if_pos ho

theorem phaseEnd_waits {serial : Nat} (hi : s.inst? serial = some i) (ho : ¬ s.phaseOver i = true) : s.phaseEnd serial = s := by
  rw [State.phaseEnd, hi]
  exact if_neg ho

end

end Sys2Proof.Machine

namespace Sys2Proof
open Sys2Proof.Machine Sys2Proof.Claims

/-- Settles O50: the push port by where its token goes, the done by the marker, the end by R25's conditions. -/
theorem phasesAndLeaves : Obligations.PhasesAndLeaves := by
  unfold Obligations.PhasesAndLeaves
  refine ⟨?_, fun s u f hu hh hl => ?_, fun s serial i hi ha => ?_⟩
  · intro s serial h i q folio port tok l p hi hh hb hq hp emits away opens room crosses takes seals drops taken
    have hser : i.serial = serial := State.inst?_serial hi
    have hroom : s.destRoom i (.port folio port) = true ↔ room := by
      rw [destRoom_port (i := i) (by rwa [hser]) (by rw [hser]; exact hp) rfl, hser, decide_eq_true_iff]
    have htaken : ∀ t : State, t.insts = s.insts → taken (t.modHandle serial h (pushed l)) := fun t ht =>
      handle_modHandle (show State.inst? t serial = some i by rw [State.inst?, ht]; exact hi) hh (pushed l)
    have hexec : exec (.pushPortEmit serial h) s = .next (s.pushEmit serial h) := rfl
    have hsend (hm : emits) := pushEmit_eq hi hh hb hq hp hm
    refine ⟨fun hnt hns hnd => ?_, fun ⟨hm, ho⟩ => ?_, fun ⟨hm, ho, hr, hc, hs⟩ => ?_, fun ⟨hm, ho, hr, hc, hw⟩ => ?_⟩
    · rw [hexec]
      by_cases hm : emits
      · have ho : opens := by_contra fun ho => hnd ⟨hm, ho⟩
        rw [hsend hm]
        have hnone : s.sendToken i i.threadQuire (s.folioQuire serial folio) (.port folio port) tok = none := by
          cases hd : s.destRoom i (.port folio port) with
          | false => exact sendToken_full ho hd
          | true =>
            by_cases hc : crosses
            · exact sendToken_spent ho hd hc ((Bool.not_eq_false _).mp fun hs => hns ⟨hm, ho, hroom.mp hd, hc, hs⟩)
            · exact sendToken_behind ho hd ((Bool.not_eq_true _).mp hc) fun hw => hnt ⟨hm, ho, hroom.mp hd, hc, hser ▸ hw⟩
        rw [hnone]; rfl
      · rw [pushEmit_idle hi hh hb hq hp hm]
    · refine next_of hexec ?_
      rw [hsend hm, sendToken_closed ((Bool.not_eq_true _).mp ho)]
      exact ⟨htaken _ rfl, rfl, rfl, fenceDrop_valid s _ _⟩
    · obtain ⟨u, hu, hui, hum, hup, hut⟩ := sendToken_seals (tok := tok) ho (hroom.mpr hr) hc hs
      refine next_of hexec ?_
      rw [hsend hm, hu]
      exact ⟨htaken u hui, hum, hup, _, hut, rfl, rfl, rfl, hser, rfl, rfl⟩
    · obtain ⟨hin, he, hcut, heos⟩ := hm
      obtain ⟨hpi, hpm, hpp⟩ := portPut_spec (tok := tok) hp he hcut hin
      refine next_of hexec ?_
      rw [hsend ⟨hin, he, hcut, heos⟩, sendToken_delivers ho (hroom.mpr hr) ((Bool.not_eq_true _).mp hc) (hser.symm ▸ hw), hser]
      exact ⟨htaken _ hpi, hpm, hpp⟩
  · exact ⟨fun hp => next_of rfl (leafDone_spec hu hh hl hp), fun hp => congrArg Host.Outcome.next (leafDone_waits hu hp)⟩
  · obtain rfl := State.inst?_serial hi
    intro done
    have hdone : s.phaseOver i = true ↔ done := by
      simp only [phaseOver_iff ha, popsEnded_iff, folioEnded_iff]
      exact Iff.rfl
    refine ⟨fun h => next_of rfl ?_, fun h => congrArg Host.Outcome.next (phaseEnd_waits hi fun ho => h (hdone.mp ho))⟩
    rw [phaseEnd_over hi (hdone.mpr h)]
    exact ⟨(State.inst?_modInst (φ := fun i => { i with active := false }) s _ fun _ => rfl).trans (by rw [hi]; rfl), rfl⟩

end Sys2Proof

namespace Sys2Proof.Machine
open Sys2Proof.Claims

/-! ### What a phase's start leaves of the threads (R29, R197, R385) -/

/-- The identity of an instance and of its phase, and its thread with its context. -/
def Inst.tag (i : Inst) : (Nat × Option Nat × Ctx) × Nat × Bool := ((i.serial, i.hw, i.ctx), i.phaseNo, i.started)

/-- The same threads with the same contexts, and the same instances but for what a phase or a fault changes of them. -/
structure SameThreads (s t : State) : Prop where
  cur : t.cur = s.cur
  sups : t.sups = s.sups
  cores : t.cores = s.cores
  tags : t.insts.map Inst.tag = s.insts.map Inst.tag

section
variable {s t u : State}

theorem SameThreads.refl (s : State) : SameThreads s s := ⟨rfl, rfl, rfl, rfl⟩

theorem SameThreads.trans (h : SameThreads s t) (k : SameThreads t u) : SameThreads s u :=
  ⟨k.cur.trans h.cur, k.sups.trans h.sups, k.cores.trans h.cores, k.tags.trans h.tags⟩

theorem SameThreads.modInst (h : SameThreads s t) (n : Nat) {φ : Inst → Inst} (hφ : ∀ i, (φ i).tag = i.tag) : SameThreads s (t.modInst n φ) :=
  h.trans ⟨rfl, rfl, rfl, map_updWhere _ _ _ _ hφ⟩

theorem SameThreads.instOn (h : SameThreads s t) (n : Nat) : (t.instOn n).map Inst.tag = (s.instOn n).map Inst.tag := by
  have hm : ∀ l : List Inst, (l.find? fun i => i.hw == some n).map Inst.tag = (l.map Inst.tag).find? fun x => x.1.2.1 == some n := fun l => by
    rw [List.find?_map]; rfl
  rw [State.instOn, State.instOn, hm, hm, h.tags]

theorem SameThreads.ctxOf (h : SameThreads s t) (k : Hart) : t.ctxOf k = s.ctxOf k := by
  have hs : ∀ j, t.sup j = s.sup j := fun j => by simp only [State.sup, h.sups]
  have hc : ∀ j, t.tcore j = s.tcore j := fun j => by simp only [State.tcore, h.cores]
  have hi : ∀ n, (t.instOn n).map Inst.ctx = (s.instOn n).map Inst.ctx := fun n => by
    have hc := congrArg (Option.map fun x => x.1.2.2) (h.instOn n)
    rw [Option.map_map, Option.map_map] at hc
    exact hc
  cases k with
  | ctl n => simp only [State.ctxOf, hs, hi]
  | trearo j => simp only [State.ctxOf, hc]

theorem SameThreads.ctx? (h : SameThreads s t) : t.ctx? = s.ctx? := by rw [State.ctx?, State.ctx?, h.cur, h.ctxOf]

theorem SameThreads.threaded (h : SameThreads s t) (hs : s.threaded) : t.threaded :=
  State.threaded_of_ctx? hs h.cur (congrArg List.length h.cores) h.ctx?

theorem DeviceFrame.sameThreads (h : DeviceFrame s t) : SameThreads s t := ⟨h.cur, h.sups, h.cores, by rw [h.insts]⟩

theorem sameThreads_foldl {α : Type} (F : State → α → State) (hF : ∀ t a, SameThreads t (F t a)) : ∀ (l : List α) (s : State), SameThreads s (l.foldl F s)
  | [], s => .refl s
  | a :: l, s => (hF s a).trans (sameThreads_foldl F hF l (F s a))

theorem sameThreads_instFault (s : State) (serial q : Nat) (r : FaultRec) : SameThreads s (s.instFault serial q r) := by
  unfold State.instFault
  dsimp only
  split
  · exact ⟨rfl, rfl, rfl, rfl⟩
  · refine SameThreads.modInst ?_ serial ?_
    · exact ⟨rfl, rfl, rfl, rfl⟩
    · exact fun _ => rfl

theorem deviceFrame_writeArea (s : State) (i : Inst) (folio : Nat) : DeviceFrame s (s.writeArea i folio).2 := by
  unfold State.writeArea
  exact .trans (t := { s with free := s.free + 1 }) ⟨⟨rfl, rfl, rfl, rfl, rfl, rfl, rfl, rfl, rfl⟩, rfl, rfl, rfl, rfl⟩ (deviceFrame_devWriteGo _ _ _ _ _ _)

theorem sameThreads_evict (s : State) (r : Resident) : SameThreads s (s.evict r).2 := by
  unfold State.evict
  cases s.inst? r.serial with
  | none => exact .refl s
  | some i =>
    have hw := (deviceFrame_writeArea s i r.folio).sameThreads
    dsimp only
    split
    next he => rw [he] at hw; exact hw
    next he =>
      rw [he] at hw
      refine SameThreads.modInst ?_ r.serial ?_
      · exact SameThreads.trans hw ⟨rfl, rfl, rfl, rfl⟩
      · exact fun _ => rfl

theorem sameThreads_evicted (s : State) (r : Resident) : SameThreads s (s.evicted r) := by
  have he := sameThreads_evict s r
  unfold State.evicted
  split
  next h => rw [h] at he; exact he.trans (sameThreads_instFault _ _ _ _)
  next h => rw [h] at he; exact he

end

/-! ### The start of a phase (R25, R47, R197) -/

/-- An instance whose phase starts with these folios. -/
def phaseStarted (folios : List (Nat × Option Nat)) (i : Inst) : Inst :=
  { i with phaseNo := if i.started then i.phaseNo + 1 else 0, started := true, active := true, folios := folios, named := [],
           rootDone := false, endedFolios := [], handles := i.handles.map fun h => { h with eosNow := false } }

/-- What the rest of a phase's start leaves: instances and banks. -/
structure SameInsts (s t : State) : Prop where
  insts : t.insts = s.insts
  cur : t.cur = s.cur
  sups : t.sups = s.sups
  cores : t.cores = s.cores

theorem SameInsts.trans {s t u : State} (h : SameInsts s t) (k : SameInsts t u) : SameInsts s u :=
  ⟨k.insts.trans h.insts, k.cur.trans h.cur, k.sups.trans h.sups, k.cores.trans h.cores⟩

theorem SameInsts.sameThreads {s t : State} (h : SameInsts s t) : SameThreads s t := ⟨h.cur, h.sups, h.cores, by rw [h.insts]⟩

theorem sameInsts_foldl {α : Type} (F : State → α → State) (hF : ∀ t a, SameInsts t (F t a)) : ∀ (l : List α) (s : State), SameInsts s (l.foldl F s)
  | [], _ => ⟨rfl, rfl, rfl, rfl⟩
  | a :: l, s => (hF s a).trans (sameInsts_foldl F hF l (F s a))

theorem sameInsts_addConf (s : State) (r : Resident) : SameInsts s (s.addConf r) := by
  refine sameInsts_foldl _ (fun t p => ?_) _ s
  dsimp only
  split
  · exact ⟨rfl, rfl, rfl, rfl⟩
  · split <;> exact ⟨rfl, rfl, rfl, rfl⟩

theorem sameInsts_goFolio (s : State) (serial folio : Nat) (pin : Option Nat) : SameInsts s (s.goFolio serial folio pin) := by
  unfold State.goFolio
  split
  · split
    · split
      · exact ⟨rfl, rfl, rfl, rfl⟩
      · exact .trans (t := ({ s with residents := _ } : State).startFolio serial folio) ⟨rfl, rfl, rfl, rfl⟩ (sameInsts_addConf _ _)
    · exact .trans (t := ({ s with residents := _ } : State).startFolio serial folio) ⟨rfl, rfl, rfl, rfl⟩ (sameInsts_addConf _ _)
  · exact ⟨rfl, rfl, rfl, rfl⟩

theorem sameInsts_refill (s : State) (serial folio port : Nat) : SameInsts s (s.refill serial folio port) := by
  unfold State.refill
  split
  · exact ⟨rfl, rfl, rfl, rfl⟩
  · dsimp only
    split
    · split
      · exact ⟨rfl, rfl, rfl, rfl⟩
      · split <;> exact ⟨rfl, rfl, rfl, rfl⟩
    · exact ⟨rfl, rfl, rfl, rfl⟩

/-- The folios of the phase that a named set starts, each with its pin (R292). -/
def phaseFolios (i : Inst) : List (Nat × Option Nat) := i.named.map fun p => (p.1, (i.bindPin p.1).orElse fun _ => p.2)

/-- The folios that stand elsewhere than their pins say have left. -/
def unpinned (s : State) (i : Inst) : State :=
  (phaseFolios i).foldl (fun (s : State) p =>
    match s.resident? i.serial p.1, p.2 with
    | some r, some k => if i.region[k]? ≠ some (r.q, r.base) then s.evicted r else s
    | _, _ => s) s

/-- What a phase's start clears of the instance's tokens, configurations, ports and pipelines. -/
def cleared (serial : Nat) (s : State) : State :=
  { s with bankToks := s.bankToks.filter fun b => b.serial != serial,
           confs := s.confs.filter fun c => c.serial != serial,
           ports := updWhere (fun p => p.serial == serial) (fun p => { p with gotEos := false, sent := 0 }) s.ports,
           attns := updWhere (fun a => a.serial == serial) Attn.phaseStart s.attns }

/-- The instance's resident folios go. -/
def folioStarts (serial : Nat) (l : List (Nat × Option Nat)) (s : State) : State := l.foldl (fun s p => s.goFolio serial p.1 p.2) s

theorem startPhase_eq (s : State) (i : Inst) : s.startPhase i =
    let t := folioStarts i.serial (phaseFolios i) (cleared i.serial ((unpinned s i).modInst i.serial (phaseStarted (phaseFolios i))))
    (t.ports.filter fun p => p.serial == i.serial).foldl (fun s p => s.refill i.serial p.folio p.port) t := rfl

theorem sameThreads_unpinned (s : State) (i : Inst) : SameThreads s (unpinned s i) := by
  refine sameThreads_foldl _ (fun t p => ?_) _ s
  split
  · split
    · exact sameThreads_evicted _ _
    · exact .refl t
  · exact .refl t

/-- A phase starts: the instance is the one whose phase has started, and nothing after that touches it. -/
theorem sameInsts_startPhase (s : State) (i : Inst) :
    SameInsts ((unpinned s i).modInst i.serial (phaseStarted (phaseFolios i))) (s.startPhase i) := by
  have hgo (t : State) : SameInsts t (folioStarts i.serial (phaseFolios i) t) :=
    sameInsts_foldl _ (fun t (p : Nat × Option Nat) => sameInsts_goFolio t i.serial p.1 p.2) _ t
  have hclear (t : State) : SameInsts t (cleared i.serial t) := ⟨rfl, rfl, rfl, rfl⟩
  rw [startPhase_eq]
  exact ((hclear _).trans (hgo _)).trans (sameInsts_foldl _ (fun t (p : InPort) => sameInsts_refill t i.serial p.folio p.port) _ _)

end Sys2Proof.Machine

namespace Sys2Proof.Claims
open Sys2Proof.Machine

/-! ### Words that write a predicate, or only go on -/

/-- A word that writes pd and goes on. -/
theorem writesPred_pw {s : State} (h : s.threaded) (p : BitVec 3) (b : Bool) : WritesPred s p b ((s.pw p b).retire .next) := by
  obtain ⟨c, hc⟩ := Option.isSome_iff_exists.mp (State.isSome_ctx? h)
  have hx : ((s.pw p b).retire .next).ctx? = some ((c.pw p b).at ((c.pw p b).pc + 4#64)) := by
    rw [State.pw, State.ctx?_retire_modCtx h, hc]; rfl
  have hpr : ∀ (x : Ctx) (w : W64) (k : BitVec 3), (x.at w).pr k = x.pr k := fun _ _ _ => rfl
  have hrd : ∀ (x : Ctx) (w : W64) (r : BitVec 5), (x.at w).rd r = x.rd r := fun _ _ _ => rfl
  refine { kept_modCtx s fun c => c.pw p b with value := ?_, preds := ?_, regs := ?_, pc := ?_ }
  · simp only [State.pr, hx, Option.map_some, Option.getD_some, hpr, Ctx.pr_pw, if_true]
  · intro k hk
    simp only [State.pr, hx, hc, Option.map_some, Option.getD_some, hpr, Ctx.pr_pw, if_neg hk]
    by_cases h0 : k = 0#3
    · simp [h0, Ctx.pr]
    · simp [h0]
  · intro r
    simp only [State.rd, hx, hc, Option.map_some, Option.getD_some, hrd, Ctx.rd_pw]
  · simp only [State.pc, hx, hc, Option.map_some, Option.getD_some, Ctx.pc_pw]; rfl

/-- A word that completes and does nothing else. -/
theorem goes_retire {s : State} (h : s.threaded) : Goes s (s.pc + 4#64) (s.retire .next) := by
  obtain ⟨hr, hp, hpc⟩ := advanced_retire h h rfl
  exact { others := fun _ hh => s.ctxOf_retire .next _ hh, rest := congrArg noMem (blank_retire s .next), memory := fun a => by rw [State.retire_mem], regs := hr, preds := hp, pc := hpc }

/-- A state whose contexts are those of s reads as s does. -/
theorem reads_of_ctx? {s t : State} (h : t.ctx? = s.ctx?) : (∀ r, t.rd r = s.rd r) ∧ (∀ k, t.pr k = s.pr k) ∧ t.pc = s.pc :=
  ⟨fun r => by rw [State.rd, State.rd, h], fun k => by rw [State.pr, State.pr, h], by rw [State.pc, State.pc, h]⟩

end Sys2Proof.Claims

namespace Sys2Proof.Machine
open Sys2Proof.Claims

/-! ### sbound, cfg, go and drain by case (R195 to R198) -/

section
variable {s : State} {n : Nat} {i : Inst}

theorem me_of_ctl (hc : s.cur = .ctl n) (hi : s.instOn n = some i) : s.me = some i := by rw [State.me, hc]; exact hi

theorem SameThreads.ofModInst (s : State) (k : Nat) (φ : Inst → Inst) (hφ : ∀ i, (φ i).tag = i.tag) : SameThreads s (s.modInst k φ) :=
  (SameThreads.refl s).modInst k hφ

theorem sameThreads_modUnit (s : State) (u : UKey) (φ : FabUnit → FabUnit) : SameThreads s (s.modUnit u φ) := ⟨rfl, rfl, rfl, rfl⟩

theorem instOn_modInst_self (hi : s.instOn n = some i) (φ : Inst → Inst) (hφ : ∀ i, (φ i).hw = i.hw) :
    (s.modInst i.serial φ).instOn n = some (φ i) := by
  rw [State.instOn_modInst _ _ _ _ hφ, hi, Option.map_some, if_pos (beq_self_eq_true _)]

/-- What an instance shows of itself beside its context, stall and progress outlives the completion of its word. -/
theorem map_instOn_done {α : Type} (p : Inst → α) (s : State) (f : Ctx → Ctx) (fl : Flow) (k : Nat) (hr : ∀ i, p (Inst.resume i) = p i)
    (hv : ∀ v i, p (Inst.progressed v i) = p i) (hc : ∀ f i, p (Inst.mapCtx f i) = p i) :
    (((s.modCtx f).retire fl).instOn k).map p = (s.instOn k).map p := by
  rw [State.map_instOn_retire p _ hr hv hc, State.map_instOn_modCtx p _ _ (hc _)]

section
variable {a b : W64} {p : BitVec 3} (hm : s.me = some i) (hf : s.fencedIn = false)
include hm hf

theorem boundBody_refused (ho : s.boundOk i a b = false) : boundBody a b p s = .ok .next (s.pw p false) := by
  simp only [boundBody, hm, hf, ho, Bool.false_eq_true, if_false, Bool.not_false, if_true]

/-- The bound waits with the folio. -/
def boundWaiting (r : CtrRef) (n : W32) (i : Inst) : Inst := { i with boundWaits := i.boundWaits ++ [⟨r.folio, r.x, r.y, r.slot, r.level, n⟩] }

omit hm hf in
/-- Where an accepted bound goes (R195). -/
def bounded (s : State) (i : Inst) (r : CtrRef) (n : W32) : State :=
  match s.ctrUnit i.serial r with
  | some f => s.modUnit f.key fun f => f.pushBound r.level n
  | none => s.modInst i.serial (boundWaiting r n)

theorem boundBody_accepted (ho : s.boundOk i a b = true) (hn : s.boundCount i (ctrRef a) < 4) :
    boundBody a b p s = .ok .next ((bounded s i (ctrRef a) (b.extractLsb' 0 32)).pw p true) := by
  simp only [boundBody, hm, hf, ho, Bool.false_eq_true, if_false, Bool.not_true, if_neg (Nat.not_le.mpr hn), bounded]
  cases s.ctrUnit i.serial (ctrRef a) <;> rfl

end

theorem sameThreads_bounded (s : State) (i : Inst) (r : CtrRef) (n : W32) : SameThreads s (bounded s i r n) := by
  unfold bounded
  cases s.ctrUnit i.serial r with
  | some f => exact sameThreads_modUnit s _ _
  | none => exact .ofModInst s _ _ fun _ => rfl

theorem name_hw (i : Inst) (folio : Nat) (pin : Option Nat) : (i.name folio pin).hw = i.hw := by unfold Inst.name; split <;> rfl
theorem name_tag (i : Inst) (folio : Nat) (pin : Option Nat) : (i.name folio pin).tag = i.tag := by unfold Inst.name; split <;> rfl
theorem name_named (i : Inst) (folio : Nat) (pin : Option Nat) : (i.name folio pin).named =
    if i.named.any (fun x => x.1 == folio) then i.named else i.named ++ [(folio, pin)] := by unfold Inst.name; split <;> rfl

section
variable {folio : Nat} (hm : s.me = some i)
include hm

theorem cfgBody_absent (hn : i.nfolio ≤ folio) : cfgBody folio s = .trap (trapOf 0x06 0x02) s := by
  simp only [cfgBody, hm, if_pos hn]

theorem cfgBody_names (hn : folio < i.nfolio) (hf : s.fencedIn = false) : cfgBody folio s = .ok .next (s.modInst i.serial fun i => i.name folio none) := by
  simp only [cfgBody, hm, if_neg (Nat.not_le.mpr hn), hf, Bool.false_eq_true, if_false]

theorem cfgPinBody_names {v : W64} {f : Folio} (hn : folio < i.nfolio) (hf : s.fencedIn = false) (hr : s.folio i folio = .ok f)
    (hl : legalSlot i.region f.shape v.toNat = true) :
    cfgPinBody v folio s = .ok .next (s.modInst i.serial fun i => i.name folio (some v.toNat)) := by
  simp only [cfgPinBody, hm, if_neg (Nat.not_le.mpr hn), hr, hl, hf, Bool.not_true, Bool.false_eq_true, if_false]

theorem cfgPinBody_illegal {v : W64} {f : Folio} (hn : folio < i.nfolio) (hr : s.folio i folio = .ok f)
    (hl : legalSlot i.region f.shape v.toNat = false) : cfgPinBody v folio s = .trap (trapOf 0x06 0x03) s := by
  simp only [cfgPinBody, hm, if_neg (Nat.not_le.mpr hn), hr, hl, Bool.not_false, if_true]

variable {d : BitVec 5}

theorem goBody_running (ha : i.active = true) : goBody d s = .wait (some i.phaseWait) s := by
  simp only [goBody, hm, ha, if_true]

/-- A named set that is discarded (R197). -/
def discarded (i : Inst) : Inst := { i with named := [] }

theorem goBody_refused (ha : i.active = false) (hg : s.goStatus i ≠ 0) :
    goBody d s = .ok .next ((s.modInst i.serial discarded).wr d (w64 (s.goStatus i))) := by
  simp only [goBody, hm, ha, Bool.false_eq_true, if_false, if_neg hg]
  rfl

theorem goBody_starts (ha : i.active = false) (hg : s.goStatus i = 0) (hp : s.postedLeft none = false) :
    goBody d s = .ok .next ((s.startPhase i).wr d 0#64) := by
  simp only [goBody, hm, ha, Bool.false_eq_true, if_false, hg, if_true, State.inOrder, hp]
  rfl

end

end

end Sys2Proof.Machine

namespace Sys2Proof.Machine
open Sys2Proof.Claims

/-! ### What each word leaves (R195 to R198) -/

section
variable {s : State} {n : Nat} {i : Inst}

/-- A word that names a folio and goes on. -/
theorem names_folio (ht : s.threaded) (hi : s.instOn n = some i) (folio : Nat) (pin : Option Nat) :
    (((s.modInst i.serial fun i => i.name folio pin).retire .next).pc = s.pc + 4#64) ∧
    (∀ r, ((s.modInst i.serial fun i => i.name folio pin).retire .next).rd r = s.rd r) ∧
    (((s.modInst i.serial fun i => i.name folio pin).retire .next).instOn n).map Inst.named =
      some (if i.named.any (fun x => x.1 == folio) then i.named else i.named ++ [(folio, pin)]) := by
  have hs := SameThreads.ofModInst s i.serial (fun i => i.name folio pin) fun i => name_tag i folio pin
  obtain ⟨hr, -, hpc⟩ := advanced_retire ht (hs.threaded ht) hs.ctx?
  refine ⟨hpc, hr, ?_⟩
  rw [State.map_instOn_retire Inst.named _ (fun _ => rfl) (fun _ _ => rfl) fun _ _ => rfl,
    instOn_modInst_self hi (fun i => i.name folio pin) fun i => name_hw i folio pin, Option.map_some, name_named]

/-- A bound that is accepted: pd is 1, and it waits with its folio or enters its counter's queue. -/
theorem accepts_bound (ht : s.threaded) (hi : s.instOn n = some i) (r : CtrRef) (v : W32) (p : BitVec 3) :
    let t := ((bounded s i r v).pw p true).retire .next
    t.pr p = true ∧ t.pc = s.pc + 4#64 ∧ (∀ x, t.rd x = s.rd x) ∧
      (∀ f, s.ctrUnit i.serial r = some f → t.units = updWhere (fun x => x.key == f.key) (fun x => x.pushBound r.level v) s.units) ∧
      (s.ctrUnit i.serial r = none → t.units = s.units ∧
        (t.instOn n).map Inst.boundWaits = some (i.boundWaits ++ [⟨r.folio, r.x, r.y, r.slot, r.level, v⟩])) := by
  have hs := sameThreads_bounded s i r v
  obtain ⟨hrd, -, hpc⟩ := reads_of_ctx? hs.ctx?
  have hw := writesPred_pw (hs.threaded ht) p true
  have hunits : (((bounded s i r v).pw p true).retire .next).units = (bounded s i r v).units :=
    (State.retire_units _ _).trans (State.modCtx_units _ _)
  refine ⟨hw.value.trans (by split <;> rfl), hw.pc.trans (by rw [hpc]), fun x => (hw.regs x).trans (hrd x), fun f hf => ?_, fun hn => ⟨?_, ?_⟩⟩
  · rw [hunits, bounded, hf]; rfl
  · rw [hunits, bounded, hn]; rfl
  · rw [State.pw, map_instOn_done Inst.boundWaits _ _ _ _ (fun _ => rfl) (fun _ _ => rfl) fun _ _ => rfl, bounded, hn]
    exact congrArg (Option.map Inst.boundWaits) (instOn_modInst_self hi (boundWaiting r v) fun _ => rfl)

/-- A `go` whose check fails. -/
theorem go_refused (ht : s.threaded) (hi : s.instOn n = some i) (ha : i.active = false) (d : BitVec 5) (v : W64) :
    let t := ((s.modInst i.serial discarded).wr d v).retire .next
    t.rd d = (if d = 0#5 then 0#64 else v) ∧ t.pc = s.pc + 4#64 ∧ t.units = s.units ∧
      (t.instOn n).map (fun j => (j.named, j.active, j.phaseNo)) = some ([], false, i.phaseNo) := by
  have hs := SameThreads.ofModInst s i.serial discarded fun _ => rfl
  obtain ⟨-, -, hpc⟩ := reads_of_ctx? hs.ctx?
  have hw := writes_wr (hs.threaded ht) d v
  refine ⟨hw.value, hw.pc.trans (by rw [hpc]), (State.retire_units _ _).trans (State.modCtx_units _ _), ?_⟩
  rw [State.wr, map_instOn_done (fun j => (j.named, j.active, j.phaseNo)) _ _ _ _ (fun _ => rfl) (fun _ _ => rfl) fun _ _ => rfl,
    instOn_modInst_self hi discarded fun _ => rfl, Option.map_some, ← ha]
  rfl

/-- A `go` that starts a phase. -/
theorem go_starts (ht : s.threaded) (hi : s.instOn n = some i) (d : BitVec 5) :
    let t := ((s.startPhase i).wr d 0#64).retire .next
    t.rd d = 0#64 ∧ t.pc = s.pc + 4#64 ∧
      (t.instOn n).map (fun j => (j.named, j.active, j.phaseNo)) = some ([], true, if i.started then i.phaseNo + 1 else 0) := by
  have hu := sameThreads_unpinned s i
  have hp := sameInsts_startPhase s i
  have hinst : (s.startPhase i).instOn n = ((unpinned s i).instOn n).map fun j => if j.serial == i.serial then phaseStarted (phaseFolios i) j else j := by
    rw [State.instOn, hp.insts]
    exact State.instOn_modInst (unpinned s i) i.serial (phaseStarted (phaseFolios i)) n fun _ => rfl
  have hctx : (s.startPhase i).ctxOf = s.ctxOf := by
    funext k
    exact (hp.sameThreads.ctxOf k).trans ((State.ctxOf_modInst (unpinned s i) i.serial (phaseStarted (phaseFolios i)) (fun _ => ⟨rfl, rfl⟩) k).trans (hu.ctxOf k))
  have hcur : (s.startPhase i).cur = s.cur := hp.cur.trans hu.cur
  have hctx? : (s.startPhase i).ctx? = s.ctx? := by rw [State.ctx?, State.ctx?, hcur, hctx]
  have hthr := State.threaded_of_ctx? ht hcur (congrArg List.length (hp.cores.trans hu.cores)) hctx?
  have hw := writes_wr hthr d 0#64
  refine ⟨hw.value.trans (by split <;> rfl), hw.pc.trans (by rw [(reads_of_ctx? hctx?).2.2]), ?_⟩
  rw [State.wr, map_instOn_done (fun j => (j.named, j.active, j.phaseNo)) _ _ _ _ (fun _ => rfl) (fun _ _ => rfl) fun _ _ => rfl, hinst]
  have htag := hu.instOn n
  rw [hi] at htag
  obtain ⟨j, hj, hji⟩ := Option.map_eq_some_iff.mp htag
  have hser : j.serial = i.serial := congrArg (fun x => x.1.1) hji
  have hno : j.phaseNo = i.phaseNo := congrArg (fun x => x.2.1) hji
  have hst : j.started = i.started := congrArg (fun x => x.2.2) hji
  rw [hj, Option.map_some, Option.map_some, hser, if_pos (beq_self_eq_true _), phaseStarted, hno, hst]

end

end Sys2Proof.Machine

namespace Sys2Proof
open Sys2Proof.Machine Sys2Proof.Claims

/-- Settles O33: each word's body by case, and the completion of the word over what the body changed. -/
theorem phaseCommands : Obligations.PhaseCommands := by
  unfold Obligations.PhaseCommands
  intro s n i hc hi
  have hm := me_of_ctl hc hi
  refine ⟨fun a b p g hr hf => ⟨fun ho => ?_, fun ho hn => ?_⟩, fun f a g hf => ⟨fun hr hn => ?_, fun hr hn => ?_, fun hr hn fo hfo => ⟨fun hl => ?_, fun hl => ?_⟩⟩,
    fun d g hr => ⟨fun ha => ?_, fun ha hg => ?_, fun ha hg hp => ?_⟩, fun g hr => ⟨fun ha => ?_, fun ha => ?_⟩⟩
  · have hx : exec (.sbound a b p g) s = .next (finish (boundBody (s.rd a) (s.rd b) p s)) := hr.run rfl (Nat.zero_le _) _
    rw [boundBody_refused hm hf ho] at hx
    exact next_of hx (writesPred_pw hr.1 p false)
  · have hx : exec (.sbound a b p g) s = .next (finish (boundBody (s.rd a) (s.rd b) p s)) := hr.run rfl (Nat.zero_le _) _
    rw [boundBody_accepted hm hf ho hn] at hx
    exact next_of hx (accepts_bound hr.1 hi _ _ p)
  · have hx : exec (.cfg f g) s = .next (finish (cfgBody f.toNat s)) := hr.run rfl (Nat.zero_le _) _
    rw [cfgBody_names hm hn hf] at hx
    exact next_of hx (names_folio hr.1 hi f.toNat none)
  · have hx : exec (.cfg f g) s = .next (finish (cfgBody f.toNat s)) := hr.run rfl (Nat.zero_le _) _
    rw [hx, cfgBody_absent hm hn]
    rfl
  · have hx : exec (.cfgPin a f g) s = .next (finish (cfgPinBody (s.rd a) f.toNat s)) := hr.run rfl (Nat.zero_le _) _
    rw [cfgPinBody_names hm hn hf hfo hl] at hx
    obtain ⟨hpc, -, hnamed⟩ := names_folio hr.1 hi f.toNat (some (s.rd a).toNat)
    exact next_of hx ⟨hpc, hnamed⟩
  · have hx : exec (.cfgPin a f g) s = .next (finish (cfgPinBody (s.rd a) f.toNat s)) := hr.run rfl (Nat.zero_le _) _
    rw [hx, cfgPinBody_illegal hm hn hfo hl]
    rfl
  · have hx : exec (.go d g) s = .next (finish (goBody d s)) := hr.run rfl (Nat.zero_le _) _
    rw [hx, goBody_running hm ha]
    rfl
  · have hx : exec (.go d g) s = .next (finish (goBody d s)) := hr.run rfl (Nat.zero_le _) _
    rw [goBody_refused hm ha hg] at hx
    exact next_of hx (go_refused hr.1 hi ha d _)
  · have hx : exec (.go d g) s = .next (finish (goBody d s)) := hr.run rfl (Nat.zero_le _) _
    rw [goBody_starts hm ha hg hp] at hx
    exact next_of hx (go_starts hr.1 hi d)
  · have hx : exec (.drain g) s = .next (finish (drainBody s)) := hr.run rfl (Nat.zero_le _) _
    have hb : drainBody s = .ok .next s := by simp only [drainBody, hm, ha, Bool.false_eq_true, if_false]
    rw [hb] at hx
    exact next_of hx (goes_retire hr.1)
  · have hx : exec (.drain g) s = .next (finish (drainBody s)) := hr.run rfl (Nat.zero_le _) _
    have hb : drainBody s = .wait (some i.phaseWait) s := by simp only [drainBody, hm, ha, if_true]
    rw [hx, hb]
    rfl

end Sys2Proof

namespace Sys2Proof.Machine
open Sys2Proof.Claims

/-! ### The binder's reading of a folio, and its fault (R25, R385, R386, R418) -/

section
variable {s t : State} {i : Inst} {serial n base q b : Nat} {f : Folio} {pin : Option Nat}

theorem readFrame_foldl {α : Type} (F : State → α → State) (hF : ∀ t a, ReadFrame t (F t a)) : ∀ (l : List α) (s : State), ReadFrame s (l.foldl F s)
  | [], s => .refl s
  | a :: l, s => (hF s a).trans (readFrame_foldl F hF l (F s a))

theorem readFrame_folioTouch (s : State) (w : Who) (image : W64) (header : BitVec 4096) (n : Nat) : ReadFrame s (s.folioTouch w image header n) := by
  have hheads : ReadFrame s ((upTo (n + 1)).foldl (fun (t : State) k => match s.folioOff w image (partOff header 2) k with
      | .ok a => t.devTouch w (image + w64 a) 32
      | .error _ => t) s) := readFrame_foldl _ (fun t k => by
    cases s.folioOff w image (partOff header 2) k with
    | ok a => exact readFrame_devTouch t w _ _
    | error e => exact .refl t) _ s
  unfold State.folioTouch
  cases s.folioOff w image (partOff header 2) n with
  | error e => exact hheads
  | ok a =>
    dsimp only
    cases s.imageBytes w image a 32 with
    | error e => exact hheads
    | ok l => exact hheads.trans (readFrame_devTouch _ w _ _)

/-- The folio is not what was measured at its instance's first placement (R418). -/
def remeasured (s : State) (i : Inst) (n : Nat) : Prop :=
  (s.part i.part).conf = true ∧ ∀ l, s.folioBytes i.device i.image i.header n = .ok l → i.measures[n]? ≠ some (Config.sha384 l)

theorem folioBytes_of_folio (hf : s.folio i n = .ok f) : ∃ l, s.folioBytes i.device i.image i.header n = .ok l := by
  unfold State.folio at hf
  cases h : s.folioBytes i.device i.image i.header n with
  | error e => rw [h] at hf; cases hf
  | ok l => exact ⟨l, rfl⟩

theorem folioBad_measure (hf : s.folio i n = .ok f) (h : remeasured s i n) : s.folioBad i n f = some frMeasure := by
  obtain ⟨l, hl⟩ := folioBytes_of_folio hf
  obtain ⟨hc, hm⟩ := h
  unfold State.folioBad
  dsimp only
  rw [if_pos]
  rw [hc, hl, Bool.true_and, bne_iff_ne]
  exact hm l hl

theorem folioBad_frames (hf : s.folio i n = .ok f) (h : ¬ remeasured s i n) : s.folioBad i n f =
    if s.framesMatch i.device i.image i.header n = false then some frField else folioFault f n (s.scratch i.part).length := by
  obtain ⟨l, hl⟩ := folioBytes_of_folio hf
  unfold State.folioBad
  dsimp only
  rw [if_neg]
  · cases s.framesMatch i.device i.image i.header n <;> rfl
  · rw [hl, Bool.and_eq_true, bne_iff_ne]
    rintro ⟨hc, hm⟩
    exact h ⟨hc, fun k hk => by rw [hl] at hk; cases hk; exact hm⟩

/-- The state of an instance that may load is RUN or PLACED, so a fault leaves it FAULTED with that record. -/
theorem struck_live {r : FaultRec} (hr : i.state = .run ∨ i.state = .placed) (hv : i.fault.v = false) :
    (struck r i).state = .faulted ∧ (struck r i).fault = { r with v := true, more := 0#16 } := by
  refine ⟨if_pos hr, ?_⟩
  show i.fault.note r = _
  rw [FaultRec.note, if_neg (ne_true_of_eq_false hv)]

/-- A FRAME fault of the binder (R388, R389). -/
theorem bindFault_frame {e : Nat} (hi : t.inst? serial = some i) (hr : i.state = .run ∨ i.state = .placed) (hv : i.fault.v = false) :
    ∃ x, (t.bindFault serial q n (frameErr e)).inst? serial = some x ∧ x.state = .faulted ∧ x.fault.cause = 0x09#8 ∧
      x.fault.sub = BitVec.ofNat 8 e ∧ x.fault.origin = 2#2 := by
  refine ⟨_, instFault_inst hi, ?_⟩
  obtain ⟨hs, hf⟩ := struck_live (r := { FaultRec.reset with
    cause := BitVec.ofNat 8 (frameErr e).cause, sub := BitVec.ofNat 8 (frameErr e).sub, origin := 2#2,
    addr := if (frameErr e).cause = 0x09 then 0#64 else (frameErr e).va,
    detail := if (frameErr e).cause = 0x09 then w64 (n % 256) else 0#64, time := t.nsec, cyc := t.cycle }) hr hv
  refine ⟨hs, ?_⟩
  rw [hf]
  exact ⟨rfl, rfl, rfl⟩

theorem bindFault_rest (t : State) (serial q n : Nat) (e : DevErr) : (t.bindFault serial q n e).residents = t.residents ∧
    (t.bindFault serial q n e).units = t.units ∧ (t.bindFault serial q n e).mem = t.mem := by
  unfold State.bindFault State.instFault
  dsimp only
  split <;> exact ⟨rfl, rfl, rfl⟩

end

/-! ### What a load does, by the checks it passes (R25, R28) -/

section
variable {s : State} {i : Inst} {serial n base q b : Nat} {f : Folio} {pin : Option Nat} {bases : List (Nat × Nat)}

theorem binderLoad_resident (h : (s.resident? serial n).isSome = true) : s.binderLoad serial n base = s := by
  unfold State.binderLoad
  cases s.inst? serial with
  | none => rfl
  | some i => simp only [h, Bool.or_true, if_true, ite_self]

theorem binderLoad_unnamed (hi : s.inst? serial = some i) (hn : ∀ x ∈ i.named, x.1 ≠ n) (hp : s.inPhase serial n = false) :
    s.binderLoad serial n base = s := by
  have hany : (i.named.any fun p => p.1 == n) = false := by simpa using hn
  simp only [State.binderLoad, hi, hany, hp, Bool.not_false, Bool.and_self, if_true, ite_self]

/-- A folio that the instance has named and that is not resident is loaded by the plan for its pin. -/
theorem binderLoad_named (hi : s.inst? serial = some i) (hst : i.state = .run ∨ i.state = .placed) (hc : i.cut = none) (hk : i.kill = none)
    (ha : i.active = false) (hr : s.resident? serial n = none) (hn : ∃ x ∈ i.named, x.1 = n) (hpin : i.namedPin n = some pin)
    (hf : s.folio i n = .ok f) {p : List Resident × List (Nat × Nat)} (hp : s.plan i f pin false = some p) (hb : i.region[base]? = some (q, b)) :
    s.binderLoad serial n base = s.load1 i n f pin base p := by
  have hlen : ¬ i.region.length ≤ base := Nat.not_le.mpr (List.getElem?_eq_some_iff.mp hb).1
  have hstate : (i.state == .run || i.state == .placed) = true := by simpa using hst
  have hany : (i.named.any fun p => p.1 == n) = true := by simpa using hn
  simp only [State.binderLoad, hi, if_neg hlen, hstate, hc, hk, hr, hany, hf, ha, hpin, hp, Bool.not_true, Option.isSome_none, Bool.or_self,
    Bool.false_eq_true, if_false, Bool.false_and]

section
variable (hi : s.inst? i.serial = some i) (hb : i.region[base]? = some (q, b)) (hm : (q, b) ∈ bases)
include hi hb hm

omit hi in
theorem load1_bad {e : Nat} (he : s.folioBad i n f = some e) :
    s.load1 i n f pin base ([], bases) = (s.folioTouch i.device i.image i.header n).bindFault i.serial q n (frameErr e) := by
  have hc : bases.contains (q, b) = true := List.contains_iff_mem.mpr hm
  simp only [State.load1, hb, hc, Bool.not_true, Bool.false_eq_true, if_false, he]

theorem load1_places (he : s.folioBad i n f = none) (hs : ∀ e ∈ i.foldSaves, e.folio ≠ n) :
    s.load1 i n f pin base ([], bases) = (s.folioTouch i.device i.image i.header n).place i f q b pin.isSome := by
  have hc : bases.contains (q, b) = true := List.contains_iff_mem.mpr hm
  have hin : (s.folioTouch i.device i.image i.header n).inst? i.serial = some i := by
    rw [State.inst?, (readFrame_folioTouch s i.device i.image i.header n).insts]; exact hi
  have hfind : i.foldSaves.find? (fun e => e.folio == n) = none := by simpa using hs
  simp only [State.load1, hb, hc, Bool.not_true, Bool.false_eq_true, if_false, he, State.evictAll, hin, hfind]

end

end

end Sys2Proof.Machine

namespace Sys2Proof.Machine
open Sys2Proof.Claims

/-! ### A folio that no save holds is placed (R82, R84, R127) -/

section
variable {s t : State} {i : Inst} {f : Folio} {q b : Nat} {pinned : Bool}

/-- The folio as it stands at its base. -/
def standing (s : State) (i : Inst) (f : Folio) (q b : Nat) (pinned : Bool) : Resident :=
  ⟨i.serial, f.id, q, b, f.shape, pinned, (upTo 32).map f.chan, (upTo 32).map f.scale,
    (upTo 4).flatMap fun k => (upTo 34).map (f.knot k), f.tiles, f.live, s.cycle.toNat⟩

/-- Its units, routes and matrix tiles stand beside those that are there. -/
def arrived (s : State) (i : Inst) (f : Folio) (q b : Nat) (pinned : Bool) : State :=
  let rs := f.routes.zipIdx.map fun (d, k) => f.route i.serial q b (s.nextId + k) d
  let ms := (f.tiles.filter fun p => isMatrix p.1 p.2).map fun (x, y) =>
    (⟨⟨q, tileX b x, tileY b y⟩, i.serial, f.id, .empty, .empty, [], [], [], .opened, false, [], [], false, false, false, false, []⟩ : MTile)
  { s with residents := s.residents ++ [standing s i f q b pinned], units := s.units ++ f.nodes.map (f.unit i.serial q b), routes := s.routes ++ rs,
           mtiles := s.mtiles ++ ms, nextId := s.nextId + rs.length }

/-- Its tiles' banks are cleared. -/
def wiped (mask : TKey → Nat) (l : List TKey) (s : State) : State := l.foldl (fun s t => s.clearTile t (mask t) []) s

/-- The mask under which a tile of a placed folio is cleared. -/
def Resident.maskAt (r : Resident) (b : Nat) (t : TKey) : Nat := r.mask (t.x - tileX b 0) (t.y - tileY b 0)

/-- What follows a placement: queued bounds are delivered, its saves forgotten, and its ports filled. -/
def settledFolio (s : State) (i : Inst) (f : Folio) : State :=
  let s := (s.deliverBounds i.serial f.id).modInst i.serial fun i => { i with foldSaves := i.foldSaves.filter fun e => e.folio != f.id }
  (upTo f.nports).foldl (fun s j => s.refill i.serial f.id j) s

theorem place_eq (hs : i.foldSaves.find? (fun e => e.folio == f.id) = none) (hp : ∀ t : State, t.insts = s.insts → t.inPhase i.serial f.id = false) :
    s.place i f q b pinned = settledFolio (if pinned then arrived s i f q b pinned
      else wiped ((standing s i f q b pinned).maskAt b) (memTiles q f.shape b) (arrived s i f q b pinned)) i f := by
  have hw : (wiped ((standing s i f q b pinned).maskAt b) (memTiles q f.shape b) (arrived s i f q b pinned)).insts = s.insts := by
    have : ∀ (l : List TKey) (t : State), (wiped ((standing s i f q b pinned).maskAt b) l t).insts = t.insts := fun l => by
      induction l with
      | nil => exact fun _ => rfl
      | cons k l ih => exact fun t => ih _
    exact this _ _
  unfold State.place
  rw [hs]
  cases pinned with
  | true =>
    have hn := hp (arrived s i f q b true) rfl
    exact congrArg (settledFolio · i f) (if_neg (ne_true_of_eq_false hn))
  | false =>
    have hn := hp _ hw
    exact congrArg (settledFolio · i f) (if_neg (ne_true_of_eq_false hn))

/-- Placed folios, unit keys and memory are as before. -/
structure SamePlaces (s t : State) : Prop where
  residents : t.residents = s.residents
  keys : t.units.map FabUnit.key = s.units.map FabUnit.key
  mem : t.mem = s.mem

theorem SamePlaces.trans {u : State} (h : SamePlaces s t) (k : SamePlaces t u) : SamePlaces s u :=
  ⟨k.residents.trans h.residents, k.keys.trans h.keys, k.mem.trans h.mem⟩

theorem samePlaces_foldl {α : Type} (F : State → α → State) (hF : ∀ t a, SamePlaces t (F t a)) : ∀ (l : List α) (s : State), SamePlaces s (l.foldl F s)
  | [], _ => ⟨rfl, rfl, rfl⟩
  | a :: l, s => (hF s a).trans (samePlaces_foldl F hF l (F s a))

theorem samePlaces_refill (s : State) (serial folio port : Nat) : SamePlaces s (s.refill serial folio port) := by
  obtain ⟨hu, -, hm, -⟩ := refill_frame s serial folio port
  refine ⟨?_, congrArg (List.map FabUnit.key) hu, hm⟩
  unfold State.refill
  split
  · rfl
  · dsimp only
    split
    · split
      · rfl
      · split <;> rfl
    · rfl

theorem pushBound_key (f : FabUnit) (level : Nat) (trips : W32) : (f.pushBound level trips).key = f.key := by
  unfold FabUnit.pushBound; split <;> rfl

theorem samePlaces_deliverBounds (s : State) (serial folio : Nat) : SamePlaces s (s.deliverBounds serial folio) := by
  unfold State.deliverBounds
  refine SamePlaces.trans (samePlaces_foldl _ (fun t w => ?_) _ s) ⟨rfl, rfl, rfl⟩
  exact ⟨rfl, map_updWhere _ _ _ _ fun x => pushBound_key x w.level w.trips, rfl⟩

theorem samePlaces_settledFolio (s : State) (i : Inst) (f : Folio) : SamePlaces s (settledFolio s i f) := by
  have hmod (t : State) (φ : Inst → Inst) : SamePlaces t (t.modInst i.serial φ) := ⟨rfl, rfl, rfl⟩
  exact ((samePlaces_deliverBounds s i.serial f.id).trans (hmod _ _)).trans (samePlaces_foldl _ (fun t j => samePlaces_refill t i.serial f.id j) _ _)

theorem wiped_spec (mask : TKey → Nat) : ∀ (l : List TKey) (s : State), (wiped mask l s).residents = s.residents ∧ (wiped mask l s).units = s.units ∧
    ∀ a, memRead (wiped mask l s).mem a = if ∃ k ∈ l, tileMem k 0 ≤ a ∧ a < tileMem k 0 + 2 ^ 22 then 0#8 else memRead s.mem a
  | [], s => ⟨rfl, rfl, fun a => by rw [if_neg (by simp)]; rfl⟩
  | k :: l, s => by
    obtain ⟨hr, hu, hm⟩ := wiped_spec mask l (s.clearTile k (mask k) [])
    refine ⟨hr, hu, fun a => (hm a).trans ?_⟩
    have hz : memRead (s.clearTile k (mask k) []).mem a = _ := memRead_memZero s.mem (tileMem k 0) (2 ^ 22) a
    rw [hz]
    by_cases hl : ∃ x ∈ l, tileMem x 0 ≤ a ∧ a < tileMem x 0 + 2 ^ 22
    · obtain ⟨x, hx, hxa⟩ := hl
      rw [if_pos ⟨x, hx, hxa⟩, if_pos ⟨x, List.mem_cons_of_mem _ hx, hxa⟩]
    · rw [if_neg hl]
      by_cases hk : tileMem k 0 ≤ a ∧ a < tileMem k 0 + 2 ^ 22
      · rw [if_pos hk, if_pos ⟨k, List.mem_cons_self, hk⟩]
      · rw [if_neg hk, if_neg]
        rintro ⟨x, hx, hxa⟩
        rcases List.mem_cons.mp hx with rfl | hx
        · exact hk hxa
        · exact hl ⟨x, hx, hxa⟩

theorem arrived_keys (s : State) (i : Inst) (f : Folio) (q b : Nat) (pinned : Bool) : (arrived s i f q b pinned).units.map FabUnit.key =
    s.units.map FabUnit.key ++ f.nodes.map fun a => ⟨q, tileX b a.x, tileY b a.y, a.slot⟩ := by
  rw [arrived, List.map_append, List.map_map]; rfl

/-- A placement: the folio stands there, its units beside the others, its banks cleared unless it is pinned. -/
theorem place_spec (hs : ∀ e ∈ i.foldSaves, e.folio ≠ f.id) (ha : i.active = false) (hi : s.inst? i.serial = some i) (pin : Option Nat) :
    (∃ r, (s.place i f q b pin.isSome).residents = s.residents ++ [r] ∧ r.serial = i.serial ∧ r.folio = f.id ∧ r.q = q ∧ r.base = b ∧ r.shape = f.shape ∧
      r.pinned = pin.isSome) ∧
    (s.place i f q b pin.isSome).units.map FabUnit.key = s.units.map FabUnit.key ++ f.nodes.map (fun a => ⟨q, tileX b a.x, tileY b a.y, a.slot⟩) ∧
    (pin.isSome = true → ∀ a, memRead (s.place i f q b pin.isSome).mem a = memRead s.mem a) ∧
    (pin = none → ∀ a, memRead (s.place i f q b pin.isSome).mem a =
      if ∃ k ∈ memTiles q f.shape b, tileMem k 0 ≤ a ∧ a < tileMem k 0 + 2 ^ 22 then 0#8 else memRead s.mem a) := by
  have hphase : ∀ t : State, t.insts = s.insts → t.inPhase i.serial f.id = false := fun t ht => by
    rw [State.inPhase, State.inst?, ht, show s.insts.find? _ = some i from hi, Option.map_some, ha]; rfl
  rw [place_eq (by simpa using hs) hphase]
  cases pin with
  | some k =>
    obtain ⟨hr, hu, hm⟩ := samePlaces_settledFolio (arrived s i f q b true) i f
    exact ⟨⟨_, hr, rfl, rfl, rfl, rfl, rfl, rfl⟩, hu.trans (arrived_keys s i f q b true), fun _ a => congrArg (memRead · a) hm, nofun⟩
  | none =>
    obtain ⟨hwr, hwu, hwm⟩ := wiped_spec ((standing s i f q b false).maskAt b) (memTiles q f.shape b) (arrived s i f q b false)
    obtain ⟨hr, hu, hm⟩ := samePlaces_settledFolio (wiped ((standing s i f q b false).maskAt b) (memTiles q f.shape b) (arrived s i f q b false)) i f
    exact ⟨⟨_, hr.trans hwr, rfl, rfl, rfl, rfl, rfl, rfl⟩, (hu.trans (congrArg _ hwu)).trans (arrived_keys s i f q b false), nofun,
      fun _ a => (congrArg (memRead · a) hm).trans (hwm a)⟩

end

end Sys2Proof.Machine

namespace Sys2Proof
open Sys2Proof.Machine Sys2Proof.Claims

/-- Settles O51: the load's checks one by one, its fault by the first that fails, and the placement. -/
theorem binderLoads : Obligations.BinderLoads := by
  unfold Obligations.BinderLoads
  intro s serial n base i hi
  obtain rfl := State.inst?_serial hi
  refine ⟨fun h => congrArg Host.Outcome.next (binderLoad_resident h), fun hn hp => congrArg Host.Outcome.next (binderLoad_unnamed hi hn hp), ?_⟩
  intro f pin bases q b hst hc hk ha hr hn hpin hf hid hp hb hm changed bad
  have hexec : exec (.binderLoad i.serial n base) s = .next (s.load1 i n f pin base ([], bases)) :=
    congrArg Host.Outcome.next (binderLoad_named hi hst hc hk ha hr hn hpin hf hp hb)
  have hread := readFrame_folioTouch s i.device i.image i.header n
  have hin : (s.folioTouch i.device i.image i.header n).inst? i.serial = some i := by
    rw [State.inst?, hread.insts]; exact hi
  have hbad : ∀ e, bad e → s.folioBad i n f = e := fun e ⟨h1, h2⟩ => by
    by_cases hch : remeasured s i n
    · rw [folioBad_measure hf hch, h1 hch]
    · rw [folioBad_frames hf hch, h2 hch]
  refine ⟨fun e he => ?_, fun he hs => ?_⟩
  · rw [load1_bad hb hm (hbad _ he)] at hexec
    obtain ⟨hres, hu, hmem⟩ := bindFault_rest (s.folioTouch i.device i.image i.header n) i.serial q n (frameErr e)
    exact next_of hexec ⟨hres.trans hread.residents, hu.trans hread.units, hmem.trans hread.mem, fun hv => bindFault_frame hin hst hv⟩
  · rw [load1_places hi hb hm (hbad _ he) hs] at hexec
    subst hid
    have hplace := place_spec (q := q) (b := b) hs ha hin pin
    simp only [hread.residents, hread.units, hread.mem] at hplace
    exact next_of hexec hplace

end Sys2Proof

namespace Sys2Proof.Machine
open Sys2Proof.Claims

/-! ### The accumulator store (R80, R263, R268) -/

theorem slotGet_slotIns_ne {a b : Nat} (h : b ≠ a) (v : W32) : ∀ l, slotGet (slotIns l a v) b = slotGet l b
  | [] => if_neg h
  | (k, w) :: l => by
    unfold slotIns
    split
    · exact if_neg h
    · rw [slotGet, slotGet, slotGet_slotIns_ne h v l]

theorem slotGet_slotIns_self {a : Nat} (v : W32) : ∀ {l : List (Nat × W32)}, (∀ e ∈ l, e.1 ≠ a) → slotGet (slotIns l a v) a = v
  | [], _ => if_pos rfl
  | (k, w) :: l, h => by
    unfold slotIns
    split
    · exact if_pos rfl
    · rw [slotGet, if_neg (h _ List.mem_cons_self).symm, slotGet_slotIns_self v fun e he => h e (List.mem_cons_of_mem _ he)]

theorem slotGet_absent {a : Nat} : ∀ {l : List (Nat × W32)}, (∀ e ∈ l, e.1 ≠ a) → slotGet l a = 0#32
  | [], _ => rfl
  | (k, w) :: l, h => by
    rw [slotGet, if_neg (h _ List.mem_cons_self).symm, slotGet_absent fun e he => h e (List.mem_cons_of_mem _ he)]

theorem slotGet_filter_ne {a b : Nat} (h : b ≠ a) : ∀ l : List (Nat × W32), slotGet (l.filter fun e => e.1 != a) b = slotGet l b
  | [] => rfl
  | (k, w) :: l => by
    by_cases hk : k = a
    · rw [List.filter_cons_of_neg (by simp [hk]), slotGet_filter_ne h l, slotGet, if_neg (hk ▸ h)]
    · rw [List.filter_cons_of_pos (by simp [hk]), slotGet, slotGet, slotGet_filter_ne h l]

/-- A value written is the value read, and no other place changes. -/
theorem slotGet_slotPut (l : List (Nat × W32)) (a b : Nat) (v : W32) : slotGet (slotPut l a v) b = if b = a then v else slotGet l b := by
  have habs : ∀ e ∈ l.filter (fun e => e.1 != a), e.1 ≠ a := fun e he => by simpa using (List.mem_filter.mp he).2
  unfold slotPut
  dsimp only
  by_cases hb : b = a
  · rw [if_pos hb, hb]
    split
    · rename_i hv; rw [hv, slotGet_absent habs]
    · exact slotGet_slotIns_self v habs
  · rw [if_neg hb]
    split
    · exact slotGet_filter_ne hb l
    · rw [slotGet_slotIns_ne hb, slotGet_filter_ne hb]

section
variable {α : Type} (place : α → Nat) (new : α → W32 → W32)

/-- Each item of a list changes its own place of the store. -/
def updSlots (l : List α) (sl : List (Nat × W32)) : List (Nat × W32) :=
  l.foldl (fun sl a => slotPut sl (place a) (new a (slotGet sl (place a)))) sl

theorem updSlots_other : ∀ {l : List α} {sl : List (Nat × W32)} {k : Nat}, (∀ a ∈ l, k ≠ place a) → slotGet (updSlots place new l sl) k = slotGet sl k
  | [], _, _, _ => rfl
  | a :: l, sl, k, h => by
    rw [updSlots, List.foldl_cons]
    refine (updSlots_other fun b hb => h b (List.mem_cons_of_mem _ hb)).trans ?_
    rw [slotGet_slotPut, if_neg (h a List.mem_cons_self)]

theorem updSlots_named : ∀ {l : List α} {sl : List (Nat × W32)} {a : α}, (l.map place).Nodup → a ∈ l →
    slotGet (updSlots place new l sl) (place a) = new a (slotGet sl (place a))
  | b :: l, sl, a, hn, ha => by
    rw [List.map_cons, List.nodup_cons] at hn
    obtain ⟨hb, hn⟩ := hn
    have hne : ∀ c ∈ l, place b ≠ place c := fun c hc e => hb (e ▸ List.mem_map_of_mem hc)
    rw [updSlots, List.foldl_cons]
    rcases List.mem_cons.mp ha with rfl | ha
    · refine (updSlots_other place new hne).trans ?_
      rw [slotGet_slotPut, if_pos rfl]
    · refine (updSlots_named hn ha).trans ?_
      rw [slotGet_slotPut, if_neg (hne a ha).symm]

end

/-- Two places of the store are one only in one slot, row and column. -/
theorem slotIdx_inj {q r c r' c' : Nat} (hr : r < 64) (hr' : r' < 64) (h : slotIdx (q + c / 64) r (c % 64) = slotIdx (q + c' / 64) r' (c' % 64)) :
    r = r' ∧ c = c' := by
  unfold slotIdx at h
  omega

/-! ### A row of a slot, and a delta (R80, R263, R268) -/

theorem foldl_mapRow_eq (q : Nat) (cols : List Nat) (f : Nat → W32 → W32) : ∀ (rows : List Nat) (sl : List (Nat × W32)),
    rows.foldl (fun sl r => mapRow sl q r cols f) sl = updSlots (fun e : Nat × Nat => accIdx q e.1 e.2) (fun e => f e.2) (rows.flatMap fun r => cols.map (r, ·)) sl
  | [], _ => rfl
  | r :: rows, sl => by
    rw [List.foldl_cons, foldl_mapRow_eq q cols f rows, updSlots, updSlots, List.flatMap_cons, List.foldl_append, List.foldl_map]
    rfl

/-- The values of a delta, each with its row and column. -/
def deltaCells (dm : List (List W32)) : List (Nat × Nat × W32) := dm.zipIdx.flatMap fun r => r.1.zipIdx.map fun c => (r.2, c.2, c.1)

theorem commitSlots_eq (sl : List (Nat × W32)) (cur : Nat) (dm : List (List W32)) : commitSlots sl cur dm =
    updSlots (fun e : Nat × Nat × W32 => slotIdx (cur + e.2.1 / 64) e.1 (e.2.1 % 64)) (fun e old => addF32 old e.2.2) (deltaCells dm) sl := by
  rw [updSlots, deltaCells, List.foldl_flatMap]
  simp only [List.foldl_map]
  rfl

theorem mem_deltaCells {dm : List (List W32)} {r j : Nat} {v : W32} : (r, j, v) ∈ deltaCells dm ↔ (dm[r]?).bind (fun l => l[j]?) = some v := by
  simp only [deltaCells, List.mem_flatMap, List.mem_map, Prod.exists, Prod.mk.injEq, List.mem_zipIdx_iff_getElem?, Option.bind_eq_some_iff]
  constructor
  · rintro ⟨l, k, hl, w, c, hw, rfl, rfl, rfl⟩
    exact ⟨l, hl, hw⟩
  · rintro ⟨l, hl, hw⟩
    exact ⟨l, r, hl, v, j, hw, rfl, rfl, rfl⟩

end Sys2Proof.Machine

namespace Sys2Proof.Machine
open Sys2Proof.Claims

/-! ### A matrix node at work on its tile (R263, R264, R274) -/

/-- What of an instance a matrix pass leaves alone: its state and its fault record. -/
def Inst.standing (i : Inst) : Nat × IState × FaultRec := (i.serial, i.state, i.fault)

/-- The machine in the middle of a pass of unit u: the unit is g, the matrix tiles are `l`, and memory, routes and fault records are
as in s. -/
structure OnTile (s : State) (u : UKey) (g : FabUnit) (l : List MTile) (t : State) : Prop where
  unit : t.unit? u = some g
  routes : t.routes = s.routes
  mtiles : t.mtiles = l
  mem : t.mem = s.mem
  standing : t.insts.map Inst.standing = s.insts.map Inst.standing

section
variable {s t : State} {u : UKey} {f g : FabUnit} {l : List MTile}

theorem OnTile.start (h : s.unit? u = some f) : OnTile s u f s.mtiles s := ⟨h, rfl, rfl, rfl, rfl⟩

theorem OnTile.modUnit (h : OnTile s u g l t) (φ : FabUnit → FabUnit) (hφ : ∀ x, (φ x).key = x.key) : OnTile s u (φ g) l (t.modUnit u φ) where
  unit := by rw [State.unit?_modUnit _ _ _ _ hφ, h.unit, Option.map_some, if_pos rfl]
  routes := h.routes
  mtiles := h.mtiles
  mem := h.mem
  standing := h.standing

theorem OnTile.setSt (h : OnTile s u g l t) (st : NodeSt) : OnTile s u { g with st := st } l (t.setSt u st) :=
  h.modUnit (fun f => { f with st := st }) fun _ => rfl

theorem OnTile.elsewhere (h : OnTile s u g l t) {v : UKey} (hv : v ≠ u) (φ : FabUnit → FabUnit) (hφ : ∀ x, (φ x).key = x.key) :
    OnTile s u g l (t.modUnit v φ) where
  unit := by rw [State.unit?_modUnit _ _ _ _ hφ, h.unit, Option.map_some, if_neg hv.symm]
  routes := h.routes
  mtiles := h.mtiles
  mem := h.mem
  standing := h.standing

theorem OnTile.emit (h : OnTile s u g l t) (p : Nat) (tok : Token) :
    OnTile s u { g with outs := placed g.outs p tok (s.outIds u p) } l (t.emit u p tok) := by
  have hr : t.routesFrom u p = s.routesFrom u p := by simp only [State.routesFrom, h.routes]
  unfold State.emit State.emitOn placed State.outIds
  rw [hr]
  cases (s.routesFrom u p).map Route.id with
  | nil => exact h
  | cons i ids => exact h.modUnit (fun f => { f with outs := updAt f.outs p fun _ => ⟨some tok, i :: ids⟩ }) fun _ => rfl

theorem OnTile.modInst (h : OnTile s u g l t) (n : Nat) {φ : Inst → Inst} (hφ : ∀ i, (φ i).standing = i.standing) :
    OnTile s u g l (t.modInst n φ) :=
  ⟨h.unit, h.routes, h.mtiles, h.mem, (map_updWhere _ _ _ _ hφ).trans h.standing⟩

theorem OnTile.meter (h : OnTile s u g l t) (o m n : Nat) : OnTile s u g l (t.meter o m n) := ⟨h.unit, h.routes, h.mtiles, h.mem, h.standing⟩

theorem OnTile.modMtile (h : OnTile s u g l t) (k : TKey) (φ : MTile → MTile) :
    OnTile s u g (updWhere (fun m => m.key == k) φ l) (t.modMtile k φ) :=
  ⟨h.unit, h.routes, congrArg _ h.mtiles, h.mem, h.standing⟩

theorem mxUpd_standing (i : Inst) (u : FabUnit) (φ : MxCount → MxCount) : (i.mxUpd u φ).standing = i.standing := by
  unfold Inst.mxUpd; dsimp only; split <;> rfl

theorem OnTile.countAttempt (h : OnTile s u g l t) (x : FabUnit) (k : Nat) : OnTile s u g l (t.countAttempt x k) :=
  h.modInst x.serial fun i => mxUpd_standing i x _

theorem OnTile.countSquash (h : OnTile s u g l t) (x : FabUnit) (a : Geom) (k : Nat) (c : Counts) : OnTile s u g l (t.countSquash x a k c) := by
  refine OnTile.meter (OnTile.modInst h x.serial ?_) _ _ _
  exact fun i => mxUpd_standing i x _

theorem OnTile.countRows (h : OnTile s u g l t) (x : FabUnit) (a : Geom) (k m : Nat) : OnTile s u g l (t.countRows x a k m) := h.meter _ _ _

theorem OnTile.setSt_elsewhere (h : OnTile s u g l t) {v : UKey} (hv : v ≠ u) (st : NodeSt) : OnTile s u g l (t.setSt v st) :=
  h.elsewhere hv (fun f => { f with st := st }) fun _ => rfl

theorem OnTile.orderCredit (h : OnTile s u g l t) {v : UKey} (hv : v ≠ u) (n : Nat) : OnTile s u g l (t.orderCredit v n) := by
  unfold State.orderCredit
  split
  · exact h.elsewhere hv (credited n) (credited_key n)
  · exact h

/-- The loads that a commit releases are a load node's, so the mmac itself is as before. -/
theorem OnTile.releaseLoads (h : OnTile s u g l t) (hg : g.op ≠ 0xC1) (v : UKey) (k n : Nat) : OnTile s u g l (t.releaseLoads v k n) := by
  unfold State.releaseLoads
  cases hx : t.feeder v k with
  | none => exact h
  | some x =>
    dsimp only
    split
    · split
      next hop =>
        have hop : x.op = 0xC1 := by simpa using (Bool.and_eq_true_iff.mp hop).1
        have hu : t.unit? x.key = some x := by
          unfold State.feeder at hx
          split at hx
          · split at hx
            · rw [State.unit?_key hx]; exact hx
            · cases hx
          · cases hx
        have hne : x.key ≠ u := fun e => hg (by rw [e, h.unit] at hu; cases hu; exact hop)
        exact (h.setSt_elsewhere hne _).orderCredit hne _
      · exact h
    · exact h

/-- A unit that faults in the middle of a pass. -/
theorem OnTile.tileEcc (h : OnTile s f.key g l t) (hk : g.key = f.key) (hid : ident g = ident f) (hc : g.cfgBad = false) (he : g.eccBad = false) :
    Faults s f 0x12 0x03 (t.tileEcc g) := by
  rw [State.tileEcc, State.firing_eq _ _ _ hc he, hk]
  have hx := ((WithUnit.refl (show t.unit? g.key = some g from hk ▸ h.unit)).fired (f := g) []).unit
  rw [hk] at hx
  refine unitFault_faults hx hid h.mem fun i hi => ?_
  have hm : ∀ l : List Inst, (l.map Inst.standing).find? (fun x => x.1 == f.serial) = (l.find? fun i => i.serial == f.serial).map Inst.standing :=
    fun l => List.find?_map ..
  have hfind : (t.inst? f.serial).map Inst.standing = (s.inst? f.serial).map Inst.standing := by
    rw [State.inst?, State.inst?, ← hm, ← hm, h.standing]
  rw [hi] at hfind
  obtain ⟨j, hj, hji⟩ := Option.map_eq_some_iff.mp hfind
  exact ⟨j, hj, (congrArg (fun x => x.2.1) hji :), (congrArg (fun x => x.2.2) hji :)⟩

/-- The tile a state names, when an update of that tile's entries made the list. -/
theorem OnTile.mtile {k : TKey} {m : MTile} {φ : MTile → MTile} (h : OnTile s u g (updWhere (fun m => m.key == k) φ s.mtiles) t)
    (hm : s.mtile? k = some m) (hφ : ∀ x, (φ x).key = x.key) : t.mtile? k = some (φ m) := by
  unfold State.mtile? at hm
  rw [State.mtile?, h.mtiles, find?_updWhere _ _ _ _ fun x => by rw [hφ], hm, Option.map_some, if_pos (List.find?_some hm :)]

end

end Sys2Proof.Machine

namespace Sys2Proof.Machine
open Sys2Proof.Claims

/-! ### The size of a delta (R72) -/

theorem subPass_delta (g : Geom) (f h sub m : Nat) (a b : List Strip) (dm sm : List (List W32)) :
    ∃ v : Nat → Nat → W32, (g.subPass f h sub m a b dm sm).1 = (upTo m).map fun r => (upTo g.ns).map (v r) := by
  unfold Geom.subPass
  simp only [List.map_map]
  exact ⟨_, List.map_congr_left fun r _ => List.map_map⟩

theorem subPass_length (g : Geom) (f h sub m : Nat) (a b : List Strip) (dm sm : List (List W32)) : (g.subPass f h sub m a b dm sm).1.length = m := by
  obtain ⟨v, hv⟩ := subPass_delta g f h sub m a b dm sm
  rw [hv, List.length_map, upTo, List.length_range]

/-- A value of a delta stands in one of its rows and of the slot's columns. -/
theorem subPass_within {g : Geom} {f h sub m : Nat} {a b : List Strip} {dm sm : List (List W32)} {r j : Nat} {v : W32}
    (hv : ((g.subPass f h sub m a b dm sm).1[r]?).bind (fun l => l[j]?) = some v) : r < m ∧ j < g.ns := by
  obtain ⟨w, hw⟩ := subPass_delta g f h sub m a b dm sm
  obtain ⟨l, hl, hj⟩ := Option.bind_eq_some_iff.mp hv
  rw [hw] at hl
  obtain ⟨hr, hlr⟩ := List.getElem?_eq_some_iff.mp hl
  obtain ⟨hjl, -⟩ := List.getElem?_eq_some_iff.mp hj
  refine ⟨by simpa [upTo] using hr, ?_⟩
  rw [← hlr] at hjl
  simpa [upTo] using hjl

/-! ### A delta goes into its slot (R80, R263) -/

theorem zipIdx_pairwise {α : Type} (l : List α) : l.zipIdx.Pairwise fun a b => a.2 ≠ b.2 := by
  have h : (l.zipIdx.map Prod.snd).Nodup := by
    rw [List.zipIdx_map_snd]
    exact List.nodup_range'
  exact List.pairwise_map.mp h

theorem deltaCells_places {cur : Nat} {dm : List (List W32)} (h : dm.length ≤ 64) :
    ((deltaCells dm).map fun e => slotIdx (cur + e.2.1 / 64) e.1 (e.2.1 % 64)).Nodup := by
  have hrow : ∀ {r j : Nat} {v : W32}, (r, j, v) ∈ deltaCells dm → r < 64 := fun hm => by
    obtain ⟨l, hl, -⟩ := Option.bind_eq_some_iff.mp (mem_deltaCells.mp hm)
    exact Nat.lt_of_lt_of_le (List.getElem?_eq_some_iff.mp hl).1 h
  have hpair : (deltaCells dm).Pairwise fun a b => a.1 ≠ b.1 ∨ a.2.1 ≠ b.2.1 := by
    unfold deltaCells
    rw [List.pairwise_flatMap]
    refine ⟨fun r _ => List.pairwise_map.mpr ((zipIdx_pairwise r.1).imp fun hc => .inr hc), (zipIdx_pairwise dm).imp fun {a b} hr x hx y hy => .inl ?_⟩
    obtain ⟨_, -, rfl⟩ := List.mem_map.mp hx
    obtain ⟨_, -, rfl⟩ := List.mem_map.mp hy
    exact hr
  refine List.pairwise_map.mpr (hpair.imp_of_mem fun {a b} ha hb hne he => ?_)
  obtain ⟨hr, hc⟩ := slotIdx_inj (hrow ha) (hrow hb) he
  exact hne.elim (· hr) (· hc)

theorem commitSlots_value {sl : List (Nat × W32)} {cur r j : Nat} {dm : List (List W32)} {v : W32} (h : dm.length ≤ 64)
    (hv : (dm[r]?).bind (fun l => l[j]?) = some v) :
    slotGet (commitSlots sl cur dm) (slotIdx (cur + j / 64) r (j % 64)) = addF32 (slotGet sl (slotIdx (cur + j / 64) r (j % 64))) v := by
  rw [commitSlots_eq]
  exact updSlots_named (fun e : Nat × Nat × W32 => slotIdx (cur + e.2.1 / 64) e.1 (e.2.1 % 64)) (fun e old => addF32 old e.2.2)
    (deltaCells_places h) (mem_deltaCells.mpr hv)

theorem commitSlots_other {sl : List (Nat × W32)} {cur k : Nat} {dm : List (List W32)}
    (h : ∀ r j v, (dm[r]?).bind (fun l => l[j]?) = some v → k ≠ slotIdx (cur + j / 64) r (j % 64)) :
    slotGet (commitSlots sl cur dm) k = slotGet sl k := by
  rw [commitSlots_eq]
  exact updSlots_other _ _ fun e he => h e.1 e.2.1 e.2.2 (mem_deltaCells.mp he)

/-! ### A commit and a squash (R78, R263, R264) -/

section
variable {s t : State} {f g : FabUnit} {a : Geom} {m : MTile} {l : List MTile} {n cur k rank rung sq : Nat} {e0 e1 sink : Bool} {ends : List (Nat × Nat)}
  {dm sm : List (List W32)} {c : Counts}

/-- A pass that is over on its tile: its delta is in the slots (R263). -/
def committed (cur : Nat) (dm : List (List W32)) (t : MTile) : MTile := { t with slots := commitSlots t.slots cur dm, pass := .opened, aStrips := [] }

/-- The unit that has committed a pass, with the slots that its outputs then hold. -/
def committer (s : State) (a : Geom) (rank rung sq : Nat) (dm : List (List W32)) (c : Counts) (g : FabUnit) : FabUnit :=
  match g.st with
  | .mmac n cur k e0 e1 ends sink =>
    let outs := placed g.outs 3 (.doneTok (mmacIter k rung 0 0 0)) (s.outIds g.key 3)
    { g with
      outs := if g.dest = 24 then placed outs 0 (.data (passRecord k rung dm.length cur c sq)) (s.outIds g.key 0) else outs,
      st := .mmac n (g.rotate a.pair rank cur) ((k + 1) % 2 ^ 24) e0 e1 ends sink }
  | _ => g

theorem OnTile.commitPass (h : OnTile s g.key g l t) (hst : g.st = .mmac n cur k e0 e1 ends sink) (hop : g.op ≠ 0xC1) :
    OnTile s g.key (committer s a rank rung sq dm c g) (updWhere (fun m => m.key == g.key.tile) (committed cur dm) l)
      (t.commitPass g a m rank rung sq dm c) := by
  have h1 := (h.modMtile g.key.tile (committed cur dm)).emit 3 (.doneTok (mmacIter k rung 0 0 0))
  have h2 : ∀ st, OnTile s g.key { committer s a rank rung sq dm c g with st := st } (updWhere (fun m => m.key == g.key.tile) (committed cur dm) l)
      (((if g.dest = 24 then ((t.modMtile g.key.tile (committed cur dm)).emit g.key 3 (.doneTok (mmacIter k rung 0 0 0))).emit g.key 0
        (.data (passRecord k rung dm.length cur c sq)) else (t.modMtile g.key.tile (committed cur dm)).emit g.key 3 (.doneTok (mmacIter k rung 0 0 0))).modInst
          g.serial fun i => { i with mxcommit := satInc32 i.mxcommit }).setSt g.key st) := fun st => by
    unfold committer
    rw [hst]
    dsimp only
    split
    · exact ((h1.emit 0 _).modInst g.serial (φ := fun i => { i with mxcommit := satInc32 i.mxcommit }) fun _ => rfl).setSt st
    · exact (h1.modInst g.serial (φ := fun i => { i with mxcommit := satInc32 i.mxcommit }) fun _ => rfl).setSt st
  have h3 := h2 (.mmac n (g.rotate a.pair rank cur) ((k + 1) % 2 ^ 24) e0 e1 ends sink)
  have hself : { committer s a rank rung sq dm c g with st := NodeSt.mmac n (g.rotate a.pair rank cur) ((k + 1) % 2 ^ 24) e0 e1 ends sink } =
      committer s a rank rung sq dm c g := by unfold committer; rw [hst]
  rw [hself] at h3
  have hop' : (committer s a rank rung sq dm c g).op ≠ 0xC1 := by unfold committer; rw [hst]; exact hop
  unfold State.commitPass
  rw [hst]
  dsimp only
  split
  · exact OnTile.releaseLoads h3 hop' _ _ _
  · exact h3

theorem committer_st (hst : g.st = .mmac n cur k e0 e1 ends sink) :
    (committer s a rank rung sq dm c g).st = .mmac n (g.rotate a.pair rank cur) ((k + 1) % 2 ^ 24) e0 e1 ends sink := by
  unfold committer; rw [hst]

theorem committer_resolve (hst : g.st = .mmac n cur k e0 e1 ends sink) (hlen : 3 < g.outs.length) :
    (committer s a rank rung sq dm c g).slot 3 = slotWith s g 3 (.doneTok (mmacIter k rung 0 0 0)) := by
  rw [slotWith_eq s g 3 _ hlen]
  unfold committer FabUnit.slot
  rw [hst]
  dsimp only
  split
  · rw [placed_getElem? _ 0, if_neg (by simp)]
  · rfl

/-- A pass that starts again at a rung. -/
def replayed (rank rung sq : Nat) (z : List (List W32)) (t : MTile) : MTile := { t with pass := .replay rank rung 0 0 false sq z z Counts.zero }

section
variable (hst : g.st = .mmac n cur k e0 e1 ends sink)
include hst

theorem concludePass_commits (hd : m.badDelta = false) (hs : m.slotBad a.pair cur = false) (hb : a.overBudget rung { c with canc := a.cancellations dm sm } = false) :
    t.concludePass g a m rank rung sq dm sm c = t.commitPass g a m rank rung sq dm { c with canc := a.cancellations dm sm } := by
  simp only [State.concludePass, hst, hd, hs, hb, Bool.not_false, Bool.and_false, Bool.or_self, Bool.false_eq_true, if_false]

omit hst in
theorem concludePass_squashes (hd : m.badDelta = false) (hb : a.overBudget rung { c with canc := a.cancellations dm sm } = true) :
    t.concludePass g a m rank rung sq dm sm c = ((t.countSquash g a rung { c with canc := a.cancellations dm sm }).countAttempt g (rung + 1)).modMtile g.key.tile
      (replayed rank (rung + 1) (sq + 1) (zeroRows dm.length a.ns)) := by
  simp only [State.concludePass, hd, hb, Bool.not_true, Bool.false_and, Bool.or_self, Bool.false_eq_true, if_false, if_true]
  rfl

end

end

end Sys2Proof.Machine

namespace Sys2Proof.Machine
open Sys2Proof.Claims

/-! ### SLAB_PASS and SLAB_REPLAY by case (R263, R264) -/

section
variable {s : State} {f : FabUnit} {m : MTile} {n cur k rank p : Nat} {e0 e1 sink : Bool} {ends : List (Nat × Nat)}

/-- The tile of a pass that only turns the slots. -/
def dropped (m : MTile) : MTile := { m with aStrips := [], lost := false }

/-- The state in which the trial of a pass runs: its end token is taken, its attempt counted (R274). -/
def trying (s : State) (f : FabUnit) (st : NodeSt) : State := (s.setSt f.key st).countAttempt f 0

theorem onTile_trying (h : s.unit? f.key = some f) (st : NodeSt) : OnTile s f.key { f with st := st } s.mtiles (trying s f st) :=
  ((OnTile.start h).setSt st).countAttempt f 0

/-- The delta of the trial of the rows on the active slab, with its absolute sums and counts. -/
def trial (g : Geom) (m : MTile) : List (List W32) × List (List W32) × Counts :=
  g.subPass 0 0 0 (g.rowsIn m.aStrips.length) m.aStrips m.active.strips (zeroRows (g.rowsIn m.aStrips.length) g.ns) (zeroRows (g.rowsIn m.aStrips.length) g.ns)

section
variable (hm : s.mtile? f.key.tile = some m) (hst : f.st = .mmac n cur k e0 e1 ((rank, p) :: ends) sink) (ho : m.pass = .opened) (hp : p ≤ n)
include hm hst ho hp

theorem slabPass_turns (hr : (s.geom f).rowsIn m.aStrips.length = 0 ∨ m.lost = true ∨ s.runLost f = true) :
    slabPassAct f s = (s.setSt f.key (.mmac n (f.rotate (s.geom f).pair rank cur) k e0 e1 ends sink)).modMtile f.key.tile dropped := by
  simp only [slabPassAct, hm, hst, ho, ne_eq, not_true_eq_false, false_or, if_neg (Nat.not_lt.mpr hp), if_pos hr]
  rfl

variable (hr : 0 < (s.geom f).rowsIn m.aStrips.length) (hl : m.lost = false) (hrun : s.runLost f = false) (hc : f.commitReady = true)
  (hu : s.unit? f.key = some f)
include hr hl hrun hc hu

/-- The trial: on the active slab, or after a refetch; an error in the slab faults (R264, R272). -/
theorem slabPass_tries : slabPassAct f s =
    let t := trying s f (.mmac n cur k e0 e1 ends sink)
    let g := { f with st := NodeSt.mmac n cur k e0 e1 ends sink }
    if m.active.full ∧ m.active.rung = 0 ∧ m.badActive = true then t.tileEcc g
    else if m.active.full ∧ m.active.rung = 0 then
      (t.countRows g (s.geom f) 0 ((s.geom f).rowsIn m.aStrips.length)).concludePass g (s.geom f) m rank 0 0 (trial (s.geom f) m).1 (trial (s.geom f) m).2.1
        (trial (s.geom f) m).2.2
    else t.modMtile f.key.tile (replayed rank 0 0 (zeroRows ((s.geom f).rowsIn m.aStrips.length) (s.geom f).ns)) := by
  have hno : ¬ ((s.geom f).rowsIn m.aStrips.length = 0 ∨ m.lost = true ∨ s.runLost f = true) := by
    rw [hl, hrun]; simp only [Bool.false_eq_true, or_false]; omega
  have ht := (onTile_trying hu (.mmac n cur k e0 e1 ends sink)).unit
  unfold trying at ht ⊢
  simp only [slabPassAct, hm, hst, ho, ne_eq, not_true_eq_false, false_or, if_neg (Nat.not_lt.mpr hp), if_neg hno, hc, Bool.not_true,
    Bool.false_eq_true, if_false, ht]
  rfl

end

/-! The replay. -/

section
variable {ri h j sq : Nat} {dm sm : List (List W32)} {c : Counts} (hm : s.mtile? f.key.tile = some m) (hst : f.st = .mmac n cur k e0 e1 ends sink)
include hm hst

/-- A sub-pass whose REWIND has gone, or not. -/
def replaying (rank ri h j : Nat) (sent : Bool) (sq : Nat) (dm sm : List (List W32)) (c : Counts) (m : MTile) : MTile :=
  { m with pass := .replay rank ri h j sent sq dm sm c }

theorem slabReplay_rewinds (hp : m.pass = .replay rank ri h j false sq dm sm c) (hf : f.outFree 3 = true) :
    slabReplayAct f s = (s.emit f.key 3 (.doneTok (mmacIter k ri h j 1))).modMtile f.key.tile (replaying rank ri h j true sq dm sm c) := by
  simp only [slabReplayAct, hm, hst, hp, hf, if_true]
  rfl

variable (hp : m.pass = .replay rank ri h j true sq dm sm c)
include hp

theorem slabReplay_awaits (hl : m.refetch.length < (s.geom f).slabStrips) : slabReplayAct f s = s := by
  simp only [slabReplayAct, hm, hst, hp, hl, true_or, if_true]

/-- A tile that takes the slab of a sub-pass from what came again. -/
def reloaded (nb rung : Nat) (slab : List Strip) (m : MTile) : MTile :=
  { m with refetch := m.refetch.drop nb, active := ⟨slab, rung, rung == 0⟩, badActive := false }

theorem slabReplay_subPass (hl : (s.geom f).slabStrips ≤ m.refetch.length) (ha : f.arep = false) (hc : f.commitReady = true) (hb : m.badRows = false)
    (hg : (s.geom f).badGroup (m.refetch.take (s.geom f).slabStrips) = none) (hj : j + 1 < (s.geom f).nK ri) :
    slabReplayAct f s = ((s.modMtile f.key.tile (reloaded (s.geom f).slabStrips ri (m.refetch.take (s.geom f).slabStrips))).countRows f (s.geom f) ri dm.length).modMtile
      f.key.tile (replaying rank ri h (j + 1) false sq
        ((s.geom f).subPass ri h j dm.length m.aStrips (m.refetch.take (s.geom f).slabStrips) dm sm).1
        ((s.geom f).subPass ri h j dm.length m.aStrips (m.refetch.take (s.geom f).slabStrips) dm sm).2.1
        (c.add ((s.geom f).subPass ri h j dm.length m.aStrips (m.refetch.take (s.geom f).slabStrips) dm sm).2.2)) := by
  simp only [slabReplayAct, hm, hst, hp, ha, hc, hb, hg, hj, if_neg (Nat.not_lt.mpr hl), Bool.false_eq_true, if_false, false_and, or_false, Bool.not_true,
    Bool.not_false, Bool.and_false, Option.isSome_none, if_true, subPass_length]
  rfl

end

end

end Sys2Proof.Machine

namespace Sys2Proof.Machine
open Sys2Proof.Claims

/-! ### Slot operations (R268, R269, R272) -/

section
variable {f : FabUnit} {a : Strip}

theorem accSlot_eq (f : FabUnit) (a : Strip) : f.accSlot a = (f.aux + a.toNat / 2 ^ 6 % 16) % 16 := by
  unfold FabUnit.accSlot FabUnit.auxBits bitsN fieldN bitsN
  omega

theorem accRow_eq (a : Strip) : accRow a = a.toNat % 64 := by
  unfold accRow fieldN bitsN
  omega

theorem accRow_lt (a : Strip) : accRow a < 64 := by rw [accRow_eq]; exact Nat.mod_lt _ (by decide)

theorem accPair_iff : f.accPair = true ↔ f.auxBits 4 1 = 1 := beq_iff_eq

/-- The columns that an address names, by its mask and PAIR. -/
theorem mem_accCols {c : Nat} : c ∈ f.accCols a ↔
    (decide (c < (if f.auxBits 4 1 = 1 then 128 else 64)) && (f.auxBits 5 1 == 0 || a.getLsbD (32 + c))) = true := by
  have hp : (if f.accPair then 128 else 64) = if f.auxBits 4 1 = 1 then 128 else 64 := by simp only [accPair_iff]
  rw [FabUnit.accCols, List.mem_filter, hp, upTo, List.mem_range, Bool.and_eq_true, decide_eq_true_iff]
  rfl

theorem accCols_nodup (f : FabUnit) (a : Strip) : (f.accCols a).Nodup := List.Nodup.filter _ List.nodup_range

theorem accIdx_inj {q r c r' c' : Nat} (hr : r < 64) (hr' : r' < 64) (h : accIdx q r c = accIdx q r' c') : r = r' ∧ c = c' := slotIdx_inj hr hr' h

/-- The rows and columns of a slot operation. -/
def rowCells (rows cols : List Nat) : List (Nat × Nat) := rows.flatMap fun r => cols.map (r, ·)

theorem mem_rowCells {rows cols : List Nat} {e : Nat × Nat} : e ∈ rowCells rows cols ↔ e.1 ∈ rows ∧ e.2 ∈ cols := by
  obtain ⟨r, c⟩ := e
  simp [rowCells]

theorem rowCells_places {q : Nat} {rows cols : List Nat} (hr : rows.Nodup) (h64 : ∀ r ∈ rows, r < 64) (hc : cols.Nodup) :
    ((rowCells rows cols).map fun e => accIdx q e.1 e.2).Nodup := by
  have hn : (rowCells rows cols).Nodup := by
    unfold rowCells
    rw [List.nodup_flatMap]
    refine ⟨fun r _ => hc.map fun _ _ h => (Prod.mk.inj h).2, hr.imp fun {x y} hxy => ?_⟩
    intro e hx hy
    obtain ⟨_, -, rfl⟩ := List.mem_map.mp hx
    obtain ⟨_, -, he⟩ := List.mem_map.mp hy
    exact hxy (Prod.mk.inj he).1.symm
  refine hn.map_on fun x hx y hy he => ?_
  obtain ⟨h1, h2⟩ := accIdx_inj (h64 _ (mem_rowCells.mp hx).1) (h64 _ (mem_rowCells.mp hy).1) he
  exact Prod.ext h1 h2

/-- Rows of a slot go through `new`: what each named place then holds, and that no other changes. -/
theorem foldl_mapRow_spec {q : Nat} {rows cols : List Nat} (new : Nat → W32 → W32) (hr : rows.Nodup) (h64 : ∀ r ∈ rows, r < 64) (hc : cols.Nodup)
    (sl : List (Nat × W32)) :
    (∀ r ∈ rows, ∀ c ∈ cols, slotGet (rows.foldl (fun sl r => mapRow sl q r cols new) sl) (accIdx q r c) = new c (slotGet sl (accIdx q r c))) ∧
    ∀ k, (∀ r ∈ rows, ∀ c ∈ cols, k ≠ accIdx q r c) → slotGet (rows.foldl (fun sl r => mapRow sl q r cols new) sl) k = slotGet sl k := by
  rw [foldl_mapRow_eq]
  refine ⟨fun r hrm c hcm => ?_, fun k hk => ?_⟩
  · exact updSlots_named (fun e : Nat × Nat => accIdx q e.1 e.2) (fun e => new e.2) (a := (r, c)) (rowCells_places hr h64 hc) (mem_rowCells.mpr ⟨hrm, hcm⟩)
  · exact updSlots_other _ _ fun e he => hk e.1 (mem_rowCells.mp he).1 e.2 (mem_rowCells.mp he).2

/-- What a reader finds at a column. -/
theorem lane_readRow (sl : List (Nat × W32)) (q row : Nat) (cols : List Nat) {c : Nat} (hc : c < 128) :
    lane (readRow sl q row cols) c = if c ∈ cols then slotGet sl (accIdx q row c) else 0#32 := by
  rw [readRow, lane_packed _ hc]
  simp only [List.contains_iff_mem]

end

section
variable {s : State} {f : FabUnit} {m : MTile} {a : Strip} {reads : Bool} {go : MTile → Nat → State → State} {ks : List Nat}

theorem slotOp_waits (h : s.slotsWait f = true) : s.slotOp f ks a reads go = s := by
  simp only [State.slotOp, h, if_true]

variable (hw : s.slotsWait f = false) (hm : s.mtile? f.key.tile = some m) (hc : f.cfgBad = false) (he : f.eccBad = false)
include hw hm hc he

theorem slotOp_odd (ho : f.auxBits 4 1 = 1 ∧ f.accSlot a % 2 = 1) :
    s.slotOp f ks a reads go = (s.fired f ks).unitFault f.key 0x06 0x08 0 := by
  have ho' : f.accPair = true ∧ f.accSlot a % 2 = 1 := ⟨accPair_iff.mpr ho.1, ho.2⟩
  simp only [State.slotOp, hw, hm, Bool.false_eq_true, if_false, State.firing_eq s ks _ hc he, if_pos ho']

variable (ho : ¬ (f.auxBits 4 1 = 1 ∧ f.accSlot a % 2 = 1))
include ho

theorem slotOp_bad (hb : (reads && m.slotBad (f.auxBits 4 1 == 1) (f.accSlot a)) = true) :
    s.slotOp f ks a reads go = (s.fired f ks).unitFault f.key 0x12 0x03 0 := by
  have ho' : ¬ (f.accPair = true ∧ f.accSlot a % 2 = 1) := fun h => ho ⟨accPair_iff.mp h.1, h.2⟩
  simp only [State.slotOp, hw, hm, Bool.false_eq_true, if_false, State.firing_eq s ks _ hc he, if_neg ho']
  exact if_pos hb

theorem slotOp_fine (hb : (reads && m.slotBad (f.auxBits 4 1 == 1) (f.accSlot a)) = false) :
    s.slotOp f ks a reads go = go m (f.accSlot a) (s.fired f ks) := by
  have ho' : ¬ (f.accPair = true ∧ f.accSlot a % 2 = 1) := fun h => ho ⟨accPair_iff.mp h.1, h.2⟩
  simp only [State.slotOp, hw, hm, Bool.false_eq_true, if_false, State.firing_eq s ks _ hc he, if_neg ho']
  exact if_neg (ne_true_of_eq_false hb)

end

end Sys2Proof.Machine

namespace Sys2Proof.Machine
open Sys2Proof.Claims

section
variable {s t : State} {f : FabUnit} {m : MTile} {a d : Strip}

theorem mtile?_modMtile {k : TKey} (ht : t.mtiles = s.mtiles) (hm : s.mtile? k = some m) (φ : MTile → MTile) (hφ : ∀ x, (φ x).key = x.key) :
    (t.modMtile k φ).mtile? k = some (φ m) := by
  unfold State.mtile? at hm
  unfold State.modMtile State.mtile?
  rw [ht, find?_updWhere _ _ _ _ fun x => by rw [hφ], hm, Option.map_some, if_pos (List.find?_some hm :)]

/-- The places that an address names in some rows of its slot hold what `new` gives; every other place, and memory, is as before. -/
def RowsChange (s : State) (f : FabUnit) (m : MTile) (a : Strip) (rows : Nat → Prop) (new : Nat → W32) (t : State) : Prop :=
  ∃ y, t.mtile? f.key.tile = some y ∧
    (∀ r c, r < 64 → rows r → c ∈ f.accCols a → slotGet y.slots (accIdx (f.accSlot a) r c) = new c) ∧
    (∀ k, (∀ r c, r < 64 → rows r → c ∈ f.accCols a → k ≠ accIdx (f.accSlot a) r c) → slotGet y.slots k = slotGet m.slots k) ∧ t.mem = s.mem

/-- A tile whose named places in `rows` have gone through `new`. -/
def rewritten (f : FabUnit) (a : Strip) (rows : List Nat) (new : Nat → W32 → W32) (bad : List Nat → List Nat) (m : MTile) : MTile :=
  { m with slots := rows.foldl (fun sl r => mapRow sl (f.accSlot a) r (f.accCols a) new) m.slots, badSlots := bad m.badSlots }

theorem rowsChange_rewritten (hm : s.mtile? f.key.tile = some m) (ht : t.mtiles = s.mtiles) (hmem : t.mem = s.mem) {rows : List Nat} (hn : rows.Nodup)
    (h64 : ∀ r ∈ rows, r < 64) (new : Nat → W32 → W32) (bad : List Nat → List Nat) {named : Nat → Prop} {v : Nat → W32}
    (hr : ∀ r, r < 64 → (named r ↔ r ∈ rows)) (hv : ∀ r ∈ rows, ∀ c ∈ f.accCols a, new c (slotGet m.slots (accIdx (f.accSlot a) r c)) = v c) :
    RowsChange s f m a named v (t.modMtile f.key.tile (rewritten f a rows new bad)) := by
  obtain ⟨hin, hout⟩ := foldl_mapRow_spec (q := f.accSlot a) new hn h64 (accCols_nodup f a) m.slots
  refine ⟨_, mtile?_modMtile ht hm (rewritten f a rows new bad) fun _ => rfl, fun r c h hnr hc => ?_, fun k hk => ?_, hmem⟩
  · have hrm := (hr r h).mp hnr
    exact (hin r hrm c hc).trans (hv r hrm c hc)
  · exact hout k fun r hrm c hc => hk r c (h64 r hrm) ((hr r (h64 r hrm)).mpr hrm) hc

end

/-! ### accrd, accwr and accclr by case (R268) -/

section
variable {s : State} {f : FabUnit} {a d : Strip} (ha : f.strip? 0 = some a)
include ha

/-- What an accrd does where nothing is amiss. -/
def accRead (f : FabUnit) (a : Strip) (m : MTile) (q : Nat) (s : State) : State :=
  let t := s.emit f.key 0 (.data (readRow m.slots q (accRow a) (f.accCols a)))
  if f.auxBits 6 1 = 1 then t.modMtile f.key.tile fun m => { m with slots := mapRow m.slots q (accRow a) (f.accCols a) fun _ _ => 0#32 } else t

theorem accrdAct_eq (ho : f.outFree 0 = true) : accrdAct f s = s.slotOp f [0] a true (accRead f a) := by
  simp only [accrdAct, ha, ho, if_true]
  rfl

/-- What an accwr puts at a column. -/
def accNew (f : FabUnit) (d : Strip) (c : Nat) (old : W32) : W32 := if f.auxBits 6 1 = 1 then addF32 old (lane d c) else lane d c

def accWrite (f : FabUnit) (a d : Strip) (_ : MTile) (q : Nat) (s : State) : State :=
  s.modMtile f.key.tile fun m => { m with slots := mapRow m.slots q (accRow a) (f.accCols a) (accNew f d) }

theorem accwrAct_eq (hd : f.strip? 1 = some d) : accwrAct f s = s.slotOp f [0, 1] a (f.auxBits 6 1 == 1) (accWrite f a d) := by
  simp only [accwrAct, ha, hd]
  rfl

/-- The rows that an accclr clears. -/
def clearRows (f : FabUnit) (a : Strip) : List Nat := if f.auxBits 6 1 = 1 then upTo 64 else [accRow a]

/-- A slot that is cleared whole has no error any more. -/
def clearBad (f : FabUnit) (a : Strip) (q : Nat) (l : List Nat) : List Nat :=
  if (clearRows f a).length = 64 ∧ f.auxBits 5 1 = 0 then l.filter fun k => k != q && !(f.accPair && k == q + 1) else l

def accClear (f : FabUnit) (a : Strip) (_ : MTile) (q : Nat) (s : State) : State :=
  s.modMtile f.key.tile fun m => { m with
    slots := (clearRows f a).foldl (fun sl r => mapRow sl q r (f.accCols a) fun _ _ => 0#32) m.slots, badSlots := clearBad f a q m.badSlots }

theorem accclrAct_eq : accclrAct f s = s.slotOp f [0] a false (accClear f a) := by
  simp only [accclrAct, ha]
  rfl

omit ha in
theorem clearRows_spec : (clearRows f a).Nodup ∧ (∀ r ∈ clearRows f a, r < 64) ∧ ∀ r, r < 64 → (f.auxBits 6 1 = 1 ∨ r = accRow a ↔ r ∈ clearRows f a) := by
  unfold clearRows
  split
  next h =>
    exact ⟨List.nodup_range, fun r hr => List.mem_range.mp hr, fun r hr => iff_of_true (.inl h) (List.mem_range.mpr hr)⟩
  next h =>
    exact ⟨List.nodup_singleton _, fun r hr => by rw [List.mem_singleton.mp hr]; exact accRow_lt a, fun r _ => by rw [List.mem_singleton, or_iff_right h]⟩

end

end Sys2Proof.Machine

namespace Sys2Proof.Claims
open Sys2Proof.Machine

section
variable {s : State} {f : FabUnit} {m : MTile} {a d : Strip} (hm : s.mtile? f.key.tile = some m) (ha : f.strip? 0 = some a)
include hm ha

theorem Turn.accwr_writes (h : Turn s f.key 0xB4 f) (hd : f.strip? 1 = some d) (hw : s.slotsWait f = false) (ho : ¬ (f.auxBits 4 1 = 1 ∧ f.accSlot a % 2 = 1))
    (hb : f.auxBits 6 1 = 0 ∨ m.slotBad (f.auxBits 4 1 == 1) (f.accSlot a) = false) :
    RowsChange s f m a (· = accRow a)
      (fun c => if f.auxBits 6 1 = 1 then addF32 (slotGet m.slots (accIdx (f.accSlot a) (accRow a) c)) (lane d c) else lane d c) (accwrAct f s) := by
  have hbad : ((f.auxBits 6 1 == 1) && m.slotBad (f.auxBits 4 1 == 1) (f.accSlot a)) = false := by
    rcases hb with hb | hb
    · rw [hb]; rfl
    · rw [hb, Bool.and_false]
  rw [accwrAct_eq ha hd, slotOp_fine hw hm h.config h.latches ho hbad]
  have hf := h.start.fired [0, 1]
  exact rowsChange_rewritten (rows := [accRow a]) hm (congrArg State.mtiles hf.rest :) hf.mem (List.nodup_singleton _)
    (fun r hr => by rw [List.mem_singleton.mp hr]; exact accRow_lt a) (accNew f d) id (fun r _ => List.mem_singleton.symm)
    fun r hr c _ => by rw [List.mem_singleton.mp hr]; rfl

theorem Turn.accclr_clears (h : Turn s f.key 0xB5 f) (hw : s.slotsWait f = false) (ho : ¬ (f.auxBits 4 1 = 1 ∧ f.accSlot a % 2 = 1)) :
    RowsChange s f m a (fun r => f.auxBits 6 1 = 1 ∨ r = accRow a) (fun _ => 0#32) (accclrAct f s) := by
  rw [accclrAct_eq ha, slotOp_fine hw hm h.config h.latches ho rfl]
  have hf := h.start.fired [0]
  obtain ⟨hn, h64, hr⟩ := clearRows_spec (f := f) (a := a)
  exact rowsChange_rewritten hm (congrArg State.mtiles hf.rest :) hf.mem hn h64 (fun _ _ => 0#32) (clearBad f a (f.accSlot a)) hr fun _ _ _ _ => rfl

theorem Turn.accrd_reads (h : Turn s f.key 0xB3 f) (hout : f.outFree 0 = true) (hw : s.slotsWait f = false) (ho : ¬ (f.auxBits 4 1 = 1 ∧ f.accSlot a % 2 = 1))
    (hb : m.slotBad (f.auxBits 4 1 == 1) (f.accSlot a) = false) :
    (0 < f.outs.length → ((accrdAct f s).unit? f.key).map (fun g => g.slot 0) =
      some (slotWith s f 0 (.data (readRow m.slots (f.accSlot a) (accRow a) (f.accCols a))))) ∧
    (f.auxBits 6 1 = 1 → RowsChange s f m a (· = accRow a) (fun _ => 0#32) (accrdAct f s)) ∧ (f.auxBits 6 1 = 0 → (accrdAct f s).mtiles = s.mtiles) := by
  rw [accrdAct_eq ha hout, slotOp_fine hw hm h.config h.latches ho (by rw [hb]; rfl)]
  have hf := (h.start.fired [0]).emit rfl 0 (.data (readRow m.slots (f.accSlot a) (accRow a) (f.accCols a)))
  have hmt : ((s.fired f [0]).emit f.key 0 (.data (readRow m.slots (f.accSlot a) (accRow a) (f.accCols a)))).mtiles = s.mtiles := (congrArg State.mtiles hf.rest :)
  unfold accRead
  dsimp only
  refine ⟨fun hlen => ?_, fun h1 => ?_, fun h0 => ?_⟩
  · have hu : ∀ t : State, t.units = ((s.fired f [0]).emit f.key 0 (.data (readRow m.slots (f.accSlot a) (accRow a) (f.accCols a)))).units →
        (t.unit? f.key).map (fun g => g.slot 0) = some (slotWith s f 0 (.data (readRow m.slots (f.accSlot a) (accRow a) (f.accCols a)))) := fun t ht => by
      rw [State.unit?, ht, show List.find? _ _ = _ from hf.unit, Option.map_some]
      exact congrArg some (slotWith_eq s f 0 _ hlen).symm
    split
    · exact hu _ rfl
    · exact hu _ rfl
  · rw [if_pos h1]
    exact rowsChange_rewritten (rows := [accRow a]) hm hmt hf.mem (List.nodup_singleton _) (fun r hr => by rw [List.mem_singleton.mp hr]; exact accRow_lt a)
      (fun _ _ => 0#32) id (fun r _ => List.mem_singleton.symm) fun _ _ _ _ => rfl
  · rw [if_neg (by rw [h0]; decide)]
    exact hmt

end

end Sys2Proof.Claims

namespace Sys2Proof.Claims
open Sys2Proof.Machine

/-! ### A pass and its replay, as a turn leaves them (R263, R264) -/

section
variable {s : State} {f : FabUnit} {m : MTile} {n cur k rank p : Nat} {e0 e1 sink : Bool} {ends : List (Nat × Nat)}
  (h : Turn s f.key 0xB2 f) (hm : s.mtile? f.key.tile = some m)
include h hm

section
variable (hst : f.st = .mmac n cur k e0 e1 ((rank, p) :: ends) sink) (ho : m.pass = .opened) (hp : p ≤ n)
include hst ho hp

theorem Turn.pass_turns (hr : (s.geom f).rowsIn m.aStrips.length = 0 ∨ m.lost = true ∨ s.runLost f = true) :
    Acts s (s.modMtile f.key.tile dropped) f [] [] { f with st := .mmac n (f.rotate (s.geom f).pair rank cur) k e0 e1 ends sink } (slabPassAct f s) := by
  rw [slabPass_turns hm hst ho hp hr]
  exact Acts.quiet ((h.start.setSt (.mmac n (f.rotate (s.geom f).pair rank cur) k e0 e1 ends sink)).through (fun x => x.modMtile f.key.tile dropped)
    (fun _ => rfl) fun _ => rfl) rfl rfl rfl

variable (hl : m.lost = false) (hrun : s.runLost f = false) (hr : 0 < (s.geom f).rowsIn m.aStrips.length) (hc : f.commitReady = true)
include hl hrun hr hc

theorem Turn.pass_refetches (ha : m.active.full = false ∨ m.active.rung ≠ 0) :
    (slabPassAct f s).mtile? f.key.tile = some (replayed rank 0 0 (zeroRows ((s.geom f).rowsIn m.aStrips.length) (s.geom f).ns) m) ∧ (slabPassAct f s).mem = s.mem := by
  have hno : ¬ (m.active.full = true ∧ m.active.rung = 0) := fun ⟨h1, h2⟩ => ha.elim (fun h => by rw [h] at h1; cases h1) (· h2)
  rw [slabPass_tries hm hst ho hp hr hl hrun hc h.self]
  dsimp only
  rw [if_neg fun hx => hno ⟨hx.1, hx.2.1⟩, if_neg hno]
  have ht := (onTile_trying h.self (.mmac n cur k e0 e1 ends sink)).modMtile f.key.tile (replayed rank 0 0 (zeroRows ((s.geom f).rowsIn m.aStrips.length) (s.geom f).ns))
  exact ⟨ht.mtile hm fun _ => rfl, ht.mem⟩

variable (hfull : m.active.full = true) (hrung : m.active.rung = 0)
include hfull hrung

theorem Turn.pass_ecc (hb : m.badActive = true) : Faults s f 0x12 0x03 (slabPassAct f s) := by
  rw [slabPass_tries hm hst ho hp hr hl hrun hc h.self]
  dsimp only
  rw [if_pos ⟨hfull, hrung, hb⟩]
  exact (onTile_trying h.self (.mmac n cur k e0 e1 ends sink)).tileEcc rfl rfl h.config h.latches

variable (hb : m.badActive = false) (hd : m.badDelta = false)
include hb hd

theorem Turn.pass_squashes
    (hover : (s.geom f).overBudget 0 { (trial (s.geom f) m).2.2 with canc := (s.geom f).cancellations (trial (s.geom f) m).1 (trial (s.geom f) m).2.1 } = true) :
    (slabPassAct f s).mtile? f.key.tile = some (replayed rank 1 1 (zeroRows (trial (s.geom f) m).1.length (s.geom f).ns) m) ∧ (slabPassAct f s).mem = s.mem := by
  rw [slabPass_tries hm hst ho hp hr hl hrun hc h.self]
  dsimp only
  rw [if_neg fun hx => ne_true_of_eq_false hb hx.2.2, if_pos ⟨hfull, hrung⟩, concludePass_squashes hd hover]
  have ht := ((((onTile_trying h.self (.mmac n cur k e0 e1 ends sink)).countRows { f with st := .mmac n cur k e0 e1 ends sink } (s.geom f) 0
    ((s.geom f).rowsIn m.aStrips.length)).countSquash { f with st := .mmac n cur k e0 e1 ends sink } (s.geom f) 0
    { (trial (s.geom f) m).2.2 with canc := (s.geom f).cancellations (trial (s.geom f) m).1 (trial (s.geom f) m).2.1 }).countAttempt
    { f with st := .mmac n cur k e0 e1 ends sink } (0 + 1)).modMtile f.key.tile (replayed rank (0 + 1) (0 + 1) (zeroRows (trial (s.geom f) m).1.length (s.geom f).ns))
  exact ⟨ht.mtile hm fun _ => rfl, ht.mem⟩

theorem Turn.pass_commits (hs : m.slotBad (s.geom f).pair cur = false)
    (hunder : (s.geom f).overBudget 0 { (trial (s.geom f) m).2.2 with canc := (s.geom f).cancellations (trial (s.geom f) m).1 (trial (s.geom f) m).2.1 } = false) :
    (slabPassAct f s).mtile? f.key.tile = some (committed cur (trial (s.geom f) m).1 m) ∧
    ((slabPassAct f s).unit? f.key).map FabUnit.st = some (.mmac n (f.rotate (s.geom f).pair rank cur) ((k + 1) % 2 ^ 24) e0 e1 ends sink) ∧
    (3 < f.outs.length → ((slabPassAct f s).unit? f.key).map (fun z => z.slot 3) = some (slotWith s f 3 (.doneTok (mmacIter k 0 0 0 0)))) ∧
    (slabPassAct f s).mem = s.mem := by
  rw [slabPass_tries hm hst ho hp hr hl hrun hc h.self]
  dsimp only
  rw [if_neg fun hx => ne_true_of_eq_false hb hx.2.2, if_pos ⟨hfull, hrung⟩, concludePass_commits rfl hd hs hunder]
  have hop : f.op ≠ 0xC1 := by rw [h.code]; decide
  have ht := OnTile.commitPass (g := { f with st := .mmac n cur k e0 e1 ends sink }) (a := s.geom f) (m := m) (rank := rank) (rung := 0) (sq := 0)
    (dm := (trial (s.geom f) m).1) (c := { (trial (s.geom f) m).2.2 with canc := (s.geom f).cancellations (trial (s.geom f) m).1 (trial (s.geom f) m).2.1 })
    ((onTile_trying h.self (.mmac n cur k e0 e1 ends sink)).countRows { f with st := .mmac n cur k e0 e1 ends sink } (s.geom f) 0
      ((s.geom f).rowsIn m.aStrips.length)) rfl hop
  refine ⟨ht.mtile hm fun _ => rfl, ?_, fun hlen => ?_, ht.mem⟩
  · rw [ht.unit, Option.map_some, committer_st rfl]; rfl
  · rw [ht.unit, Option.map_some]
    exact congrArg some (committer_resolve (g := { f with st := .mmac n cur k e0 e1 ends sink }) rfl hlen)

end

section
variable {ri x j sq : Nat} {dm sm : List (List W32)} {c : Counts} (hst : f.st = .mmac n cur k e0 e1 ends sink)
include hst

theorem Turn.replay_rewinds (hp : m.pass = .replay rank ri x j false sq dm sm c) (hf : f.outFree 3 = true) :
    Acts s (s.modMtile f.key.tile (replaying rank ri x j true sq dm sm c)) f [] [(3, slotWith s f 3 (.doneTok (mmacIter k ri x j 1)))] f (slabReplayAct f s) := by
  rw [slabReplay_rewinds hm hst hp hf]
  exact Acts.of (sends := [(3, .doneTok (mmacIter k ri x j 1))]) ((h.start.emit rfl 3 (.doneTok (mmacIter k ri x j 1))).through
    (fun t => t.modMtile f.key.tile (replaying rank ri x j true sq dm sm c)) (fun _ => rfl) fun _ => rfl) rfl rfl (List.nodup_singleton _) rfl

end

end

end Sys2Proof.Claims

namespace Sys2Proof
open Sys2Proof.Machine Sys2Proof.Claims

/-- Settles O49: the pass and the replay by case, then the slot operations, a row of a slot at a time. -/
theorem matrixPasses : Obligations.MatrixPasses := by
  unfold Obligations.MatrixPasses
  intro s u f m hm
  refine ⟨fun n cur k e0 e1 rank p ends sink h hst ho hp => ?_, fun n cur k e0 e1 ends sink rank i x j sq dm sm c h hst => ⟨fun hpass hf => ?_, fun hpass hl => ?_, fun hpass hl ha hc hb hg hj => ?_⟩, fun a ha => ?_⟩
  · obtain rfl := h.key
    have hexec : exec (.slabPass f.key) s = .next (slabPassAct f s) := h.run slabPassAct
    refine ⟨fun hr => next_of hexec (h.pass_turns hm hst ho hp hr), fun hl hrun => ⟨fun hr h64 hc hfull hrung hb hd hs hunder => ?_,
      fun hr hc hfull hrung hb => next_of hexec (h.pass_ecc hm hst ho hp hl hrun hr hc hfull hrung hb), fun hr hc ha => ?_, fun hr hc hfull hrung hb hd hover => ?_⟩⟩
    · obtain ⟨htile, hunit, hsent, hmem⟩ := h.pass_commits hm hst ho hp hl hrun hr hc hfull hrung hb hd hs hunder
      have hlen : (trial (s.geom f) m).1.length ≤ 64 := (subPass_length ..).trans_le h64
      refine next_of hexec ⟨⟨_, htile, rfl, rfl, fun r j v hv => commitSlots_value hlen hv, fun k hk => commitSlots_other fun r j v hv => ?_⟩, hunit, hsent, hmem⟩
      obtain ⟨hr', hj⟩ := subPass_within hv
      exact hk r j hr' hj
    · obtain ⟨htile, hmem⟩ := h.pass_refetches hm hst ho hp hl hrun hr hc ha
      exact next_of hexec ⟨by rw [htile]; rfl, hmem⟩
    · obtain ⟨htile, hmem⟩ := h.pass_squashes hm hst ho hp hl hrun hr hc hfull hrung hb hd hover
      exact next_of hexec ⟨⟨_, htile, rfl, rfl, rfl⟩, hmem⟩
  · obtain rfl := h.key
    exact next_of (h.run slabReplayAct) (h.replay_rewinds hm hst hpass hf)
  · obtain rfl := h.key
    exact (h.run slabReplayAct).trans (congrArg Host.Outcome.next (slabReplay_awaits hm hst hpass hl))
  · obtain rfl := h.key
    refine next_of (h.run slabReplayAct) ?_
    rw [slabReplay_subPass hm hst hpass hl ha hc hb hg hj]
    exact ⟨_, mtile?_modMtile rfl (mtile?_modMtile rfl hm (reloaded _ i _) fun _ => rfl) (replaying rank i x (j + 1) false sq _ _ _) fun _ => rfl, rfl, rfl, rfl, _, _, _, rfl⟩
  · intro slot row named place old only legal bad fine odd
    have hslot : f.accSlot a = slot := accSlot_eq f a
    have hrow : accRow a = row := accRow_eq a
    have hnamed : ∀ c, c ∈ f.accCols a ↔ named c = true := fun c => mem_accCols
    have hlegal : legal → s.slotsWait f = false ∧ ¬ (f.auxBits 4 1 = 1 ∧ f.accSlot a % 2 = 1) := fun h => hslot ▸ h
    have hodd : odd → s.slotsWait f = false ∧ f.auxBits 4 1 = 1 ∧ f.accSlot a % 2 = 1 := fun h => hslot ▸ h
    have hbad : m.slotBad (f.auxBits 4 1 == 1) (f.accSlot a) = bad := by rw [hslot]
    have honly : ∀ {rows : Nat → Prop} {new : Nat → W32} {t : State}, f.key = u → RowsChange s f m a rows new t → only rows new t := by
      rintro rows new t rfl ⟨y, hy, hin, hout, hmem⟩
      rw [hslot] at hin hout
      exact ⟨y, hy, fun r c h64 hr hc => hin r c h64 hr ((hnamed c).mpr hc), fun k hk => hout k fun r c h64 hr hc => hk r c h64 hr ((hnamed c).mp hc), hmem⟩
    refine ⟨fun h ho => ?_, fun h d hd => ?_, fun h => ?_⟩
    · have hkey := h.key
      obtain rfl := hkey
      have hexec : exec (.accrd f.key) s = .next (accrdAct f s) := h.run accrdAct
      refine ⟨fun hw => ?_, fun hx => ?_, fun hx hb => ?_, fun ⟨hx, hb⟩ => ?_⟩
      · rw [hexec, accrdAct_eq ha ho, slotOp_waits hw]
      · obtain ⟨hw, hp⟩ := hodd hx
        rw [accrdAct_eq ha ho, slotOp_odd hw hm h.config h.latches hp] at hexec
        exact next_of hexec (h.faults [0] 0x06 0x08 0)
      · obtain ⟨hw, hp⟩ := hlegal hx
        rw [accrdAct_eq ha ho, slotOp_bad hw hm h.config h.latches hp (by rw [hbad, hb]; rfl)] at hexec
        exact next_of hexec (h.faults [0] 0x12 0x03 0)
      · obtain ⟨hw, hp⟩ := hlegal hx
        obtain ⟨hsent, hclears, hkeeps⟩ := h.accrd_reads hm ha ho hw hp (hbad.trans hb)
        refine next_of hexec ⟨⟨_, hsent, fun c hc => ?_⟩, fun h1 => hrow ▸ honly rfl (hclears h1), hkeeps⟩
        rw [lane_readRow _ _ _ _ hc, hslot, hrow]
        exact if_congr (hnamed c) rfl rfl
    · have hkey := h.key
      obtain rfl := hkey
      have hexec : exec (.accwr f.key) s = .next (accwrAct f s) := h.run accwrAct
      refine ⟨fun hw => ?_, fun hx => ?_, fun hx h1 hb => ?_, fun hx hb => ?_⟩
      · rw [hexec, accwrAct_eq ha hd, slotOp_waits hw]
      · obtain ⟨hw, hp⟩ := hodd hx
        rw [accwrAct_eq ha hd, slotOp_odd hw hm h.config h.latches hp] at hexec
        exact next_of hexec (h.faults [0, 1] 0x06 0x08 0)
      · obtain ⟨hw, hp⟩ := hlegal hx
        rw [accwrAct_eq ha hd, slotOp_bad hw hm h.config h.latches hp (by rw [hbad, hb, h1]; rfl)] at hexec
        exact next_of hexec (h.faults [0, 1] 0x12 0x03 0)
      · obtain ⟨hw, hp⟩ := hlegal hx
        have hdone := honly rfl (h.accwr_writes hm ha hd hw hp (hb.imp_right hbad.trans))
        rw [hrow, hslot] at hdone
        exact next_of hexec hdone
    · have hkey := h.key
      obtain rfl := hkey
      have hexec : exec (.accclr f.key) s = .next (accclrAct f s) := h.run accclrAct
      refine ⟨fun hw => ?_, fun hx => ?_, fun hx => ?_⟩
      · rw [hexec, accclrAct_eq ha, slotOp_waits hw]
      · obtain ⟨hw, hp⟩ := hodd hx
        rw [accclrAct_eq ha, slotOp_odd hw hm h.config h.latches hp] at hexec
        exact next_of hexec (h.faults [0] 0x06 0x08 0)
      · obtain ⟨hw, hp⟩ := hlegal hx
        have hdone := honly rfl (h.accclr_clears hm ha hw hp)
        rw [hrow] at hdone
        exact next_of hexec hdone

end Sys2Proof

namespace Sys2Proof.Machine
open Sys2Proof.Claims

/-! ### Requests on a handle, and what changes them (R107, R203, R206) -/

/-- The handle a word or a step names. -/
def State.handleAt (s : State) (serial h : Nat) : Option Handle := (s.inst? serial).bind fun j => j.handles[h]?

section
variable {s t : State} {serial h idx n : Nat} {a : Handle} {i : Inst} {r x : Request} {f : Request → Request}

theorem handleAt_of (hi : s.inst? serial = some i) (ha : i.handles[h]? = some a) : s.handleAt serial h = some a := by
  rw [State.handleAt, hi]; exact ha

theorem handleAt_congr (hi : t.insts = s.insts) (n h : Nat) : t.handleAt n h = s.handleAt n h := by
  unfold State.handleAt State.inst?; rw [hi]

theorem handleAt_progress (s : State) (n serial h : Nat) : (s.progress n).handleAt serial h = s.handleAt serial h := by
  have hs : ∀ x : Inst, ((x.progressed s.nsec).serial == serial) = (x.serial == serial) := fun _ => rfl
  unfold State.handleAt State.inst? State.progress State.modInst
  rw [find?_updWhere (fun x => x.serial == n) (fun x => x.serial == serial) (Inst.progressed s.nsec) s.insts hs]
  cases s.insts.find? fun x => x.serial == serial with
  | none => rfl
  | some x =>
    show (if x.serial == n then x.progressed s.nsec else x).handles[h]? = x.handles[h]?
    split <;> rfl

theorem handleAt_modHandle (ha : s.handleAt serial h = some a) (φ : Handle → Handle) : (s.modHandle serial h φ).handleAt serial h = some (φ a) := by
  obtain ⟨i, hi, hh⟩ := Option.bind_eq_some_iff.mp ha
  exact handle_modHandle hi hh φ

/-- The request that goes through `f`, by its place on the handle. -/
theorem reqs_modReq (ha : s.handleAt serial h = some a) (hr : a.reqs[idx]? = some r) (f : Request → Request) :
    ((s.modReq serial h r.id f).handleAt serial h).bind (fun x => x.reqs[idx]?) = some (f r) := by
  rw [State.modReq, handleAt_modHandle ha]
  simp [updWhere, hr]

/-- What a response makes of its request. -/
def Request.answered (cause sub done : Nat) (faddr : W64) (members : Nat) (a : Request) : Request :=
  { a with resp := some (respStrip cause sub a.tag done faddr members), wait := none, buf := none, told := !(a.nv || a.fabric) }

theorem respond_eq (s : State) (n h : Nat) (r : Request) (c b d : Nat) (v : W64) (m : Nat) :
    s.respond n h r c b d v m = (s.progress n).modReq n h r.id (Request.answered c b d v m) := rfl

/-- The request at `idx` has responded. -/
theorem respond_resp (hi : t.insts = s.insts) (ha : s.handleAt serial h = some a) (hr : a.reqs[idx]? = some r) (c b d : Nat) (v : W64) (m : Nat) :
    (((t.respond serial h r c b d v m).handleAt serial h).bind fun x => x.reqs[idx]?).map Request.resp = some (some (respStrip c b r.tag d v m)) := by
  have ha' : (t.progress serial).handleAt serial h = some a := by rw [handleAt_progress, handleAt_congr hi, ha]
  rw [respond_eq, reqs_modReq ha' hr]; rfl

/-! ### An engine's step on a request (R107, R204, R206) -/

/-- No response is due while every request untold is without one. -/
theorem tellDone_none (s : State) (i : Inst) (h : Nat) (ht : ∀ x ∈ a.reqs, x.told = false → x.resp = none) : s.tellDone i h a = none := by
  unfold State.tellDone
  cases hf : a.reqs.find? fun r => !r.told with
  | none => rfl
  | some x =>
    have hx : x.told = false := by simpa using List.find?_some hf
    simp only [ht x (List.mem_of_find?_eq_some hf) hx]

/-- A request of a resident instance that has not responded and may start has the engine's step. -/
structure Serves (s : State) (serial h idx : Nat) (i : Inst) (a : Handle) (r : Request) : Prop where
  inst : s.inst? serial = some i
  handle : i.handles[h]? = some a
  req : a.reqs[idx]? = some r
  told : ∀ x ∈ a.reqs, x.told = false → x.resp = none
  placed : i.region ≠ []
  open_ : r.resp = none
  may : a.mayStart r = true

theorem Serves.handleAt (v : Serves s serial h idx i a r) : s.handleAt serial h = some a := handleAt_of v.inst v.handle

theorem Serves.serial_eq (v : Serves s serial h idx i a r) : i.serial = serial := State.inst?_serial v.inst

theorem engineUnit_starts (v : Serves s serial h idx i a r) (hm : r.member ≤ 6) (hs : r.started = false) :
    s.engineUnit serial h idx = s.startReq i h r := by
  simp [State.engineUnit, v.inst, v.handle, tellDone_none s i h v.told, v.req, v.placed, v.open_, v.may, hm, hs]

theorem engineUnit_moves (v : Serves s serial h idx i a r) (hm : r.member ≤ 3) (hs : r.started = true) (hw : r.wait = none) :
    s.engineUnit serial h idx = s.moveUnit i h r := by
  have hm' : ¬ 6 < r.member := by omega
  simp [State.engineUnit, v.inst, v.handle, tellDone_none s i h v.told, v.req, v.placed, v.open_, v.may, hm, hm', hs, hw]

end
end Sys2Proof.Machine

namespace Sys2Proof.Machine
open Sys2Proof.Claims

/-! ### Windows stand where they stood (R86, R89, R416) -/

theorem leafPlace_ne_win (e : W64) (n va : Nat) (p : Pool) (o : Nat) : leafPlace e n va ≠ .win p o := by
  unfold leafPlace
  dsimp only
  split <;> exact fun h => Place.noConfusion h

section
variable {s t u : State} {w : Who} {acc : Acc} {va : W64} {pool : Pool} {o : Nat}

theorem translate_ne_win (s : State) (w : Who) (acc : Acc) (va : W64) (pool : Pool) (o : Nat) (u : State) :
    s.translate w acc va ≠ .ok (.win pool o) u := by
  unfold State.translate
  cases s.translation w.part (va.toNat % 2 ^ 57) w.user acc with
  | mk x v =>
    cases x with
    | fail c b => exact fun h => nomatch h
    | leaf e n =>
      dsimp only
      cases permFault e w.user acc with
      | some b => exact fun h => nomatch h
      | none => exact fun h => leafPlace_ne_win e n _ pool o (Ans.ok.inj h).1

/-- A window address leads to the same place while the partitions have the slices they had. -/
theorem resolve_window (h : s.resolve w acc va = .ok (.win pool o) u) (hs : t.scratch w.part = s.scratch w.part) :
    t.resolve w acc va = .ok (.win pool o) t := by
  unfold State.resolve at h ⊢
  rw [hs]
  split at h
  · nomatch h
  · rename_i hc
    rw [if_neg hc]
    split at h
    · split at h
      · nomatch h
      · exact absurd h (translate_ne_win s w acc va pool o u)
    · rename_i h56
      rw [if_neg h56]
      split at h
      · rename_i hw
        rw [if_pos hw]
        split at h
        · nomatch h
        · rename_i hx
          rw [if_neg hx]
          cases hr : regionTile w.region (fieldN va 22 9) with
          | none => rw [hr] at h; nomatch h
          | some k => rw [hr] at h; dsimp only at h ⊢; rw [(Ans.ok.inj h).1]
      · rename_i hw
        rw [if_neg hw]
        split at h
        · rename_i hw
          rw [if_pos hw]
          split at h
          · nomatch h
          · rename_i hx
            rw [if_neg hx]
            cases hr : (s.scratch w.part)[fieldN va 24 6]? with
            | none => rw [hr] at h; nomatch h
            | some k => rw [hr] at h; dsimp only at h ⊢; rw [(Ans.ok.inj h).1]
        · split at h
          · nomatch h
          · exact absurd h (translate_ne_win s w acc va pool o u)

/-- The slices' roles and each partition's slices are as before. -/
structure SameSlices (s t : State) : Prop where
  srole : t.sys.srole = s.sys.srole
  slices : ∀ p, (t.part p).slices = (s.part p).slices

theorem SameSlices.refl (s : State) : SameSlices s s := ⟨rfl, fun _ => rfl⟩

theorem SameSlices.trans (h : SameSlices s t) (k : SameSlices t u) : SameSlices s u :=
  ⟨k.srole.trans h.srole, fun p => (k.slices p).trans (h.slices p)⟩

theorem SameSlices.scratch_eq (h : SameSlices s t) (p : Nat) : t.scratch p = s.scratch p := by
  unfold State.scratch; rw [h.srole, h.slices]

theorem sameSlices_modPart (s : State) (p : Nat) {φ : Part → Part} (hφ : ∀ a, (φ a).slices = a.slices) : SameSlices s (s.modPart p φ) := by
  refine ⟨rfl, fun q => ?_⟩
  show ((updAt s.parts p φ)[q]?.getD Part.reset).slices = ((s.parts[q]?).getD Part.reset).slices
  rw [updAt_getElem?]
  split
  · cases s.parts[q]? with
    | none => rfl
    | some a => exact hφ a
  · rfl

theorem sameSlices_nextKey (s : State) (n : Nat) : SameSlices s { s with nextKey := n } := ⟨rfl, fun _ => rfl⟩

theorem sameSlices_switchKey (s : State) (p : Nat) : SameSlices s (s.switchKey p) := by
  unfold State.switchKey
  dsimp only
  split
  · exact .refl s
  · refine (sameSlices_modPart s p ?_).trans (sameSlices_nextKey _ _)
    exact fun _ => rfl

theorem sameSlices_number (s : State) (p router kind : Nat) : SameSlices s (s.number p router kind).2 := by
  have h (c : TransitChan) : SameSlices s (s.modPart p fun a => a.setChan c) := sameSlices_modPart s p fun _ => rfl
  unfold State.number
  dsimp only
  split
  · exact (h _).trans (sameSlices_switchKey _ p)
  · exact h _

theorem sameSlices_opened (s : State) (p router kind gen n : Nat) : SameSlices s (s.opened p router kind gen n) := by
  refine sameSlices_modPart s p ?_
  exact fun _ => rfl

theorem sameSlices_crossing (s : State) (p q r : Nat) : SameSlices s (s.crossing p q r) := by
  unfold State.crossing
  dsimp only
  split
  · exact (((sameSlices_number s p _ 1).trans (sameSlices_opened _ p _ 1 _ _)).trans (sameSlices_number _ p _ 2)).trans
      (sameSlices_opened _ p _ 2 _ _)
  · exact .refl s

theorem sameSlices_sealedTo (s : State) (w : Who) (pool : Pool) : SameSlices s (s.sealedTo w pool) := by
  unfold State.sealedTo
  cases pool.quire? with
  | none => exact .refl s
  | some q => exact sameSlices_crossing s _ _ _

end

/-! ### One unit of a transfer between windows (R94, R204) -/

section
variable {s t u : State} {h idx c b : Nat} {i : Inst} {a : Handle} {r : Request} {pool : Pool} {o n : Nat} {va : W64} {l : List Byte}

theorem hbmAt_window (hd : s.resolve i.who .store va = .ok (.win pool o) u) : s.hbmAt i va = none := by
  rw [State.hbmAt, hd]

theorem wholeTile_window (hd : s.resolve i.who .store va = .ok (.win pool o) u) (n : Nat) : s.wholeTile i va n = false := by
  simp [State.wholeTile, hbmAt_window hd]

theorem unitSize_window (hd : s.resolve i.who .store r.dstAt = .ok (.win pool o) u) (hw : inWindow r.dstAt = true) : s.unitSize i r = 512 := by
  simp [State.unitSize, wholeTile_window hd, hw]

theorem unitSize_pos (s : State) (i : Inst) (r : Request) : 0 < s.unitSize i r := by
  unfold State.unitSize
  split
  · exact Nat.zero_lt_succ _
  · split <;> exact Nat.zero_lt_succ _

theorem piece_window (hw : inWindow r.dstAt = true) : r.piece = 512 := by
  simp [Request.piece, hw]

theorem overlay_window (hd : s.resolve i.who .store r.dstAt = .ok (.win pool o) u) (va : W64) (l : List Byte) : s.overlay i r va l = l := by
  rw [State.overlay, hbmAt_window hd]
  cases s.hbmAt i va <;> rfl

theorem writeUnit_window (hd : s.resolve i.who .store r.dstAt = .ok (.win pool o) s) (hk : ¬ Claims.Held s i.who pool) (l : List Byte) :
    s.writeUnit i h r l = ((s.put (pool.mem o) l).sealedTo i.who pool).advance i h r l.length := by
  rw [held_iff] at hk
  rw [State.writeUnit, State.engWrite_win r.ver l hd, if_neg hk]

theorem moveUnit_done (hp : r.total ≤ r.pos) :
    s.moveUnit i h r = s.respond i.serial h r 0 0 (if r.indexed then r.count else r.total) 0 0 := by
  rw [State.moveUnit, if_pos hp]

theorem moveUnit_fill (hp : r.pos < r.total) (hm : r.member = 3) :
    s.moveUnit i h r = s.writeUnit i h r (fillBytes r.src (s.unitSize i r)) := by
  have hx : r.indexed = false := by simp [Request.indexed, hm]
  simp [State.moveUnit, hp, hx, hm]

/-- A copy with nothing in its buffer reads the next piece. -/
theorem moveUnit_reads (hp : r.pos < r.total) (hm : r.member = 0) (hb : r.buf = none) (e : Got × State) (he : s.engRead i r.ver r.srcAt r.piece = e) :
    (e.1 = .hold → s.moveUnit i h r = e.2) ∧ (∀ c b, e.1 = .bad c b → s.moveUnit i h r = e.2.failReq i.serial h r c b r.srcAt) ∧
      (∀ l, e.1 = .bytes l → s.moveUnit i h r = (e.2.progress i.serial).takeBytes i h r (e.2.overlay i r r.srcAt l)) := by
  have hx : r.indexed = false := by simp [Request.indexed, hm]
  have hu := Nat.ne_of_gt (unitSize_pos s i r)
  obtain ⟨g, u⟩ := e
  refine ⟨?_, ?_, ?_⟩
  · rintro rfl; simp [State.moveUnit, hp, hx, hm, hb, hu, w64, he]
  · rintro c b rfl; simp [State.moveUnit, hp, hx, hm, hb, hu, w64, he, State.flushUnits]
  · rintro l rfl; simp [State.moveUnit, hp, hx, hm, hb, hu, w64, he]

/-- The request that has moved n bytes on. -/
def Request.moved (r : Request) (n : Nat) : Request := { r with pos := r.pos + n }

theorem advance_mem (s : State) (i : Inst) (h : Nat) (r : Request) (n : Nat) : (s.advance i h r n).mem = s.mem := rfl

theorem advance_moved (ha : s.handleAt i.serial h = some a) (hr : a.reqs[idx]? = some r) (hx : r.indexed = false) (hw : r.wait = none)
    (hb : r.buf = none) (n : Nat) : ((s.advance i h r n).handleAt i.serial h).bind (fun x => x.reqs[idx]?) = some (r.moved n) := by
  unfold State.advance
  dsimp only
  rw [reqs_modReq (by rw [handleAt_progress]; exact ha) hr]
  simp only [hx, Bool.false_and, Bool.false_eq_true, if_false, Request.moved, ← hw, ← hb]

end
end Sys2Proof.Machine

namespace Sys2Proof.Machine
open Sys2Proof.Claims

/-! ### What an engine's step does with a request (R115, R203, R204, R206, R417) -/

section
variable {s t u : State} {serial h idx : Nat} {i : Inst} {a : Handle} {r : Request} {p p' : Pool} {o o' : Nat}

/-- The request at a place of a handle. -/
def State.reqAt (s : State) (serial h idx : Nat) : Option Request := (s.handleAt serial h).bind fun x => x.reqs[idx]?

/-- The request at a place has responded. -/
def Responded (serial h idx : Nat) (r : Request) (c b d : Nat) (va : W64) (t : State) : Prop :=
  (t.reqAt serial h idx).map Request.resp = some (some (respStrip c b r.tag d va 0))

theorem Serves.responded (v : Serves s serial h idx i a r) (hi : t.insts = s.insts) (c b d : Nat) (va : W64) :
    Responded serial h idx r c b d va (t.respond serial h r c b d va 0) := respond_resp hi v.handleAt v.req c b d va 0

/-- The checks of a request (R204). -/
theorem Serves.starts (v : Serves s serial h idx i a r) (hm : r.member ≤ 6) (hs : r.started = false) :
    (s.requestOk i r = false → s.engineUnit serial h idx = s.respond serial h r 0x01 0x01 0 0 0) ∧
    (s.requestOk i r = true → r.member ≠ 5 → r.total = 0 → s.engineUnit serial h idx = s.respond serial h r 0 0 0 0 0) ∧
    (s.requestOk i r = true → r.member = 5 ∨ r.total ≠ 0 →
      s.engineUnit serial h idx = s.modReq serial h r.id fun a => { a with started := true }) := by
  rw [engineUnit_starts v hm hs, ← v.serial_eq, State.startReq]
  refine ⟨fun hb => ?_, fun hb h5 h0 => ?_, fun hb hn => ?_⟩
  · rw [if_pos (by rw [hb]; rfl)]
  · rw [if_neg (by rw [hb]; exact Bool.false_ne_true), if_pos (by simp [h5, h0])]
  · rw [if_neg (by rw [hb]; exact Bool.false_ne_true), if_neg (by simp only [bne, Bool.and_eq_true, Bool.not_eq_true', beq_eq_false_iff_ne, beq_iff_eq]; omega)]

/-- A copy or fill at its full length has done (R115, R204). -/
theorem Serves.finishes (v : Serves s serial h idx i a r) (hm : r.member = 0 ∨ r.member = 3) (hs : r.started = true) (hw : r.wait = none)
    (hp : r.len ≤ r.pos) : s.engineUnit serial h idx = s.respond serial h r 0 0 r.len 0 0 := by
  have hx : r.indexed = false := by rcases hm with hm | hm <;> simp [Request.indexed, hm]
  have ht : r.total = r.len := by simp [Request.total, hx]
  rw [engineUnit_moves v (by omega) hs hw, moveUnit_done (by omega), v.serial_eq, hx, ht]; rfl

/-- A copy that has begun, with bytes left and nothing in its buffer (R204). -/
structure Copies (s : State) (serial h idx : Nat) (i : Inst) (a : Handle) (r : Request) : Prop extends Serves s serial h idx i a r where
  member : r.member = 0
  started : r.started = true
  wait : r.wait = none
  buf : r.buf = none
  left : r.pos < r.len

theorem Copies.indexed (v : Copies s serial h idx i a r) : r.indexed = false := by simp [Request.indexed, v.member]

theorem Copies.reads (v : Copies s serial h idx i a r) (e : Got × State) (he : s.engRead i r.ver r.srcAt r.piece = e) :
    (e.1 = .hold → s.engineUnit serial h idx = e.2) ∧
      (∀ c b, e.1 = .bad c b → s.engineUnit serial h idx = e.2.respond serial h r c b r.pos r.srcAt 0) ∧
      (∀ l, e.1 = .bytes l → s.engineUnit serial h idx = (e.2.progress serial).takeBytes i h r (e.2.overlay i r r.srcAt l)) := by
  have hp : r.pos < r.total := by rw [Request.total, v.indexed]; exact v.left
  have hw : r.written = r.pos := by rw [Request.written, v.indexed]; rfl
  have hf : ∀ (t : State) (c b : Nat) (va : W64), t.failReq serial h r c b va = t.respond serial h r c b r.pos va 0 :=
    fun t c b va => by rw [State.failReq, hw]
  have := moveUnit_reads (s := s) (h := h) (i := i) hp v.member v.buf e he
  rwa [v.serial_eq, ← engineUnit_moves v.toServes (by rw [v.member]; exact Nat.zero_le 3) v.started v.wait,
    show (∀ c b, e.1 = .bad c b → s.engineUnit serial h idx = e.2.failReq serial h r c b r.srcAt) ↔
      ∀ c b, e.1 = .bad c b → s.engineUnit serial h idx = e.2.respond serial h r c b r.pos r.srcAt 0 by simp only [hf]] at this

/-- A source that does not translate ends the copy (R115). -/
theorem Copies.traps (v : Copies s serial h idx i a r) {x : Trap} (ht : s.resolve i.who .load r.srcAt = .trap x s) :
    s.engineUnit serial h idx = (s.noteEcc x.cause).respond serial h r x.cause x.sub r.pos r.srcAt 0 :=
  (v.reads _ rfl).2.1 _ _ (by rw [State.engRead, ht]) |>.trans (by rw [State.engRead, ht])

/-- A source whose router has used up its numbers holds the copy (R417). -/
theorem Copies.holds (v : Copies s serial h idx i a r) (hr : s.resolve i.who .load r.srcAt = .ok (.win p o) s) (hk : Claims.Held s i.who p) :
    s.engineUnit serial h idx = s := by
  have he := State.engRead_win r.ver r.piece hr
  rw [if_pos ((held_iff s i.who p).mp hk)] at he
  exact (v.reads _ he).1 rfl

/-- A source strip with an uncorrectable error ends the copy (R115). -/
theorem Copies.poisoned (v : Copies s serial h idx i a r) (hr : s.resolve i.who .load r.srcAt = .ok (.win p o) s) (hk : ¬ Claims.Held s i.who p)
    (hd : inWindow r.dstAt = true) (hp : s.poisoned (p.mem o) 512 = true) :
    s.engineUnit serial h idx = (s.noteEcc 0x12).respond serial h r 0x12 0x03 r.pos r.srcAt 0 := by
  have he := State.engRead_win r.ver r.piece hr
  rw [if_neg fun hc => hk ((held_iff s i.who p).mpr hc), piece_window hd, if_pos hp] at he
  rw [← piece_window hd] at he
  exact (v.reads _ he).2.1 _ _ rfl

/-- A whole unit that has come is written at once. -/
theorem takeBytes_whole {l : List Byte} (hb : r.buf = none) (hl : l.length = s.unitSize i r) : s.takeBytes i h r l = s.writeUnit i h r l := by
  simp [State.takeBytes, hb, hl]

/-- A strip goes from window to window (R204, R416). -/
theorem Copies.moves (v : Copies s serial h idx i a r) (hr : s.resolve i.who .load r.srcAt = .ok (.win p o) s)
    (hw : s.resolve i.who .store r.dstAt = .ok (.win p' o') s) (hk : ¬ Claims.Held s i.who p) (hk' : ¬ Claims.Held (s.sealedTo i.who p) i.who p')
    (hd : inWindow r.dstAt = true) (hp : s.poisoned (p.mem o) 512 = false) :
    s.engineUnit serial h idx = ((((s.sealedTo i.who p).progress serial).put (p'.mem o') (s.bytes (p.mem o) 512)).sealedTo i.who p').advance i h r 512 := by
  have he := State.engRead_win r.ver r.piece hr
  have hs := sameSlices_sealedTo s i.who p
  have hw' : (s.sealedTo i.who p).resolve i.who .store r.dstAt = .ok (.win p' o') (s.sealedTo i.who p) := resolve_window hw (hs.scratch_eq _)
  have hw'' : ((s.sealedTo i.who p).progress serial).resolve i.who .store r.dstAt = .ok (.win p' o') ((s.sealedTo i.who p).progress serial) :=
    resolve_window hw' rfl
  have hl : (s.bytes (p.mem o) 512).length = 512 := memBytes_length _ _ _
  rw [if_neg fun hc => hk ((held_iff s i.who p).mpr hc), piece_window hd, if_neg (by rw [hp]; exact Bool.false_ne_true)] at he
  rw [← piece_window hd] at he
  rw [(v.reads _ he).2.2 _ rfl, piece_window hd]
  show ((s.sealedTo i.who p).progress serial).takeBytes i h r ((s.sealedTo i.who p).overlay i r r.srcAt (s.bytes (p.mem o) 512)) = _
  rw [overlay_window hw', takeBytes_whole v.buf (by rw [unitSize_window hw'' hd, hl]), writeUnit_window hw'' hk', hl]

/-- The request of a strip that was written is so many bytes on. -/
theorem Serves.advanced (v : Serves s serial h idx i a r) (ha : t.handleAt serial h = some a) (hx : r.indexed = false)
    (hw : r.wait = none) (hb : r.buf = none) (n : Nat) : (t.advance i h r n).reqAt serial h idx = some (r.moved n) := by
  rw [← v.serial_eq] at ha ⊢
  exact advance_moved ha v.req hx hw hb n

/-- A put that is sealed to its window: the bytes, and the handles as they were. -/
theorem sealedPut_spec (s : State) (w : Who) (p : Pool) (x : Nat) (l : List Byte) :
    ((s.put x l).sealedTo w p).mem = memPut s.mem x l ∧ ∀ serial h, ((s.put x l).sealedTo w p).handleAt serial h = s.handleAt serial h :=
  ⟨(alike_sealedTo (s.put x l) w p).mem, handleAt_congr (alike_sealedTo (s.put x l) w p).insts⟩

end

/-! ### A fill (R204) -/

theorem fillBytes_length (v : W64) (n : Nat) : (fillBytes v (8 * n)).length = 8 * n := by
  simp [fillBytes, natBytes_length, Nat.mul_comm]

theorem flatMap_replicate_getElem? {α : Type} (l : List α) (hl : l.length = 8) : ∀ (n k : Nat), k < 8 * n →
    ((List.replicate n l).flatMap id)[k]? = l[k % 8]?
  | 0, k, hk => absurd hk (Nat.not_lt_zero k)
  | n + 1, k, hk => by
    rw [List.replicate_succ, List.flatMap_cons, id]
    by_cases h8 : k < 8
    · rw [List.getElem?_append_left (by omega), Nat.mod_eq_of_lt h8]
    · rw [List.getElem?_append_right (by omega), hl, flatMap_replicate_getElem? l hl n (k - 8) (by omega), ← Nat.mod_eq_sub_mod (Nat.le_of_not_lt h8)]

/-- Byte k of a fill is byte k mod 8 of its pattern. -/
theorem fillBytes_getElem? (v : W64) (n k : Nat) (hk : k < 8 * n) : (fillBytes v (8 * n))[k]? = some (v.extractLsb' (8 * (k % 8)) 8) := by
  have hl : (natBytes 8 v.toNat).length = 8 := natBytes_length _ _
  have h8 : k % 8 < (natBytes 8 v.toNat).length := hl ▸ Nat.mod_lt k (by omega)
  rw [fillBytes, Nat.mul_div_cancel_left _ (by omega), flatMap_replicate_getElem? _ hl n k hk, List.getElem?_eq_getElem h8, getElem_natBytes, byte_of_word]

section
variable {s : State} {serial h idx : Nat} {i : Inst} {a : Handle} {r : Request} {p : Pool} {o : Nat}

theorem Serves.fills (v : Serves s serial h idx i a r) (hm : r.member = 3) (hs : r.started = true) (hw : r.wait = none) (hp : r.pos < r.len)
    (hd : inWindow r.dstAt = true) (hr : s.resolve i.who .store r.dstAt = .ok (.win p o) s) (hk : ¬ Claims.Held s i.who p) :
    s.engineUnit serial h idx = ((s.put (p.mem o) (fillBytes r.src 512)).sealedTo i.who p).advance i h r 512 := by
  have ht : r.pos < r.total := by simpa [Request.total, Request.indexed, hm] using hp
  rw [engineUnit_moves v (by omega) hs hw, moveUnit_fill ht hm, unitSize_window hr hd, writeUnit_window hr hk, fillBytes_length r.src 64]

/-- The bytes of a fill, and what it leaves. -/
theorem memRead_fill (hm : Memory.wf s.mem = true) (v : W64) (x : Nat) :
    (∀ k < 512, memRead (memPut s.mem x (fillBytes v 512)) (x + k) = v.extractLsb' (8 * (k % 8)) 8) ∧
      ∀ k, k < x ∨ x + 512 ≤ k → memRead (memPut s.mem x (fillBytes v 512)) k = memRead s.mem k := by
  have hl : (fillBytes v 512).length = 512 := fillBytes_length v 64
  refine ⟨fun k hk => ?_, fun k hk => memRead_memPut_outside _ _ _ _ (by omega)⟩
  have hb := memBytes_memPut (fillBytes v 512) s.mem x hm
  have hk' : k < (memBytes (memPut s.mem x (fillBytes v 512)) x (fillBytes v 512).length).length := by rw [memBytes_length, hl]; exact hk
  rw [← getElem_memBytes _ _ x k hk']
  refine Option.some.inj ?_
  rw [← List.getElem?_eq_getElem hk', hb, fillBytes_getElem? v 64 k hk]

end
end Sys2Proof.Machine

namespace Sys2Proof.Machine
open Sys2Proof.Claims

/-! ### A request token from the fabric (R46, R206) -/

section
variable {s : State} {n h folio port e : Nat} {r : Route} {i : Inst} {q : Handle} {v : Strip}

/-- A data token at the end of a route to an out port that nothing takes, and an engine's handle. -/
structure RequestToken (s : State) (n h : Nat) (r : Route) (folio port : Nat) (i : Inst) (q : Handle) (e : Nat) (v : Strip) : Prop where
  route : s.routes.find? (fun r => r.id == n) = some r
  dst : r.dst = .port folio port
  inst : s.inst? r.serial = some i
  pop : i.popHandle folio port = none
  chains : ∀ c ∈ i.chains, (c.1, c.2.1) ≠ (folio, port)
  attns : ∀ a ∈ s.attns, a.serial = r.serial → a.folio = folio → a.qport ≠ port
  token : s.hopToken r r.hops.length = some (.data v)
  handle : i.handles[h]? = some q
  bind : q.bind = .engine e

/-- No pop stream, chain or pipeline takes the port's tokens. -/
theorem RequestToken.untaken (w : RequestToken s n h r folio port i q e v) :
    ((i.popHandle folio port).isSome || (i.chains.any fun c => c.1 == folio && c.2.1 == port) ||
      s.attns.any fun a => a.serial == r.serial && a.folio == folio && a.qport == port) = false := by
  have hc : (i.chains.any fun c => c.1 == folio && c.2.1 == port) = false :=
    List.any_eq_false.mpr fun c hc => by simpa [Prod.ext_iff] using w.chains c hc
  have ha : (s.attns.any fun a => a.serial == r.serial && a.folio == folio && a.qport == port) = false :=
    List.any_eq_false.mpr fun a ha => by simpa using w.attns a ha
  rw [w.pop, hc, ha]; rfl

/-- The state whose handle has one request more. -/
def State.queued (s : State) (serial h : Nat) (q : Request) : State :=
  ({ s with nextId := s.nextId + 1 } : State).modHandle serial h fun a => { a with reqs := a.reqs ++ [q] }

theorem RequestToken.waits (w : RequestToken s n h r folio port i q e v) (hl : 32 ≤ q.reqs.length) : s.requestToken n h = s := by
  simp only [State.requestToken, w.route, w.dst, w.inst, w.token, w.untaken, Bool.false_eq_true, if_false, w.handle, Option.getD_some, w.bind, if_pos hl]

theorem RequestToken.arrives (w : RequestToken s n h r folio port i q e v) (hl : q.reqs.length < 32) : s.requestToken n h =
    (s.queued r.serial h (Request.new s.nextId e (v.extractLsb' 0 512) (v.extractLsb' 512 64) false true i.active)).hopLeave r r.hops.length := by
  simp only [State.requestToken, w.route, w.dst, w.inst, w.token, w.untaken, Bool.false_eq_true, if_false, w.handle, Option.getD_some, w.bind,
    if_neg (Nat.not_le_of_lt hl)]
  rfl

theorem queued_handle (hi : s.inst? r.serial = some i) (hq : i.handles[h]? = some q) (x : Request) :
    (s.queued r.serial h x).handleAt r.serial h = some { q with reqs := q.reqs ++ [x] } :=
  handleAt_modHandle (s := { s with nextId := s.nextId + 1 }) (handleAt_of hi hq) _

theorem refill_nextId (s : State) (serial folio port : Nat) : (s.refill serial folio port).nextId = s.nextId := by
  unfold State.refill
  cases s.port? serial folio port with
  | none => rfl
  | some p =>
    dsimp only
    cases p.slot.tok with
    | some _ => rfl
    | none =>
      cases p.q with
      | nil => rfl
      | cons c q =>
        dsimp only
        split
        · rfl
        · split <;> rfl

theorem hopLeave_nextId (s : State) (r : Route) (k : Nat) : (s.hopLeave r k).nextId = s.nextId := by
  rcases Nat.eq_zero_or_pos k with rfl | hk
  · cases hs : r.src with
    | unit v io => rw [hopLeave_unit hs]; rfl
    | port a b => rw [hopLeave_port hs, refill_nextId]; rfl
  · rw [hopLeave_succ hk]; rfl

/-- The arrived request stands last on its handle; memory is as before. -/
theorem RequestToken.next (w : RequestToken s n h r folio port i q e v) (hl : q.reqs.length < 32) :
    Next (exec (.engineRequestToken n h) s) fun t => t.nextId = s.nextId + 1 ∧ t.mem = s.mem ∧ (t.handleAt r.serial h).map Handle.reqs =
      some (q.reqs ++ [Request.new s.nextId e (v.extractLsb' 0 512) (v.extractLsb' 512 64) false true i.active]) := by
  obtain ⟨hi, hm⟩ := hopLeave_frame (s.queued r.serial h
    (Request.new s.nextId e (v.extractLsb' 0 512) (v.extractLsb' 512 64) false true i.active)) r r.hops.length
  refine next_of (congrArg Host.Outcome.next (w.arrives hl)) ⟨hopLeave_nextId _ _ _, hm, ?_⟩
  rw [handleAt_congr hi, queued_handle w.inst w.handle]; rfl

end

/-! ### A token unit and its queue (R107, R327) -/

section
variable {s : State} {k : Nat} {w : TokUnit}

/-- A unit whose entries all wait behind earlier requests serves none. -/
theorem tokServed_none (hw : s.tokUnits[k]? = some w)
    (hq : ∀ e ∈ w.queue, ∃ x, s.tokEntry e = some x ∧ x.2.2.2.started = false ∧ x.2.2.1.mayStart x.2.2.2 = false) : s.tokServed k = none := by
  have hstart : w.queue.find? (fun e => ((s.tokEntry e).map fun x => x.2.2.2.started).getD false) = none :=
    List.find?_eq_none.mpr fun e he => by obtain ⟨x, hx, hst, -⟩ := hq e he; simp [hx, hst]
  have hmay : w.queue.find? (fun e => ((s.tokEntry e).map fun x => x.2.2.1.mayStart x.2.2.2).getD true) = none :=
    List.find?_eq_none.mpr fun e he => by obtain ⟨x, hx, -, hm⟩ := hq e he; simp [hx, hm]
  rw [State.tokServed, hw, Option.bind_some, State.tokServes, hstart, hmay]; rfl

theorem tokStep_idle (h : s.tokServed k = none) : s.tokStep k = s := by
  rw [State.tokStep, h]

end
end Sys2Proof.Machine

namespace Sys2Proof.Machine
open Sys2Proof.Claims

/-! ### The request a token unit serves (R107, R326, R327) -/

/-- A request of a handle, by its number. -/
def State.reqOf (s : State) (serial h id : Nat) : Option Request := (s.handleAt serial h).bind fun x => x.reqs.find? fun y => y.id == id

theorem reqOf_progress (s : State) (m n h id : Nat) : (s.progress m).reqOf n h id = s.reqOf n h id := by
  rw [State.reqOf, State.reqOf, handleAt_progress]

theorem handleAt_modHandle_map (s : State) (n h : Nat) (φ : Handle → Handle) : (s.modHandle n h φ).handleAt n h = (s.handleAt n h).map φ := by
  have hm : (s.modHandle n h φ).inst? n = (s.inst? n).map fun i => { i with handles := updAt i.handles h φ } :=
    State.inst?_modInst s n fun _ => rfl
  rw [State.handleAt, State.handleAt, hm]
  cases s.inst? n with
  | none => rfl
  | some i => exact (updAt_getElem? _ _ _ _).trans (if_pos rfl)

theorem reqOf_modReq (s : State) (n h id : Nat) {f : Request → Request} (hf : ∀ y, (f y).id = y.id) :
    (s.modReq n h id f).reqOf n h id = (s.reqOf n h id).map f := by
  rw [State.reqOf, State.modReq, handleAt_modHandle_map, State.reqOf]
  cases s.handleAt n h with
  | none => rfl
  | some a =>
    show (updWhere _ f a.reqs).find? _ = (a.reqs.find? _).map f
    rw [find?_updWhere _ _ _ _ fun y => by rw [hf]]
    cases hr : a.reqs.find? fun y => y.id == id with
    | none => rfl
    | some r => rw [Option.map_some, Option.map_some, if_pos (List.find?_some hr :)]

theorem respond_reqOf (s : State) (n h : Nat) (r : Request) (c b d : Nat) (v : W64) (m : Nat) :
    (s.respond n h r c b d v m).reqOf n h r.id = (s.reqOf n h r.id).map (Request.answered c b d v m) := by
  have hf : ∀ y : Request, (Request.answered c b d v m y).id = y.id := fun _ => rfl
  rw [respond_eq, reqOf_modReq _ _ _ _ hf, reqOf_progress]

/-- The request that is at its next row, with n laps more. -/
def Request.nextRow (r : Request) (n : Nat) (x : Request) : Request := { x with pos := r.pos + 1, done := r.done + n }

section
variable {s u : State} {k h : Nat} {i : Inst} {a : Handle} {r : Request} {w : TokUnit} {l : RowLap}

/-- The request that unit k serves, its handle and its instance. -/
structure Served (s : State) (k : Nat) (i : Inst) (h : Nat) (a : Handle) (r : Request) (w : TokUnit) : Prop where
  request : s.tokRequest k = some (i, h, a, r)
  unit : s.tokUnits[k]? = some w

/-- The entry of the unit's queue that it serves. -/
theorem tokEntry_some {e : Nat × Nat × Nat} (he : s.tokEntry e = some (i, h, a, r)) :
    e = (i.serial, h, r.id) ∧ s.reqOf i.serial h r.id = some r := by
  obtain ⟨n, m, id⟩ := e
  rw [State.tokEntry] at he
  obtain ⟨j, hj, he⟩ := Option.bind_eq_some_iff.mp he
  obtain ⟨b, hb, he⟩ := Option.bind_eq_some_iff.mp he
  obtain ⟨x, hx, he⟩ := Option.bind_eq_some_iff.mp he
  obtain ⟨rfl, rfl, rfl, rfl⟩ : j = i ∧ m = h ∧ b = a ∧ x = r := by simpa using he
  have hn : j.serial = n := State.inst?_serial hj
  have hid : x.id = id := by simpa using List.find?_some hx
  refine ⟨by rw [hn, hid], ?_⟩
  rw [State.reqOf, hn, hid, handleAt_of hj hb]; exact hx

theorem Served.entry (v : Served s k i h a r w) : s.tokServed k = some (i.serial, h, r.id) ∧ s.tokEntry (i.serial, h, r.id) = some (i, h, a, r) ∧
    s.reqOf i.serial h r.id = some r := by
  obtain ⟨e, he, hx⟩ := Option.bind_eq_some_iff.mp v.request
  obtain ⟨rfl, hr⟩ := tokEntry_some hx
  exact ⟨he, hx, hr⟩

theorem Served.lap (v : Served s k i h a r w) : (s.tokUnits[k]?).bind TokUnit.lap = w.lap := by
  rw [v.unit, Option.bind_some]

/-- A request that leaves is dropped at a row boundary. -/
theorem Served.leaves (v : Served s k i h a r w) (hl : i.leaving = true) (hw : w.lap = none) : s.tokStep k = s.tokNext k (i.serial, h, r.id) := by
  obtain ⟨he, hx, -⟩ := v.entry
  simp only [State.tokStep, he, hx, v.lap, hl, hw]; rfl

theorem Served.works (v : Served s k i h a r w) (hl : i.leaving = false ∨ w.lap ≠ none) : s.tokStep k = s.tokWork k i h r := by
  obtain ⟨he, hx, -⟩ := v.entry
  have hc : (i.leaving && w.lap.isNone) = false := by
    rcases hl with hl | hl
    · rw [hl]; rfl
    · rw [Option.isNone_eq_false_iff.mpr (Option.isSome_iff_ne_none.mpr hl), Bool.and_false]
  simp only [State.tokStep, he, hx, v.lap, hc, Bool.false_eq_true, if_false]

theorem tokNext_unit (hw : s.tokUnits[k]? = some w) (e : Nat × Nat × Nat) : (s.tokNext k e).tokUnits[k]? = some ⟨w.queue.erase e, none⟩ := by
  refine (updAt_getElem? _ _ _ _).trans ?_
  rw [if_pos rfl, hw]; rfl

/-- The request has responded, and its unit has done with it. -/
structure Ended (s : State) (k : Nat) (i : Inst) (h : Nat) (r : Request) (w : TokUnit) (c b d laps : Nat) (t : State) : Prop where
  resp : (t.reqOf i.serial h r.id).map Request.resp = some (some (respStrip c b r.tag d 0 laps))
  unit : t.tokUnits[k]? = some ⟨w.queue.erase (i.serial, h, r.id), none⟩
  mem : t.mem = s.mem

theorem Served.ended (v : Served s k i h a r w) (c b d laps : Nat) :
    Ended s k i h r w c b d (laps % 2 ^ 32) (s.tokRespond k i h r c b d 0 laps) := by
  obtain ⟨-, -, hr⟩ := v.entry
  refine ⟨?_, tokNext_unit (s := s.respond i.serial h r c b d 0 (laps % 2 ^ 32)) v.unit _, rfl⟩
  have hq : (s.tokRespond k i h r c b d 0 laps).reqOf i.serial h r.id = (s.respond i.serial h r c b d 0 (laps % 2 ^ 32)).reqOf i.serial h r.id := rfl
  rw [hq, respond_reqOf, hr]; rfl

/-! ### The work of a row (R324, R325, R326, R334, R417) -/

/-- The checks of a request that has not begun. -/
theorem Served.checks (v : Served s k i h a r w) (hl : i.leaving = false ∨ w.lap ≠ none) (hs : r.started = false) :
    (r.tokenOk = false → s.tokStep k = s.tokRespond k i h r 0x01 0x01 0 0 0) ∧
    (r.tokenOk = true → s.partOfQuire (4 * r.tunit) ≠ some i.part → s.tokStep k = s.tokRespond k i h r 0x05 0x08 0 0 0) ∧
    (r.tokenOk = true → s.partOfQuire (4 * r.tunit) = some i.part → s.tokStep k = s.modReq i.serial h r.id fun x => { x with started := true }) := by
  rw [v.works hl]
  unfold State.tokWork
  rw [if_pos (by rw [hs]; rfl)]
  refine ⟨fun ho => ?_, fun ho hp => ?_, fun ho hp => ?_⟩
  · rw [if_pos (by rw [ho]; rfl)]
  · rw [if_neg (by rw [ho]; exact Bool.false_ne_true), if_pos hp]
  · rw [if_neg (by rw [ho]; exact Bool.false_ne_true), if_neg (not_not_intro hp)]

theorem Served.runs (v : Served s k i h a r w) (hs : r.started = true) (hw : w.lap = some l) :
    s.tokStep k = if l.run < l.need then s else s.endRow s k i h r l := by
  rw [v.works (.inr (by rw [hw]; exact Option.some_ne_none l)), State.tokWork, if_neg (by rw [hs]; exact Bool.false_ne_true), v.lap, hw]

theorem Served.due (v : Served s k i h a r w) (hl : i.leaving = false ∨ w.lap ≠ none) (hs : r.started = true) (hw : w.lap = none) :
    (r.nb ≤ r.pos → s.tokStep k = s.tokRespond k i h r 0 0 r.pos 0 r.done) ∧
    (r.pos < r.nb → ∀ l u, s.beginRow i r r.pos = (l, u) →
      ((l.rstat, l.sub) = keyHeldErr → s.tokStep k = s) ∧
      ((l.rstat, l.sub) ≠ keyHeldErr → 0 < l.need → s.tokStep k = u.modTok k fun x => { x with lap := some l })) := by
  rw [v.works hl]
  unfold State.tokWork
  rw [if_neg (by rw [hs]; exact Bool.false_ne_true), v.lap, hw]
  refine ⟨fun hp => if_pos hp, fun hp l u hb => ⟨fun he => ?_, fun he hn => ?_⟩⟩
  · simp only [if_neg (Nat.not_le_of_lt hp), hb, if_pos he]
  · simp only [if_neg (Nat.not_le_of_lt hp), hb, if_neg he, if_neg (Nat.ne_of_gt hn)]

theorem writeStop_none (s : State) (i : Inst) (hr : l.record = none) : s.writeStop i l = (l, s) := by
  rw [State.writeStop, hr]

/-- The row in progress has ended, and the next one is due. -/
def State.rowEnded (s : State) (k : Nat) (i : Inst) (h : Nat) (r : Request) (n : Nat) : State :=
  ((s.progress i.serial).modTok k fun x => { x with lap := none }).modReq i.serial h r.id (r.nextRow n)

/-- A row whose writes have gone through leaves its unit. -/
theorem endRow_reported (hr : l.record = none) (hp : s.report i r r.pos l = (none, u)) : s.endRow s k i h r l = u.rowEnded k i h r l.need := by
  simp [State.endRow, writeStop_none s i hr, hr, hp]; rfl

/-- A row whose writes meet a held source leaves the state as it was. -/
theorem endRow_held {x : W64} (hr : l.record = none) (hp : s.report i r r.pos l = (some (x, keyHeldErr), u)) : s.endRow s k i h r l = s := by
  simp [State.endRow, writeStop_none s i hr, hr, hp]

theorem rowEnded_reqOf (u : State) (k : Nat) (i : Inst) (h : Nat) (r : Request) (n : Nat) :
    (u.rowEnded k i h r n).reqOf i.serial h r.id = (u.reqOf i.serial h r.id).map (r.nextRow n) := by
  have hf : ∀ y : Request, (r.nextRow n y).id = y.id := fun _ => rfl
  have hq : ((u.progress i.serial).modTok k fun x => { x with lap := none }).reqOf i.serial h r.id = (u.progress i.serial).reqOf i.serial h r.id := rfl
  rw [State.rowEnded, reqOf_modReq _ _ _ _ hf, hq, reqOf_progress]

theorem rowEnded_unit (u : State) (k : Nat) (i : Inst) (h : Nat) (r : Request) (n : Nat) :
    (u.rowEnded k i h r n).tokUnits[k]? = (u.tokUnits[k]?).map fun x => { x with lap := none } :=
  (updAt_getElem? u.tokUnits k k _).trans (if_pos rfl)

/-! ### A lap (R334, R420) -/

/-- A meter's next count. -/
theorem satAdd_one (v : W64) : w64 (satAdd 64 v.toNat 1) = if v = BitVec.allOnes 64 then v else v + 1#64 := by
  have hv := v.isLt
  refine BitVec.eq_of_toNat_eq ?_
  unfold w64 satAdd
  split
  · rename_i h; subst h; rfl
  · rename_i h
    have h' : v.toNat ≠ 2 ^ 64 - 1 := fun e => h (BitVec.eq_of_toNat_eq (by rw [e]; rfl))
    rw [Nat.min_eq_left (by omega), BitVec.toNat_ofNat, BitVec.toNat_add]; rfl

theorem meter_counts {o m : Nat} (s : State) (ho : o < s.owners.length) :
    ((s.meter o m 1).owner o).meters[m]? = ((s.owner o).meters[m]?).map fun v => if v = BitVec.allOnes 64 then v else v + 1#64 := by
  have hw : s.owners[o]? = some s.owners[o] := List.getElem?_eq_getElem ho
  have hu : (s.meter o m 1).owner o = { s.owners[o] with meters := updAt s.owners[o].meters m fun v => w64 (satAdd 64 v.toNat 1) } := by
    show ((updAt s.owners o _)[o]?).getD Owner.reset = _
    rw [updAt_getElem?, if_pos rfl, hw]; rfl
  rw [hu, State.owner, hw]
  refine (updAt_getElem? _ _ _ _).trans ?_
  rw [if_pos rfl]
  exact Option.map_congr fun v _ => satAdd_one v

/-- One lap more of the row in progress. -/
def RowLap.next (l : RowLap) : RowLap := { l with run := l.run + 1 }

/-- The unit whose row in progress is `l`. -/
def TokUnit.inRow (l : RowLap) (w : TokUnit) : TokUnit := { w with lap := some l }

theorem Served.laps (v : Served s k i h a r w) (hw : w.lap = some l) (hn : l.run < l.need) :
    s.lapStep k = (s.modTok k (TokUnit.inRow l.next)).meter i.owner 17 1 := by
  simp only [State.lapStep, v.request, v.lap, hw, if_pos hn]; rfl

theorem modTok_unit (hw : s.tokUnits[k]? = some w) (f : TokUnit → TokUnit) : (s.modTok k f).tokUnits[k]? = some (f w) := by
  refine (updAt_getElem? _ _ _ _).trans ?_
  rw [if_pos rfl, hw]; rfl

end

/-! ### Accesses of a token unit or pipeline, and held sources (R417; log entry 110) -/

section
variable {s u : State} {i : Inst} {ver pa : Nat} {va : W64} {p : Pool} {o : Nat} {sealed : Bool}

theorem ne_keyHeldErr {c : Nat} (hc : c < 256) (b : Nat) : (c, b) ≠ keyHeldErr := fun h => by
  have : c = 256 := congrArg Prod.fst h
  omega

/-- A read that finds bytes is not held. -/
theorem nowRead_bytes {n : Nat} {l : List Byte} {t : State} (he : s.engRead i ver va n = (.bytes l, t)) :
    (s.nowRead i ver va n).1 ≠ .error keyHeldErr := by
  rw [State.nowRead, he]; exact fun h => nomatch h

/-- A read that ends in a cause of a fault is not held. -/
theorem nowRead_bad {n c b : Nat} {t : State} (he : s.engRead i ver va n = (.bad c b, t)) (hc : c < 256) :
    (s.nowRead i ver va n).1 ≠ .error keyHeldErr := by
  rw [State.nowRead, he]; exact fun h => ne_keyHeldErr hc b (Except.error.inj h)

theorem nowWrite_bytes {l m : List Byte} {t : State} (he : s.engWrite i ver va l = (.bytes m, t)) :
    (s.nowWrite i ver va l).1 ≠ some keyHeldErr := by
  rw [State.nowWrite, he]; exact fun h => nomatch h

theorem nowWrite_bad {l : List Byte} {c b : Nat} {t : State} (he : s.engWrite i ver va l = (.bad c b, t)) (hc : c < 256) :
    (s.nowWrite i ver va l).1 ≠ some keyHeldErr := by
  rw [State.nowWrite, he]; exact fun h => ne_keyHeldErr hc b (Option.some.inj h)

theorem nowRead_held_iff (n : Nat) (hr : s.resolve i.who .load va = .ok (.win p o) u) :
    (s.nowRead i ver va n).1 = .error keyHeldErr ↔ Claims.Held u i.who p := by
  have he := State.engRead_win ver n hr
  rw [held_iff]
  refine ⟨fun h => ?_, fun hk => by rw [State.nowRead_held ver n hr hk]⟩
  by_contra hk
  rw [if_neg hk] at he
  by_cases hp : u.poisoned (p.mem o) n = true
  · rw [if_pos hp] at he
    exact nowRead_bad he (by decide) h
  · rw [if_neg hp] at he
    exact nowRead_bytes he h

theorem nowWrite_held_iff (l : List Byte) (hr : s.resolve i.who .store va = .ok (.win p o) u) :
    (s.nowWrite i ver va l).1 = some keyHeldErr ↔ Claims.Held u i.who p := by
  have he := State.engWrite_win ver l hr
  rw [held_iff]
  refine ⟨fun h => ?_, fun hk => by rw [State.nowWrite_held ver l hr hk]⟩
  by_contra hk
  rw [if_neg hk] at he
  exact nowWrite_bytes he h

/-- What HBM answers for a read is one of two causes, or bytes. -/
theorem hbmRead_error {q n : Nat} {e : Nat × Nat} (h : s.hbmRead q ver sealed pa n = .error e) : e.1 < 256 := by
  unfold State.hbmRead at h
  split at h
  · rw [← Except.error.inj h]; decide
  · split at h
    · rw [← Except.error.inj h]; decide
    · nomatch h

theorem hbmWrite_error {q : Nat} {l : List Byte} {e : Nat × Nat} (h : s.hbmWrite q ver sealed pa l = .error e) : e.1 < 256 := by
  have tagfail {x : Except (Nat × Nat) State} (hx : x = .error (0x0B, 0)) (h : x = .error e) : e.1 < 256 := by
    rw [hx] at h; rw [← Except.error.inj h]; decide
  unfold State.hbmWrite at h
  split at h
  · split at h
    · cases hk : (s.part q).key with
      | none => rw [hk] at h; exact tagfail rfl h
      | some k =>
        rw [hk] at h
        dsimp only at h
        split at h
        · nomatch h
        · exact tagfail rfl h
    · split at h
      · nomatch h
      · exact tagfail rfl h
  · nomatch h

/-- A read of local HBM waits for no source. -/
theorem nowRead_hbm (n : Nat) (hr : s.resolve i.who .load va = .ok (.hbm pa sealed) u) : (s.nowRead i ver va n).1 ≠ .error keyHeldErr := by
  by_cases hf : u.fencePass i.part pa = true
  · cases hh : u.hbmRead i.part ver sealed pa n with
    | error e => exact nowRead_bad (by simp only [State.engRead, hr, hf, hh]; rfl) (hbmRead_error hh)
    | ok l => exact nowRead_bytes (by simp only [State.engRead, hr, hf, hh]; rfl)
  · exact nowRead_bad (by simp only [State.engRead, hr, hf]; rfl) (by decide)

/-- A write of local HBM waits for no source. -/
theorem nowWrite_hbm (l : List Byte) (hr : s.resolve i.who .store va = .ok (.hbm pa sealed) u) :
    (s.nowWrite i ver va l).1 ≠ some keyHeldErr := by
  by_cases hf : u.fencePass i.part pa = true
  · cases hh : u.hbmWrite i.part ver sealed pa l with
    | error e => exact nowWrite_bad (by simp only [State.engWrite, hr, hf, hh]; rfl) (hbmWrite_error hh)
    | ok t => exact nowWrite_bytes (by simp only [State.engWrite, hr, hf, hh]; rfl)
  · exact nowWrite_bad (by simp only [State.engWrite, hr, hf]; rfl) (by decide)

end
end Sys2Proof.Machine

namespace Sys2Proof.Machine
open Sys2Proof.Claims

/-! ### Engine requests and token rows advance (R203, R204, R206, R326, R327, R417) -/

section
variable {s : State} {serial h idx k : Nat} {i : Inst} {a : Handle} {r : Request} {w : TokUnit} {p p' : Pool} {o o' : Nat}

/-- A strip of a copy between windows: it waits, moves, or ends the request. -/
theorem Copies.strip (c : Copies s serial h idx i a r) (hd : inWindow r.dstAt = true) (hs : s.resolve i.who .load r.srcAt = .ok (.win p o) s)
    (hw : s.resolve i.who .store r.dstAt = .ok (.win p' o') s) :
    (Claims.Held s i.who p → exec (.engineUnit serial h idx) s = .next s) ∧
    (¬ Claims.Held s i.who p → ¬ Claims.Held (s.sealedTo i.who p) i.who p' → s.poisoned (p.mem o) 512 = false →
      Next (exec (.engineUnit serial h idx) s) fun t =>
        t.mem = memPut s.mem (p'.mem o') (memBytes s.mem (p.mem o) 512) ∧ t.reqAt serial h idx = some (r.moved 512)) ∧
    (¬ Claims.Held s i.who p → s.poisoned (p.mem o) 512 = true →
      Next (exec (.engineUnit serial h idx) s) fun t => Responded serial h idx r 0x12 0x03 r.pos r.srcAt t ∧ t.mem = s.mem) := by
  refine ⟨fun hk => congrArg Host.Outcome.next (c.holds hs hk), fun hk hk' hq => ?_, fun hk hq => ?_⟩
  · have alike := alike_sealedTo s i.who p
    obtain ⟨hm, hh⟩ := sealedPut_spec ((s.sealedTo i.who p).progress serial) i.who p' (p'.mem o') (s.bytes (p.mem o) 512)
    have ha := (hh serial h).trans ((handleAt_progress _ _ _ _).trans ((handleAt_congr alike.insts _ _).trans c.handleAt))
    refine next_of (congrArg Host.Outcome.next (c.moves hs hw hk hk' hd hq)) ⟨hm.trans ?_, c.advanced ha c.indexed c.wait c.buf 512⟩
    exact congrArg (fun m => memPut m (p'.mem o') (s.bytes (p.mem o) 512)) alike.mem
  · have ecc := readFrame_noteEcc s 0x12
    exact next_of (congrArg Host.Outcome.next (c.poisoned hs hk hd hq)) ⟨c.responded ecc.insts _ _ _ _, ecc.mem⟩

/-- A strip of a fill of a window. -/
theorem Serves.fillStrip (v : Serves s serial h idx i a r) (hm : r.member = 3) (hs : r.started = true) (hw : r.wait = none) (hb : r.buf = none)
    (hp : r.pos < r.len) (hwf : Memory.wf s.mem = true) (hd : inWindow r.dstAt = true)
    (hr : s.resolve i.who .store r.dstAt = .ok (.win p o) s) (hk : ¬ Claims.Held s i.who p) :
    Next (exec (.engineUnit serial h idx) s) fun t => t.reqAt serial h idx = some (r.moved 512) ∧
      (∀ k < 512, memRead t.mem (p.mem o + k) = r.src.extractLsb' (8 * (k % 8)) 8) ∧
      ∀ k, k < p.mem o ∨ p.mem o + 512 ≤ k → memRead t.mem k = memRead s.mem k := by
  have hx : r.indexed = false := by simp [Request.indexed, hm]
  obtain ⟨hu, hh⟩ := sealedPut_spec s i.who p (p.mem o) (fillBytes r.src 512)
  refine next_of (congrArg Host.Outcome.next (v.fills hm hs hw hp hd hr hk)) ⟨v.advanced ((hh serial h).trans v.handleAt) hx hw hb 512, ?_⟩
  rw [advance_mem, hu]
  exact memRead_fill hwf r.src (p.mem o)

/-- A response of a token unit. -/
theorem Served.ends (v : Served s k i h a r w) {c b d laps n : Nat} (hn : laps % 2 ^ 32 = n)
    (hs : s.tokStep k = s.tokRespond k i h r c b d 0 laps) : Next (exec (.tokenUnitRow k) s) (Ended s k i h r w c b d n) :=
  next_of (congrArg Host.Outcome.next hs) (hn ▸ v.ended c b d laps)

end

/-- Settles O52: one lemma per kind of step, over the reads and writes at a window and the updates of one request. -/
theorem engineSteps : Obligations.EngineSteps := by
  refine ⟨fun s serial h idx i a r hi ha hr _ ht hg ho hy => ?_, fun s n h r folio port i q e v hr hd hi hp hc ha ht hh hb => ?_,
    fun s k w hw hq => congrArg Host.Outcome.next (tokStep_idle (tokServed_none hw hq)), fun s k i h a r w hq hw _ => ?_,
    fun s u i ver n pa va l p o sealed => ⟨nowRead_held_iff n, nowWrite_held_iff l, nowRead_hbm n, nowWrite_hbm l⟩⟩
  case refine_1 =>
    intro after responds run
    have v : Serves s serial h idx i a r := ⟨hi, ha, hr, ht, hg, ho, hy⟩
    refine ⟨fun hm hs => ?_, fun hm hs hw hb => ?_⟩
    · obtain ⟨hbad, hempty, hstart⟩ := v.starts hm hs
      refine ⟨fun hk => ?_, fun hk h5 h0 => ?_, fun hk h5 => ?_⟩
      · exact next_of (congrArg Host.Outcome.next (hbad hk)) ⟨v.responded rfl _ _ _ _, rfl⟩
      · exact next_of (congrArg Host.Outcome.next (hempty hk h5 h0)) ⟨v.responded rfl _ _ _ _, rfl⟩
      · exact next_of (congrArg Host.Outcome.next (hstart hk h5)) ⟨reqs_modReq v.handleAt v.req _, rfl⟩
    · intro src dst
      have copies (hp : r.pos < r.len) (h0 : r.member = 0) : Copies s serial h idx i a r := ⟨v, h0, hs, hw, hb, hp⟩
      have hsrc (h0 : r.member = 0) : r.srcAt = src := by simp only [Request.srcAt, h0]; rfl
      have hdst : r.dstAt = dst := by rcases hm with hm | hm <;> simp only [Request.dstAt, hm] <;> rfl
      refine ⟨fun hp => next_of (congrArg Host.Outcome.next (v.finishes hm hs hw hp)) ⟨v.responded rfl _ _ _ _, rfl⟩,
        fun hp h0 p p' o o' _ hdw hsr hdr => ?_, fun hp h3 hwf p o hdw hdr hk => ?_, fun hp h0 x u hx hu => ?_⟩
      · rw [← hdst] at hdw hdr
        rw [← hsrc h0] at hsr ⊢
        exact (copies hp h0).strip hdw hsr hdr
      · rw [← hdst] at hdw hdr
        exact v.fillStrip h3 hs hw hb hp hwf hdw hdr hk
      · subst hu
        rw [← hsrc h0] at hx ⊢
        have ecc := readFrame_noteEcc u x.cause
        exact next_of (congrArg Host.Outcome.next ((copies hp h0).traps hx)) ⟨v.responded ecc.insts _ _ _ _, ecc.mem⟩
  case refine_2 =>
    have w : RequestToken s n h r folio port i q e v := ⟨hr, hd, hi, hp, hc, ha, ht, hh, hb⟩
    refine ⟨fun hl => ?_, fun hl => congrArg Host.Outcome.next (w.waits hl)⟩
    obtain ⟨t, ht, hn, hm, hq⟩ := w.next hl
    exact ⟨t, ht, hn, hm, by rw [← hq, State.handleAt, Option.map_bind]; rfl⟩
  case refine_3 =>
    intro req run rest ends
    have v : Served s k i h a r w := ⟨hq, hw⟩
    have hr := v.entry.2.2
    have ended {c b d n : Nat} (hn : Next (exec (.tokenUnitRow k) s) (Ended s k i h r w c b d n)) : run (ends c b d n) := by
      obtain ⟨t, ht, hresp, hunit, hmem⟩ := hn
      exact ⟨t, ht, hresp, hunit, hmem⟩
    refine ⟨fun hl hn => next_of (congrArg Host.Outcome.next (v.leaves hl hn)) ⟨tokNext_unit hw _, rfl⟩, fun hl => ⟨fun hs => ?_, fun hs => ?_⟩⟩
    · obtain ⟨hbad, hpart, hstart⟩ := v.checks hl hs
      refine ⟨fun ho => ended (v.ends rfl (hbad ho)), fun ho hp => ended (v.ends rfl (hpart ho hp)), fun ho hp => ?_⟩
      refine next_of (congrArg Host.Outcome.next (hstart ho hp)) ⟨?_, rfl⟩
      exact (reqOf_modReq s i.serial h r.id (f := fun x => { x with started := true }) fun _ => rfl).trans (by rw [hr]; rfl)
    · have ran {l : RowLap} (hlap : w.lap = some l) (hrun : l.need ≤ l.run) : s.tokStep k = s.endRow s k i h r l :=
        (v.runs hs hlap).trans (if_neg (Nat.not_lt_of_le hrun))
      refine ⟨fun l hlap hrun => ⟨congrArg Host.Outcome.next ((v.runs hs hlap).trans (if_pos hrun)), ?_⟩, fun l u hlap hrun hrec hp => ?_,
        fun hlap hp => ended (v.ends rfl ((v.due hl hs hlap).1 hp)), fun l u x hlap hrun hrec hp => ?_, fun hlap hp l u hb => ?_⟩
      · exact next_of (congrArg Host.Outcome.next (v.laps hlap hrun)) ⟨modTok_unit hw _, fun ho _ => meter_counts _ ho, rfl⟩
      · exact next_of (congrArg Host.Outcome.next ((ran hlap hrun).trans (endRow_reported hrec hp)))
          ⟨rowEnded_unit u k i h r l.need, rowEnded_reqOf u k i h r l.need, rfl⟩
      · exact congrArg Host.Outcome.next ((ran hlap hrun).trans (endRow_held hrec hp))
      · obtain ⟨hheld, hrow⟩ := (v.due hl hs hlap).2 hp l u hb
        exact ⟨fun he => congrArg Host.Outcome.next (hheld he), fun he hn => next_of (congrArg Host.Outcome.next (hrow he hn)) rfl⟩

end Sys2Proof.Machine

namespace Sys2Proof.Machine
open Sys2Proof.Claims

/-! ### The products and quotients of R165 -/

/-- The high half of a 128-bit value is its quotient by 2^64, rounded down. -/
theorem high_of_toInt (x : BitVec 128) : BitVec.ofInt 64 (x.toInt / 2 ^ 64) = x.extractLsb' 64 64 := by
  apply BitVec.eq_of_toNat_eq
  rw [BitVec.toNat_ofInt, BitVec.extractLsb'_toNat, Nat.shiftRight_eq_div_pow, BitVec.toInt_eq_toNat_cond]
  split <;> omega

theorem mulHigh_eq (a b : W64) : mulHigh a b = (a.signExtend 128 * b.signExtend 128).extractLsb' 64 64 := by
  have hlo : -2 ^ 126 ≤ a.toInt * b.toInt := BitVec.le_toInt_mul_toInt
  have hhi : a.toInt * b.toInt ≤ 2 ^ 126 := BitVec.toInt_mul_toInt_le
  have hmul : (a.signExtend 128 * b.signExtend 128).toInt = a.toInt * b.toInt := by
    rw [BitVec.toInt_mul, BitVec.toInt_signExtend_of_le (by decide), BitVec.toInt_signExtend_of_le (by decide)]
    exact Int.bmod_eq_of_le (by omega) (by omega)
  rw [mulHigh, ← hmul, high_of_toInt]

theorem mulHighU_eq (a b : W64) : mulHighU a b = (a.setWidth 128 * b.setWidth 128).extractLsb' 64 64 := by
  have hlt : a.toNat * b.toNat < 2 ^ 128 := (Nat.mul_lt_mul'' a.isLt b.isLt).trans_eq (Nat.pow_add 2 64 64).symm
  apply BitVec.eq_of_toNat_eq
  rw [BitVec.extractLsb'_toNat, BitVec.toNat_mul, BitVec.toNat_setWidth_of_le (by decide), BitVec.toNat_setWidth_of_le (by decide),
    Nat.mod_eq_of_lt hlt, Nat.shiftRight_eq_div_pow]
  exact BitVec.toNat_ofNat _ _

/-- The truncated quotient of a divisor that is not 0; MIN by -1 wraps to MIN. -/
theorem divS_eq_sdiv {a b : W64} (hb : b ≠ 0#64) : divS a b = a.sdiv b := by
  rw [divS, if_neg hb]
  apply BitVec.eq_of_toInt_eq
  rw [BitVec.toInt_ofInt, BitVec.toInt_sdiv]

theorem remS_eq_srem {a b : W64} (hb : b ≠ 0#64) : remS a b = a.srem b := by
  calc remS a b = a - BitVec.ofInt 64 (a.toInt.tdiv b.toInt) * b := by rw [remS, divS, if_neg hb, if_neg hb]
    _ = BitVec.ofInt 64 (a.toInt - b.toInt * a.toInt.tdiv b.toInt) := by
      rw [Int.sub_eq_add_neg, BitVec.ofInt_add, BitVec.ofInt_neg, BitVec.ofInt_mul, BitVec.ofInt_toInt, BitVec.ofInt_toInt, BitVec.mul_comm b,
        BitVec.sub_eq_add_neg]
    _ = a.srem b := by rw [← Int.tmod_def, ← BitVec.toInt_srem, BitVec.ofInt_toInt]

theorem divS_eq_quotS (a b : W64) : divS a b = quotS a b := by
  unfold quotS
  split
  case isTrue hb => rw [divS, if_pos hb]
  case isFalse hb =>
    split
    case isTrue hmin => rw [hmin.1, hmin.2]; decide
    case isFalse => exact divS_eq_sdiv hb

theorem remS_eq_remainS (a b : W64) : remS a b = remainS a b := by
  unfold remainS
  split
  case isTrue hb => rw [remS, if_pos hb]
  case isFalse hb =>
    split
    case isTrue hmin => rw [hmin.1, hmin.2]; decide
    case isFalse => exact remS_eq_srem hb

theorem divU_eq_quotU (a b : W64) : divU a b = quotU a b := by
  have h : w64 (a.toNat / b.toNat) = a.udiv b := BitVec.eq_of_toNat_eq (by
    rw [show (a.udiv b).toNat = a.toNat / b.toNat from BitVec.toNat_udiv]
    exact Nat.mod_eq_of_lt ((Nat.div_le_self _ _).trans_lt a.isLt))
  rw [divU, quotU, h]

theorem remU_eq_remainU (a b : W64) : remU a b = remainU a b := by
  have h : w64 (a.toNat % b.toNat) = a.umod b := BitVec.eq_of_toNat_eq (by
    rw [show (a.umod b).toNat = a.toNat % b.toNat from BitVec.toNat_umod]
    exact Nat.mod_eq_of_lt ((Nat.mod_le _ _).trans_lt a.isLt))
  rw [remU, remainU, h]

end Sys2Proof.Machine

namespace Sys2Proof.Claims
open Sys2Proof.Machine

/-! ### A word that computes xd from its own context (R165 to R169, R172) -/

section
variable {s : State} {d a b : BitVec 5} {regs : List (BitVec 5)} {g : BitVec 3}

/-- A plain word whose result is `v` in the context that it executes in writes `v` to xd and goes on. -/
theorem Ready.computes (h : Ready s regs g) {F : Ctx → W64} {v : W64} (hv : ∀ c, s.ctx? = some c → F c = v) :
    Next (runPlain s regs g fun s => s.modCtx fun c => c.wr d (F c)) (Writes s d v) := by
  have hctx : ((s.modCtx fun c => c.wr d (F c)).retire .next).ctx? = ((s.wr d v).retire .next).ctx? := by
    rw [State.wr, State.ctx?_retire_modCtx h.1, State.ctx?_retire_modCtx h.1]
    exact Option.map_congr fun c hc => by simp only [Function.comp_apply, hv c hc]
  obtain ⟨hregs, hpreds, hpc⟩ := reads_of_ctx? hctx
  have w := writes_wr h.1 d v
  exact ⟨_, h.run rfl (Nat.zero_le _) _, { kept_modCtx s fun c => c.wr d (F c) with
    value := (hregs d).trans w.value
    regs := fun r hr => (hregs r).trans (w.regs r hr)
    preds := fun k => (hpreds k).trans (w.preds k)
    pc := hpc.trans w.pc }⟩

/-- A word of format RR: the result is `op` of xa and xb (R165). -/
theorem Ready.computes_rr (h : Ready s [d, a, b] g) (op : W64 → W64 → W64) {v : W64} (hv : op (s.rd a) (s.rd b) = v) :
    Next (runPlain s [d, a, b] g fun s => s.modCtx fun c => c.wr d (op (c.rd a) (c.rd b))) (Writes s d v) :=
  h.computes fun c hc => by rw [← hv, State.rd, State.rd, hc]; rfl

end

end Sys2Proof.Claims

namespace Sys2Proof
open Sys2Proof.Machine Sys2Proof.Claims

/-- Settles O9: each member is a plain word of format RR, and its result is R165's. -/
theorem arithmeticResults : Obligations.ArithmeticResults := by
  unfold Obligations.ArithmeticResults
  intro s d a b g h
  exact ⟨h.computes_rr (fun x y => x + y) rfl, h.computes_rr (fun x y => x - y) rfl, h.computes_rr (fun x y => x * y) rfl,
    h.computes_rr mulHigh (mulHigh_eq _ _), h.computes_rr mulHighU (mulHighU_eq _ _),
    h.computes_rr divS (divS_eq_quotS _ _), h.computes_rr divU (divU_eq_quotU _ _),
    h.computes_rr remS (remS_eq_remainS _ _), h.computes_rr remU (remU_eq_remainU _ _),
    h.computes_rr (fun x y => x &&& y) rfl, h.computes_rr (fun x y => x ||| y) rfl, h.computes_rr (fun x y => x ^^^ y) rfl,
    h.computes_rr (fun x y => x <<< shiftOf y) rfl, h.computes_rr (fun x y => x >>> shiftOf y) rfl,
    h.computes_rr (fun x y => x.sshiftRight (shiftOf y)) rfl,
    h.computes_rr (fun x y => if x.sle y then x else y) (by simp only [BitVec.sle_iff_toInt_le]),
    h.computes_rr (fun x y => if x.sle y then y else x) (by simp only [BitVec.sle_iff_toInt_le]),
    h.computes_rr (fun x y => if x.ule y then x else y) (by simp only [BitVec.ule_iff_toNat_le]),
    h.computes_rr (fun x y => if x.ule y then y else x) (by simp only [BitVec.ule_iff_toNat_le])⟩

end Sys2Proof

namespace Sys2Proof.Machine
open Sys2Proof.Claims

/-! ### Numbers as 32-bit lanes (R2, R71) -/

theorem signedN_toNat {n : Nat} (x : BitVec (n + 1)) : signedN (n + 1) x.toNat = x.toInt := by
  have hhalf : 2 * x.toNat < 2 ^ (n + 1) ↔ x.toNat < 2 ^ n := by omega
  simp only [signedN, BitVec.toInt_eq_toNat_cond, hhalf, Nat.add_sub_cancel]
  push_cast; rfl

theorem intOf_signed (x : W32) : intOf 32 false x.toNat = x.toInt := signedN_toNat x
theorem intOf_unsigned (x : W32) : intOf 32 true x.toNat = x.toNat := rfl

theorem intOf_inj (uns : Bool) (x y : W32) : intOf 32 uns x.toNat = intOf 32 uns y.toNat ↔ x = y := by
  cases uns
  · rw [intOf_signed, intOf_signed, BitVec.toInt_inj]
  · exact Int.ofNat_inj.trans BitVec.toNat_inj

theorem w32_toNat (x : W32) : w32 x.toNat = x := BitVec.ofNat_toNat 32 x

/-- Without SAT the low 32 bits of the exact result (R71). -/
theorem w32_intResult_wrap (uns : Bool) (v : Int) : w32 (intResult 32 false uns v) = BitVec.ofInt 32 v := w32_toNat _

/-- With SAT the exact result, clamped to the signed range. -/
theorem w32_intResult_signed (v : Int) : (w32 (intResult 32 true false v)).toInt = clampTo (-2 ^ 31) (2 ^ 31 - 1) v := by
  have h : w32 (intResult 32 true false v) = BitVec.ofInt 32 (clampTo (-2 ^ 31) (2 ^ 31 - 1) v) := by
    rw [← clampTo_eq v (by decide)]; exact w32_toNat _
  rw [h, BitVec.toInt_ofInt]
  unfold clampTo
  exact Int.bmod_eq_of_le (by omega) (by omega)

/-- With SAT and U the exact result, clamped to the unsigned range. -/
theorem w32_intResult_unsigned (v : Int) : ((w32 (intResult 32 true true v)).toNat : Int) = clampTo 0 (2 ^ 32 - 1) v := by
  have h : w32 (intResult 32 true true v) = BitVec.ofInt 32 (clampTo 0 (2 ^ 32 - 1) v) := by
    rw [← clampTo_eq v (by decide)]; exact w32_toNat _
  rw [h, BitVec.toNat_ofInt]
  unfold clampTo
  omega

/-! The operations of R239 on a lane, from its number. -/

theorem ofInt_add_toInt (x y : W32) : BitVec.ofInt 32 (x.toInt + y.toInt) = x + y := by
  rw [BitVec.ofInt_add, BitVec.ofInt_toInt, BitVec.ofInt_toInt]

theorem ofInt_mul_toInt (x y : W32) : BitVec.ofInt 32 (x.toInt * y.toInt) = x * y := by
  rw [BitVec.ofInt_mul, BitVec.ofInt_toInt, BitVec.ofInt_toInt]

theorem ofInt_sub_toInt (x y : W32) : BitVec.ofInt 32 (x.toInt - y.toInt) = x - y := by
  rw [Int.sub_eq_add_neg, BitVec.ofInt_add, BitVec.ofInt_neg, BitVec.ofInt_toInt, BitVec.ofInt_toInt, BitVec.sub_eq_add_neg]

theorem w32_land (x y : W32) : w32 (Nat.land x.toNat y.toNat) = x &&& y :=
  (congrArg w32 (BitVec.toNat_and x y).symm).trans (w32_toNat _)

theorem w32_lor (x y : W32) : w32 (Nat.lor x.toNat y.toNat) = x ||| y :=
  (congrArg w32 (BitVec.toNat_or x y).symm).trans (w32_toNat _)

theorem w32_xor (x y : W32) : w32 (Nat.xor x.toNat y.toNat) = x ^^^ y :=
  (congrArg w32 (BitVec.toNat_xor x y).symm).trans (w32_toNat _)

theorem w32_shiftLeft (x : W32) (n : Nat) : w32 (x.toNat * 2 ^ n % 2 ^ 32) = x <<< n := by
  rw [← Nat.shiftLeft_eq, ← BitVec.toNat_shiftLeft, w32_toNat]

theorem w32_shiftRight (x : W32) (n : Nat) : w32 (x.toNat / 2 ^ n) = x >>> n := by
  rw [← Nat.shiftRight_eq_div_pow, ← BitVec.toNat_ushiftRight, w32_toNat]

theorem ofInt_shiftRight (x : W32) (n : Nat) : BitVec.ofInt 32 (signedN 32 x.toNat / 2 ^ n) = x.sshiftRight n := by
  rw [signedN_toNat, BitVec.sshiftRight, Int.shiftRight_eq_div_pow]; norm_cast

/-- The leading zeros of a number whose highest one bit is bit n. -/
theorem clz_of_highest {x : W32} {n : Nat} (hz : ∀ m < 32, n < m → x.getLsbD m = false) (h1 : x.getLsbD n = true) :
    clz 32 x.toNat = 31 - n := by
  have hlow : 2 ^ n ≤ x.toNat := Nat.ge_two_pow_of_testBit h1
  have hhigh : x.toNat < 2 ^ (n + 1) := Nat.lt_pow_two_of_testBit _ fun m hm => by
    by_cases h : m < 32
    · exact hz m h hm
    · exact BitVec.getLsbD_of_ge x m (Nat.not_lt.mp h)
  have hpos : x.toNat ≠ 0 := Nat.ne_of_gt ((Nat.two_pow_pos n).trans_le hlow)
  rw [clz, if_neg hpos, (Nat.log2_eq_iff hpos).mpr ⟨hlow, hhigh⟩]

theorem popCount_eq (x : W32) : popCount 32 x.toNat = (List.range 32).countP x.getLsbD := by
  rw [popCount, upTo, List.countP_eq_length_filter]
  congr 2
  funext k
  rw [BitVec.getLsbD, Nat.testBit_eq_decide_div_mod_eq]
  rfl

/-- The relations of R240 from equality and order. -/
theorem intRel_eq {x y : Int} {eq lt b : Bool} (he : x = y ↔ eq = true) (hl : x < y ↔ lt = true) {n : Nat}
    (hb : [eq, !eq, lt, lt || eq, !lt && !eq, !lt][n]? = some b) : ElemIn.intRel n x y = b := by
  obtain rfl : decide (x = y) = eq := by simp only [he, Bool.decide_eq_true]
  obtain rfl : decide (x < y) = lt := by simp only [hl, Bool.decide_eq_true]
  have hn : n < 6 := (List.getElem?_eq_some_iff.mp hb).1
  interval_cases n <;> cases Option.some.inj hb
  · rfl
  · exact decide_not
  · rfl
  · exact (decide_eq_decide.mpr Int.le_iff_lt_or_eq).trans (Bool.decide_or _ _)
  · simp only [ElemIn.intRel, ← decide_not, ← Bool.decide_and]
    exact decide_eq_decide.mpr (by omega)
  · exact (decide_eq_decide.mpr Int.not_lt.symm).trans decide_not

/-! ### Lane-wise results at lane type i32 (R239, R240, R245) -/

theorem lane_packVals (g : Nat → Nat) {k : Nat} (hk : k < 128) : lane (packVals 32 ((upTo 128).map g)) k = w32 (g k) := by
  apply BitVec.eq_of_toNat_eq
  rw [toNat_lane, stripVal_packed g hk (by omega)]
  exact (BitVec.toNat_ofNat _ _).symm

theorem lane_splat (v : W32) {k : Nat} (hk : k < 128) : lane (splat v) k = v := by
  rw [splat, lane_ofLanes _ hk, List.getElem?_replicate_of_lt hk]; rfl

namespace ElemIn
variable {i : ElemIn} {k : Nat}

theorem w_i32 (h : i.ty = 6) : i.w = 32 := by rw [w, h]; rfl
theorem n_i32 (h : i.ty = 6) : i.n = 128 := by rw [n, w_i32 h]

theorem lane_map2 (h : i.ty = 6) (hk : k < 128) (F : Nat → Nat → Nat) :
    lane (i.map2 F) k = w32 (F (lane i.a k).toNat (lane i.b k).toNat) := by
  rw [map2, w_i32 h, n_i32 h, lane_packVals _ hk, toNat_lane, toNat_lane]

theorem lane_intMap (h : i.ty = 6) (hk : k < 128) (f : Int → Int → Int) : lane (i.intMap f) k =
    w32 (intResult 32 i.sat i.uns (f (intOf 32 i.uns (lane i.a k).toNat) (intOf 32 i.uns (lane i.b k).toNat))) := by
  rw [intMap, lane_map2 h hk, w_i32 h]

theorem lane_intMap_wrap (h : i.ty = 6) (hk : k < 128) (hm : i.mode = 0) (f : Int → Int → Int) :
    lane (i.intMap f) k = BitVec.ofInt 32 (f (lane i.a k).toInt (lane i.b k).toInt) := by
  have hs : i.sat = false := by rw [sat_eq, hm]; rfl
  have hu : i.uns = false := by rw [uns_eq, hm]; rfl
  rw [lane_intMap h hk, hs, hu, w32_intResult_wrap, intOf_signed, intOf_signed]

theorem lane_intMap_signed (h : i.ty = 6) (hk : k < 128) (hm : i.mode = 1) (f : Int → Int → Int) :
    (lane (i.intMap f) k).toInt = clampTo (-2 ^ 31) (2 ^ 31 - 1) (f (lane i.a k).toInt (lane i.b k).toInt) := by
  have hs : i.sat = true := by rw [sat_eq, hm]; rfl
  have hu : i.uns = false := by rw [uns_eq, hm]; rfl
  rw [lane_intMap h hk, hs, hu, w32_intResult_signed, intOf_signed, intOf_signed]

theorem lane_intMap_unsigned (h : i.ty = 6) (hk : k < 128) (hm : i.mode = 3) (f : Int → Int → Int) :
    ((lane (i.intMap f) k).toNat : Int) = clampTo 0 (2 ^ 32 - 1) (f (lane i.a k).toNat (lane i.b k).toNat) := by
  have hs : i.sat = true := by rw [sat_eq, hm]; rfl
  have hu : i.uns = true := by rw [uns_eq, hm]; rfl
  rw [lane_intMap h hk, hs, hu, w32_intResult_unsigned, intOf_unsigned, intOf_unsigned]

theorem lane_bitMap (h : i.ty = 6) (hk : k < 128) (f : Nat → Nat → Nat) :
    lane (i.bitMap f) k = w32 (f (lane i.a k).toNat (lane i.b k).toNat) := by
  have h9 : i.ty ≠ 9 := by rw [h]; decide
  simp only [bitMap, if_neg h9, lane_map2 h hk]

/-- A value mask of lanes of one value: bit 0 (R237). -/
theorem lane_mask (h : i.ty = 6) (hk : k < 128) (p : Nat → Nat → Bool) :
    lane (i.mask p) k = if p (lane i.a k).toNat (lane i.b k).toNat then 1#32 else 0#32 := by
  have hone : (upTo (32 / 32)).map (fun b => (p (stripVal i.a 32 (32 / 32 * k + b)) (stripVal i.b 32 (32 / 32 * k + b))).toNat) =
      [(p (lane i.a k).toNat (lane i.b k).toNat).toNat] := by
    rw [toNat_lane, toNat_lane, Nat.div_self (by decide), Nat.one_mul]; rfl
  rw [mask, lane_packed _ hk, w_i32 h, hone]
  cases p (lane i.a k).toNat (lane i.b k).toNat <;> rfl

theorem lane_ishl (h : i.ty = 6) (hk : k < 128) :
    lane (i.map2 fun x y => x * 2 ^ (y % i.w) % 2 ^ i.w) k = lane i.a k <<< ((lane i.b k).toNat % 32) := by
  rw [lane_map2 h hk, w_i32 h, w32_shiftLeft]

theorem lane_ishr (h : i.ty = 6) (hk : k < 128) :
    lane (i.map2 fun x y => x / 2 ^ (y % i.w)) k = lane i.a k >>> ((lane i.b k).toNat % 32) := by
  rw [lane_map2 h hk, w_i32 h, w32_shiftRight]

theorem lane_isra (h : i.ty = 6) (hk : k < 128) :
    lane (i.map2 fun x y => (BitVec.ofInt i.w (signedN i.w x / 2 ^ (y % i.w))).toNat) k =
      (lane i.a k).sshiftRight ((lane i.b k).toNat % 32) := by
  rw [lane_map2 h hk, w_i32 h, w32_toNat, ofInt_shiftRight]

/-! Order of two lanes, signed without flags and unsigned with U. -/

theorem intOf_lt_slt (hm : i.mode = 0) (x y : W32) : intOf 32 i.uns x.toNat < intOf 32 i.uns y.toNat ↔ x.slt y = true := by
  have hu : i.uns = false := by rw [uns_eq, hm]; rfl
  rw [hu, intOf_signed, intOf_signed, BitVec.slt_iff_toInt_lt]

theorem intOf_lt_ult (hm : i.mode = 2) (x y : W32) : intOf 32 i.uns x.toNat < intOf 32 i.uns y.toNat ↔ x < y := by
  have hu : i.uns = true := by rw [uns_eq, hm]; rfl
  rw [hu, intOf_unsigned, intOf_unsigned]
  exact Int.ofNat_lt

theorem lane_imin (h : i.ty = 6) (hk : k < 128) {less : Prop} [Decidable less]
    (hl : intOf 32 i.uns (lane i.b k).toNat < intOf 32 i.uns (lane i.a k).toNat ↔ less) :
    lane (i.map2 fun x y => if intOf i.w i.uns x ≤ intOf i.w i.uns y then x else y) k = if less then lane i.b k else lane i.a k := by
  rw [lane_map2 h hk, w_i32 h]
  simp only [← hl, ← Int.not_lt, ite_not]
  split <;> exact w32_toNat _

theorem lane_imax (h : i.ty = 6) (hk : k < 128) {less : Prop} [Decidable less]
    (hl : intOf 32 i.uns (lane i.a k).toNat < intOf 32 i.uns (lane i.b k).toNat ↔ less) :
    lane (i.map2 fun x y => if intOf i.w i.uns x ≤ intOf i.w i.uns y then y else x) k = if less then lane i.b k else lane i.a k := by
  rw [lane_map2 h hk, w_i32 h]
  rcases Int.lt_trichotomy (intOf 32 i.uns (lane i.a k).toNat) (intOf 32 i.uns (lane i.b k).toNat) with hlt | heq | hgt
  · rw [if_pos hlt.le, if_pos (hl.mp hlt), w32_toNat]
  · rw [if_pos heq.le, w32_toNat, (intOf_inj _ _ _).mp heq, ite_self]
  · rw [if_neg (Int.not_le.mpr hgt), if_neg fun hc => Int.lt_asymm (hl.mpr hc) hgt, w32_toNat]

theorem lane_icmp (h : i.ty = 6) (hk : k < 128) :
    lane (i.mask fun x y => intRel (bitsN i.aux 0 3) (intOf i.w i.uns x) (intOf i.w i.uns y)) k =
      if intRel (i.aux % 8) (intOf 32 i.uns (lane i.a k).toNat) (intOf 32 i.uns (lane i.b k).toNat) then 1#32 else 0#32 := by
  rw [lane_mask h hk, w_i32 h, bitsN_zero]; rfl

theorem lane_iclz (h : i.ty = 6) (hk : k < 128) : lane (i.map2 fun x _ => clz i.w x) k = w32 (clz 32 (lane i.a k).toNat) := by
  rw [lane_map2 h hk, w_i32 h]

theorem lane_ipopc (h : i.ty = 6) (hk : k < 128) :
    lane (i.map2 fun x _ => popCount i.w x) k = BitVec.ofNat 32 ((List.range 32).countP (lane i.a k).getLsbD) := by
  rw [lane_map2 h hk, w_i32 h, popCount_eq]; rfl

theorem lane_bcast (hk : k < 128) : lane (splat (lane i.a (bitsN i.aux 0 7))) k = lane i.a (i.aux % 128) := by
  rw [lane_splat _ hk, bitsN_zero]; rfl

theorem lane_perm (hk : k < 128) : lane (ofLanes ((upTo 128).map fun j => lane i.a (fieldN (lane i.b j) 0 7))) k =
    lane i.a ((lane i.b k).toNat % 128) := by
  rw [lane_packed _ hk, fieldN, bitsN_zero]; rfl

theorem lane_lrot (hk : k < 128) : lane (ofLanes ((upTo 128).map fun j => lane i.a ((j + bitsN i.aux 0 7) % 128))) k =
    lane i.a ((k + i.aux % 128) % 128) := by
  rw [lane_packed _ hk, bitsN_zero]; rfl

/-- iota (R245): its program maps over the lane numbers as integers, which is one map over the numbers. -/
theorem lane_iota (h : i.ty = 6) (hk : k < 128) : lane i.iota k =
    (BitVec.ofNat 12 i.aux).signExtend 32 + BitVec.ofNat 32 k * (BitVec.ofNat 12 (i.aux / 2 ^ 12)).signExtend 32 := by
  have h0 : i.ty ≠ 0 := by rw [h]; decide
  have hfield (lo : Nat) : signedN 12 (bitsN i.aux lo 12) = (BitVec.ofNat 12 (i.aux / 2 ^ lo)).toInt := by
    rw [← signedN_toNat, BitVec.toNat_ofNat]; rfl
  simp only [iota, if_neg h0, n_i32 h, List.bind_eq_flatMap, List.pure_def, ← List.map_eq_flatMap, List.map_map]
  rw [w_i32 h, lane_packVals _ hk, Function.comp_apply, w32_toNat, hfield, hfield, BitVec.ofInt_add, BitVec.ofInt_mul,
    BitVec.ofInt_natCast, Nat.pow_zero, Nat.div_one]
  rfl

theorem lane_lsel (h : i.ty = 6) (hk : k < 128) : lane i.lsel k = if (lane i.a k).getLsbD 0 then lane i.b k else lane i.c k := by
  simp only [lsel, w_i32 h, n_i32 h]
  rw [lane_packVals _ hk, Nat.div_self (by decide), Nat.div_one, Nat.mod_one, bitAt, ← toNat_lane, ← toNat_lane]
  split <;> exact w32_toNat _

end ElemIn

end Sys2Proof.Machine

namespace Sys2Proof
open Sys2Proof.Machine Sys2Proof.Claims

/-- Settles O39: each member at lane type i32 is the lane-wise result of its operation. -/
theorem integerLanes : Obligations.IntegerLanes := by
  unfold Obligations.IntegerLanes
  intro i k h hk r x y
  have ty (op mode : Nat) : ElemIn.ty { i with op := op, mode := mode } = 6 := h
  have wrap (op : Nat) := ElemIn.lane_intMap_wrap (ty op 0) hk rfl
  have signed (op : Nat) := ElemIn.lane_intMap_signed (ty op 1) hk rfl
  have unsigned (op : Nat) := ElemIn.lane_intMap_unsigned (ty op 3) hk rfl
  have bits (op : Nat) := ElemIn.lane_bitMap (ty op 0) hk
  have less (op : Nat) := ElemIn.intOf_lt_slt (i := { i with op := op, mode := 0 }) rfl
  have lessU (op : Nat) := ElemIn.intOf_lt_ult (i := { i with op := op, mode := 2 }) rfl
  have clz : r 0x4C 0 = w32 (clz 32 x.toNat) := ElemIn.lane_iclz (ty 0x4C 0) hk
  refine ⟨⟨(wrap 0x40 fun x y => x + y).trans (ofInt_add_toInt x y), (wrap 0x41 fun x y => x - y).trans (ofInt_sub_toInt x y),
      (wrap 0x42 fun x y => x * y).trans (ofInt_mul_toInt x y)⟩,
    ⟨signed 0x40 fun x y => x + y, signed 0x41 fun x y => x - y, signed 0x42 fun x y => x * y⟩,
    ⟨unsigned 0x40 fun x y => x + y, unsigned 0x41 fun x y => x - y, unsigned 0x42 fun x y => x * y⟩,
    ⟨(bits 0x43 Nat.land).trans (w32_land x y), (bits 0x44 Nat.lor).trans (w32_lor x y), (bits 0x45 Nat.xor).trans (w32_xor x y)⟩,
    ⟨ElemIn.lane_ishl (ty 0x46 0) hk, ElemIn.lane_ishr (ty 0x47 0) hk, ElemIn.lane_isra (ty 0x48 0) hk⟩,
    ⟨ElemIn.lane_imin (ty 0x49 0) hk (less 0x49 y x), ElemIn.lane_imax (ty 0x4A 0) hk (less 0x4A x y),
      ElemIn.lane_imin (ty 0x49 2) hk (lessU 0x49 y x), ElemIn.lane_imax (ty 0x4A 2) hk (lessU 0x4A x y)⟩,
    fun h0 => ?_, fun n _ hz h1 => ?_, ElemIn.lane_ipopc (ty 0x4D 0) hk, fun mode hm => ?_,
    ElemIn.lane_bcast hk, ElemIn.lane_perm hk, ElemIn.lane_lrot hk, ElemIn.lane_iota (ty 0x69 0) hk, ElemIn.lane_lsel (ty 0x6A 0) hk⟩
  · rw [clz, h0]; rfl
  · rw [clz, clz_of_highest hz h1]; rfl
  · intro lt rel b hb
    have hlt : intOf 32 (ElemIn.uns { i with op := 0x4B, mode := mode }) x.toNat <
        intOf 32 (ElemIn.uns { i with op := 0x4B, mode := mode }) y.toNat ↔ lt = true := by
      rcases hm with rfl | rfl
      · exact less 0x4B x y
      · exact (lessU 0x4B x y).trans BitVec.ult_iff_lt.symm
    rw [← intRel_eq ((intOf_inj _ x y).trans beq_iff_eq.symm) hlt hb]
    exact ElemIn.lane_icmp (ty 0x4B mode) hk

end Sys2Proof

namespace Sys2Proof.Machine
open Sys2Proof.Claims

/-! ### What a firing leaves of the fabric (R31) -/

/-- The machine with what a firing may touch put aside, but every unit still there but for its latches and time of firing. -/
def resting (s : State) : State := { still s with units := s.units.map bare }

/-- A unit's inputs and time of firing do not show in `bare`. -/
theorem units_fired (s : State) (f : FabUnit) (ks : List Nat) : (s.fired f ks).units.map bare = s.units.map bare := by
  have hmod : ∀ (t : State) (φ : FabUnit → FabUnit), (∀ x, bare (φ x) = bare x) → (t.modUnit f.key φ).units.map bare = t.units.map bare :=
    fun t φ hφ => map_updWhere _ _ _ _ hφ
  have htake : ∀ t : State, (ks.foldl (fun s k => s.takeIn f.key k) t).units.map bare = t.units.map bare := by
    induction ks with
    | nil => exact fun _ => rfl
    | cons k ks ih =>
      intro t
      obtain ⟨t', ht, he⟩ := t.takeIn_cases f.key k
      rw [List.foldl_cons, ih, he, hmod t' (fun x => { x with ins := updAt x.ins k fun _ => none }) fun _ => rfl]
      rcases ht with rfl | ⟨n, rfl⟩ <;> rfl
  rw [← htake s]
  exact hmod (ks.foldl (fun s k => s.takeIn f.key k) s) (fun x => { x with fired := (ks.foldl (fun s k => s.takeIn f.key k) s).cycle.toNat }) fun _ => rfl

section
variable (s : State) (f : FabUnit)

theorem unit?_resting (u : UKey) : (resting s).unit? u = (s.unit? u).map bare := List.find?_map ..

theorem inst?_resting (n : Nat) : (resting s).inst? n = (s.inst? n).map (Inst.progressed 0#64) := List.find?_map ..

theorem chanOf_resting (c : Nat) : (resting s).chanOf (bare f) c = s.chanOf f c := by
  have h : (resting s).resident? f.serial f.folio = (s.resident? f.serial f.folio).map fun r => { r with lastFire := 0 } := List.find?_map ..
  unfold State.chanOf
  rw [show (resting s).resident? (bare f).serial (bare f).folio = _ from h]
  cases s.resident? f.serial f.folio <;> rfl

theorem sibling_resting (op : Nat) : (resting s).sibling (bare f) op = (s.sibling f op).map bare := List.find?_map ..

theorem grow_resting : ∀ (n : Nat) (frontier seen : List UKey), (resting s).grow n frontier seen = s.grow n frontier seen
  | 0, _, _ => rfl
  | n + 1, frontier, seen => by
    have hd : (resting s).dataTargets = s.dataTargets := rfl
    simp only [State.grow, hd, grow_resting n]

theorem leafSet_resting (h : UKey) : (resting s).leafSet h = s.leafSet h := grow_resting s 512 [h] []

theorem leafOf_resting : (resting s).leafOf f = s.leafOf f := by
  have hhead : (fun h : FabUnit => h.serial == f.serial && h.isHead) ∘ bare = fun h => h.serial == f.serial && h.isHead := rfl
  have hin : (fun h : FabUnit => (s.leafSet h.key).contains f.key) ∘ bare = fun h => (s.leafSet h.key).contains f.key := rfl
  have hkey : FabUnit.key ∘ bare = FabUnit.key := rfl
  unfold State.leafOf
  simp only [leafSet_resting]
  rw [show (resting s).units = s.units.map bare from rfl, List.filter_map, List.find?_map, Option.map_map, hhead, hin, hkey]

theorem geom_resting : (resting s).geom (bare f) = s.geom f := by
  have hmm : ((resting s).sibling (bare f) 0xB2).getD (bare f) = bare ((s.sibling f 0xB2).getD f) := by
    rw [sibling_resting]; cases s.sibling f 0xB2 <;> rfl
  have hml : ((resting s).sibling (bare f) 0xB0).map (fun l => l.auxBits 0 5) = (s.sibling f 0xB0).map fun l => l.auxBits 0 5 := by
    rw [sibling_resting, Option.map_map]; rfl
  simp only [State.geom, hmm, hml, chanOf_resting]
  rfl

theorem tooLong_resting (a : RefUnit) : (resting s).tooLong f a = s.tooLong f a := by
  have hunits : ((resting s).takers f.key).filterMap (resting s).unit? = ((s.takers f.key).filterMap s.unit?).map bare := by
    rw [show (resting s).takers f.key = s.takers f.key from rfl, List.map_filterMap]
    exact congrArg (fun φ => List.filterMap φ (s.takers f.key)) (funext (unit?_resting s))
  unfold State.tooLong
  rw [hunits, List.find?_map]
  rw [show (fun g : FabUnit => g.op == 0xB0) ∘ bare = fun g => g.op == 0xB0 from rfl]
  cases ((s.takers f.key).filterMap s.unit?).find? fun g => g.op == 0xB0 with
  | none => rfl
  | some g => simp only [Option.map_some, State.slabStripsAt, geom_resting]; rfl

theorem ldPool_resting : (resting s).ldPool f = s.ldPool f := by
  have hpart : ((resting s).inst? f.serial).map Inst.part = (s.inst? f.serial).map Inst.part := by
    rw [inst?_resting, Option.map_map]; rfl
  unfold State.ldPool State.poolOf
  rw [hpart]
  rfl

theorem bubbleOut_resting (p : Nat) : (resting s).bubbleOut f p = s.bubbleOut f p := by
  have hr : (resting s).bubbleRoutes ((s.routesFrom f.key p).map Route.id) = s.bubbleRoutes ((s.routesFrom f.key p).map Route.id) := by
    have hop : ∀ u, ∀ ψ : Nat → Bool, ((resting s).unit? u).map (fun g => ψ g.op) = (s.unit? u).map fun g => ψ g.op := fun u ψ => by
      rw [unit?_resting, Option.map_map]; rfl
    unfold State.bubbleRoutes
    refine congrArg (fun φ => List.filter φ _) (funext fun id => congrArg (fun φ => List.any s.routes φ) (funext fun r => ?_))
    cases r.dst with
    | unit u k => exact congrArg (fun o => r.id == id && !(Option.getD o false)) (hop u fun n => n == 0x85 || n == 0x82 && k == 1)
    | port _ _ => rfl
  unfold State.bubbleOut
  rw [show (resting s).routesFrom f.key p = s.routesFrom f.key p from rfl, hr]
  rfl

theorem ldStrip_resting (run o : Nat) : (resting s).ldStrip f run o = s.ldStrip f run o := by
  unfold State.ldStrip State.tileStrip
  rw [ldPool_resting, leafOf_resting]
  rfl

end

end Sys2Proof.Machine

namespace Sys2Proof.Claims
open Sys2Proof.Machine

/-- What reads nothing that a firing touches reads the same in the state in which a unit goes on. -/
theorem Turn.reads {α : Type} {s : State} {u : UKey} {op : Nat} {f : FabUnit} (h : Turn s u op f) (ks : List Nat) (φ : State → α)
    (hφ : ∀ x, φ (resting x) = φ x) : φ (s.fired f ks) = φ s := by
  have hr : resting (s.fired f ks) = resting s := by
    unfold resting
    rw [(h.start.fired ks).rest, units_fired]
  rw [← hφ, hr, hφ]

end Sys2Proof.Claims

namespace Sys2Proof.Machine
open Sys2Proof.Claims

/-! ### A fault in a run that a refetch reads for (R49, R280) -/

/-- A fault in a run goes to the unit and to its instance as a fault of the unit does. -/
theorem unitFaultIn_faults {s t : State} {f g : FabUnit} (h : WithUnit s s f.key g t) (hid : ident g = ident f) (run cause sub : Nat) (detail : W64) :
    Faults s f (BitVec.ofNat 8 cause) (BitVec.ofNat 8 sub) (t.unitFaultIn f.key run cause sub detail) := by
  obtain ⟨x, r, he, ⟨hu, hins, hmem⟩, hc, hs, ho, hid'⟩ : ∃ (x : State) (r : FaultRec), t.unitFaultIn f.key run cause sub detail =
      (((x.modUnit f.key fun f => { f with dead := true, passed := min f.passed run }).noteEcc cause).instFault g.serial f.key.q r) ∧
      (x.units = t.units ∧ x.insts = t.insts ∧ x.mem = t.mem) ∧ r.cause = BitVec.ofNat 8 cause ∧ r.sub = BitVec.ofNat 8 sub ∧ r.origin = 1#2 ∧
      r.unitId = unitWord g.folio g.fx g.fy g.key.slot g.op f.key.q := by
    unfold State.unitFaultIn
    rw [h.unit]
    exact ⟨_, _, rfl, ⟨rfl, rfl, rfl⟩, rfl, rfl, rfl, rfl⟩
  obtain ⟨hu2, hi2, hm2, -⟩ := noteEcc_frame (x.modUnit f.key fun f => { f with dead := true, passed := min f.passed run }) cause
  obtain ⟨hu1, hm1, -⟩ := instFault_frame ((x.modUnit f.key fun f => { f with dead := true, passed := min f.passed run }).noteEcc cause) g.serial f.key.q r
  simp only [ident, Prod.mk.injEq] at hid
  obtain ⟨hser, hfol, hfx, hfy, hword⟩ := hid
  rw [he]
  refine ⟨?_, fun i hi hrun hv => ?_, hm1.trans (hm2.trans (hmem.trans h.mem))⟩
  · have hx : x.unit? f.key = some g := by rw [State.unit?, hu]; exact h.unit
    rw [State.unit?, hu1, hu2, ← State.unit?, State.unit?_modUnit x f.key f.key (fun f => { f with dead := true, passed := min f.passed run }) fun _ => rfl, hx]
    simp
  · obtain ⟨j, hj, hjs, hjf⟩ := h.inst hi
    have hy := instFault_inst (q := f.key.q) (r := r)
      (show ((x.modUnit f.key fun f => { f with dead := true, passed := min f.passed run }).noteEcc cause).inst? f.serial = some j by
        rw [State.inst?, hi2]; exact (congrArg _ hins).trans hj)
    obtain ⟨hys, hyf⟩ := struck_run (r := r) (hjs.trans hrun) ((congrArg FaultRec.v hjf).trans hv)
    rw [hser]
    refine ⟨_, hy, hys, ?_⟩
    rw [hyf]
    exact ⟨rfl, hc, hs, ho, hid'.trans (by rw [hfol, hfx, hfy, State.unit?_key h.unit, FabUnit.op, hword, ← FabUnit.op])⟩

/-! ### A walk through an address program (R276) -/

/-- The place of an index vector among those of a run, level 0 fastest. -/
def Walk.count (p : Payload) (v : Walk) : Nat := v.i0 + progIters p 0 * (v.i1 + progIters p 1 * (v.i2 + progIters p 2 * v.i3))

/-- The index vector is the last of the run: each level is at its last index. -/
def Walk.atEnd (p : Payload) (v : Walk) : Prop :=
  v.i0 + 1 = progIters p 0 ∧ v.i1 + 1 = progIters p 1 ∧ v.i2 + 1 = progIters p 2 ∧ v.i3 + 1 = progIters p 3

/-- Two digits, the first in base a, stand for the last number exactly when each is the last of its own. -/
theorem digits_last {a i r m : Nat} (hi : i < a) (hr : r < m) : i + a * r + 1 = a * m ↔ i + 1 = a ∧ r + 1 = m := by
  constructor
  · intro h
    have hm : m = r + 1 := by
      by_contra hne
      have : a * (r + 1 + 1) ≤ a * m := Nat.mul_le_mul_left a (by omega)
      rw [Nat.mul_succ, Nat.mul_succ] at this
      omega
    subst hm
    rw [Nat.mul_succ] at h
    exact ⟨by omega, rfl⟩
  · rintro ⟨rfl, rfl⟩
    ring

theorem digits_lt {a i r m : Nat} (hi : i < a) (hr : r < m) : i + a * r < a * m := by
  have : a * (r + 1) ≤ a * m := Nat.mul_le_mul_left a hr
  rw [Nat.mul_succ] at this
  omega

section
variable {p : Payload} {v : Walk}

theorem Walk.count_last (h0 : v.i0 < progIters p 0) (h1 : v.i1 < progIters p 1) (h2 : v.i2 < progIters p 2) (h3 : v.i3 < progIters p 3) :
    v.count p + 1 = progTotal p ↔ v.atEnd p := by
  have hd2 := digits_lt h2 h3
  have hd1 := digits_lt h1 hd2
  unfold Walk.count progTotal Walk.atEnd
  rw [Nat.mul_assoc, Nat.mul_assoc, digits_last h0 hd1, digits_last h1 hd2, digits_last h2 h3]

/-- A walk that is not at its end goes to the next place. -/
theorem progNext_next (hv : v.running = true) (he : ¬ v.atEnd p) :
    (progNext p v).running = true ∧ (progNext p v).count p = v.count p + 1 := by
  have hlast : ∀ j i, (v.idx[j]?).getD 0 = i → (progLast p v j = true ↔ i + 1 = progIters p j) := by
    rintro j i rfl; simp [progLast]
  have l0 := hlast 0 v.i0 rfl
  have l1 := hlast 1 v.i1 rfl
  have l2 := hlast 2 v.i2 rfl
  have l3 := hlast 3 v.i3 rfl
  unfold progNext
  by_cases h0 : progLast p v 0 = true
  · by_cases h1 : progLast p v 1 = true
    · by_cases h2 : progLast p v 2 = true
      · have h3 : progLast p v 3 = false := Bool.eq_false_iff.mpr fun h3 => he ⟨l0.mp h0, l1.mp h1, l2.mp h2, l3.mp h3⟩
        simp only [h0, h1, h2, h3, Bool.not_true, Bool.not_false, Bool.false_eq_true, if_false, if_true]
        refine ⟨hv, ?_⟩
        simp only [Walk.count, ← l0.mp h0, ← l1.mp h1, ← l2.mp h2]
        ring
      · simp only [h0, h1, h2, Bool.not_true, Bool.not_false, Bool.false_eq_true, if_false, if_true]
        refine ⟨hv, ?_⟩
        simp only [Walk.count, ← l0.mp h0, ← l1.mp h1]
        ring
    · simp only [h0, h1, Bool.not_true, Bool.not_false, Bool.false_eq_true, if_false, if_true]
      refine ⟨hv, ?_⟩
      simp only [Walk.count, ← l0.mp h0]
      ring
  · simp only [h0, Bool.not_false, if_true]
    refine ⟨hv, ?_⟩
    simp only [Walk.count]
    ring

/-- A walk at its end stops. -/
theorem progNext_end (he : v.atEnd p) : (progNext p v).running = false := by
  obtain ⟨h0, h1, h2, h3⟩ := he
  simp [progNext, progLast, Walk.idx, h0, h1, h2, h3]

end

end Sys2Proof.Machine

namespace Sys2Proof.Machine
open Sys2Proof.Claims

/-! ### A load, case by case (R33, R101, R103, R279 to R281, R288, R443) -/

theorem loadFault_gone {s : State} {f : FabUnit} {p : Pool} {o : Nat} (hg : s.bankGone p f.serial f.folio (bankOf o) = true) :
    s.loadFault f p o = some (0x06, 0x0B) := if_pos hg

theorem loadFault_poisoned {s : State} {f : FabUnit} {p : Pool} {o : Nat} (hg : s.bankGone p f.serial f.folio (bankOf o) = false)
    (hp : s.poisoned (p.mem o) 512 = true) : s.loadFault f p o = some (0x12, 0x03) :=
  (if_neg (ne_true_of_eq_false hg)).trans (if_pos hp)

theorem loadFault_none {s : State} {f : FabUnit} {p : Pool} {o : Nat} (hg : s.bankGone p f.serial f.folio (bankOf o) = false)
    (hp : s.poisoned (p.mem o) 512 = false) : s.loadFault f p o = none :=
  (if_neg (ne_true_of_eq_false hg)).trans (if_neg (ne_true_of_eq_false hp))

/-- Where no store is held over an offset, a load reads the bank. -/
theorem ldStrip_bank {s : State} {f : FabUnit} {run o : Nat} (hh : ∀ h ∈ s.helds, f.edge = true ∨ h.tile ≠ f.key.tile ∨ h.off ≠ o) :
    s.ldStrip f run o = ofBytes (memBytes s.mem ((s.ldPool f).mem o) 512) := by
  unfold State.ldStrip
  cases he : f.edge with
  | true => rfl
  | false =>
    have hnone : ∀ l, s.helds.filter (fun a => a.tile == f.key.tile && a.serial == f.serial && a.leaf == l && a.run == run && a.off == o) = [] := by
      intro l
      refine List.filter_eq_nil_iff.mpr fun h hm hp => ?_
      simp only [Bool.and_eq_true, beq_iff_eq] at hp
      obtain ⟨⟨⟨⟨ht, -⟩, -⟩, -⟩, ho⟩ := hp
      rcases hh h hm with h1 | h1 | h1
      · rw [he] at h1; cases h1
      · exact h1 ht
      · exact h1 ho
    have hpool : s.ldPool f = .tile f.key.tile := by simp only [State.ldPool, State.poolOf, he, Bool.false_eq_true, if_false]
    simp only [Bool.false_eq_true, if_false, State.tileStrip, hnone, hpool]
    cases s.leafOf f <;> rfl

/-- Of the stores that its own invocation holds over an offset, a load reads the last (R103, R279). -/
theorem ldStrip_held {s : State} {f : FabUnit} {run o : Nat} {l : UKey} {a : Machine.Held} (he : f.edge = false) (hl : s.leafOf f = some l)
    (ha : (s.helds.filter fun h => h.tile == f.key.tile && h.serial == f.serial && h.leaf == l && h.run == run && h.off == o).getLast? = some a) :
    s.ldStrip f run o = a.data := by
  simp only [State.ldStrip, he, Bool.false_eq_true, if_false, State.tileStrip, hl, ha]

/-- A strip leaves a memory read when no bubble goes before it. -/
theorem WithUnit.readOut {s r t : State} {f g : FabUnit} (h : WithUnit s r f.key g t) (hr : r.routes = s.routes) {p : Nat} (v : Strip)
    (hb : t.bubbleOut f p = false) : (t.readOut f p v).1 = true ∧
      WithUnit s r f.key { g with outs := placed g.outs p (.data v) (s.outIds f.key p), sent := g.sent + 1 } (t.readOut f p v).2 := by
  rw [State.readOut, if_neg (ne_true_of_eq_false hb)]
  exact ⟨rfl, (h.emit hr p (.data v)).modUnit (fun f => { f with sent := f.sent + 1 }) fun _ => rfl⟩

section
variable {s : State} {f : FabUnit} {w n : Walk} {us : List RefUnit} {c q o : Nat} {rs ks : List Nat} {fin re es last : Bool}
  (hst : f.st = .prog w us c rs q fin re es)
include hst

theorem ldnLoad_faults {a b : Nat} (hf : s.loadFault f (s.ldPool f) o = some (a, b)) :
    s.ldnLoad f o ks n last = s.firing f ks fun s => s.unitFault f.key a b 0 := by
  simp only [State.ldnLoad, hst, hf]

theorem ldnLoad_bubbles (hf : s.loadFault f (s.ldPool f) o = none) (hb : s.bubbleOut f 0 = true) :
    s.ldnLoad f o ks n last = (s.readOut f 0 0).2 := by
  simp only [State.ldnLoad, hst, hf, hb, if_true]

/-- The units of a load node after a load, and the ordering tokens it then has to send. -/
theorem ldnLoad_sends (hf : s.loadFault f (s.ldPool f) o = none) (hb : s.bubbleOut f 0 = false) :
    s.ldnLoad f o ks n last = s.firing f ks fun t =>
      let x := (t.readOut f 0 (t.ldStrip f f.passed o)).2
      x.setSt f.key (.prog n (if f.ref then addRef us o f.passed last else if f.ref || s.feedsMatrix f.key then addWait us o f.passed else us) c rs
        (if f.ref || s.feedsMatrix f.key || !x.routed f.key 2 then q else q + 1) (fin || f.agv && !f.trig && !n.running) re es) := by
  simp only [State.ldnLoad, hst, hf, hb, Bool.false_eq_true, if_false]

/-- A load node with a program loads at its program's offset (R276, R279). -/
theorem ldnAct_program (hq : q = 0 ∨ f.outFree 2 = false) (ha : f.agv = true) (hw : w.running = true) (ho : f.outFree 0 = true)
    (hm : s.mayIssue f (s.ldPool f) (progOffset f.frame f.offBits w) = true) :
    ldnAct f s = s.ldnLoad f (progOffset f.frame f.offBits w) (if f.trig && !(progNext f.frame w).running then [0] else []) (progNext f.frame w)
      ((upTo f.ulv).all (progLast f.frame w)) := by
  simp only [ldnAct, orderOut_none hst hq, hst, ha, hw, ho, hm, Bool.and_self, if_true]

/-- A load node without one loads at the offset of its address token, or faults (R275, R276). -/
theorem ldnAct_offset (hq : q = 0 ∨ f.outFree 2 = false) (ha : f.agv = false) (ho : f.outFree 0 = true) {v : Strip} (hv : f.strip? 0 = some v) :
    ldnAct f s = if offsetOf v % 512 ≠ 0 then s.firing f [0] fun s => s.unitFault f.key 0x07 0x02 0 else s.ldnLoad f (offsetOf v) [0] w false := by
  simp only [ldnAct, orderOut_none hst hq, hst, ha, hv, ho, Bool.false_eq_true, if_false, if_true]

/-- A load node sends an ordering token that waits before anything else (R101). -/
theorem ldnAct_order (hop : f.op = 0xC1) (hq : 0 < q) (ho : f.outFree 2 = true) :
    ldnAct f s = (s.emit f.key 2 orderToken).setSt f.key (.prog w us c rs (q - 1) fin re es) := by
  obtain ⟨k, rfl⟩ : ∃ k, q = k + 1 := ⟨q - 1, by omega⟩
  have hne : ¬ f.op = 0xC2 := by rw [hop]; decide
  simp only [ldnAct, State.orderOut, hst, ho, hne, if_true, if_false]
  rfl

/-- An address node sends the address token of the present index vector (R278). -/
theorem agAct_sends (hw : w.running = true) (ho : f.outFree 0 = true)
    (hm : s.mayIssue f (.tile f.key.tile) (progOffset f.frame 22 w) = true) :
    agAct f s = s.firing f (if f.auxBits 2 1 == 1 && !(progNext f.frame w).running then [0] else []) fun s =>
      (s.emit f.key 0 (.data (addressToken f.frame w))).setSt f.key
        (.prog (progNext f.frame w) us c rs q (fin || !(f.auxBits 2 1 == 1) && !(progNext f.frame w).running) re es) := by
  simp only [agAct, hst, hw, ho, hm, Bool.and_self, if_true]

/-! ### Units of a REF node, case by case (R280) -/

theorem ldnRewind_begins (hrs : rs = []) (hk : f.doneKind = some 1) (hu : f.unitOffs w us ≠ []) :
    ldnRewindAct f s = s.firing f [1] fun s =>
      if (us.head?.map (s.tooLong f)).getD false then
        s.unitFaultIn f.key (resendRun us (f.unitOffs w us).length (f.unitOffs w us).length f.passed) 0x06 0x09 0
      else s.setSt f.key (.prog w us c (f.unitOffs w us) q fin re es) := by
  have hi : (decide (f.doneKind = some 1) && !(f.unitOffs w us).isEmpty) = true := by simp [hk, hu]
  subst hrs
  simp only [ldnRewindAct, hst, hi, if_true]

theorem ldnRewind_waits (hrs : rs = []) (hu : f.unitOffs w us = []) : ldnRewindAct f s = s := by
  subst hrs
  simp only [ldnRewindAct, hst, hu, List.isEmpty_nil, Bool.not_true, Bool.and_false, Bool.false_eq_true, if_false]

theorem ldnRewind_resends {l : List Nat} (hrs : rs = o :: l) (hk : f.doneKind = none) (ho : f.outFree 1 = true)
    (hf : s.loadFault f (s.ldPool f) o = none) :
    ldnRewindAct f s =
      let x := s.readOut f 1 (s.ldStrip f (resendRun us (f.unitOffs w us).length rs.length f.passed) o)
      if x.1 then x.2.setSt f.key (.prog w us c l q fin re es) else x.2 := by
  subst hrs
  have hn : ¬ (none : Option Nat) = some 1 := nofun
  simp only [ldnRewindAct, hst, hk, ho, hf, if_neg hn, if_true]

theorem ldnResolve_counts {a : RefUnit} {l : List RefUnit} (hus : us = a :: l) (hk : f.doneKind = some 0) :
    ldnResolveAct f s = s.firing f [1] fun s =>
      if c + 1 < f.pps then s.setSt f.key (.prog w us (c + 1) rs q fin re es)
      else (s.setSt f.key (.prog w l 0 rs q fin re es)).orderCredit f.key a.offs.length := by
  subst hus
  simp only [ldnResolveAct, hst, hk, if_true]

theorem ldnRefEos_ends (hr : f.ref = true) (he : f.latch 1 = some .eos) :
    ldnRefEosAct f s = s.firing f [1] fun s =>
      if us.any (fun a => !a.whole) || f.agv && w.running then s.unitFault f.key 0x06 0x09 0
      else (s.setSt f.key (.prog w [] c rs q fin true es)).orderCredit f.key ((us.map fun a => a.offs.length).sum) := by
  have hi : (f.ref && f.eosAt 1) = true := by rw [hr, FabUnit.eosAt, he]; rfl
  simp only [ldnRefEosAct, hst, hi, if_true]

end

theorem doneKind_doneTok {f : FabUnit} {x : W32} (h : f.latch 1 = some (.doneTok x)) : f.doneKind = some (x.toNat / 2 ^ 30) := by
  have hlt : x.toNat / 2 ^ 30 < 2 ^ 2 := by have := x.isLt; omega
  simp only [FabUnit.doneKind, h, fieldN, bitsN, Nat.mod_eq_of_lt hlt]

theorem doneKind_none {f : FabUnit} (h : f.latch 1 = none) : f.doneKind = none := by simp only [FabUnit.doneKind, h]

end Sys2Proof.Machine

namespace Sys2Proof.Claims
open Sys2Proof.Machine

section
variable {s : State} {u : UKey} {op : Nat} {f : FabUnit} {w n : Walk} {us : List RefUnit} {c q o : Nat} {rs ks : List Nat} {fin re es last : Bool}
  (h : Turn s u op f) (hst : f.st = .prog w us c rs q fin re es)
include h hst

/-- A load that faults (R288, R387). -/
theorem Turn.load_faults {a b : Nat} (hf : s.loadFault f (s.ldPool f) o = some (a, b)) :
    Faults s f (BitVec.ofNat 8 a) (BitVec.ofNat 8 b) (s.ldnLoad f o ks n last) := by
  rw [ldnLoad_faults hst hf, h.firing]
  exact h.faults ks a b 0

/-- A bubble goes before a load (R33, R443). -/
theorem Turn.load_bubble (hf : s.loadFault f (s.ldPool f) o = none) (hb : s.bubbleOut f 0 = true) :
    Acts s s f [] [(0, ⟨some .bubble, s.bubbleRoutes ((s.routesFrom f.key 0).map Route.id)⟩)] { f with sent := 0 } (s.ldnLoad f o ks n last) := by
  have hids : s.bubbleRoutes ((s.routesFrom f.key 0).map Route.id) ≠ [] := by
    have hb' := (Bool.and_eq_true_iff.mp hb).2
    simpa using hb'
  rw [ldnLoad_bubbles hst hf hb, State.readOut, if_pos hb]
  have hw := (h.start.emitOn 0 .bubble (s.bubbleRoutes ((s.routesFrom f.key 0).map Route.id))).modUnit (fun f => { f with sent := 0 }) fun _ => rfl
  have hacts := Acts.of_on (ks := []) (h := { f with sent := 0 }) hw rfl rfl rfl
  rwa [if_neg hids] at hacts

/-- A load sends the strip it reads, and counts what it owes (R101, R279, R280). -/
theorem Turn.load_sends (hf : s.loadFault f (s.ldPool f) o = none) (hb : s.bubbleOut f 0 = false) :
    Fires s f ks [(0, .data (s.ldStrip f f.passed o))]
      { f with sent := f.sent + 1,
               st := .prog n (if f.ref then addRef us o f.passed last else if s.feedsMatrix f.key then addWait us o f.passed else us) c rs
                 (if f.ref || s.feedsMatrix f.key || !s.routed f.key 2 then q else q + 1) (fin || f.agv && !f.trig && !n.running) re es }
      (s.ldnLoad f o ks n last) := by
  have hb' : (s.fired f ks).bubbleOut f 0 = false := (h.reads ks (fun x => x.bubbleOut f 0) fun x => bubbleOut_resting x f 0).trans hb
  have hx := ((h.start.fired ks).readOut rfl (s.ldStrip f f.passed o) hb').2
  have hrouted : ((s.fired f ks).readOut f 0 (s.ldStrip f f.passed o)).2.routed f.key 2 = s.routed f.key 2 := by
    simp only [State.routed, State.routesFrom, hx.routes rfl]
  have hunits : (if f.ref then addRef us o f.passed last else if f.ref || s.feedsMatrix f.key then addWait us o f.passed else us) =
      if f.ref then addRef us o f.passed last else if s.feedsMatrix f.key then addWait us o f.passed else us := by
    cases f.ref <;> rfl
  rw [ldnLoad_sends hst hf hb, h.firing]
  dsimp only
  rw [h.reads ks (fun x => x.ldStrip f f.passed o) fun x => ldStrip_resting x f f.passed o, hrouted, hunits]
  exact Acts.of (sends := [(0, .data (s.ldStrip f f.passed o))]) (hx.setSt _) rfl rfl (List.nodup_singleton _) rfl

/-- REWIND starts to send a unit again, or faults when it is too long (R280). -/
theorem Turn.rewind_begins (hrs : rs = []) (hk : f.doneKind = some 1) (hu : f.unitOffs w us ≠ []) :
    ((∀ a, us.head? = some a → s.tooLong f a = false) →
      Fires s f [1] [] { f with st := .prog w us c (f.unitOffs w us) q fin re es } (ldnRewindAct f s)) ∧
    ((∃ a, us.head? = some a ∧ s.tooLong f a = true) → Faults s f 0x06 0x09 (ldnRewindAct f s)) := by
  have hlong : ∀ a, (s.fired f [1]).tooLong f a = s.tooLong f a := fun a => h.reads [1] (fun x => x.tooLong f a) fun x => tooLong_resting x f a
  rw [ldnRewind_begins hst hrs hk hu, h.firing, show (s.fired f [1]).tooLong f = s.tooLong f from funext hlong]
  refine ⟨fun hall => ?_, fun ⟨a, ha, hl⟩ => ?_⟩
  · have hno : ((us.head?.map (s.tooLong f)).getD false) = false := by
      cases hh : us.head? with
      | none => rfl
      | some a => exact hall a hh
    rw [hno]
    exact Acts.quiet ((h.start.fired [1]).setSt _) rfl rfl rfl
  · rw [ha, Option.map_some, Option.getD_some, hl]
    exact unitFaultIn_faults (h.start.fired [1]) rfl _ 0x06 0x09 0

/-- A strip of a unit is sent again, as a load of the run that read it first (R103, R280). -/
theorem Turn.rewind_resends {l : List Nat} (hrs : rs = o :: l) (hk : f.doneKind = none) (ho : f.outFree 1 = true)
    (hf : s.loadFault f (s.ldPool f) o = none) (hb : s.bubbleOut f 1 = false) :
    Fires s f [] [(1, .data (s.ldStrip f (resendRun us (f.unitOffs w us).length rs.length f.passed) o))]
      { f with sent := f.sent + 1, st := .prog w us c l q fin re es } (ldnRewindAct f s) := by
  obtain ⟨hwent, hx⟩ := h.start.readOut rfl (s.ldStrip f (resendRun us (f.unitOffs w us).length rs.length f.passed) o) hb
  rw [ldnRewind_resends hst hrs hk ho hf]
  dsimp only
  rw [if_pos hwent]
  exact Acts.of (sends := [(1, _)]) (hx.setSt _) rfl rfl (List.nodup_singleton _) rfl

/-- A RESOLVE counts toward PPS, or retires the oldest unit (R280). -/
theorem Turn.resolve_counts {a : RefUnit} {l : List RefUnit} (hus : us = a :: l) (hk : f.doneKind = some 0) :
    (c + 1 < f.pps → Fires s f [1] [] { f with st := .prog w us (c + 1) rs q fin re es } (ldnResolveAct f s)) ∧
    (f.pps ≤ c + 1 → Fires s f [1] [] { f with st := .prog w l 0 rs (if s.routed f.key 2 then q + a.offs.length else q) fin re es }
      (ldnResolveAct f s)) := by
  rw [ldnResolve_counts hst hus hk, h.firing]
  refine ⟨fun hc => ?_, fun hc => ?_⟩
  · rw [if_pos hc]
    exact Acts.quiet ((h.start.fired [1]).setSt _) rfl rfl rfl
  · rw [if_neg (Nat.not_lt.mpr hc)]
    exact Acts.quiet (((h.start.fired [1]).setSt _).orderCredit rfl rfl _) rfl rfl rfl

/-- EOS from the mmac retires all units, or faults when one is not wholly sent (R280). -/
theorem Turn.refEos_ends (hr : f.ref = true) (he : f.latch 1 = some .eos) :
    ((∀ a ∈ us, a.whole = true) → (f.agv && w.running) = false → Fires s f [1] []
      { f with st := .prog w [] c rs (if s.routed f.key 2 then q + (us.map fun a => a.offs.length).sum else q) fin true es } (ldnRefEosAct f s)) ∧
    ((∃ a ∈ us, a.whole = false) ∨ (f.agv && w.running) = true → Faults s f 0x06 0x09 (ldnRefEosAct f s)) := by
  rw [ldnRefEos_ends hst hr he, h.firing]
  refine ⟨fun hall hw => ?_, fun hbad => ?_⟩
  · have hn : (us.any (fun a => !a.whole) || f.agv && w.running) = false := by
      rw [hw, Bool.or_false, List.any_eq_false]
      exact fun a ha => by simp [hall a ha]
    rw [hn]
    exact Acts.quiet (((h.start.fired [1]).setSt _).orderCredit rfl rfl _) rfl rfl rfl
  · have hy : (us.any (fun a => !a.whole) || f.agv && w.running) = true := by
      rcases hbad with ⟨a, ha, hb⟩ | hb
      · rw [List.any_eq_true.mpr ⟨a, ha, by simp [hb]⟩, Bool.true_or]
      · rw [hb, Bool.or_true]
    rw [hy]
    exact h.faults [1] 0x06 0x09 0

end

end Sys2Proof.Claims

namespace Sys2Proof
open Sys2Proof.Machine Sys2Proof.Claims

/-- Settles O45: the load branch by branch, once for both sources of its offset; then the units of a REF node and the walk. -/
theorem addressAndLoads : Obligations.AddressAndLoads := by
  unfold Obligations.AddressAndLoads
  intro s u f w us r rs q fin re es hst off next bubs due unit loads
  have hloads : ∀ i o ks n last, Turn s u 0xC1 f → exec i s = .next (s.ldnLoad f o ks n last) →
      loads i o ks n last (f.agv && !f.trig && !n.running) := by
    intro i o ks n last h hx
    obtain rfl := h.key
    refine ⟨fun hg => next_of hx (h.load_faults hst (loadFault_gone hg)), fun hg hp => next_of hx (h.load_faults hst (loadFault_poisoned hg hp)),
      fun hg hp => ?_⟩
    have hf := loadFault_none hg hp
    exact ⟨fun hb => next_of hx (h.load_bubble hst hf hb), fun hb hh => next_of hx (ldStrip_bank hh ▸ h.load_sends hst hf hb),
      fun hb he l a hl ha => next_of hx (ldStrip_held he hl ha ▸ h.load_sends hst hf hb)⟩
  refine ⟨fun h hw ho hm => ?_, fun h hq ho => ?_, fun h hq ho => ?_, fun h => ?_, fun p v hv hin => ?_⟩
  · obtain rfl := h.key
    have hx : exec (.ag f.key) s = .next (agAct f s) := h.run agAct
    have hks : (if f.auxBits 2 1 == 1 && !(progNext f.frame w).running then [0] else ([] : List Nat)) =
        if f.auxBits 2 1 = 1 ∧ next.running = false then [0] else [] := by
      simp only [Bool.and_eq_true, beq_iff_eq, Bool.not_eq_true']; rfl
    rw [agAct_sends hst hw ho hm, h.firing, hks] at hx
    exact next_of hx (Acts.of (sends := [(0, _)]) (((h.start.fired _).emit rfl 0 _).setSt _) rfl rfl (List.nodup_singleton _) rfl)
  · have hx : exec (.ldn u) s = .next (ldnAct f s) := h.run ldnAct
    refine ⟨fun ha hw hm => ?_, fun ha a hv => ⟨fun hodd => ?_, fun heven => ?_⟩⟩
    · have hks : (if f.trig && !(progNext f.frame w).running then [0] else ([] : List Nat)) = if f.trig ∧ next.running = false then [0] else [] := by
        simp only [Bool.and_eq_true, Bool.not_eq_true']; rfl
      rw [ldnAct_program hst hq ha hw ho hm, hks] at hx
      have hl := hloads _ _ _ _ _ h hx
      rwa [ha, Bool.true_and] at hl
    · rw [ldnAct_offset hst hq ha ho hv, if_pos hodd, h.firing] at hx
      exact next_of hx (h.faults [0] 0x07 0x02 0)
    · rw [ldnAct_offset hst hq ha ho hv, if_neg (not_not.mpr heven)] at hx
      have hl := hloads _ _ _ _ _ h hx
      rwa [ha, Bool.false_and, Bool.false_and] at hl
  · obtain rfl := h.key
    have hx : exec (.ldn f.key) s = .next (ldnAct f s) := h.run ldnAct
    rw [ldnAct_order hst h.code hq ho] at hx
    exact next_of hx (Acts.of (sends := [(2, orderToken)]) ((h.start.emit rfl 2 orderToken).setSt _) rfl rfl (List.nodup_singleton _) rfl)
  · obtain rfl := h.key
    have hrewind : exec (.ldnRewind f.key) s = .next (ldnRewindAct f s) := h.run ldnRewindAct
    have hresolve : exec (.ldnResolve f.key) s = .next (ldnResolveAct f s) := h.run ldnResolveAct
    have heos : exec (.ldnRefEos f.key) s = .next (ldnRefEosAct f s) := h.run ldnRefEosAct
    refine ⟨fun x hl hk hrs => ⟨fun hu => ?_, fun hu hall => ?_, fun hu a ha hlong => ?_⟩,
      fun o l hrs hl ho hf hb => next_of hrewind (h.rewind_resends hst hrs (doneKind_none hl) ho hf hb), fun x hl hk a l hus => ?_, fun hr he => ?_⟩
    · rw [hrewind, ldnRewind_waits hst hrs hu]
    · exact next_of hrewind ((h.rewind_begins hst hrs (hk ▸ doneKind_doneTok hl) hu).1 hall)
    · exact next_of hrewind ((h.rewind_begins hst hrs (hk ▸ doneKind_doneTok hl) hu).2 ⟨a, ha, hlong⟩)
    · obtain ⟨hcount, hretire⟩ := h.resolve_counts hst hus (hk ▸ doneKind_doneTok hl)
      exact ⟨fun hc => next_of hresolve (hcount hc), fun hc => next_of hresolve (hretire hc)⟩
    · obtain ⟨hretire, hfault⟩ := h.refEos_ends hst hr he
      exact ⟨fun hall hn => next_of heos (hretire hall hn), fun hbad => next_of heos (hfault hbad)⟩
  · have hlast := Walk.count_last (hin 0 (by omega)) (hin 1 (by omega)) (hin 2 (by omega)) (hin 3 (by omega))
    exact ⟨fun hlt => progNext_next hv fun he => absurd (hlast.mpr he) (Nat.ne_of_lt hlt), fun heq => progNext_end (hlast.mp heq)⟩

end Sys2Proof

/-! ### A posted store of the supervisor (O27)

A posted store belongs to its hardware thread when the supervisor made it, and to its instance otherwise (`State.reqId`, R177).
A fence of scope s waits for both kinds (`State.mine`, R109, R111). `Obligations.FenceAndEvents` asks only that no posted store
of the instance is out. -/

namespace Sys2Proof.Claims
open Machine

/-- The instance of SERIAL 5, which runs on hardware thread 0. -/
def fencingInst : Inst := { Inst.blank with serial := 5, state := .run, hw := some 0 }

/-- A posted store of one byte that the supervisor made on hardware thread 0, not answered yet. -/
def supervisorStore : Remote := ⟨0, 2 ^ 40, 0, none, 1, 0, 0#64, 1, [0#8], 0#64, 0, true, 0#64, true, none, none⟩

/-- The supervisor has returned to the instance while its store is out. -/
def fencing : State := { State.reset with cur := .ctl 0, insts := [fencingInst], remotes := [supervisorStore] }

/-- The fence of scope s stalls: pc stands. -/
theorem fencing_stalls : ∀ t, exec (.fence 3 0) fencing = .next t → t.pc = 0#64 := by
  intro t h
  cases h
  decide +kernel

/-- Refutes O27: in `fencing` no posted store of the instance is out, and the fence of scope s waits for the supervisor's. -/
theorem not_fenceAndEvents : ¬ Obligations.FenceAndEvents := by
  unfold Obligations.FenceAndEvents
  rintro ⟨hfence, -⟩
  have hready : Ready fencing [] 0 := ⟨rfl, nofun, by decide +kernel⟩
  have hanswered : ∀ i, fencing.me = some i → i.answered = true := by
    rintro i hi
    obtain rfl : fencingInst = i := Option.some.inj hi
    decide +kernel
  have hnone : ∀ r ∈ fencing.remotes, r.posted = true → r.serial ≠ fencing.meId := by decide +kernel
  obtain ⟨t, ht, hgoes⟩ := hfence fencing 3 0 hready (.inr hanswered) (.inr hnone)
  have hpc : t.pc = 4#64 := hgoes.pc.trans (by decide +kernel)
  rw [fencing_stalls t ht] at hpc
  exact absurd hpc (by decide)

end Sys2Proof.Claims

/-! ### The fields of a word that is laid out in fields (R136) -/

namespace Sys2Proof
open Machine Claims

/-- A field above the last one. -/
theorem slice_append_high {k n s l : Nat} {x : BitVec k} {y : BitVec n} (h : n ≤ s) :
    (no_index (x ++ y)).extractLsb' s l = x.extractLsb' (s - n) l := BitVec.extractLsb'_append_eq_of_le h

/-- A field within the last one. -/
theorem slice_append_low {k n s l : Nat} {x : BitVec k} {y : BitVec n} (h : s + l ≤ n) :
    (no_index (x ++ y)).extractLsb' s l = y.extractLsb' s l := BitVec.extractLsb'_append_eq_of_add_le h

/-- The last two fields together. -/
theorem slice_append_two {k m n : Nat} (x : BitVec k) (y : BitVec m) (z : BitVec n) :
    (x ++ y ++ z).extractLsb' 0 (m + n) = y ++ z := by
  refine (append_eq_slice ?_ BitVec.extractLsb'_append_eq_right.symm).symm
  rw [slice_append_high (Nat.le_add_left n 0), Nat.add_sub_cancel, BitVec.extractLsb'_append_eq_right]

/-- The decoder's test of a word falls into a test of each field. -/
theorem append_and_eq_iff {k n : Nat} (x : BitVec k) (y : BitVec n) (m v : BitVec (k + n)) :
    Eq (α := no_index (BitVec (k + n))) (no_index (x ++ y &&& m)) v ↔
      x &&& m.extractLsb' n k = v.extractLsb' n k ∧ y &&& m.extractLsb' 0 n = v.extractLsb' 0 n := by
  have halves (z : BitVec (k + n)) : z.extractLsb' n k ++ z.extractLsb' 0 n = z :=
    (append_eq_slice (by rw [Nat.zero_add]) rfl).trans BitVec.extractLsb'_eq_self
  rw [← halves m, ← halves v, BitVec.and_append]
  simp only [BitVec.extractLsb'_append_eq_left, BitVec.extractLsb'_append_eq_right]
  refine ⟨fun h => ⟨?_, ?_⟩, fun ⟨hx, hy⟩ => by rw [hx, hy]⟩
  · simpa only [BitVec.extractLsb'_append_eq_left] using congrArg (BitVec.extractLsb' n k) h
  · simpa only [BitVec.extractLsb'_append_eq_right] using congrArg (BitVec.extractLsb' 0 n) h

/-! ### The words whose operands the decoder checks (R138, R139, R222) -/

/-- The predicate of a well-formed `br.t` or `call.t` does not pass for the p0 of the unconditional form (R138). -/
theorem pred_and_ne_zero {p : BitVec 3} (h : (p != 0#3) = true) : p &&& 7#3 ≠ 0#3 := by
  revert p; decide

/-- A well-formed load of 8 bytes has no sign to widen with (R139). -/
theorem sign_size_ne {sx : BitVec 1} {z : BitVec 2} (h : (!(sx == 1#1 && z == 3#2)) = true) : sx ++ z ≠ 7#3 := by
  revert sx z; decide

theorem decode_encode_load {d a : BitVec 5} {off : BitVec 10} {sx : BitVec 1} {z : BitVec 2} {g : BitVec 3} {w : W32}
    (hw : (Instr.ld d a off sx z g).wf = true) (he : encode (.ld d a off sx z g) = some w) : decode w = .ok (.ld d a off sx z g) := by
  obtain ⟨⟩ := he
  have hz : (0x10#6 ++ d ++ a ++ off ++ sx ++ z).extractLsb' 0 3 ≠ 7#3 := (slice_append_two _ sx z).trans_ne (sign_size_ne hw)
  simp [decode, decodeMajor10, slice_append_high, slice_append_low, append_and_eq_iff, hz]

theorem decode_encode_wait {a : BitVec 5} {p k g : BitVec 3} {i : Instr} {w : W32} (hk : waitKind k = true)
    (hi : i = .wreg a p k g ∨ i = .whold a p k g ∨ i = .wrel a k g) (he : encode i = some w) : decode w = .ok i := by
  obtain rfl | rfl | rfl := hi
  all_goals
    obtain ⟨⟩ := he
    simp [decode, decodeMajor1D, slice_append_high, slice_append_low, append_and_eq_iff, hk]

theorem decode_encode_ifTrue {p : BitVec 3} {d : BitVec 22} {i : Instr} {w : W32} (hp : (p != 0#3) = true)
    (hi : i = .brT p d ∨ i = .callT p d) (he : encode i = some w) : decode w = .ok i := by
  obtain rfl | rfl := hi
  all_goals
    obtain ⟨⟩ := he
    simp [decode, decodeMajor0C, decodeMajor0D, slice_append_high, slice_append_low, append_and_eq_iff, pred_and_ne_zero hp]

/-- A word of any other member passes the tests of its own member and of none before it, whatever its operands: in each test the
fields that no mask covers are free, and the constants decide. -/
theorem decode_encode {i : Instr} {w : W32} (hw : i.wf = true) (he : encode i = some w) : decode w = .ok i := by
  cases i
  case ld => exact decode_encode_load hw he
  case wreg => exact decode_encode_wait hw (.inl rfl) he
  case whold => exact decode_encode_wait hw (.inr (.inl rfl)) he
  case wrel => exact decode_encode_wait (p := 0#3) hw (.inr (.inr rfl)) he
  case brT => exact decode_encode_ifTrue hw (.inl rfl) he
  case callT => exact decode_encode_ifTrue hw (.inr rfl) he
  all_goals obtain ⟨⟩ := he
  all_goals
    simp only [decode, decodeMajor01, decodeMajor02, decodeMajor03, decodeMajor04, decodeMajor05, decodeMajor06, decodeMajor07,
      decodeMajor08, decodeMajor09, decodeMajor0A, decodeMajor0B, decodeMajor0C, decodeMajor0D, decodeMajor0E, decodeMajor0F,
      decodeMajor11, decodeMajor12, decodeMajor14, decodeMajor15, decodeMajor16, decodeMajor17, decodeMajor18, decodeMajor19,
      decodeMajor1A, decodeMajor1C, decodeMajor1D, decodeMajor1E, decodeMajor1F, decodeMajor3C, decodeMajor3D, decodeMajor3E,
      slice_append_high, slice_append_low, append_and_eq_iff, BitVec.extractLsb'_eq_self, BitVec.reduceExtractLsb',
      BitVec.reduceToNat, BitVec.reduceAnd, BitVec.reduceEq, BitVec.and_zero, Nat.reduceLeDiff, Nat.reduceSub, Nat.reduceAdd,
      and_true, true_and, and_false, false_and, ↓reduceIte]

/-- Settles O4: the decoder's tests and fields, read off the fields that the encoder lays out. -/
theorem decodeEncode : Obligations.DecodeEncode := by
  unfold Obligations.DecodeEncode
  exact fun _ _ => decode_encode

/-- Settles O6: the decoder evaluates each word. -/
theorem sampleWords : Obligations.SampleWords := by
  unfold Obligations.SampleWords
  decide

end Sys2Proof

namespace Sys2Proof.Machine
open Sys2Proof.Claims

/-! ### The decode steps of R140 -/

/-- A register that the thread has not allocated traps ILL, whatever the guard holds. -/
theorem runWord_unallocated {s : State} {need : Nat} {regs : List (BitVec 5)} {g : BitVec 3} {body : State → Ans Flow} (h : s.threaded)
    (hl : need ≤ s.level) (hr : ∃ r ∈ regs, r ≠ 0#5 ∧ s.regLimit ≤ r.toNat) :
    runWord s false need regs g body = .next (takeTrap s (trapOf 0x01 0)) := by
  obtain ⟨c, hc⟩ := Option.isSome_iff_exists.mp (State.isSome_ctx? h)
  have hany : (regs.any fun r => r != 0#5 && decide (s.regLimit ≤ r.toNat)) = true := by
    simpa only [List.any_eq_true, Bool.and_eq_true, bne_iff_ne, decide_eq_true_eq] using hr
  simp only [runWord, hc, wordAns, Bool.false_eq_true, if_false, if_neg (Nat.not_lt.mpr hl), hany, if_true, finish]

/-- Every control-thread word but `srd` and `swr` goes through the decode steps with its shape. -/
theorem exec_of_shape {i : Instr} {need : Nat} {regs : List (BitVec 5)} {g : BitVec 3} (h : shape i = some (need, regs, g)) (s : State) :
    ∃ body, exec i s = runWord s false need regs g body := by
  unfold shape at h
  split at h <;> cases h
  all_goals exact ⟨_, rfl⟩

/-! ### Branches and jumps (R138, R173, R175) -/

theorem branchTarget_eq (pc : W64) (d : BitVec 22) : branchTarget pc d = pc + d.signExtend 64 * 4#64 :=
  congrArg (pc + ·) (shift_eq_mul _ 2)

theorem taken_false (p : Bool) : taken p false = p := Bool.xor_false p

theorem taken_true (p : Bool) : taken p true = !p := Bool.xor_true p

theorem and_three_eq_zero_iff (a : W64) : a &&& 3#64 = 0#64 ↔ a.toNat % 4 = 0 := by
  rw [← BitVec.toNat_inj, BitVec.toNat_and]
  exact iff_of_eq (congrArg (· = 0) (Nat.and_two_pow_sub_one_eq_mod a.toNat 2))

/-- p0 reads 1 (R164). -/
theorem State.pr_zero {s : State} (h : s.threaded) : s.pr 0#3 = true := by
  obtain ⟨c, hc⟩ := Option.isSome_iff_exists.mp (State.isSome_ctx? h)
  simp [State.pr, hc, Ctx.pr]

end Sys2Proof.Machine

namespace Sys2Proof.Claims
open Machine

/-- A word that names no register and has no guard is ready on every thread. -/
theorem ready_nil {s : State} (h : s.threaded) : Ready s [] 0#3 := ⟨h, nofun, State.pr_zero h⟩

/-- A word that completes and goes to `pc`. -/
theorem goes_to {s : State} (h : s.threaded) (pc : W64) : Goes s pc (s.retire (.to pc)) := by
  obtain ⟨c, hc⟩ := Option.isSome_iff_exists.mp (State.isSome_ctx? h)
  have ht : (s.retire (.to pc)).ctx? = some (c.at pc) := by rw [State.ctx?_retire _ _ h, hc]; rfl
  exact {
    others := fun _ hh => s.ctxOf_retire _ _ hh
    rest := congrArg noMem (blank_retire s _)
    memory := fun a => by rw [State.retire_mem]
    regs := fun r => by simp only [State.rd, ht, hc]; rfl
    preds := fun k => by simp only [State.pr, ht, hc]; rfl
    pc := by simp only [State.pc, ht]; rfl }

/-- A BR word goes to its target when it is taken, and on otherwise; it has no guard and names no register (R138, R173). -/
theorem goes_branch {s : State} (h : s.threaded) (p : State → Bool) (neg : Bool) (d : BitVec 22) :
    Next (runWord s false 0 [] 0#3 fun s => branchBody (p s) neg d s)
      (Goes s (if taken (p s) neg = true then s.pc + d.signExtend 64 * 4#64 else s.pc + 4#64)) := by
  refine ⟨_, (ready_nil h).run rfl (Nat.zero_le _) _, ?_⟩
  rw [← branchTarget_eq, branchBody, finish]
  split
  · exact goes_to h _
  · exact goes_retire h

theorem jumpBody_aligned {a : W64} (h : a.toNat % 4 = 0) (s : State) : jumpBody a s = .ok (.to a) s :=
  if_pos ((and_three_eq_zero_iff a).mpr h)

theorem jumpBody_misaligned {a : W64} (h : a.toNat % 4 ≠ 0) (s : State) : jumpBody a s = .trap (trapAt 0x03 0 a) s :=
  if_neg (mt (and_three_eq_zero_iff a).mp h)

/-- A jump that is ready goes to its target or traps ALIGN, by the alignment of the target (R175). -/
theorem Ready.jumps {s : State} {regs : List (BitVec 5)} {g : BitVec 3} (h : Ready s regs g) (r : BitVec 5) :
    ((s.rd r).toNat % 4 = 0 → Next (runWord s false 0 regs g fun s => jumpBody (s.rd r) s) (Goes s (s.rd r))) ∧
    ((s.rd r).toNat % 4 ≠ 0 → runWord s false 0 regs g (fun s => jumpBody (s.rd r) s) = .next (takeTrap s (trapAt 0x03 0 (s.rd r)))) := by
  rw [h.run rfl (Nat.zero_le _)]
  exact ⟨fun ha => ⟨_, rfl, by rw [jumpBody_aligned ha]; exact goes_to h.1 _⟩, fun ha => by rw [jumpBody_misaligned ha]; rfl⟩

end Sys2Proof.Claims

namespace Sys2Proof
open Machine Claims

/-- Settles O8: every word's meaning is the frame of R140 around its own body, and the frame answers in R140's order. -/
theorem decodeOrder : Obligations.DecodeOrder := by
  unfold Obligations.DecodeOrder
  refine ⟨fun i need regs g s hi ht => ?_, fun w s ht => runWord_ill ht⟩
  obtain ⟨body, hrun⟩ := exec_of_shape hi s
  rw [hrun]
  refine ⟨runWord_priv ht, runWord_unallocated ht, fun hl hr hg => ?_⟩
  exact ⟨_, runWord_guarded rfl (State.isSome_ctx? ht) hl hr hg, goes_retire ht⟩

/-- Settles O13: a branch is taken as its predicate says; a jump goes by the alignment of its target. -/
theorem branchTargets : Obligations.BranchTargets := by
  unfold Obligations.BranchTargets
  refine ⟨fun s p d ht => ⟨goes_branch ht (fun _ => true) false d, ?_, ?_⟩,
    fun s a g => ⟨fun h => (h.jumps a).1, fun h => (h.jumps a).2, fun h => (h.jumps 31#5).1, fun h => (h.jumps 31#5).2⟩⟩
  · have h := goes_branch ht (fun s => s.pr p) false d
    rw [taken_false] at h
    exact h
  · have h := goes_branch ht (fun s => s.pr p) true d
    simp only [taken_true, Bool.not_eq_true', ← Bool.not_eq_true, ite_not] at h
    exact h

end Sys2Proof
